-- ==== Sys2Proof/Word.lean ====
section
/-!
DEFINITION. The word types of the MQ-2 and the sparse maps in which the model holds register files,
tables and memory. A sparse map lists only the entries that differ from its default value, with keys
strictly rising, so that equal contents are equal data.
-/

namespace Sys2Proof

/-- A byte. -/
abbrev Byte := BitVec 8
/-- A 32-bit word: a syllable, an extension word, a lane value (R53, R122). -/
abbrev W32 := BitVec 32
/-- A scalar register value (R85). -/
abbrev W64 := BitVec 64
/-- A virtual address (R349): 48 bits. -/
abbrev Addr := BitVec 48
/-- A register number in a syllable field (R53). -/
abbrev Reg := BitVec 6

/-- A sparse map: entries that differ from the default, keys strictly rising. -/
abbrev SMap (α : Type) := List (Nat × α)

namespace SMap

/-- The value at `k`; `d` where nothing is listed. -/
def get {α : Type} (d : α) : SMap α → Nat → α
  | [], _ => d
  | (k, v) :: m, i => if i = k then v else get d m i

/-- Removes the entry of `k`. -/
def erase {α : Type} : SMap α → Nat → SMap α
  | [], _ => []
  | (k, v) :: m, i => if i = k then erase m i else (k, v) :: erase m i

/-- Lists `v` at `k`, whatever stood there. -/
def insert {α : Type} : SMap α → Nat → α → SMap α
  | [], i, w => [(i, w)]
  | (k, v) :: m, i, w =>
    if i = k then (i, w) :: m else if i < k then (i, w) :: (k, v) :: m else (k, v) :: insert m i w

/-- Writes `v` at `k`; writing the default removes the entry. -/
def set {α : Type} [DecidableEq α] (d : α) (m : SMap α) (k : Nat) (v : α) : SMap α :=
  if v = d then erase m k else insert m k v

/-- Every key of `m` is above `b`. -/
def above {α : Type} (b : Nat) (m : SMap α) : Bool := m.all fun e => decide (b < e.1)

/-- The canonical form: keys strictly rising and no entry equal to the default. -/
def wf {α : Type} [DecidableEq α] (d : α) : SMap α → Bool
  | [] => true
  | (k, v) :: m => decide (v ≠ d) && above k m && wf d m

/-- The listed value at `k`, if one is listed. -/
def find {α : Type} : SMap α → Nat → Option α
  | [], _ => none
  | (k, v) :: m, i => if i = k then some v else find m i

/-- Keeps the entries whose key satisfies `p`. -/
def keep {α : Type} (p : Nat → Bool) (m : SMap α) : SMap α := m.filter fun e => p e.1

end SMap

/-- The bits `[hi : lo]` of a 64-bit word, as a number. -/
def fld (w : W64) (hi lo : Nat) : Nat := (w.toNat >>> lo) % 2 ^ (hi + 1 - lo)

/-- The bit `i` of a 64-bit word. -/
def bit (w : W64) (i : Nat) : Bool := w.getLsbD i

/-- The low 48 bits of a register value, the address it names (R103, R183). -/
def addrOf (w : W64) : Addr := w.setWidth 48

/-- Two's-complement reading of the low `n` bits of a natural number. -/
def sextNat (n : Nat) (x : Nat) : Int :=
  let v := x % 2 ^ n
  if v < 2 ^ (n - 1) then (v : Int) else (v : Int) - (2 ^ n : Int)

/-- The remainder of an integer modulo `2 ^ n`. -/
def wrapInt (n : Nat) (x : Int) : Nat := (x % (2 ^ n : Int)).toNat

/-- `[a, a+1, …, a+n-1]`. -/
def natsFrom (a : Nat) : Nat → List Nat
  | 0 => []
  | n + 1 => a :: natsFrom (a + 1) n

/-- `[0, 1, …, n-1]`. -/
def nats (n : Nat) : List Nat := natsFrom 0 n

/-- The element at index `i`; `d` beyond the end. -/
def nth {α : Type} (d : α) : List α → Nat → α
  | [], _ => d
  | a :: _, 0 => a
  | _ :: l, n + 1 => nth d l n

/-- Replaces the element at index `i`, if there is one. -/
def setNth {α : Type} : List α → Nat → α → List α
  | [], _, _ => []
  | _ :: l, 0, b => b :: l
  | a :: l, n + 1, b => a :: setNth l n b

/-- Ceiling division. -/
def cdiv (a b : Nat) : Nat := (a + b - 1) / b

/-- The `n` low bytes of a number, lowest first (little-endian, R24). -/
def bytesLE : Nat → Nat → List Byte
  | 0, _ => []
  | n + 1, v => BitVec.ofNat 8 v :: bytesLE n (v / 256)

/-- The number whose little-endian bytes are listed. -/
def ofBytesLE : List Byte → Nat
  | [] => 0
  | b :: l => b.toNat + 256 * ofBytesLE l

/-- The `n` low bytes of a number, highest first (big-endian, R384). -/
def bytesBE (n v : Nat) : List Byte := (bytesLE n v).reverse

/-- The number whose big-endian bytes are listed. -/
def ofBytesBE (l : List Byte) : Nat := ofBytesLE l.reverse

/-- The bits of a number from `lo`, `n` of them. -/
def bitsAt (v lo n : Nat) : Nat := (v >>> lo) % 2 ^ n

/-- Inserts an element into a list in the order that `le` gives, after its equals. -/
def insertBy {α : Type} (le : α → α → Bool) (a : α) : List α → List α
  | [] => [a]
  | b :: l => if le b a then b :: insertBy le a l else a :: b :: l

/-- Stable insertion sort. -/
def sortBy {α : Type} (le : α → α → Bool) : List α → List α
  | [] => []
  | a :: l => insertByFront le a (sortBy le l)
where
  /-- Inserts before equal elements, so that the sort is stable. -/
  insertByFront (le : α → α → Bool) (a : α) : List α → List α
    | [] => [a]
    | b :: l => if le a b then a :: b :: l else b :: insertByFront le a l

end Sys2Proof
end

