-- ==== Sys2Proof/Syntax.lean ====
section
/-!
DEFINITION. The steps of the MQ-2 as data: one constructor of `Instr` for each row of the opcode
table. The syllables of the C, S, V, M, X and Y slots (R53, R68 to R75) and the micro-operations of the
packet pipelines (R74, R394) carry the fields of their encodings; the firmware commands (R341) carry the
command entry; the packets (R416) carry the packet; every other row is an event and carries the name of
the object that it happens to.
-/

namespace Sys2Proof

/-- The width of an integer form (R70): `.d` is 64 bits, `.w` is 32 bits. -/
inductive Wd where
  | d64
  | w32
  deriving DecidableEq, Repr

/-- The six slot classes of a bundle (R53, R64), and the micro-operations of a packet pipeline (R74). -/
inductive SlotClass where
  | slotC | slotS | slotM | slotX | slotY | slotV | micro
  deriving DecidableEq, Repr

/-- The memory operand of a load, a store or LEA (R70): extension bits [19], [18:16] and [15:0]. -/
structure MemOp where
  re  : Bool
  rl  : BitVec 3
  off : BitVec 16
  deriving DecidableEq, Repr

/-- The extension word of a transfer command (R156). -/
structure Xfer where
  cw    : Reg
  cmode : BitVec 2
  swz   : BitVec 3
  form  : BitVec 16
  deriving DecidableEq, Repr

/-- A 64-byte entry of a queue: a command or a report (R341). -/
structure Entry where
  w0 : W64
  w1 : W64
  w2 : W64
  w3 : W64
  w4 : W64
  w5 : W64
  w6 : W64
  w7 : W64
  deriving DecidableEq, Repr

/-- A command as the firmware of a die holds it (R339): the die, the context and the queue from which it
was taken, the report ticket it holds, whether a set curd injected it (R168), and its eight words. -/
structure Cmd where
  die    : Nat
  ctx    : Nat
  queue  : Nat
  ticket : Option Nat
  inj    : Bool
  e      : Entry
  deriving DecidableEq, Repr

/-- The SKF header (R415). -/
structure Skf where
  dchip  : BitVec 16
  schip  : BitVec 16
  cls    : BitVec 2
  hop    : BitVec 3
  ce     : Bool
  vcls   : Bool
  ctag   : BitVec 12
  kind   : BitVec 8
  gen    : BitVec 24
  msgid  : BitVec 32
  offset : BitVec 40
  len    : BitVec 16
  ts     : BitVec 16
  rkey   : BitVec 32
  pidx   : BitVec 16
  grant  : BitVec 16
  deriving DecidableEq, Repr

/-- An SKF packet: header and payload (R414). -/
structure Pkt where
  h    : Skf
  data : List Byte
  deriving DecidableEq, Repr

/-- What the boot configuration record and the self-test fix (R12, R14, R377, R381, R412): the chip id,
the mode of each port (0 off, 1 SKF, 2 UE), the scratchpad granules of each quad that differs from the
default, the cores whose slot-to-engine map differs from the default (register files of the slots, surviving datapaths, R14), the queues, the leaves, the descriptor words and the scratchpad windows
(in granules) of the system context, the parser images and the stage programs with their vat masks, and the record. -/
structure BootCfg where
  chip   : BitVec 13
  ports  : SMap Nat
  spad   : SMap Nat
  engines : List (Nat × List Nat × List Nat)
  queues : List (Nat × W64)
  leaves : List (Nat × W64)
  desc   : SMap W64
  splen  : SMap Nat
  parsers : List (Nat × List Byte)
  stages : List (Nat × List Byte)
  record : List Byte
  deriving DecidableEq, Repr

/-- The steps of the machine, one constructor for each row of the opcode table. The order is the model's own. -/
inductive Instr where
  -- the issue of a core and what comes to its seats (R56, R88, R90, R115, R138, R148, R155, R164, R201, R266)
  | bundleIssue (core : Nat)
  | landingDataReturn (id : Nat)
  | producerResultArrival (id : Nat)
  | streamElementFetch (seat sq : Nat)
  | streamElementWrite (seat sq : Nat)
  -- C slot (R68)
  | jr (b : Reg) (p : Bool)
  | jlr (a b : Reg) (p : Bool)
  | ret (b : Reg) (p : Bool)
  | trap (imm : BitVec 12)
  | bra (off : W32)
  | bl (a : Reg) (off : W32)
  | beq (b c : Reg) (p q : Bool) (off : W32)
  | bne (b c : Reg) (p q : Bool) (off : W32)
  | blt (b c : Reg) (p q : Bool) (off : W32)
  | bge (b c : Reg) (p q : Bool) (off : W32)
  | bltu (b c : Reg) (p q : Bool) (off : W32)
  | bgeu (b c : Reg) (p q : Bool) (off : W32)
  | bkany (k : BitVec 3) (mask : BitVec 8) (off : BitVec 24)
  | loop (b : Reg) (p : Bool) (off : W32)
  | loopq (n : BitVec 3) (off : W32)
  -- S slot, integer (R69, R111, R112)
  | add (w : Wd) (a b c : Reg) (p q : Bool)
  | sub (w : Wd) (a b c : Reg) (p q : Bool)
  | mul (w : Wd) (a b c : Reg) (p q : Bool)
  | mulh (w : Wd) (a b c : Reg) (p q : Bool)
  | mulhu (w : Wd) (a b c : Reg) (p q : Bool)
  | div (w : Wd) (a b c : Reg) (p q : Bool)
  | divu (w : Wd) (a b c : Reg) (p q : Bool)
  | rem (w : Wd) (a b c : Reg) (p q : Bool)
  | remu (w : Wd) (a b c : Reg) (p q : Bool)
  | and (w : Wd) (a b c : Reg) (p q : Bool)
  | or (w : Wd) (a b c : Reg) (p q : Bool)
  | xor (w : Wd) (a b c : Reg) (p q : Bool)
  | shl (w : Wd) (a b c : Reg) (p q : Bool)
  | shr (w : Wd) (a b c : Reg) (p q : Bool)
  | sar (w : Wd) (a b c : Reg) (p q : Bool)
  | shli (w : Wd) (a b : Reg) (n : BitVec 6) (p : Bool)
  | shri (w : Wd) (a b : Reg) (n : BitVec 6) (p : Bool)
  | sari (w : Wd) (a b : Reg) (n : BitVec 6) (p : Bool)
  | clz (w : Wd) (a b : Reg) (p : Bool)
  | ctz (w : Wd) (a b : Reg) (p : Bool)
  | popc (w : Wd) (a b : Reg) (p : Bool)
  | min (w : Wd) (a b c : Reg) (p q : Bool)
  | max (w : Wd) (a b c : Reg) (p q : Bool)
  | minu (w : Wd) (a b c : Reg) (p q : Bool)
  | maxu (w : Wd) (a b c : Reg) (p q : Bool)
  | seq (w : Wd) (a b c : Reg) (p q : Bool)
  | slt (w : Wd) (a b c : Reg) (p q : Bool)
  | sltu (w : Wd) (a b c : Reg) (p q : Bool)
  -- S slot, float (R116, R117)
  | fadd (a b c : Reg) (p q : Bool) (rm : BitVec 2) (sat : Bool)
  | fsub (a b c : Reg) (p q : Bool) (rm : BitVec 2) (sat : Bool)
  | fmul (a b c : Reg) (p q : Bool) (rm : BitVec 2) (sat : Bool)
  | fdiv (a b c : Reg) (p q : Bool) (rm : BitVec 2) (sat : Bool)
  | fsqrt (a b : Reg) (p : Bool) (rm : BitVec 2) (sat : Bool)
  | fmin (a b c : Reg) (p q : Bool)
  | fmax (a b c : Reg) (p q : Bool)
  | fcmp (a b c : Reg) (p q : Bool) (cond : BitVec 2)
  | fcvt (a b : Reg) (tgt src : BitVec 3) (p : Bool) (rm : BitVec 2) (sat : Bool)
  -- S slot, control and park (R119, R120)
  | rdc (a : Reg) (num : BitVec 12)
  | wrc (num : BitVec 12) (c : Reg) (q : Bool)
  | stow (j b : Reg) (p vec : Bool)
  | unstow (a j : Reg) (vec : Bool)
  -- S slot, immediate and memory (R113, R114)
  | li (w : Wd) (a : Reg) (imm : W32)
  | lih (a : Reg) (p : Bool) (imm : W32)
  | lea (a b : Reg) (p : Bool) (m : MemOp)
  | addi (w : Wd) (a b : Reg) (p : Bool) (imm : W32)
  | andi (w : Wd) (a b : Reg) (p : Bool) (imm : W32)
  | ori (w : Wd) (a b : Reg) (p : Bool) (imm : W32)
  | xori (w : Wd) (a b : Reg) (p : Bool) (imm : W32)
  | ldb (a b : Reg) (p : Bool) (arr : BitVec 12) (m : MemOp)
  | ldbu (a b : Reg) (p : Bool) (arr : BitVec 12) (m : MemOp)
  | ldh (a b : Reg) (p : Bool) (arr : BitVec 12) (m : MemOp)
  | ldhu (a b : Reg) (p : Bool) (arr : BitVec 12) (m : MemOp)
  | ldw (a b : Reg) (p : Bool) (arr : BitVec 12) (m : MemOp)
  | ldwu (a b : Reg) (p : Bool) (arr : BitVec 12) (m : MemOp)
  | ldd (a b : Reg) (p : Bool) (arr : BitVec 12) (m : MemOp)
  | stb (b c : Reg) (p q : Bool) (m : MemOp)
  | sth (b c : Reg) (p q : Bool) (m : MemOp)
  | stw (b c : Reg) (p q : Bool) (m : MemOp)
  | std (b c : Reg) (p q : Bool) (m : MemOp)
  | sel (w : Wd) (a b c : Reg) (p q : Bool) (x : Reg) (r : Bool)
  | ffma (a b c : Reg) (p q : Bool) (rm : BitVec 2) (sat : Bool) (x : Reg) (r : Bool)
  -- V slots (R75)
  | hcw (idx : BitVec 9) (k : BitVec 3) (inv : Bool) (base : BitVec 3)
  -- M slot (R206, R235)
  | lease (pm md h z : BitVec 4)
  | mzero (z : BitVec 2) (i32 : Bool)
  | pmrd (a : Reg) (word : BitVec 4) (pm : BitVec 2)
  | pmwr (word : BitVec 4) (pm : BitVec 2) (c : Reg)
  | hldc (fmt : BitVec 4) (h : BitVec 2) (n : BitVec 2)
  | mma (zd : BitVec 2) (sb : BitVec 4) (sel : BitVec 6) (c : BitVec 6) (fc : BitVec 4)
  | mmas (zd : BitVec 2) (sb : BitVec 4) (sel : BitVec 6) (c : BitVec 6) (md : BitVec 3) (seg : BitVec 2) (g8 : Bool)
  | cmpr (dsel sel : BitVec 6) (c : BitVec 6) (md : BitVec 3) (seg : BitVec 2) (g8 : Bool)
  | mtrans (zd zs : BitVec 2)
  | flu (zd pm : BitVec 2) (b : Reg) (nf : Bool)
  | fchol (zd pm : BitVec 2) (b : Reg)
  | fqr (zd pm zs : BitVec 2) (b : Reg)
  | ftrs (zd pm zs : BitVec 2) (b : Reg) (nf upper unit : Bool)
  | fperm (zd pm : BitVec 2) (b : Reg) (cols inv : Bool)
  | hld (fmt : BitVec 4) (h : BitVec 2) (b c : Reg) (swz : BitVec 3) (sx : Reg) (off : BitVec 16)
  | drain (z : BitVec 2) (fmt : BitVec 4) (b c : Reg) (rtz sc : Bool) (swz : BitVec 3) (sx : Reg)
      (hsize : BitVec 2) (had : Bool) (sh : BitVec 7) (off : BitVec 16)
  | mdld (md : BitVec 3) (b : Reg) (off : BitVec 16)
  | mdst (md : BitVec 3) (b : Reg) (off : BitVec 16)
  | leaseGrant (quad : Nat)
  | leaseIdleExpiry (seat : Nat)
  | arrayCommandExecute (quad : Nat)
  | drainRetire (quad : Nat)
  | factorisationStep (quad : Nat)
  -- X slot (R156)
  | sbind (a sq : BitVec 4) (unbind : Bool)
  | sstart (sq : BitVec 4)
  | sstop (sq : BitVec 4)
  | sdrain (sq : BitVec 4)
  | spos (a : Reg) (sq : BitVec 4) (c : Reg) (wr : Bool)
  | tilearm (b c : Reg)
  | tiledis (c : Reg)
  | cqpush (n : BitVec 3) (c : Reg)
  | scfg (sq : BitVec 4) (b : Reg) (off : BitVec 16)
  | shape (sq : BitVec 4) (b : Reg) (off : BitVec 16)
  | gld (a b c f : Reg) (x : Xfer)
  | sct (a b c f : Reg) (x : Xfer)
  | copy (a b c : Reg) (ssw : BitVec 3) (x : Xfer)
  | copyh (a b c : Reg) (out : Bool) (ssw : BitVec 3) (x : Xfer)
  | mcast (a b c : Reg) (ssw : BitVec 3) (x : Xfer)
  | hcwld (b : Reg) (first cnt : BitVec 9)
  | transferSectorWrite (id sector : Nat)
  | transferFaultStop (id : Nat)
  | transferCompletion (id : Nat)
  -- Y slot, memory (R183)
  | aadd (w : Wd) (a b c : Reg) (p q : Bool)
  | amin (w : Wd) (a b c : Reg) (p q : Bool)
  | amax (w : Wd) (a b c : Reg) (p q : Bool)
  | aminu (w : Wd) (a b c : Reg) (p q : Bool)
  | amaxu (w : Wd) (a b c : Reg) (p q : Bool)
  | aand (w : Wd) (a b c : Reg) (p q : Bool)
  | aor (w : Wd) (a b c : Reg) (p q : Bool)
  | axor (w : Wd) (a b c : Reg) (p q : Bool)
  | aswp (w : Wd) (a b c : Reg) (p q : Bool)
  | afadd (a b c : Reg) (p q : Bool)
  | radd (w : Wd) (b c : Reg) (p q : Bool)
  | rfadd (b c : Reg) (p q : Bool)
  | rmin (w : Wd) (b c : Reg) (p q : Bool)
  | rmax (w : Wd) (b c : Reg) (p q : Bool)
  | rand (w : Wd) (b c : Reg) (p q : Bool)
  | ror (w : Wd) (b c : Reg) (p q : Bool)
  | ldacq (w : Wd) (a b : Reg) (p : Bool)
  | strel (w : Wd) (b c : Reg) (p q : Bool)
  | fence (scope : BitVec 3)
  | pub (b : Reg) (p : Bool)
  | acas (w : Wd) (a b c : Reg) (p q : Bool) (x : Reg) (r : Bool)
  | homePortWriteApply (id : Nat)
  | atomicApply (id : Nat)
  | reductionApply (id : Nat)
  | strelApply (id : Nat)
  | pubSwap (id : Nat)
  -- Y slot, barriers, counters and triggers (R313)
  | barinit (b c : Reg) (p q own : Bool)
  | bararr (a b : Reg) (p : Bool)
  | barwait (a b c : Reg) (p q : Bool)
  | bartest (a b : Reg) (p : Bool)
  | ctrset (b c : Reg) (p q : Bool)
  | ctradd (b c : Reg) (p q : Bool)
  | ctrwait (a b c : Reg) (p q : Bool)
  | tsend (b c : Reg) (p q : Bool) (x : Reg) (r : Bool)
  | tcopy (b c : Reg) (p q : Bool) (x : Reg) (r : Bool)
  | barinitApply (id : Nat)
  | barrierArrivalApply (id : Nat)
  | ctrsetApply (id : Nat)
  | ctraddApply (id : Nat)
  | waitSatisfied (carr : Nat)
  | delayWaitExpiry (carr : Nat)
  | triggerArmApply (id : Nat)
  | firedTcopyEnqueue (die : Nat)
  -- Y slot, queues (R334)
  | qres (a c : Reg) (q : Bool)
  | qcommit (b c : Reg) (p q rel : Bool)
  | qtake (a c : Reg) (q wait : Bool)
  | qresApply (id : Nat)
  | qcommitApply (id : Nat)
  | qtakeApply (id : Nat)
  -- Y slot, launches (R301)
  | launch (b c : Reg) (p q : Bool)
  | launchTakesEffect (id : Nat)
  | trigTakesEffect (id : Nat)
  | pdoneTakesEffect (id : Nat)
  -- Y slot, fabric (R426)
  | fld (w : Wd) (a b c : Reg) (p q : Bool) (arr off : BitVec 16)
  | fst (w : Wd) (b c : Reg) (p q : Bool) (x : Reg) (r : Bool)
  | fatom (w : Wd) (a b c : Reg) (p q : Bool) (arr : BitVec 16) (op : BitVec 4) (x : Reg) (r : Bool)
  | nwr (b : Reg) (p : Bool)
  | wrWrite (id : Nat)
  | wrRead (id : Nat)
  | wrVat (id : Nat)
  | wrKeyset (id : Nat)
  | wrKeydel (id : Nat)
  | workRequestComplete (id : Nat)
  -- seats, carriages and groups (R245 to R278)
  | seating (carr seat : Nat)
  | seatingLoaded (seat : Nat)
  | allocatorServe (die : Nat)
  | coachReserving (die : Nat)
  | preemptionSave (seat : Nat)
  | seatWritePerformed (seat : Nat)
  | seatDrainComplete (seat : Nat)
  | teamSwapQuantum (die lid ctx : Nat)
  -- launches and rinds (R287 to R299)
  | launchPacketReceived (die : Nat)
  | completionNotice (die : Nat)
  | rindNotice (die : Nat)
  | rindRestore (die : Nat)
  | curdInjection (ctx quad tile : Nat)
  -- queues and the firmware (R330, R339)
  | queueLoadComplete (ctx handle : Nat)
  | queueEviction (die : Nat)
  | firmwarePeriodSlot (die : Nat)
  -- pages (R355, R359)
  | pageWalkComplete (die : Nat)
  | faultRecordDelivery (die : Nat)
  -- packet pipelines (R383 to R408)
  | parse (vat : Nat)
  | stageExecute (vat : Nat)
  | verdict (vat : Nat)
  | pipelineBumpApply (id : Nat)
  | pipelineLineApply (id : Nat)
  | holdRelease (die : Nat) (conn : W32)
  | holdTimeout (die : Nat)
  | recircReentry (vat : Nat)
  | ext (h : BitVec 9) (len1 : BitVec 5) (off : BitVec 13)
  | setf (h : BitVec 9) (w : BitVec 2) (imm : BitVec 16)
  | addfImm (h : BitVec 9) (w : BitVec 2) (imm : BitVec 15)
  | addfField (h : BitVec 9) (w : BitVec 2) (src : BitVec 9)
  | lkp (b : BitVec 2) (key res : BitVec 9)
  | hash (h : BitVec 9) (len1 : BitVec 5)
  | rte (mode : BitVec 2)
  | rewr (b : BitVec 2) (i : BitVec 3) (h : BitVec 9)
  | score (b : BitVec 2) (d1 : BitVec 10) (g1 : BitVec 6) (k1 : BitVec 3)
  | addt (b : BitVec 2) (mode : BitVec 2) (h : BitVec 9)
  | bump (quad : BitVec 5) (tile : BitVec 8) (amt : BitVec 14)
  | depo (b : BitVec 2) (h : BitVec 9)
  | rgaAdd (r : BitVec 12) (h : BitVec 9)
  | rgaSwap (r : BitVec 12) (h : BitVec 9)
  | rgaUmax (r : BitVec 12) (h : BitVec 9)
  | rgaPush (r : BitVec 12) (quad : BitVec 5) (cq : BitVec 3) (sh : BitVec 4)
  | fwd (eport : Bool) (port : BitVec 7)
  | mirr (port : BitVec 7) (trunc : Bool)
  | drop (reason : BitVec 8)
  | recirc (stage : BitVec 4)
  | mark (ce setc : Bool) (cls : BitVec 2)
  | hold (h : BitVec 9)
  -- links and the fabric (R412 to R442)
  | egressTransmit (port : Nat)
  | egressAgeDrop (port : Nat)
  | sackTimer (die : Nat) (conn : W32) (msgid : W32)
  | retransmitTimeout (die id : Nat)
  | retryResend (die : Nat)
  | genQuarantineExpiry (conn : W32)
  | sackBitmapExpiry (die : Nat) (conn : W32) (msgid : W32)
  | recordedPacketDelivery (ctx : Nat)
  -- forms without operands
  | yield
  | suspend
  | endC
  | xret
  | uiret
  | vNop
  | mNop
  | mrel
  | msync
  | xNop
  | trig
  | pdone
  | svcPing
  | svcQstat
  | svcLstat
  | svcTime
  | svcLog
  | nopa
  | absorb
  | contentionHalving
  -- power and boot (R18, R19)
  | powerOn
  | bootComplete (cfg : BootCfg)
  | bootFail (code : Nat)
  | powerDown
  | powerWindow (mw : Nat)
  | gatedCycle (quad : Nat)
  -- firmware commands (R342, R362, R370, R410)
  | cmdNop (c : Cmd)
  | invoke (c : Cmd)
  | loadimg (c : Cmd)
  | unloadimg (c : Cmd)
  | qcreate (c : Cmd)
  | qdestroy (c : Cmd)
  | qpin (c : Cmd)
  | waitl (c : Cmd)
  | map (c : Cmd)
  | unmap (c : Cmd)
  | protect (c : Cmd)
  | migrate (c : Cmd)
  | resolve (c : Cmd)
  | pbcreate (c : Cmd)
  | pbdestroy (c : Cmd)
  | ctxcreate (c : Cmd)
  | ctxload (c : Cmd)
  | ctxrun (c : Cmd)
  | ctxquiesce (c : Cmd)
  | quiesceComplete (ctx : Nat)
  | ctxkill (c : Cmd)
  | ctxdestroy (c : Cmd)
  | ctxres (c : Cmd)
  | attest (c : Cmd)
  | record (c : Cmd)
  | replayDivergence (ctx : Nat)
  | pload (c : Cmd)
  | sload (c : Cmd)
  | sunload (c : Cmd)
  | tcreate (c : Cmd)
  | twrite (c : Cmd)
  | tdestroy (c : Cmd)
  | rread (c : Cmd)
  | vstat (c : Cmd)
  -- the host's queue window (R348)
  | hostResRead (ctx handle : Nat)
  | hostCommitWrite (ctx handle : Nat) (v : W64)
  | hostTakeRead (ctx handle : Nat)
  | hostReleaseWrite (ctx handle : Nat) (v : W64)
  | hostWindowOther (ctx off : Nat) (write : Option W64)
  -- packet pipelines (R383 to R408)
  | frameArrival (port : Nat) (bytes : List Byte)
  -- links and the fabric (R412 to R442)
  | lanesLocked (port : Nat)
  | trainingTimeout (port : Nat) (oneLane : Bool)
  | secondLaneLock (port : Nat)
  | lossOfLock (port : Nat)
  | fecErrorWindow (port bad total : Nat)
  | hello (port : Nat) (chip : BitVec 16) (time : Nat)
  | creditReturn (port vc flits : Nat)
  | writeData (die : Nat) (p : Pkt)
  | readRequest (die : Nat) (p : Pkt)
  | readResponseData (die : Nat) (p : Pkt)
  | loadRequest (die : Nat) (p : Pkt)
  | loadResponse (die : Nat) (p : Pkt)
  | store (die : Nat) (p : Pkt)
  | atomicRequest (die : Nat) (p : Pkt)
  | atomicResponse (die : Nat) (p : Pkt)
  | vatMessage (die : Nat) (p : Pkt)
  | sack (die : Nat) (p : Pkt)
  | retry (die : Nat) (p : Pkt)
  | nack (die : Nat) (p : Pkt)
  | cancel (die : Nat) (p : Pkt)
  | keyreq (die : Nat) (p : Pkt)
  | keyrsp (die : Nat) (p : Pkt)
  | lineRecall (die : Nat) (p : Pkt)
  | lineReturn (die : Nat) (p : Pkt)
  -- what comes to the seats of a core between issues (R88, R90, R115, R138, R155, R164, R201, R266, R276, R277)
  | landing (core : Nat)
  | lateUncorrectableRead (id : Nat)
  | watchdogExpiry (seat : Nat)
  | reductionDepthExpiry (seat : Nat)
  | userInterruptEntry (seat : Nat)
  | xclCopyLanding (core : Nat)
  | hcwldWrite (seat : Nat)
  | containment (seat cause : Nat) (va : W64)
  | offSeatContainment (carr cause : Nat) (va : W64)
  deriving DecidableEq, Repr

end Sys2Proof
end

