-- ==== Sys2Proof/Config.lean ====
section
/-!
DEFINITION. What an implementation of the MQ-2 fixes and the manual leaves open: the free values, which
have no body, so that nothing can be proved of any one of them. The figures of R7 stand here as numbers.
-/

namespace Sys2Proof.Config

/-- DESIGN CHOICE (log 1): which of the things that may come next comes next, where the manual gives no
order (R153, R172, R175, R355, R433). Applied to the counter `State.free`. -/
opaque freeChoice : Nat → Nat

/-- DESIGN CHOICE (log 2): a 64-bit value that the manual leaves open. Applied to the counter `State.free`. -/
opaque freeWord : Nat → BitVec 64

/-- DESIGN CHOICE (log 2): a yes or no that the manual leaves open. Applied to the counter `State.free`. -/
opaque freeBool : Nat → Bool

/-- The fresh 512-bit key that CTXLOAD draws (R376); no access reads it. -/
opaque freeKey : Nat → BitVec 512

/-- The 64-byte fused device secret (R381). -/
opaque fuseSecret : BitVec 512

/-- The bytes of the Alias certificate that layer 0 signs, for an Alias key and a digest of the boot record: the manual
does not give their layout (R381, log 3). -/
opaque certBytes : BitVec 256 → BitVec 512 → List Byte

/-- The port number of the far end of the link on a port, which the cabling fixes (R414, log 20). -/
opaque peerPort : Nat → BitVec 7

/-- How many more vectors than one issue can push the buffer of an out stream holds: the manual gives no size (R149, log 98). -/
opaque outMore : Nat
/-- Vectors that the buffer of an out stream holds: at least those that the eight V slots of one issue push (R149, log 98). -/
abbrev outDepth : Nat := 8 + outMore

/-- Dies of the package (R7). -/
abbrev dies : Nat := 4
/-- Enabled quads of a die (R7). -/
abbrev quads : Nat := 28
/-- Cores of a quad (R7). -/
abbrev cores : Nat := 4
/-- Seats of a core (R7). -/
abbrev seats : Nat := 4
/-- Seats of the package: 4 × 28 × 4 × 4 (R7). -/
abbrev allSeats : Nat := 1792
/-- Default scratchpad of a quad in 64 KiB granules: 2 MiB (R7, R12). -/
abbrev spadGranules : Nat := 32
/-- Granules of 64 KiB in the bank field of a die: three to each of 512 banks (R12). -/
abbrev bankGranules : Nat := 1536
/-- HBM of the package in bytes: 12 stacks of 48 GiB (R7). -/
abbrev hbmBytes : Nat := 12 * 48 * 2 ^ 30
/-- HBM of one die in bytes: three stacks (R13). -/
abbrev hbmPerDie : Nat := 3 * 48 * 2 ^ 30

end Sys2Proof.Config
end

