-- ==== Sys2Proof/WellFormed.lean ====
section
/-!
DEFINITION. The values that the forms admit in their fields, beyond the widths that the types give: a
syllable with a field out of its range raises the illegal-syllable trap (R54), and a micro-operation with
one is refused when a stage program is loaded (R394).
-/

namespace Sys2Proof

/-- A source selector names a hoop, a stream or a plane (R193). -/
def selOk (sel : BitVec 6) : Bool :=
  (sel.extractLsb' 4 2 == 0#2 && sel.extractLsb' 2 2 == 0#2) || sel.extractLsb' 4 2 == 1#2
    || (sel.extractLsb' 4 2 == 2#2 && sel.extractLsb' 2 2 == 0#2)

/-- The selector names a stream (R193). -/
def selStream (sel : BitVec 6) : Bool := sel.extractLsb' 4 2 == 1#2

/-- The selector names a plane (R193). -/
def selPlane (sel : BitVec 6) : Bool := sel.extractLsb' 4 2 == 2#2

/-- The length field of GLD and SCT: a nonzero multiple of 16 (R156). -/
def rowBytesOk (form : BitVec 16) : Bool := form != 0#16 && form.extractLsb' 0 4 == 0#4

/-- CMODE and CW are both zero or both not (R153). -/
def signalOk (x : Xfer) : Bool := (x.cmode == 0#2) == (x.cw == 0#6)

/-- A destination that is S0 or a carried register S60 to S63 (R313). -/
def carriedOr0 (a : Reg) : Bool := a == 0#6 || decide (60 ≤ a.toNat)

/-- Every field of the instruction holds a value that its form admits. -/
def fieldsOk : Instr → Bool
  | .bkany _ mask _ => mask != 0#8
  | .shli w _ _ n _ | .shri w _ _ n _ | .sari w _ _ n _ => w == .d64 || decide (n.toNat < 32)
  | .fcvt _ _ tgt src _ _ _ => tgt != 7#3 && src != 7#3
  | .stow j _ p vec => !vec || (decide (j.toNat < 16) && !p)
  | .unstow _ j vec => !vec || decide (j.toNat < 16)
  | .hcw idx _ _ _ => idx != 511#9
  | .mma _ _ sl c fc =>
    selOk sl && (!selStream sl || c == 0#6) && (if selPlane sl then decide (fc.toNat ≤ 13) else fc == 0#4)
  | .mmas _ _ sl c _ seg g8 =>
    selOk sl && !selPlane sl && (!selStream sl || c == 0#6) && (!g8 || decide (seg.toNat < 2))
  | .cmpr dsl sl _ _ seg g8 =>
    selOk dsl && selOk sl && !selPlane dsl && !selPlane sl && (!g8 || decide (seg.toNat < 2))
  | .fqr zd _ zs _ => zd != zs
  | .sbind _ sq unbind => !unbind || sq == 0#4
  | .spos _ _ c wr => wr || c == 0#6
  | .gld _ _ _ _ x | .sct _ _ _ _ x => rowBytesOk x.form && signalOk x
  | .copy _ _ _ _ x | .copyh _ _ _ _ _ x => x.form == 0#16 && signalOk x
  | .mcast _ _ _ _ x => !x.form.getLsbD 15 && x.form != 0#16 && signalOk x
  | .hcwld _ first cnt => decide (first.toNat + cnt.toNat + 1 ≤ 512)
  | .fence scope => decide (scope.toNat ≤ 4)
  | .barwait a _ _ _ _ => carriedOr0 a
  | .ctrwait a _ c _ _ => carriedOr0 a && decide (60 ≤ c.toNat)
  | .qres a _ _ => a != 0#6
  | .qtake a _ _ wait => if wait then decide (60 ≤ a.toNat) else a != 0#6
  | .fld _ a _ _ _ _ _ _ => a != 0#6
  | .fatom w a _ _ _ _ _ op x _ =>
    a != 0#6 && op != 0#4 && decide (op.toNat ≤ 11) && !(op == 10#4 && w == .d64) && !(op == 11#4 && (x == 0#6 || x == 63#6))
  | .setf _ w _ | .addfImm _ w _ | .addfField _ w _ => w != 3#2
  | .rte mode => decide (mode.toNat ≤ 1)
  | .addt _ mode _ => mode != 3#2
  | .bump _ _ amt => amt != 0#14
  | _ => true

end Sys2Proof
end

