-- ==== Sys2Proof/Decode.lean ====
section
/-!
DEFINITION. The encodings: bundles (R50 to R52), the opcode maps of the slots (R68 to R75 with R156, R206,
R235, R301, R313, R334, R347, R426), and the micro-operations of the packet pipelines (R74, R394). Every
decoder is total and answers none for a word that its map does not assign, or whose reserved field is not
zero (R54). After the decoders stand the encoders of the same tables.
-/

namespace Sys2Proof

/-! ## Fields of a 32-bit syllable (R53) -/

/-- OP, bits [31:24]. -/
def opF (w : W32) : BitVec 8 := w.extractLsb' 24 8
/-- A, bits [23:18]. -/
def aF (w : W32) : BitVec 6 := w.extractLsb' 18 6
/-- B, bits [17:12]. -/
def bF (w : W32) : BitVec 6 := w.extractLsb' 12 6
/-- C, bits [11:6]. -/
def cF (w : W32) : BitVec 6 := w.extractLsb' 6 6
/-- FL, bits [5:0]. -/
def flF (w : W32) : BitVec 6 := w.extractLsb' 0 6

/-- The syllable with these five fields. -/
def syl (op : BitVec 8) (a b c fl : BitVec 6) : W32 := op ++ a ++ b ++ c ++ fl

/-- The answer when a condition on reserved fields holds. -/
def need (c : Bool) (i : Option Instr) : Option Instr := if c then i else none

/-- The width code of the integer layout (R70): 0b00 is `.d` and 0b01 is `.w`. -/
def wdOf (x : BitVec 2) : Option Wd :=
  if x = 0#2 then some .d64 else if x = 1#2 then some .w32 else none

/-- The code of a width. -/
def wdCode : Wd → BitVec 2
  | .d64 => 0#2
  | .w32 => 1#2

/-- FL of the integer layout: trap bits, 0b00 and the width. -/
def flInt (p q : Bool) (w : Wd) : BitVec 6 := BitVec.ofBool p ++ BitVec.ofBool q ++ 0#2 ++ wdCode w

/-- FL of the float layout: trap bits, mode, saturation and 0. -/
def flFloat (p q : Bool) (rm : BitVec 2) (sat : Bool) : BitVec 6 :=
  BitVec.ofBool p ++ BitVec.ofBool q ++ rm ++ BitVec.ofBool sat ++ 0#1

/-- FL with trap bits and four low bits. -/
def flTrap (p q : Bool) (lo : BitVec 4) : BitVec 6 := BitVec.ofBool p ++ BitVec.ofBool q ++ lo

/-- The extension word of a third source (R70): register, trap bit, zeros. -/
def extX (x : Reg) (r : Bool) : W32 := 0#25 ++ BitVec.ofBool r ++ x

/-- The three-source integer layout. -/
def decInt (w : W32) (k : Wd → Reg → Reg → Reg → Bool → Bool → Instr) : Option Instr :=
  need ((flF w).extractLsb' 2 2 == 0#2)
    ((wdOf ((flF w).extractLsb' 0 2)).map fun d => k d (aF w) (bF w) (cF w) ((flF w).getLsbD 5) ((flF w).getLsbD 4))

/-- The integer layout with C and FL[4] zero. -/
def decInt1 (w : W32) (k : Wd → Reg → Reg → Bool → Instr) : Option Instr :=
  need ((flF w).extractLsb' 2 2 == 0#2 && cF w == 0#6 && !(flF w).getLsbD 4)
    ((wdOf ((flF w).extractLsb' 0 2)).map fun d => k d (aF w) (bF w) ((flF w).getLsbD 5))

/-- The integer layout with A zero. -/
def decIntBC (w : W32) (k : Wd → Reg → Reg → Bool → Bool → Instr) : Option Instr :=
  need (aF w == 0#6) (decInt w fun d _ b c p q => k d b c p q)

/-- The shift-immediate layout. -/
def decShift (w : W32) (k : Wd → Reg → Reg → BitVec 6 → Bool → Instr) : Option Instr :=
  need ((flF w).extractLsb' 2 3 == 0#3)
    ((wdOf ((flF w).extractLsb' 0 2)).map fun d => k d (aF w) (bF w) (cF w) ((flF w).getLsbD 5))

/-- The float layout. -/
def decFloat (w : W32) (k : Reg → Reg → Reg → Bool → Bool → BitVec 2 → Bool → Instr) : Option Instr :=
  need (!(flF w).getLsbD 0)
    (some (k (aF w) (bF w) (cF w) ((flF w).getLsbD 5) ((flF w).getLsbD 4) ((flF w).extractLsb' 2 2) ((flF w).getLsbD 1)))

/-- Fields A, B, C with trap bits and FL[3:0] zero. -/
def decABC (w : W32) (k : Reg → Reg → Reg → Bool → Bool → Instr) : Option Instr :=
  need ((flF w).extractLsb' 0 4 == 0#4)
    (some (k (aF w) (bF w) (cF w) ((flF w).getLsbD 5) ((flF w).getLsbD 4)))

/-- Fields B and C with trap bits, A and FL[3:0] zero. -/
def decBC (w : W32) (k : Reg → Reg → Bool → Bool → Instr) : Option Instr :=
  need (aF w == 0#6) (decABC w fun _ b c p q => k b c p q)

/-- Fields A and B with the trap bit of B, C and FL[4:0] zero. -/
def decAB (w : W32) (k : Reg → Reg → Bool → Instr) : Option Instr :=
  need (cF w == 0#6 && (flF w).extractLsb' 0 5 == 0#5) (some (k (aF w) (bF w) ((flF w).getLsbD 5)))

/-- Field B with its trap bit, the rest zero. -/
def decB (w : W32) (k : Reg → Bool → Instr) : Option Instr :=
  need (aF w == 0#6) (decAB w fun _ b p => k b p)

/-- All 24 low bits zero. -/
def decNone (w : W32) (i : Instr) : Option Instr := need (w.extractLsb' 0 24 == 0#24) (some i)

/-- An immediate form of the S slot, C and FL[4:2] zero. -/
def decImm (w : W32) (k : Wd → Reg → Reg → Bool → Instr) : Option Instr :=
  need ((flF w).extractLsb' 2 3 == 0#3 && cF w == 0#6)
    ((wdOf ((flF w).extractLsb' 0 2)).map fun d => k d (aF w) (bF w) ((flF w).getLsbD 5))

/-- The memory operand of an extension word. -/
def memOpOf (e : W32) : MemOp := ⟨e.getLsbD 19, e.extractLsb' 16 3, e.extractLsb' 0 16⟩

/-- The extension word of a memory operand with its arrival field. -/
def extMem (arr : BitVec 12) (m : MemOp) : W32 := arr ++ BitVec.ofBool m.re ++ m.rl ++ m.off

/-- A load of the S slot. -/
def decLoad (w e : W32) (k : Reg → Reg → Bool → BitVec 12 → MemOp → Instr) : Option Instr :=
  decAB w fun a b p => k a b p (e.extractLsb' 20 12) (memOpOf e)

/-- A store of the S slot. -/
def decStore (w e : W32) (k : Reg → Reg → Bool → Bool → MemOp → Instr) : Option Instr :=
  need (e.extractLsb' 20 12 == 0#12) (decBC w fun b c p q => k b c p q (memOpOf e))

/-- A third source in the extension word. -/
def decThird (e : W32) (k : Reg → Bool → Option Instr) : Option Instr :=
  need (e.extractLsb' 7 25 == 0#25) (k (e.extractLsb' 0 6) (e.getLsbD 6))

/-- The transfer extension word (R156). -/
def xferOf (e : W32) : Xfer := ⟨e.extractLsb' 26 6, e.extractLsb' 24 2, e.extractLsb' 21 3, e.extractLsb' 0 16⟩

/-- The transfer extension word of its fields. -/
def extXfer (x : Xfer) : W32 := x.cw ++ x.cmode ++ x.swz ++ 0#5 ++ x.form

/-! ## The maps -/

/-- The C map (R68). -/
def decodeC (w e : W32) : Option Instr :=
  match (opF w).toNat with
  | 0x01 => decB w .jr
  | 0x02 => decAB w .jlr
  | 0x03 => decB w .ret
  | 0x04 => decNone w .yield
  | 0x05 => decNone w .suspend
  | 0x06 => decNone w .endC
  | 0x07 => need (w.extractLsb' 12 12 == 0#12) (some (.trap (w.extractLsb' 0 12)))
  | 0x08 => decNone w .xret
  | 0x09 => decNone w .uiret
  | 0x80 => decNone w (.bra e)
  | 0x81 => need (w.extractLsb' 0 18 == 0#18) (some (.bl (aF w) e))
  | 0x82 => decBC w fun b c p q => .beq b c p q e
  | 0x83 => decBC w fun b c p q => .bne b c p q e
  | 0x84 => decBC w fun b c p q => .blt b c p q e
  | 0x85 => decBC w fun b c p q => .bge b c p q e
  | 0x86 => decBC w fun b c p q => .bltu b c p q e
  | 0x87 => decBC w fun b c p q => .bgeu b c p q e
  | 0x88 =>
    need (aF w == 0#6 && (bF w).extractLsb' 3 3 == 0#3 && cF w == 0#6 && flF w == 0#6)
      (some (.bkany ((bF w).extractLsb' 0 3) (e.extractLsb' 24 8) (e.extractLsb' 0 24)))
  | 0x89 => decB w fun b p => .loop b p e
  | 0x8A =>
    need (aF w == 0#6 && (bF w).extractLsb' 3 3 == 0#3 && cF w == 0#6 && flF w == 0#6)
      (some (.loopq ((bF w).extractLsb' 0 3) e))
  | _ => none

/-- The S map (R69). -/
def decodeS (w e : W32) : Option Instr :=
  match (opF w).toNat with
  | 0x01 => decInt w .add
  | 0x02 => decInt w .sub
  | 0x03 => decInt w .mul
  | 0x04 => decInt w .mulh
  | 0x05 => decInt w .mulhu
  | 0x06 => decInt w .div
  | 0x07 => decInt w .divu
  | 0x08 => decInt w .rem
  | 0x09 => decInt w .remu
  | 0x0A => decInt w .and
  | 0x0B => decInt w .or
  | 0x0C => decInt w .xor
  | 0x0D => decInt w .shl
  | 0x0E => decInt w .shr
  | 0x0F => decInt w .sar
  | 0x10 => decShift w .shli
  | 0x11 => decShift w .shri
  | 0x12 => decShift w .sari
  | 0x13 => decInt1 w .clz
  | 0x14 => decInt1 w .ctz
  | 0x15 => decInt1 w .popc
  | 0x16 => decInt w .min
  | 0x17 => decInt w .max
  | 0x18 => decInt w .minu
  | 0x19 => decInt w .maxu
  | 0x1A => decInt w .seq
  | 0x1B => decInt w .slt
  | 0x1C => decInt w .sltu
  | 0x20 => decFloat w .fadd
  | 0x21 => decFloat w .fsub
  | 0x22 => decFloat w .fmul
  | 0x23 => decFloat w .fdiv
  | 0x24 => need (cF w == 0#6 && !(flF w).getLsbD 4) (decFloat w fun a b _ p _ rm sat => .fsqrt a b p rm sat)
  | 0x25 => decABC w .fmin
  | 0x26 => decABC w .fmax
  | 0x27 =>
    need ((flF w).extractLsb' 2 2 == 0#2)
      (some (.fcmp (aF w) (bF w) (cF w) ((flF w).getLsbD 5) ((flF w).getLsbD 4) ((flF w).extractLsb' 0 2)))
  | 0x28 =>
    need (!(flF w).getLsbD 4)
      (decFloat w fun a b c p _ rm sat => .fcvt a b (c.extractLsb' 3 3) (c.extractLsb' 0 3) p rm sat)
  | 0x30 => need (flF w == 0#6) (some (.rdc (aF w) (w.extractLsb' 6 12)))
  | 0x31 =>
    need (!(flF w).getLsbD 5 && (flF w).extractLsb' 0 4 == 0#4)
      (some (.wrc (w.extractLsb' 12 12) (cF w) ((flF w).getLsbD 4)))
  | 0x32 =>
    need (cF w == 0#6 && (flF w).extractLsb' 1 4 == 0#4)
      (some (.stow (aF w) (bF w) ((flF w).getLsbD 5) ((flF w).getLsbD 0)))
  | 0x33 =>
    need (cF w == 0#6 && (flF w).extractLsb' 1 5 == 0#5) (some (.unstow (aF w) (bF w) ((flF w).getLsbD 0)))
  | 0x80 => need (bF w == 0#6 && !(flF w).getLsbD 5) (decImm w fun d a _ _ => .li d a e)
  | 0x81 => need (bF w == 0#6 && (flF w).extractLsb' 0 2 == 0#2) (decImm w fun _ a _ p => .lih a p e)
  | 0x82 => need (e.extractLsb' 20 12 == 0#12) (decAB w fun a b p => .lea a b p (memOpOf e))
  | 0x83 => decImm w fun d a b p => .addi d a b p e
  | 0x84 => decImm w fun d a b p => .andi d a b p e
  | 0x85 => decImm w fun d a b p => .ori d a b p e
  | 0x86 => decImm w fun d a b p => .xori d a b p e
  | 0x88 => decLoad w e .ldb
  | 0x89 => decLoad w e .ldbu
  | 0x8A => decLoad w e .ldh
  | 0x8B => decLoad w e .ldhu
  | 0x8C => decLoad w e .ldw
  | 0x8D => decLoad w e .ldwu
  | 0x8E => decLoad w e .ldd
  | 0x90 => decStore w e .stb
  | 0x91 => decStore w e .sth
  | 0x92 => decStore w e .stw
  | 0x93 => decStore w e .std
  | 0x98 => decThird e fun x r => decInt w fun d a b c p q => .sel d a b c p q x r
  | 0x99 => decThird e fun x r => decFloat w fun a b c p q rm sat => .ffma a b c p q rm sat x r
  | _ => none

/-- Loads and stores, which S1 does not accept (R69). -/
def s0Only (w : W32) : Bool :=
  decide ((0x88 ≤ (opF w).toNat ∧ (opF w).toNat ≤ 0x8E) ∨ (0x90 ≤ (opF w).toNat ∧ (opF w).toNat ≤ 0x93))

/-- The parameter fields of MMAS and CMPR in FL (R206). -/
def mdOf (fl : BitVec 6) : BitVec 3 := fl.extractLsb' 3 3

/-- The M map (R71, R206, R235). -/
def decodeM (w e : W32) : Option Instr :=
  let a := aF w; let b := bF w; let c := cF w; let f := flF w
  match (opF w).toNat with
  | 0x00 => decNone w .mNop
  | 0x01 =>
    need (a.extractLsb' 0 2 == 0#2 && b.extractLsb' 0 2 == 0#2 && c.extractLsb' 4 2 == 0#2 && f.extractLsb' 4 2 == 0#2)
      (some (.lease (a.extractLsb' 2 4) (b.extractLsb' 2 4) (c.extractLsb' 0 4) (f.extractLsb' 0 4)))
  | 0x02 => decNone w .mrel
  | 0x03 => decNone w .msync
  | 0x04 =>
    need (a.extractLsb' 0 4 == 0#4 && b == 0#6 && c == 0#6 && f.extractLsb' 1 5 == 0#5)
      (some (.mzero (a.extractLsb' 4 2) (f.getLsbD 0)))
  | 0x05 => need (c == 0#6 && f == 0#6) (some (.pmrd a (b.extractLsb' 2 4) (b.extractLsb' 0 2)))
  | 0x06 => need (b == 0#6 && f == 0#6) (some (.pmwr (a.extractLsb' 2 4) (a.extractLsb' 0 2) c))
  | 0x07 =>
    need (b == 0#6 && c == 0#6 && f.extractLsb' 2 4 == 0#4)
      (some (.hldc (a.extractLsb' 2 4) (a.extractLsb' 0 2) (f.extractLsb' 0 2)))
  | 0x08 =>
    need (f.extractLsb' 0 2 == 0#2)
      (some (.mma (a.extractLsb' 4 2) (a.extractLsb' 0 4) b c (f.extractLsb' 2 4)))
  | 0x09 =>
    some (.mmas (a.extractLsb' 4 2) (a.extractLsb' 0 4) b c (f.extractLsb' 3 3) (f.extractLsb' 1 2) (f.getLsbD 0))
  | 0x0A => some (.cmpr a b c (f.extractLsb' 3 3) (f.extractLsb' 1 2) (f.getLsbD 0))
  | 0x0B =>
    need (a.extractLsb' 0 4 == 0#4 && b.extractLsb' 2 4 == 0#4 && c == 0#6 && f == 0#6)
      (some (.mtrans (a.extractLsb' 4 2) (b.extractLsb' 0 2)))
  | 0x10 =>
    need (a.extractLsb' 0 2 == 0#2 && c == 0#6 && f.extractLsb' 1 5 == 0#5)
      (some (.flu (a.extractLsb' 4 2) (a.extractLsb' 2 2) b (f.getLsbD 0)))
  | 0x11 =>
    need (a.extractLsb' 0 2 == 0#2 && c == 0#6 && f == 0#6) (some (.fchol (a.extractLsb' 4 2) (a.extractLsb' 2 2) b))
  | 0x12 =>
    need (c == 0#6 && f == 0#6) (some (.fqr (a.extractLsb' 4 2) (a.extractLsb' 2 2) (a.extractLsb' 0 2) b))
  | 0x13 =>
    need (c == 0#6 && f.extractLsb' 3 3 == 0#3)
      (some (.ftrs (a.extractLsb' 4 2) (a.extractLsb' 2 2) (a.extractLsb' 0 2) b (f.getLsbD 2) (f.getLsbD 1) (f.getLsbD 0)))
  | 0x14 =>
    need (a.extractLsb' 0 2 == 0#2 && c == 0#6 && f.extractLsb' 2 4 == 0#4)
      (some (.fperm (a.extractLsb' 4 2) (a.extractLsb' 2 2) b (f.getLsbD 1) (f.getLsbD 0)))
  | 0x80 =>
    need (f.extractLsb' 3 3 == 0#3 && e.extractLsb' 16 10 == 0#10)
      (some (.hld (a.extractLsb' 2 4) (a.extractLsb' 0 2) b c (f.extractLsb' 0 3) (e.extractLsb' 26 6) (e.extractLsb' 0 16)))
  | 0x81 =>
    need (!f.getLsbD 5)
      (some (.drain (a.extractLsb' 4 2) (a.extractLsb' 0 4) b c (f.getLsbD 4) (f.getLsbD 3) (f.extractLsb' 0 3)
        (e.extractLsb' 26 6) (e.extractLsb' 24 2) (e.getLsbD 23) (e.extractLsb' 16 7) (e.extractLsb' 0 16)))
  | 0x82 =>
    need (a.extractLsb' 3 3 == 0#3 && c == 0#6 && f == 0#6 && e.extractLsb' 16 16 == 0#16)
      (some (.mdld (a.extractLsb' 0 3) b (e.extractLsb' 0 16)))
  | 0x83 =>
    need (a.extractLsb' 3 3 == 0#3 && c == 0#6 && f == 0#6 && e.extractLsb' 16 16 == 0#16)
      (some (.mdst (a.extractLsb' 0 3) b (e.extractLsb' 0 16)))
  | _ => none

/-- The X map (R72, R156, R301). -/
def decodeX (w e : W32) : Option Instr :=
  let a := aF w; let b := bF w; let c := cF w; let f := flF w
  match (opF w).toNat with
  | 0x00 => decNone w .xNop
  | 0x01 =>
    need (a.extractLsb' 4 2 == 3#2 && b.extractLsb' 4 2 == 0#2 && c == 0#6 && f.extractLsb' 1 5 == 0#5)
      (some (.sbind (a.extractLsb' 0 4) (b.extractLsb' 0 4) (f.getLsbD 0)))
  | 0x02 => need (a == 0#6 && b.extractLsb' 4 2 == 0#2 && c == 0#6 && f == 0#6) (some (.sstart (b.extractLsb' 0 4)))
  | 0x03 => need (a == 0#6 && b.extractLsb' 4 2 == 0#2 && c == 0#6 && f == 0#6) (some (.sstop (b.extractLsb' 0 4)))
  | 0x04 => need (a == 0#6 && b.extractLsb' 4 2 == 0#2 && c == 0#6 && f == 0#6) (some (.sdrain (b.extractLsb' 0 4)))
  | 0x05 =>
    need (b.extractLsb' 4 2 == 0#2 && f.extractLsb' 1 5 == 0#5) (some (.spos a (b.extractLsb' 0 4) c (f.getLsbD 0)))
  | 0x06 => need (a == 0#6 && f == 0#6) (some (.tilearm b c))
  | 0x07 => need (a == 0#6 && b == 0#6 && f == 0#6) (some (.tiledis c))
  | 0x08 => need (a.extractLsb' 3 3 == 0#3 && b == 0#6 && f == 0#6) (some (.cqpush (a.extractLsb' 0 3) c))
  | 0x80 =>
    need (a.extractLsb' 4 2 == 0#2 && c == 0#6 && f == 0#6 && e.extractLsb' 16 16 == 0#16)
      (some (.scfg (a.extractLsb' 0 4) b (e.extractLsb' 0 16)))
  | 0x81 =>
    need (a.extractLsb' 4 2 == 0#2 && c == 0#6 && f == 0#6 && e.extractLsb' 16 16 == 0#16)
      (some (.shape (a.extractLsb' 0 4) b (e.extractLsb' 0 16)))
  | 0x82 => need (e.extractLsb' 16 5 == 0#5) (some (.gld a b c f (xferOf e)))
  | 0x83 => need (e.extractLsb' 16 5 == 0#5) (some (.sct a b c f (xferOf e)))
  | 0x84 => need (f.extractLsb' 3 3 == 0#3 && e.extractLsb' 16 5 == 0#5) (some (.copy a b c (f.extractLsb' 0 3) (xferOf e)))
  | 0x85 =>
    need (f.extractLsb' 4 2 == 0#2 && e.extractLsb' 16 5 == 0#5)
      (some (.copyh a b c (f.getLsbD 3) (f.extractLsb' 0 3) (xferOf e)))
  | 0x86 => need (f.extractLsb' 3 3 == 0#3 && e.extractLsb' 16 5 == 0#5) (some (.mcast a b c (f.extractLsb' 0 3) (xferOf e)))
  | 0x87 =>
    need (a == 0#6 && c == 0#6 && f == 0#6 && e.extractLsb' 0 14 == 0#14)
      (some (.hcwld b (e.extractLsb' 23 9) (e.extractLsb' 14 9)))
  | _ => none

/-- A fabric form without its extension (R426): FL[3:2] zero and a width. -/
def decFab (w : W32) (k : Wd → Reg → Reg → Reg → Bool → Bool → Instr) : Option Instr := decInt w k

/-- The Y map (R73, R183, R301, R313, R334, R347, R426). -/
def decodeY (w e : W32) : Option Instr :=
  match (opF w).toNat with
  | 0x01 => decInt w .aadd
  | 0x02 => decInt w .amin
  | 0x03 => decInt w .amax
  | 0x04 => decInt w .aminu
  | 0x05 => decInt w .amaxu
  | 0x06 => decInt w .aand
  | 0x07 => decInt w .aor
  | 0x08 => decInt w .axor
  | 0x09 => decInt w .aswp
  | 0x0A => need ((flF w).extractLsb' 0 2 == 1#2) (decInt w fun _ a b c p q => .afadd a b c p q)
  | 0x10 => decIntBC w .radd
  | 0x11 => need ((flF w).extractLsb' 0 2 == 1#2) (decIntBC w fun _ b c p q => .rfadd b c p q)
  | 0x12 => decIntBC w .rmin
  | 0x13 => decIntBC w .rmax
  | 0x14 => decIntBC w .rand
  | 0x15 => decIntBC w .ror
  | 0x18 => decInt1 w .ldacq
  | 0x19 => decIntBC w .strel
  | 0x1A => need (w.extractLsb' 3 21 == 0#21) (some (.fence (w.extractLsb' 0 3)))
  | 0x1B => decB w .pub
  | 0x20 =>
    need (aF w == 0#6 && (flF w).extractLsb' 1 3 == 0#3)
      (some (.barinit (bF w) (cF w) ((flF w).getLsbD 5) ((flF w).getLsbD 4) ((flF w).getLsbD 0)))
  | 0x21 => decAB w .bararr
  | 0x22 => decABC w .barwait
  | 0x23 => decAB w .bartest
  | 0x24 => decBC w .ctrset
  | 0x25 => decBC w .ctradd
  | 0x26 => decABC w .ctrwait
  | 0x30 =>
    need (bF w == 0#6 && !(flF w).getLsbD 5 && (flF w).extractLsb' 0 4 == 0#4)
      (some (.qres (aF w) (cF w) ((flF w).getLsbD 4)))
  | 0x31 =>
    need (aF w == 0#6 && (flF w).extractLsb' 1 3 == 0#3)
      (some (.qcommit (bF w) (cF w) ((flF w).getLsbD 5) ((flF w).getLsbD 4) ((flF w).getLsbD 0)))
  | 0x32 =>
    need (bF w == 0#6 && !(flF w).getLsbD 5 && (flF w).extractLsb' 1 3 == 0#3)
      (some (.qtake (aF w) (cF w) ((flF w).getLsbD 4) ((flF w).getLsbD 0)))
  | 0x33 => decBC w .launch
  | 0x34 => decNone w .trig
  | 0x35 => decNone w .pdone
  | 0x38 =>
    match (w.extractLsb' 0 24).toNat with
    | 0 => some .svcPing
    | 1 => some .svcQstat
    | 2 => some .svcLstat
    | 3 => some .svcTime
    | 4 => some .svcLog
    | _ => none
  | 0x80 => decThird e fun x r => decInt w fun d a b c p q => .acas d a b c p q x r
  | 0x81 => decThird e fun x r => decBC w fun b c p q => .tsend b c p q x r
  | 0x82 => decThird e fun x r => decBC w fun b c p q => .tcopy b c p q x r
  | 0x88 => decInt w fun d a b c p q => .fld d a b c p q (e.extractLsb' 16 16) (e.extractLsb' 0 16)
  | 0x89 => decThird e fun x r => decIntBC w fun d b c p q => .fst d b c p q x r
  | 0x8A =>
    need (e.extractLsb' 11 5 == 0#5)
      (decInt w fun d a b c p q =>
        .fatom d a b c p q (e.extractLsb' 16 16) (e.extractLsb' 7 4) (e.extractLsb' 0 6) (e.getLsbD 6))
  | 0x8B => need (e == 0#32) (decB w .nwr)
  | _ => none

/-- A V syllable (R75, R66), in the low 16 bits. -/
def decodeV (w : BitVec 16) : Option Instr :=
  if w.extractLsb' 7 9 = 511#9 then (if w.extractLsb' 0 7 = 0#7 then some .vNop else none)
  else some (.hcw (w.extractLsb' 7 9) (w.extractLsb' 4 3) (w.getLsbD 3) (w.extractLsb' 0 3))

/-- A micro-operation (R74, R394). -/
def decodeMicro (w : W32) : Option Instr :=
  match (w.extractLsb' 27 5).toNat with
  | 0x00 => need (w.extractLsb' 0 27 == 0#27) (some .nopa)
  | 0x01 => some (.ext (w.extractLsb' 18 9) (w.extractLsb' 13 5) (w.extractLsb' 0 13))
  | 0x02 => some (.setf (w.extractLsb' 18 9) (w.extractLsb' 16 2) (w.extractLsb' 0 16))
  | 0x03 =>
    if w.getLsbD 15 then
      need (w.extractLsb' 0 6 == 0#6) (some (.addfField (w.extractLsb' 18 9) (w.extractLsb' 16 2) (w.extractLsb' 6 9)))
    else some (.addfImm (w.extractLsb' 18 9) (w.extractLsb' 16 2) (w.extractLsb' 0 15))
  | 0x04 => need (w.extractLsb' 0 7 == 0#7) (some (.lkp (w.extractLsb' 25 2) (w.extractLsb' 16 9) (w.extractLsb' 7 9)))
  | 0x05 => need (w.extractLsb' 0 13 == 0#13) (some (.hash (w.extractLsb' 18 9) (w.extractLsb' 13 5)))
  | 0x06 => need (w.extractLsb' 0 25 == 0#25) (some (.rte (w.extractLsb' 25 2)))
  | 0x07 =>
    need (w.extractLsb' 0 13 == 0#13) (some (.rewr (w.extractLsb' 25 2) (w.extractLsb' 22 3) (w.extractLsb' 13 9)))
  | 0x08 =>
    need (w.extractLsb' 0 6 == 0#6)
      (some (.score (w.extractLsb' 25 2) (w.extractLsb' 15 10) (w.extractLsb' 9 6) (w.extractLsb' 6 3)))
  | 0x09 =>
    need (w.extractLsb' 0 14 == 0#14) (some (.addt (w.extractLsb' 25 2) (w.extractLsb' 23 2) (w.extractLsb' 14 9)))
  | 0x0A => some (.bump (w.extractLsb' 22 5) (w.extractLsb' 14 8) (w.extractLsb' 0 14))
  | 0x0B => need (w.extractLsb' 0 16 == 0#16) (some (.depo (w.extractLsb' 25 2) (w.extractLsb' 16 9)))
  | 0x0C =>
    match (w.extractLsb' 25 2).toNat with
    | 0 => need (w.extractLsb' 0 4 == 0#4) (some (.rgaAdd (w.extractLsb' 13 12) (w.extractLsb' 4 9)))
    | 1 => need (w.extractLsb' 0 4 == 0#4) (some (.rgaSwap (w.extractLsb' 13 12) (w.extractLsb' 4 9)))
    | 2 => need (w.extractLsb' 0 4 == 0#4) (some (.rgaUmax (w.extractLsb' 13 12) (w.extractLsb' 4 9)))
    | _ =>
      need (!w.getLsbD 0)
        (some (.rgaPush (w.extractLsb' 13 12) (w.extractLsb' 8 5) (w.extractLsb' 5 3) (w.extractLsb' 1 4)))
  | 0x0D => need (w.extractLsb' 0 19 == 0#19) (some (.fwd (w.getLsbD 26) (w.extractLsb' 19 7)))
  | 0x0E => need (w.extractLsb' 0 27 == 0#27) (some .absorb)
  | 0x0F => need (w.extractLsb' 0 19 == 0#19) (some (.mirr (w.extractLsb' 20 7) (w.getLsbD 19)))
  | 0x10 => need (w.extractLsb' 0 19 == 0#19) (some (.drop (w.extractLsb' 19 8)))
  | 0x11 => need (w.extractLsb' 0 23 == 0#23) (some (.recirc (w.extractLsb' 23 4)))
  | 0x12 => need (w.extractLsb' 0 23 == 0#23) (some (.mark (w.getLsbD 26) (w.getLsbD 25) (w.extractLsb' 23 2)))
  | 0x13 => need (w.extractLsb' 0 18 == 0#18) (some (.hold (w.extractLsb' 18 9)))
  | _ => none

/-- The instruction of a word in a slot class: the syllable and its extension word. -/
def decodeWord : SlotClass → W32 → W32 → Option Instr
  | .slotC, w, e => decodeC w e
  | .slotS, w, e => decodeS w e
  | .slotM, w, e => decodeM w e
  | .slotX, w, e => decodeX w e
  | .slotY, w, e => decodeY w e
  | .slotV, w, _ => decodeV (w.setWidth 16)
  | .micro, w, _ => decodeMicro w

/-! ## Bundles (R50 to R52) -/

/-- A bundle as fetched. `slots` holds the present slots in PRESENT order, each with its XMASK bit number
(13 for C down to 0 for V7), its syllable and its extension word; `words` is its length. -/
structure Bundle where
  clr   : Bool
  rep   : BitVec 5
  wait  : BitVec 6
  slots : List (Nat × W32 × W32)
  words : Nat
  /-- A nonzero padding halfword (R51). -/
  pad   : Bool
  deriving DecidableEq, Repr

/-- What is wrong with a header (R52): KIND, bits [3:0], or a C syllable with REP ≠ 0. -/
def headerBad (h : W32) : Bool :=
  h.extractLsb' 30 2 != 0#2 || h.extractLsb' 0 4 != 0#4 || (h.getLsbD 23 && h.extractLsb' 24 5 != 0#5)

/-- The XMASK bit numbers of the slots in `ks` that the header marks present. -/
def presentOf (h : W32) (ks : List Nat) : List Nat := ks.filter fun k => h.getLsbD (k + 10)

/-- Reads the 32-bit syllables of the listed slots from word `i` on, each with its extension word when bit
7 of its opcode is 1 (R51). `rd` reads a word of the bundle, or says why it cannot. -/
def readSyls {ε : Type} (rd : Nat → Except ε W32) : List Nat → Nat → Except ε (List (Nat × W32 × W32) × Nat)
  | [], i => .ok ([], i)
  | k :: ks, i =>
    match rd i with
    | .error x => .error x
    | .ok w =>
      if w.getLsbD 31 then
        match rd (i + 1) with
        | .error x => .error x
        | .ok e =>
          match readSyls rd ks (i + 2) with
          | .error x => .error x
          | .ok (l, n) => .ok ((k, w, e) :: l, n)
      else
        match readSyls rd ks (i + 1) with
        | .error x => .error x
        | .ok (l, n) => .ok ((k, w, 0) :: l, n)

/-- Reads the V syllables of the listed slots from word `i` on, two a word (R51). The last component says
whether the padding halfword is nonzero. -/
def readVs {ε : Type} (rd : Nat → Except ε W32) : List Nat → Nat → Except ε (List (Nat × W32 × W32) × Nat × Bool)
  | [], i => .ok ([], i, false)
  | [k], i =>
    match rd i with
    | .error x => .error x
    | .ok w => .ok ([(k, (w.extractLsb' 0 16).setWidth 32, 0)], i + 1, w.extractLsb' 16 16 != 0#16)
  | k :: k' :: ks, i =>
    match rd i with
    | .error x => .error x
    | .ok w =>
      match readVs rd ks (i + 1) with
      | .error x => .error x
      | .ok (l, n, b) =>
        .ok ((k, (w.extractLsb' 0 16).setWidth 32, 0) :: (k', (w.extractLsb' 16 16).setWidth 32, 0) :: l, n, b)

/-- The bundle whose word `i` is `rd i`, its header being `h` (R50, R51). -/
def readBundle {ε : Type} (rd : Nat → Except ε W32) (h : W32) : Except ε Bundle :=
  match readSyls rd (presentOf h [13, 12, 11, 10, 9, 8]) 1 with
  | .error x => .error x
  | .ok (l, i) =>
    match readVs rd (presentOf h [7, 6, 5, 4, 3, 2, 1, 0]) i with
    | .error x => .error x
    | .ok (v, n, b) => .ok ⟨h.getLsbD 29, h.extractLsb' 24 5, h.extractLsb' 4 6, l ++ v, n, b⟩

/-- The number of words up to the end of the listed 32-bit slots from word `i` on: bit 7 of an opcode adds its extension
word, which is not read (R51). -/
def sylWords {ε : Type} (rd : Nat → Except ε W32) : List Nat → Nat → Except ε Nat
  | [], i => .ok i
  | _ :: ks, i =>
    match rd i with
    | .error x => .error x
    | .ok w => sylWords rd ks (if w.getLsbD 31 then i + 2 else i + 1)

/-- The length in words of the bundle with header `h` (R51): only its header and its 32-bit syllables are read. -/
def bundleWords {ε : Type} (rd : Nat → Except ε W32) (h : W32) : Except ε Nat :=
  match sylWords rd (presentOf h [13, 12, 11, 10, 9, 8]) 1 with
  | .error x => .error x
  | .ok i => .ok (i + ((presentOf h [7, 6, 5, 4, 3, 2, 1, 0]).length + 1) / 2)

/-- The slot class of an XMASK bit number (R58). -/
def classOf (k : Nat) : SlotClass :=
  if k = 13 then .slotC else if k = 12 ∨ k = 11 then .slotS else if k = 10 then .slotM
  else if k = 9 then .slotX else if k = 8 then .slotY else .slotV

/-- The instruction in a slot of a bundle: S1 takes no load and no store (R69). -/
def decodeSlot (k : Nat) (w e : W32) : Option Instr :=
  if k = 11 ∧ s0Only w then none else decodeWord (classOf k) w e

/-! ## Encoders -/

/-- FL of LEASE, MMAS and the like: two fields side by side. -/
def fl33 (m : BitVec 3) (s : BitVec 2) (g : Bool) : BitVec 6 := m ++ s ++ BitVec.ofBool g

/-- The C syllables (R68). -/
def encodeC : Instr → Option (W32 × W32)
  | .jr b p => some (syl 0x01 0 b 0 (flTrap p false 0), 0)
  | .jlr a b p => some (syl 0x02 a b 0 (flTrap p false 0), 0)
  | .ret b p => some (syl 0x03 0 b 0 (flTrap p false 0), 0)
  | .yield => some (syl 0x04 0 0 0 0, 0)
  | .suspend => some (syl 0x05 0 0 0 0, 0)
  | .endC => some (syl 0x06 0 0 0 0, 0)
  | .trap imm => some (syl 0x07 0 0 (imm.extractLsb' 6 6) (imm.extractLsb' 0 6), 0)
  | .xret => some (syl 0x08 0 0 0 0, 0)
  | .uiret => some (syl 0x09 0 0 0 0, 0)
  | .bra off => some (syl 0x80 0 0 0 0, off)
  | .bl a off => some (syl 0x81 a 0 0 0, off)
  | .beq b c p q off => some (syl 0x82 0 b c (flTrap p q 0), off)
  | .bne b c p q off => some (syl 0x83 0 b c (flTrap p q 0), off)
  | .blt b c p q off => some (syl 0x84 0 b c (flTrap p q 0), off)
  | .bge b c p q off => some (syl 0x85 0 b c (flTrap p q 0), off)
  | .bltu b c p q off => some (syl 0x86 0 b c (flTrap p q 0), off)
  | .bgeu b c p q off => some (syl 0x87 0 b c (flTrap p q 0), off)
  | .bkany k m off => some (syl 0x88 0 (0#3 ++ k) 0 0, m ++ off)
  | .loop b p off => some (syl 0x89 0 b 0 (flTrap p false 0), off)
  | .loopq n off => some (syl 0x8A 0 (0#3 ++ n) 0 0, off)
  | _ => none

/-- The S syllables (R69, R70). -/
def encodeS : Instr → Option (W32 × W32)
  | .add w a b c p q => some (syl 0x01 a b c (flInt p q w), 0)
  | .sub w a b c p q => some (syl 0x02 a b c (flInt p q w), 0)
  | .mul w a b c p q => some (syl 0x03 a b c (flInt p q w), 0)
  | .mulh w a b c p q => some (syl 0x04 a b c (flInt p q w), 0)
  | .mulhu w a b c p q => some (syl 0x05 a b c (flInt p q w), 0)
  | .div w a b c p q => some (syl 0x06 a b c (flInt p q w), 0)
  | .divu w a b c p q => some (syl 0x07 a b c (flInt p q w), 0)
  | .rem w a b c p q => some (syl 0x08 a b c (flInt p q w), 0)
  | .remu w a b c p q => some (syl 0x09 a b c (flInt p q w), 0)
  | .and w a b c p q => some (syl 0x0A a b c (flInt p q w), 0)
  | .or w a b c p q => some (syl 0x0B a b c (flInt p q w), 0)
  | .xor w a b c p q => some (syl 0x0C a b c (flInt p q w), 0)
  | .shl w a b c p q => some (syl 0x0D a b c (flInt p q w), 0)
  | .shr w a b c p q => some (syl 0x0E a b c (flInt p q w), 0)
  | .sar w a b c p q => some (syl 0x0F a b c (flInt p q w), 0)
  | .shli w a b n p => some (syl 0x10 a b n (flInt p false w), 0)
  | .shri w a b n p => some (syl 0x11 a b n (flInt p false w), 0)
  | .sari w a b n p => some (syl 0x12 a b n (flInt p false w), 0)
  | .clz w a b p => some (syl 0x13 a b 0 (flInt p false w), 0)
  | .ctz w a b p => some (syl 0x14 a b 0 (flInt p false w), 0)
  | .popc w a b p => some (syl 0x15 a b 0 (flInt p false w), 0)
  | .min w a b c p q => some (syl 0x16 a b c (flInt p q w), 0)
  | .max w a b c p q => some (syl 0x17 a b c (flInt p q w), 0)
  | .minu w a b c p q => some (syl 0x18 a b c (flInt p q w), 0)
  | .maxu w a b c p q => some (syl 0x19 a b c (flInt p q w), 0)
  | .seq w a b c p q => some (syl 0x1A a b c (flInt p q w), 0)
  | .slt w a b c p q => some (syl 0x1B a b c (flInt p q w), 0)
  | .sltu w a b c p q => some (syl 0x1C a b c (flInt p q w), 0)
  | .fadd a b c p q rm sat => some (syl 0x20 a b c (flFloat p q rm sat), 0)
  | .fsub a b c p q rm sat => some (syl 0x21 a b c (flFloat p q rm sat), 0)
  | .fmul a b c p q rm sat => some (syl 0x22 a b c (flFloat p q rm sat), 0)
  | .fdiv a b c p q rm sat => some (syl 0x23 a b c (flFloat p q rm sat), 0)
  | .fsqrt a b p rm sat => some (syl 0x24 a b 0 (flFloat p false rm sat), 0)
  | .fmin a b c p q => some (syl 0x25 a b c (flTrap p q 0), 0)
  | .fmax a b c p q => some (syl 0x26 a b c (flTrap p q 0), 0)
  | .fcmp a b c p q cond => some (syl 0x27 a b c (flTrap p q (0#2 ++ cond)), 0)
  | .fcvt a b tgt src p rm sat => some (syl 0x28 a b (tgt ++ src) (flFloat p false rm sat), 0)
  | .rdc a num => some (syl 0x30 a (num.extractLsb' 6 6) (num.extractLsb' 0 6) 0, 0)
  | .wrc num c q => some (syl 0x31 (num.extractLsb' 6 6) (num.extractLsb' 0 6) c (flTrap false q 0), 0)
  | .stow j b p vec => some (syl 0x32 j b 0 (flTrap p false (0#3 ++ BitVec.ofBool vec)), 0)
  | .unstow a j vec => some (syl 0x33 a j 0 (flTrap false false (0#3 ++ BitVec.ofBool vec)), 0)
  | .li w a imm => some (syl 0x80 a 0 0 (flInt false false w), imm)
  | .lih a p imm => some (syl 0x81 a 0 0 (flInt p false .d64), imm)
  | .lea a b p m => some (syl 0x82 a b 0 (flTrap p false 0), extMem 0 m)
  | .addi w a b p imm => some (syl 0x83 a b 0 (flInt p false w), imm)
  | .andi w a b p imm => some (syl 0x84 a b 0 (flInt p false w), imm)
  | .ori w a b p imm => some (syl 0x85 a b 0 (flInt p false w), imm)
  | .xori w a b p imm => some (syl 0x86 a b 0 (flInt p false w), imm)
  | .ldb a b p arr m => some (syl 0x88 a b 0 (flTrap p false 0), extMem arr m)
  | .ldbu a b p arr m => some (syl 0x89 a b 0 (flTrap p false 0), extMem arr m)
  | .ldh a b p arr m => some (syl 0x8A a b 0 (flTrap p false 0), extMem arr m)
  | .ldhu a b p arr m => some (syl 0x8B a b 0 (flTrap p false 0), extMem arr m)
  | .ldw a b p arr m => some (syl 0x8C a b 0 (flTrap p false 0), extMem arr m)
  | .ldwu a b p arr m => some (syl 0x8D a b 0 (flTrap p false 0), extMem arr m)
  | .ldd a b p arr m => some (syl 0x8E a b 0 (flTrap p false 0), extMem arr m)
  | .stb b c p q m => some (syl 0x90 0 b c (flTrap p q 0), extMem 0 m)
  | .sth b c p q m => some (syl 0x91 0 b c (flTrap p q 0), extMem 0 m)
  | .stw b c p q m => some (syl 0x92 0 b c (flTrap p q 0), extMem 0 m)
  | .std b c p q m => some (syl 0x93 0 b c (flTrap p q 0), extMem 0 m)
  | .sel w a b c p q x r => some (syl 0x98 a b c (flInt p q w), extX x r)
  | .ffma a b c p q rm sat x r => some (syl 0x99 a b c (flFloat p q rm sat), extX x r)
  | _ => none

/-- The M syllables (R71, R206, R235). -/
def encodeM : Instr → Option (W32 × W32)
  | .mNop => some (syl 0x00 0 0 0 0, 0)
  | .lease pm md h z => some (syl 0x01 (pm ++ 0#2) (md ++ 0#2) (0#2 ++ h) (0#2 ++ z), 0)
  | .mrel => some (syl 0x02 0 0 0 0, 0)
  | .msync => some (syl 0x03 0 0 0 0, 0)
  | .mzero z i => some (syl 0x04 (z ++ 0#4) 0 0 (0#5 ++ BitVec.ofBool i), 0)
  | .pmrd a word pm => some (syl 0x05 a (word ++ pm) 0 0, 0)
  | .pmwr word pm c => some (syl 0x06 (word ++ pm) 0 c 0, 0)
  | .hldc fmt h n => some (syl 0x07 (fmt ++ h) 0 0 (0#4 ++ n), 0)
  | .mma zd sb sl c fc => some (syl 0x08 (zd ++ sb) sl c (fc ++ 0#2), 0)
  | .mmas zd sb sl c md seg g => some (syl 0x09 (zd ++ sb) sl c (fl33 md seg g), 0)
  | .cmpr dsl sl c md seg g => some (syl 0x0A dsl sl c (fl33 md seg g), 0)
  | .mtrans zd zs => some (syl 0x0B (zd ++ 0#4) (0#4 ++ zs) 0 0, 0)
  | .flu zd pm b nf => some (syl 0x10 (zd ++ pm ++ 0#2) b 0 (0#5 ++ BitVec.ofBool nf), 0)
  | .fchol zd pm b => some (syl 0x11 (zd ++ pm ++ 0#2) b 0 0, 0)
  | .fqr zd pm zs b => some (syl 0x12 (zd ++ pm ++ zs) b 0 0, 0)
  | .ftrs zd pm zs b nf u t =>
    some (syl 0x13 (zd ++ pm ++ zs) b 0 (0#3 ++ BitVec.ofBool nf ++ BitVec.ofBool u ++ BitVec.ofBool t), 0)
  | .fperm zd pm b cols inv =>
    some (syl 0x14 (zd ++ pm ++ 0#2) b 0 (0#4 ++ BitVec.ofBool cols ++ BitVec.ofBool inv), 0)
  | .hld fmt h b c swz sx off => some (syl 0x80 (fmt ++ h) b c (0#3 ++ swz), sx ++ 0#10 ++ off)
  | .drain z fmt b c rtz sc swz sx hs had sh off =>
    some (syl 0x81 (z ++ fmt) b c (0#1 ++ BitVec.ofBool rtz ++ BitVec.ofBool sc ++ swz),
      sx ++ hs ++ BitVec.ofBool had ++ sh ++ off)
  | .mdld md b off => some (syl 0x82 (0#3 ++ md) b 0 0, 0#16 ++ off)
  | .mdst md b off => some (syl 0x83 (0#3 ++ md) b 0 0, 0#16 ++ off)
  | _ => none

/-- The X syllables (R72, R156, R301). -/
def encodeX : Instr → Option (W32 × W32)
  | .xNop => some (syl 0x00 0 0 0 0, 0)
  | .sbind a sq u => some (syl 0x01 (3#2 ++ a) (0#2 ++ sq) 0 (0#5 ++ BitVec.ofBool u), 0)
  | .sstart sq => some (syl 0x02 0 (0#2 ++ sq) 0 0, 0)
  | .sstop sq => some (syl 0x03 0 (0#2 ++ sq) 0 0, 0)
  | .sdrain sq => some (syl 0x04 0 (0#2 ++ sq) 0 0, 0)
  | .spos a sq c wr => some (syl 0x05 a (0#2 ++ sq) c (0#5 ++ BitVec.ofBool wr), 0)
  | .tilearm b c => some (syl 0x06 0 b c 0, 0)
  | .tiledis c => some (syl 0x07 0 0 c 0, 0)
  | .cqpush n c => some (syl 0x08 (0#3 ++ n) 0 c 0, 0)
  | .scfg sq b off => some (syl 0x80 (0#2 ++ sq) b 0 0, 0#16 ++ off)
  | .shape sq b off => some (syl 0x81 (0#2 ++ sq) b 0 0, 0#16 ++ off)
  | .gld a b c f x => some (syl 0x82 a b c f, extXfer x)
  | .sct a b c f x => some (syl 0x83 a b c f, extXfer x)
  | .copy a b c s x => some (syl 0x84 a b c (0#3 ++ s), extXfer x)
  | .copyh a b c out s x => some (syl 0x85 a b c (0#2 ++ BitVec.ofBool out ++ s), extXfer x)
  | .mcast a b c s x => some (syl 0x86 a b c (0#3 ++ s), extXfer x)
  | .hcwld b first cnt => some (syl 0x87 0 b 0 0, first ++ cnt ++ 0#14)
  | _ => none

/-- The Y syllables (R73, R183, R301, R313, R334, R347, R426). -/
def encodeY : Instr → Option (W32 × W32)
  | .aadd w a b c p q => some (syl 0x01 a b c (flInt p q w), 0)
  | .amin w a b c p q => some (syl 0x02 a b c (flInt p q w), 0)
  | .amax w a b c p q => some (syl 0x03 a b c (flInt p q w), 0)
  | .aminu w a b c p q => some (syl 0x04 a b c (flInt p q w), 0)
  | .amaxu w a b c p q => some (syl 0x05 a b c (flInt p q w), 0)
  | .aand w a b c p q => some (syl 0x06 a b c (flInt p q w), 0)
  | .aor w a b c p q => some (syl 0x07 a b c (flInt p q w), 0)
  | .axor w a b c p q => some (syl 0x08 a b c (flInt p q w), 0)
  | .aswp w a b c p q => some (syl 0x09 a b c (flInt p q w), 0)
  | .afadd a b c p q => some (syl 0x0A a b c (flInt p q .w32), 0)
  | .radd w b c p q => some (syl 0x10 0 b c (flInt p q w), 0)
  | .rfadd b c p q => some (syl 0x11 0 b c (flInt p q .w32), 0)
  | .rmin w b c p q => some (syl 0x12 0 b c (flInt p q w), 0)
  | .rmax w b c p q => some (syl 0x13 0 b c (flInt p q w), 0)
  | .rand w b c p q => some (syl 0x14 0 b c (flInt p q w), 0)
  | .ror w b c p q => some (syl 0x15 0 b c (flInt p q w), 0)
  | .ldacq w a b p => some (syl 0x18 a b 0 (flInt p false w), 0)
  | .strel w b c p q => some (syl 0x19 0 b c (flInt p q w), 0)
  | .fence s => some (syl 0x1A 0 0 0 (0#3 ++ s), 0)
  | .pub b p => some (syl 0x1B 0 b 0 (flTrap p false 0), 0)
  | .barinit b c p q own => some (syl 0x20 0 b c (flTrap p q (0#3 ++ BitVec.ofBool own)), 0)
  | .bararr a b p => some (syl 0x21 a b 0 (flTrap p false 0), 0)
  | .barwait a b c p q => some (syl 0x22 a b c (flTrap p q 0), 0)
  | .bartest a b p => some (syl 0x23 a b 0 (flTrap p false 0), 0)
  | .ctrset b c p q => some (syl 0x24 0 b c (flTrap p q 0), 0)
  | .ctradd b c p q => some (syl 0x25 0 b c (flTrap p q 0), 0)
  | .ctrwait a b c p q => some (syl 0x26 a b c (flTrap p q 0), 0)
  | .qres a c q => some (syl 0x30 a 0 c (flTrap false q 0), 0)
  | .qcommit b c p q rel => some (syl 0x31 0 b c (flTrap p q (0#3 ++ BitVec.ofBool rel)), 0)
  | .qtake a c q wait => some (syl 0x32 a 0 c (flTrap false q (0#3 ++ BitVec.ofBool wait)), 0)
  | .launch b c p q => some (syl 0x33 0 b c (flTrap p q 0), 0)
  | .trig => some (syl 0x34 0 0 0 0, 0)
  | .pdone => some (syl 0x35 0 0 0 0, 0)
  | .svcPing => some (syl 0x38 0 0 0 0, 0)
  | .svcQstat => some (syl 0x38 0 0 0 1, 0)
  | .svcLstat => some (syl 0x38 0 0 0 2, 0)
  | .svcTime => some (syl 0x38 0 0 0 3, 0)
  | .svcLog => some (syl 0x38 0 0 0 4, 0)
  | .acas w a b c p q x r => some (syl 0x80 a b c (flInt p q w), extX x r)
  | .tsend b c p q x r => some (syl 0x81 0 b c (flTrap p q 0), extX x r)
  | .tcopy b c p q x r => some (syl 0x82 0 b c (flTrap p q 0), extX x r)
  | .fld w a b c p q arr off => some (syl 0x88 a b c (flInt p q w), arr ++ off)
  | .fst w b c p q x r => some (syl 0x89 0 b c (flInt p q w), extX x r)
  | .fatom w a b c p q arr op x r =>
    some (syl 0x8A a b c (flInt p q w), arr ++ 0#5 ++ op ++ BitVec.ofBool r ++ x)
  | .nwr b p => some (syl 0x8B 0 b 0 (flTrap p false 0), 0)
  | _ => none

/-- The V syllables (R75). -/
def encodeV : Instr → Option (BitVec 16)
  | .hcw idx k inv base => some (idx ++ k ++ BitVec.ofBool inv ++ base)
  | .vNop => some 0xFF80
  | _ => none

/-- The micro-operations (R74, R394). -/
def encodeMicro : Instr → Option W32
  | .nopa => some 0
  | .ext h n off => some (1#5 ++ h ++ n ++ off)
  | .setf h w imm => some (2#5 ++ h ++ w ++ imm)
  | .addfImm h w imm => some (3#5 ++ h ++ w ++ 0#1 ++ imm)
  | .addfField h w src => some (3#5 ++ h ++ w ++ 1#1 ++ src ++ 0#6)
  | .lkp b k r => some (4#5 ++ b ++ k ++ r ++ 0#7)
  | .hash h n => some (5#5 ++ h ++ n ++ 0#13)
  | .rte m => some (6#5 ++ m ++ 0#25)
  | .rewr b i h => some (7#5 ++ b ++ i ++ h ++ 0#13)
  | .score b d g k => some (8#5 ++ b ++ d ++ g ++ k ++ 0#6)
  | .addt b m h => some (9#5 ++ b ++ m ++ h ++ 0#14)
  | .bump q t n => some (10#5 ++ q ++ t ++ n)
  | .depo b h => some (11#5 ++ b ++ h ++ 0#16)
  | .rgaAdd r h => some (12#5 ++ 0#2 ++ r ++ h ++ 0#4)
  | .rgaSwap r h => some (12#5 ++ 1#2 ++ r ++ h ++ 0#4)
  | .rgaUmax r h => some (12#5 ++ 2#2 ++ r ++ h ++ 0#4)
  | .rgaPush r q cq sh => some (12#5 ++ 3#2 ++ r ++ q ++ cq ++ sh ++ 0#1)
  | .fwd ep port => some (13#5 ++ BitVec.ofBool ep ++ port ++ 0#19)
  | .absorb => some (14#5 ++ 0#27)
  | .mirr port t => some (15#5 ++ port ++ BitVec.ofBool t ++ 0#19)
  | .drop r => some (16#5 ++ r ++ 0#19)
  | .recirc s => some (17#5 ++ s ++ 0#23)
  | .mark ce setc cls => some (18#5 ++ BitVec.ofBool ce ++ BitVec.ofBool setc ++ cls ++ 0#23)
  | .hold h => some (19#5 ++ h ++ 0#18)
  | _ => none

/-- The slot class and the words of an instruction that has an encoding: the syllable and its extension
word (0 where the form has none). Commands, packets and events have no syllable. -/
def encode (i : Instr) : Option (SlotClass × W32 × W32) :=
  match encodeC i with
  | some x => some (.slotC, x)
  | none =>
    match encodeS i with
    | some x => some (.slotS, x)
    | none =>
      match encodeM i with
      | some x => some (.slotM, x)
      | none =>
        match encodeX i with
        | some x => some (.slotX, x)
        | none =>
          match encodeY i with
          | some x => some (.slotY, x)
          | none =>
            match encodeV i with
            | some v => some (.slotV, v.setWidth 32, 0)
            | none => (encodeMicro i).map fun x => (.micro, x, 0)

/-! ## Words on their own -/

/-- The first of two answers. -/
def orElse2 (a b : Option Instr) : Option Instr := match a with | some i => some i | none => b

/-- A 32-bit word with its extension word, on its own: the maps share their codes, so the maps with more
fixed bits are read first (C, X, M, Y, S, micro-operations). -/
def decodeAny (w e : W32) : Option Instr :=
  orElse2 (decodeC w e) (orElse2 (decodeX w e) (orElse2 (decodeM w e) (orElse2 (decodeY w e)
    (orElse2 (decodeS w e) (decodeMicro w)))))

/-- The instruction of a word as the opcode table numbers its bits: 16 bits for a V syllable; else the
syllable in bits [31:0] and its extension word in bits [63:32]. -/
def decodeTableWord (nbits w : Nat) : Option Instr :=
  if nbits ≤ 16 then decodeV (BitVec.ofNat 16 w)
  else decodeAny (BitVec.ofNat 32 w) (BitVec.ofNat 32 (w >>> 32))

end Sys2Proof
end

