-- ==== Sys2Proof/Machine/State.lean ====
section
/-!
DEFINITION. The state of one MQ-2 package as plain data. Register files, tables and memory are sparse maps
(Word.lean): what is not listed holds its default value. Every field names the rule that gives it.
Numbers of places: seat = ((die * 28 + quad) * 4 + core) * 4 + seat of the core, so core = seat / 4,
quad = core / 4 and die = quad / 28 (R9, R10).
-/

namespace Sys2Proof.Machine

/-- Why a step stops with a fault. -/
inductive Fault where
  /-- Raised by BUNDLE_ISSUE when the bundle's address translates to an HBM address at or beyond the
  12 × 48 GiB that the package has (R7): such memory does not exist. Safe: the machine stops, where no part
  of the manual gives it an effect. CTXCREATE and MAP admit no such frame, so no run from reset meets it. -/
  | hbmHole
  deriving DecidableEq, Repr

/-- Why a step has no meaning. -/
inductive Refusal where
  /-- Raised by `exec` for an instruction that has no meaning in the model. Safe: nothing is claimed of it. -/
  | notModelled (mnemonic : String)
  deriving DecidableEq, Repr

/-- The FFLAGS bits IO, NV, DZ, OF, UF, NX, high to low (R38). -/
abbrev Flags := BitVec 6

/-! ## Memory -/

/-- A place that a virtual address translates to: a physical location, and for a publishable buffer its
index and the location of copy B (R180, R364). Keys below 2^48 are HBM; from 2^48 host memory; from 2^49
scratchpad. -/
structure PLoc where
  key : Nat
  pb  : Option (Nat × Nat)
  deriving DecidableEq, Repr

/-- A translation made at issue and held until it is used (R459): 64 KiB page number and place of its
first byte. -/
abbrev Held := List (Nat × PLoc)

/-- A leaf of the page tables (R352). `kind`: 0 HBM, 1 host, 2 publishable. `err`: the line of the table
that holds it has an uncorrectable error (R366). -/
structure Leaf where
  v      : Bool
  kind   : BitVec 2
  r      : Bool
  w      : Bool
  x      : Bool
  dw     : Bool
  mig    : Bool
  onhost : Bool
  frame  : BitVec 32
  cont   : Byte
  pbi    : Byte
  err    : Bool
  deriving DecidableEq, Repr

/-- The all-zero entry (R352). -/
def Leaf.absent : Leaf := ⟨false, 0, false, false, false, false, false, false, 0, 0, 0, false⟩

/-- A publishable buffer (R364): `sel` false while copy A is the front. `reads`: by carriage, 1 more than the number of its
youngest access that has read the buffer (R181). -/
structure PubBuf where
  va     : Addr
  pages  : Nat
  frameA : BitVec 32
  frameB : BitVec 32
  sel    : Bool
  reads  : SMap Nat
  deriving DecidableEq, Repr

/-! ## Seats -/

/-- An entry of the loop stack (R97). -/
structure LoopEnt where
  start : Addr
  stop  : Addr
  count : W64
  deriving DecidableEq, Repr

/-- A stored M or X operation: syllable, extension word and offset Δ (R64, R256). -/
structure Stored where
  syl   : W32
  ext   : W32
  delta : Addr
  deriving DecidableEq, Repr

/-- Sticky state and loop stack, saved together as a control frame (R67, R98, R256). `v` maps a V slot
to its syllable and BASE; `loop` has its top first. -/
structure Frame where
  m    : Option Stored
  x    : Option Stored
  v    : SMap (BitVec 16 × BitVec 3)
  loop : List LoopEnt
  deriving DecidableEq, Repr

/-- All sticky slots no-op and the loop stack empty. -/
def Frame.clear : Frame := ⟨none, none, [], []⟩

/-- A trap bank (R270) with the control frame saved in it. -/
structure Bank where
  cause : Byte
  pc    : Addr
  va    : W64
  mask  : BitVec 14
  rep   : BitVec 5
  frame : Frame
  deriving DecidableEq, Repr

/-- The reset contents of a trap bank (R270). -/
def Bank.clear : Bank := ⟨0, 0, 0, 0, 0, Frame.clear⟩

/-- A pending user-level interrupt (R155). -/
structure UserInt where
  cause : Byte
  w     : W64
  bytes : Addr
  deriving DecidableEq, Repr

/-- An outstanding item of a seat (R92, R257): a landing, or the result of a producer whose latency is not
named. `due` is the core cycle of a landing. `flags` join FFLAGS when it arrives. With `er` the data is the
address of a line in error (R115). -/
structure Item where
  id      : Nat
  landing : Bool
  sh      : Bool
  reg     : Reg
  due     : Nat
  data    : Option W64
  flags   : Flags
  er      : Bool
  deriving DecidableEq, Repr

/-- The states of a stream (R143). -/
inductive StreamSt where
  | idle | active | exhausted | cancelled
  deriving DecidableEq, Repr

/-- An element that the transfer unit has fetched for an in stream (R148): its lane value, the flags of its
conversion, and the fault that its fetch has met (R152, R358). -/
structure FElem where
  lane  : W32
  flags : Flags
  fault : Option (Nat × Addr)
  deriving DecidableEq, Repr

/-- A vector pushed to an out stream and not yet written (R149): its number in issue order, the bytes it
writes, each with the mask of the bits written, the scratchpad sectors it touches (location div 256) with
their tags, the core cycle of its exposed latency, and the flags of its conversion. -/
structure Pushed where
  id    : Nat
  bytes : List (PLoc × Byte × Byte)
  secs  : List (Nat × Nat)
  due   : Nat
  flags : Flags
  deriving DecidableEq, Repr

/-- A stream register (R143), with what its transfer unit holds (R148, R149). -/
structure Stream where
  base    : Addr
  fmt     : BitVec 4
  dir     : BitVec 2
  swz     : BitVec 3
  st      : StreamSt
  rmode   : BitVec 2
  sat     : Bool
  raw     : Bool
  sbase   : Addr
  sstride : BitVec 16
  rows    : BitVec 16
  cols    : BitVec 16
  bound   : BitVec 32
  de3     : BitVec 16
  de2     : BitVec 16
  de1     : BitVec 16
  de0     : BitVec 16
  ds3     : BitVec 32
  ds2     : BitVec 32
  ds1     : BitVec 32
  ds0     : BitVec 32
  pos     : Addr
  be      : Bool
  breg    : BitVec 4
  fcause  : Byte
  fva     : Addr
  /-- The model's own: the number of the start. -/
  since   : Nat
  /-- A fetch has met a fault that an issue has raised: fetching rests until a pop asks again (R152, R358). -/
  resting : Bool
  fetched : List FElem
  pushed  : List Pushed
  deriving DecidableEq, Repr

/-- A stream register after seating: zero, that is unbound and IDLE (R143). -/
def Stream.zero : Stream :=
  ⟨0, 0, 0, 0, .idle, 0, false, false, 0, 0, 0, 0, 0, 0, 0, 0, 0, 0, 0, 0, 0, 0, false, 0, 0, 0, 0, false, [], []⟩

/-- Seat states (R249). -/
inductive SeatSt where
  | free | reserved | loading | occupied | writing | saving | draining | cancelling
  deriving DecidableEq, Repr

/-- Lease states of a seat (R199). -/
inductive LeaseSt where
  | idle | requested | held | expiring | revoked
  deriving DecidableEq, Repr

/-- The lease of a seat: state, masks as bits [23:0] of the LEASE syllable (R206), whether the first grant
has allocated the resources (R197), the core cycle of its last M command (R199), the core cycle at which
its open reduction began (R201), and whether MREL has left an allocation to be freed (R209). -/
structure Lease where
  st      : LeaseSt
  masks   : BitVec 24
  granted : Bool
  lastCmd : Nat
  openAt  : Option Nat
  /-- Set while an allocation that MREL has left is still to be freed: the commands with lower numbers come first (R209). -/
  freeing : Option Nat
  /-- Array cycle before which arbitration does not choose the seat: the second after its LEASE (R200). -/
  from_   : Nat
  deriving DecidableEq, Repr

/-- No lease. -/
def Lease.none : Lease := ⟨.idle, 0, false, 0, Option.none, Option.none, 0⟩

/-- A factorisation that the waiting issue of a seat is executing (R228, R229). `step` is PROG; `gone` is
set when the form has ended and the issue may commit. -/
structure Fact where
  instr   : Instr
  sb      : W64
  started : Bool
  ended   : Bool
  /-- Core cycle from which the idle limit of the run does not advance (R230). -/
  since   : Nat
  deriving DecidableEq, Repr

/-- Why a seat is marked for a save (R263, R267, R298, R375). -/
inductive Mark where
  | none | class0 | teamSwap | quiesce | rind
  deriving DecidableEq, Repr

/-- A seat of a core (R85, R95, R249): its state, the carriage on it, and all its register files. -/
structure Seat where
  st        : SeatSt
  ctx       : Nat
  carr      : Nat
  lid       : Nat
  /-- The residency tag: context, model slot, image generation (R252). -/
  tag       : Option (Nat × Nat × Nat)
  /-- The tag that the kernel of the carriage on the seat leaves behind (R252). -/
  kernel    : Nat × Nat × Nat
  mark      : Mark
  /-- The record for which a class-0 mark was made: context and address (R263). -/
  markFor   : Nat × Nat
  /-- A containing fault that arose while the seat is LOADING: cause and address (R277). -/
  late      : Option (Nat × Nat)
  /-- Die cycle at which LOADING, WRITING or SAVING may end (R250, R264). -/
  until_    : Nat
  /-- Die cycle of the seating (R263). -/
  seatedAt  : Nat
  /-- Core cycle of the last issue, and of the first issue of the previous bundle (R61, R253). -/
  lastIssue : Nat
  lastFirst : Option Nat
  pc        : Addr
  /-- Index of the next issue of the bundle (R60). -/
  rep       : BitVec 5
  sregs     : SMap W64
  /-- Bit `n` is set while S`n` is empty (R88). -/
  empty     : W64
  shadow    : SMap W64
  shEmpty   : W64
  /-- K`k` of cluster `c` at 8 c + k (R121); K0 is read-only and not listed. -/
  kregs     : SMap (BitVec 16)
  /-- Lane `i` of V`v` of cluster `c` at (64 c + v) 16 + i (R121). -/
  vregs     : SMap W32
  streams   : SMap Stream
  fflags    : Flags
  stepm     : W32
  stepx     : W32
  vstep     : BitVec 3
  waitd     : W64
  wid       : W64
  frameReg  : W64
  xsave     : W64
  uivec     : W64
  uipc      : Addr
  uiActive  : Bool
  uiCause   : Byte
  uiRep     : BitVec 5
  uiFrame   : Frame
  uis       : List UserInt
  frame     : Frame
  lvl       : BitVec 2
  bank1     : Bank
  bank2     : Bank
  /-- Cycles counted towards the watchdog (R266). -/
  wdcnt     : Nat
  /-- The due counts of the landings are counted from the first issue, which is still to come (R93). -/
  relDue    : Bool
  items     : List Item
  park      : SMap W64
  parkmap   : W64
  vpark     : SMap W32
  vparkmap  : BitVec 16
  hcw       : SMap (BitVec 256)
  /-- Entries whose source line had an uncorrectable error, with the source address (R164). -/
  hcwErr    : SMap W64
  lease     : Lease
  /-- The owned-word table (R311). -/
  owned     : List Addr
  /-- Number of the last FENCE whose waits may still hold, and of the last FENCE.sys (R189). -/
  fence     : Option Nat
  fenceSys  : Option Nat
  fact      : Option Fact
  deriving DecidableEq, Repr

/-- A seat at power-up: free, with every register as after a seating (R85, R249). -/
def Seat.reset : Seat :=
  { st := .free, ctx := 0, carr := 0, lid := 0, tag := none, kernel := (0, 0, 0), mark := .none, markFor := (0, 0), late := none, until_ := 0,
    seatedAt := 0, lastIssue := 0, lastFirst := none, pc := 0, rep := 0, sregs := [], empty := 0,
    shadow := [], shEmpty := 0, kregs := [], vregs := [], streams := [], fflags := 0, stepm := 0, stepx := 0,
    vstep := 0, waitd := 0, wid := 0, frameReg := 0, xsave := 0, uivec := 0, uipc := 0, uiActive := false,
    uiCause := 0, uiRep := 0, uiFrame := Frame.clear, uis := [], frame := Frame.clear, lvl := 0,
    bank1 := Bank.clear, bank2 := Bank.clear, wdcnt := 0, relDue := false,
    items := [], park := [], parkmap := 0, vpark := [], vparkmap := 0, hcw := [], hcwErr := [],
    lease := Lease.none, owned := [], fence := none, fenceSys := none, fact := none }

/-- What the issue of a factorisation holds while the array executes it (R228): the seat as it stood before the issue, its
bundle, and the leaves by which its slots translated. -/
structure HeldIss where
  seat   : Seat
  bundle : Bundle
  small  : SMap Leaf
  large  : SMap Leaf
  deriving DecidableEq, Repr

/-! ## Cores and quads -/

/-- The check of swizzle tags that an engine command waits for at its issue, one cycle for each 64 sectors (R152): the seat and
slot, the bundle and its issue, and the core cycle at which the check ends. -/
structure TagChk where
  seat : Nat
  pos  : Nat
  pc   : Addr
  rep  : BitVec 5
  till : Nat
  deriving DecidableEq, Repr

/-- A cross-cluster copy on its way (R138). -/
structure Xcl where
  seat : Nat
  due  : Nat
  slot : Nat
  mask : Byte
  reg  : Reg
  en   : BitVec 16
  vals : List W32
  deriving DecidableEq, Repr

/-- An HCWLD whose entries are not yet in the table (R164). -/
structure HcwPend where
  id    : Nat
  seat  : Nat
  due   : Nat
  first : Nat
  cnt   : Nat
  va    : Addr
  refs  : Held
  deriving DecidableEq, Repr

/-- The scratchpad words of an engine command with an exposed latency (R94, R205): ranges of locations. -/
structure Exposed where
  id    : Nat
  due   : Nat
  words : List (Nat × Nat)
  deriving DecidableEq, Repr

/-- A core (R10, R14, R90, R95). `slotMap`: the physical cluster whose register file each V slot uses. `paths`: the datapaths
that are bound, eight or seven of the nine. `ghosts`: landing entries that END discarded and whose data is still on
its way (R93). `busy`: the core cycle from which the core may issue again after a split issue (R15). `held`: the issues of
its seats that factorisations hold, by seat (R228). -/
structure Core where
  running : Option Nat
  frozen  : Nat
  vsplits : W64
  slotMap : List Nat
  paths   : List Nat
  xcls    : List Xcl
  hcwp    : List HcwPend
  exposed : List Exposed
  ghosts  : List Nat
  busy    : Nat
  held    : SMap HeldIss
  chks    : List TagChk
  deriving DecidableEq, Repr

/-- A core at power-up; the ROM writes the slot-to-engine map at boot (R14). -/
def Core.reset : Core :=
  ⟨none, 0, 0, [0, 1, 2, 3, 4, 5, 6, 7], [0, 1, 2, 3, 4, 5, 6, 7], [], [], [], [], 0, [], []⟩

/-- Seven datapaths survive, and an issue that uses all eight V slots is split (R15). -/
def Core.seven (c : Core) : Bool := decide (c.paths.length < 8)

/-- A tile that an M command takes from a stream (R194): the stream register as it stood at the issue, with POS at
the first element of the tile, the translations made at issue, and the number of the stream. -/
structure Tile where
  q    : Stream
  refs : Held
  sq   : Nat
  deriving DecidableEq, Repr

/-- An operand of an array command (R193); a plane with the type of its contents, the tag at issue (R196, R198). -/
inductive MSrc where
  | hoop (h : Nat)
  | plane (z : Nat) (int : Bool)
  | tile (t : Tile)
  deriving DecidableEq, Repr

/-- What a queued M command does when it executes (R204). Addresses are those of its issue. -/
inductive MKind where
  | mzero (z : Nat)
  | mtrans (zd zs : Nat)
  | hldc (h fmt size : Nat)
  | hld (h fmt : Nat) (va pitch : Addr) (swz : Nat) (scl : Option Addr)
  | mma (zd : Nat) (a : MSrc) (c : Nat) (fa : Nat) (sa : Bool) (bt : Tile) (int same : Bool)
  | mmas (zd : Nat) (a : MSrc) (c : Nat) (fa : Nat) (sa : Bool) (bt : Tile) (int : Bool) (md seg : Nat) (g8 : Bool)
  | cmpr (dst : MSrc) (src : MSrc) (c fmt : Nat) (scaled : Bool) (md seg : Nat) (g8 : Bool)
  | mdld (md : Nat) (va : Addr)
  | mdst (md : Nat) (va : Addr)
  | drain (z fmt : Nat) (va : Addr) (fr nr c0 nc : Nat) (rtz sc : Bool) (swz : Nat) (scl : Addr)
      (had : Option Nat) (sh : Int) (int : Bool)
  | pmrd (reg : Reg) (word pm : Nat)
  | pmwr (word pm : Nat) (v : W64)
  | fact (i : Instr) (sb : W64)
  deriving DecidableEq, Repr

/-- A command in the queue of an array (R204). -/
structure MCmd where
  id    : Nat
  carr  : Nat
  ctx   : Nat
  seat  : Nat
  syl   : W32
  ext   : W32
  k     : MKind
  refs  : Held
  /-- The command executes: its data has arrived and its time runs (R204). -/
  begun : Bool
  deriving DecidableEq, Repr

/-- What a command that has left the array has still to write: a DRAIN until it retires, an MDST until the exposed latency of
its issue has passed (R205, R223). Each write is a swizzle, an address and the bytes. -/
structure ArrOut where
  cmd    : MCmd
  writes : List (Nat × Nat × List Byte)
  fl     : Flags
  deriving DecidableEq, Repr

/-- A matrix array (R191). Resource codes are those of R197: 0x00 hoops, 0x10 planes, 0x20 metadata
registers, 0x30 permutation registers. -/
structure Arr where
  /-- Byte `b` of row `r` of hoop `h` at (128 h + r) 256 + b. -/
  hoop    : SMap Byte
  hf      : SMap Nat
  hs      : SMap Bool
  /-- Byte `j` of row `r` of the scale store of hoop `h` at (128 h + r) 64 + j. -/
  hscale  : SMap Byte
  /-- Element (i, j) of plane `p` at (128 p + i) 128 + j. -/
  z       : SMap W32
  /-- True where the plane has type INT32. -/
  zt      : SMap Bool
  zopen   : SMap Bool
  /-- Row `r` of MD`n` at 128 n + r. -/
  md      : SMap (BitVec 128)
  pm      : SMap (BitVec 1024)
  /-- Context that last wrote each resource, plus one (R192). -/
  owner   : SMap Nat
  /-- Carriage address, plus one, to which each resource is allocated (R197). -/
  alloc   : SMap Nat
  q       : List MCmd
  outs    : List ArrOut
  /-- Carriage that is HELD or EXPIRING, with its seat order 4 × core + seat (R200). -/
  holder  : Option Nat
  last    : Nat
  run     : Nat
  /-- Array cycle at which arbitration may grant, and at which the next command may end (R200, R204). -/
  freeAt  : Nat
  busyTo  : Nat
  /-- The seat that arbitration has chosen, with the array cycle of its grant, while resources are set to zero (R192). -/
  pick    : Option (Nat × Nat)
  /-- Lines of planes with an uncorrectable error: 16 elements each (R231, R366). -/
  zbad    : List Nat
  deriving DecidableEq, Repr

/-- The array at power-up: everything zero, HF = 0, HS = 0, ZT = FP32, closed (R191). -/
def Arr.reset : Arr :=
  ⟨[], [], [], [], [], [], [], [], [], [], [], [], [], none, 15, 0, 0, 0, none, []⟩

/-- The kinds of transfer command (R153, R162, R163). -/
inductive TKind where
  | copy
  | copyh (out : Bool)
  | mcast (mask : BitVec 15)
  | gld
  | sct
  deriving DecidableEq, Repr

/-- A transfer command in progress (R153, R154, R359). `home` is the quad whose queue holds it. For GLD and SCT
`len` is the row count and `idx` the index list. `todo` holds ranges of transfer sectors not yet tried, as first
and number (those of target `i` of an MCAST follow on those of target `i - 1`), `lost` the sectors that RESOLVE
abandoned; the sectors in fault records are with the records. `stopped`: the signal of a fault-stop is made. -/
structure Trans where
  id      : Nat
  carr    : Nat
  ctx     : Nat
  seat    : Nat
  home    : Nat
  syl     : W32
  ext     : W32
  k       : TKind
  src     : Addr
  dst     : Addr
  len     : Nat
  rb      : Nat
  idx     : List Nat
  ssw     : BitVec 3
  dsw     : BitVec 3
  cmode   : BitVec 2
  w       : W64
  wref    : Held
  todo    : List (Nat × Nat)
  lost    : List Nat
  written : Nat
  counted : Nat
  stopped : Bool
  aband   : Option Nat
  fired   : Bool
  deriving DecidableEq, Repr

/-- A quad (R9, R86, R95, R355): gated cycles, count queues with their context (each entry with the die cycle
of its push, R300), the array, the transfer queue, and the translation cache (context, page number, large). -/
structure Quad where
  /-- GATECYC, and whether the present die cycle is a gated one (R19). -/
  gated    : Nat
  gatedNow : Bool
  /-- Entries of the count queues: value, with twice the die cycle of the push, plus 1 for a push of a seat. -/
  cqs      : SMap (List (Nat × W32))
  cqCtx    : Nat
  arr      : Arr
  trans    : List Trans
  tlb      : List (Nat × Nat × Bool)
  deriving DecidableEq, Repr

/-- A quad at power-up. -/
def Quad.reset : Quad := ⟨0, false, [], 0, Arr.reset, [], []⟩

/-! ## Accesses and operations in flight -/

/-- The kinds of access that are performed after the commit of the issue that names them. -/
inductive AKind where
  | load | ldacq | bartest | store | atomic | reduction | strel | pub
  | barinit | arrival | ctrset | ctradd | arm
  | qres | qcommit | qrelease | qtake
  | launch | trig | pdone
  | svc | producer
  | fld | fst | fatom
  | pline | pdepo | pbump
  deriving DecidableEq, Repr

/-- An access in flight (R172, R182, R188). `id` rises in issue order; `carr` is the issuing carriage, 0 for
a packet; `locs` the places of its bytes (one place for an aligned access, one for each byte for an
emulated one, R174); `v` and `x` its operands; `rcd` a record captured at issue. `iss` numbers the issue that made it, so
that the accesses of one issue are known as such (R56). -/
structure Acc where
  id   : Nat
  iss  : Nat
  k    : AKind
  carr : Nat
  ctx  : Nat
  seat : Nat
  op   : Nat
  n    : Nat
  sgn  : Bool
  va   : Addr
  locs : List PLoc
  v    : W64
  x    : W64
  flag : Bool
  rcd  : List Byte
  rref : Held
  deriving DecidableEq, Repr

/-- A wait registered on a word or queue by a carriage that left its seat (R248, R317, R337). -/
structure Wait where
  carr : Nat
  ctx  : Nat
  kind : Nat
  aux  : BitVec 12
  addr : Addr
  key  : Nat
  at_  : Nat
  deriving DecidableEq, Repr

/-! ## Carriages, launches, rinds -/

/-- Carriage states (R245). -/
inductive CarrSt where
  | new | runnable | seated | waiting | done | cancelled
  deriving DecidableEq, Repr

/-- What a die keeps of a carriage beside its 64-byte record (R244, R245, R262, R277). `coach` is the index
of its gang launch record. `pool` is the image pool slot that it holds, `quad` the quad of its group (R246), and `lease`
what a lease keeps off the seat (R199). `imgIds` are the numbers of the items recorded in its seat image. -/
structure Rec where
  carr   : Nat
  ctx    : Nat
  die    : Nat
  lid    : Nat
  st     : CarrSt
  kind   : BitVec 2
  pin    : Option Nat
  quad   : Option Nat
  since  : Nat
  coach  : Option Nat
  member : Nat
  pool   : Option Nat
  lease  : Lease
  uiRep  : BitVec 5
  imgIds : List Nat
  /-- Entries of the saved HCW table whose source line had an uncorrectable error (R164). -/
  hcwErr : SMap W64
  deriving DecidableEq, Repr

/-- What a team swap has saved of a group (R267): the group, its slots of the image pool, the array resources with the
carriage that holds each, the tag of a hoop or the type of a plane, and whether a hoop has scales, and the length and the
swizzle tags of its scratchpad region. -/
structure GSave where
  group : Nat
  slots : List Nat
  res   : List (Nat × Nat × Nat × Bool)
  len   : Nat
  tags  : SMap Nat
  deriving DecidableEq, Repr

/-- A gang launch record (R260). `cst`: 0 PENDING, 1 RESERVING, 2 SEATED, 3 DONE, 4 CANCELLED. `swapping`: a team swap
has marked it (R267). -/
structure Coach where
  idx    : Nat
  die    : Nat
  ctx    : Nat
  lid    : Nat
  groups : Nat
  seats  : Nat
  swap   : Bool
  first  : Nat
  cst    : Nat
  qstart : Nat
  since  : Nat
  resv   : List Nat
  seatedAt : Nat
  swapping : Bool
  saves  : List GSave
  deriving DecidableEq, Repr

/-- Launch states on a die (R287). -/
inductive LaunchSt where
  | waiting | active | localDone | complete | cancelled
  deriving DecidableEq, Repr

/-- A launch packet (R281): header words, relocation block, frontier extension, MAXRED, ENTRY offset,
image generation, the queue that is told of its completion, with the command's tag and the report ticket it holds, the
die that took the command, and whether a set curd injected it. -/
structure LPacket where
  ctx    : Nat
  hdr    : List W64
  rl     : List W64
  front  : List W64
  entry  : W64
  maxred : Nat
  gen    : Nat
  rq     : Nat
  tag    : Nat
  ticket : Option Nat
  die    : Nat
  inj    : Bool
  deriving DecidableEq, Repr

/-- An entry of a die's launch table (R287 to R290). `next`: number of the next record to create; `live`: records
created and not yet DONE or CANCELLED; `seen`: latest trigger counts of the other dies; `dones`: dies whose completion
notice has come; `swapAt`: the start of the present quantum of a team swap, `lastGang`: the group seated last (R267). -/
structure LEnt where
  p       : LPacket
  lid     : Nat
  st      : LaunchSt
  eff     : Nat
  next    : Nat
  live    : Nat
  trigs   : Nat
  seen    : SMap Nat
  dones   : List Nat
  err     : Bool
  told    : Bool
  waiters : List (Nat × Nat × Nat × Nat)
  swapAt  : Option Nat
  lastGang : Nat
  deriving DecidableEq, Repr

/-- A notice between dies (R289): completion when `fin`, else a trigger notice. -/
structure Notice where
  ctx  : Nat
  lid  : Nat
  die  : Nat
  cnt  : Nat
  err  : Bool
  fin  : Bool
  deriving DecidableEq, Repr

/-- The rind of a frontier launch on a die (R295 to R299). `pts`: fired and unfinished points, line, x and
carriage. `held`: the die holds it. `leaving`: it is to be saved. `saved`: it is in its save area. -/
structure Rind where
  ctx   : Nat
  lid   : Nat
  f     : SMap Nat
  pts   : List (Nat × Nat × Nat)
  saved : Bool
  held  : Bool
  leaving : Bool
  deriving DecidableEq, Repr

/-! ## Queues, triggers, faults -/

/-- What waits at a queue that is LOADING or EVICTING (R330) or at a page that is away or moves (R354, R363): the next issue
of a carriage whose last one was at a cycle, an access in flight, an element of a carriage's stream, a sector of a transfer
command. -/
inductive QTok where
  | issue (carr last : Nat)
  | acc (id : Nat)
  | elem (carr sq n : Nat)
  | sector (id sec : Nat)
  deriving DecidableEq, Repr

/-- A queue (R329 to R333). `word0` is descriptor word 0 without QSTATE; `home` state RESIDENT and so on in
`st`. `tickets` records reserved tickets against carriages; `ridx` is the index of the resident entry (R331, R339). -/
structure Queue where
  st     : Nat
  word0  : W64
  ring   : Held
  t      : BitVec 32
  p      : BitVec 32
  h      : BitVec 32
  f      : BitVec 32
  cb     : SMap Bool
  rb     : SMap Bool
  badc   : BitVec 16
  tickets : SMap Nat
  /-- Published entries that a set curd injected (R168, R244). -/
  inj    : SMap Bool
  last   : Nat
  ridx   : Nat
  /-- BMAP: where the bitmap pair is saved while SWAPPED; a free value, for the manual gives no place (log 95). -/
  bmap   : Addr
  /-- The accesses that wait for the queue, in the order they arrived (R330). -/
  waiting : List QTok
  deriving DecidableEq, Repr

/-- A free descriptor: all zero (R329). -/
def Queue.free : Queue := ⟨0, 0, [], 0, 0, 0, 0, [], [], 0, [], [], 0, 0, 0, []⟩

/-- An armed trigger (R322). `kind`: 1 TSEND, 2 TCOPY. `held`: the translation of its completion word, once it has fired
(R323). -/
structure Trig where
  id    : Nat
  ctx   : Nat
  carr  : Nat
  kind  : Nat
  va    : Addr
  key   : Nat
  thr   : W64
  rcd   : List Byte
  held  : Option Held
  deriving DecidableEq, Repr

/-- A fault record held by a die (R359, R360). `tid` names the transfer; `secs` the masked sectors. -/
structure FRec where
  rid   : Nat
  ctx   : Nat
  cause : Nat
  src   : Nat
  side  : Nat
  hold  : Bool
  va    : Addr
  carr  : Addr
  chip  : Nat
  first : Nat
  secs  : List Nat
  tid   : Nat
  sent  : Bool
  deriving DecidableEq, Repr

/-- An item of a die's containment log (R276). -/
structure LogItem where
  ctx  : Nat
  w0   : W64
  w1   : W64
  w2   : W64
  w3   : W64
  deriving DecidableEq, Repr

/-- A log entry that waits for a ticket (R372). -/
structure LogEnt where
  ctx : Nat
  e   : Entry
  deriving DecidableEq, Repr

/-! ## Contexts -/

/-- A model slot (R280): image base, length, generation, recorded header (ENTRY, HCWOFF, GEOM, MAXRED, CLASS,
KFLAGS, FRONT words). -/
structure MSlot where
  full   : Bool
  base   : Addr
  len    : Nat
  gen    : BitVec 16
  entry  : W64
  geom   : W64
  maxred : Nat
  cls    : Nat
  kflags : Byte
  front0 : W64
  front1 : W64
  deriving DecidableEq, Repr

/-- An empty slot. -/
def MSlot.empty : MSlot := ⟨false, 0, 0, 0, 0, 0, 0, 0, 0, 0, 0⟩

/-- Context states (R373), with `none` for a tag never used. -/
inductive CtxSt where
  | none | created | loaded | runnable | quiescing | quiesced | killed | destroyed
  deriving DecidableEq, Repr

/-- A context (R368): its descriptor words and what the device holds for it. -/
structure Ctx where
  st      : CtxSt
  desc    : SMap W64
  key     : Option Nat
  keyVal  : BitVec 512
  cm      : BitVec 512
  rsvSeats : Nat
  rsvBw   : Nat
  small   : SMap Leaf
  large   : SMap Leaf
  /-- What waits at pages that are away or move, by page, in the order it arrived (R354, R363). -/
  pageq   : List (Nat × QTok)
  splen   : SMap Nat
  queues  : SMap Queue
  slots   : SMap MSlot
  /-- Image pool slots in use: 1 reserved by a seat, 2 holding an image (R251). -/
  pool    : SMap Nat
  /-- Carriage area slots in use (R286). -/
  carrs   : SMap Bool
  pbs     : SMap PubBuf
  nextLid : Nat
  rcd     : Bool
  rcdArm  : Bool
  replay  : Bool
  replayArm : Bool
  /-- The queue of the RECORD command with its context and tag, for the report of a log that is full. -/
  rcdRep  : Option (Nat × Nat × Nat)
  /-- The dies whose log is full, the first to fill first. -/
  rcdFull : List Nat
  /-- The die cycles at which the last recording and the last replay began (R380). -/
  rcdAt   : Nat
  playAt  : Nat
  logBase : Addr
  logLen  : Nat
  logPos  : SMap Nat
  /-- What a replay has not yet met of each die's log, in order: die and words; and that it has diverged. -/
  rlog    : List (Nat × List W64)
  diverged : Bool
  killed  : Nat
  /-- SPLEN of each quad as CTXLOAD set it, in bytes. -/
  spTab   : SMap Nat
  /-- Dies that have finished a quiesce save, the command that asked for it, the parts of quads that a CTXRUN has restored, and
  the transfers that a quiesce has kept, with their die, and the triggers (R327, R375). -/
  saving  : List Nat
  cmd     : Option Cmd
  back    : List Nat
  kept    : List Trans
  armed   : List (Nat × Trig)
  deriving DecidableEq, Repr

/-- A context tag never used. -/
def Ctx.fresh : Ctx :=
  { st := .none, desc := [], key := none, keyVal := 0, cm := 0, rsvSeats := 0, rsvBw := 0, small := [],
    large := [], pageq := [], splen := [], queues := [], slots := [], pool := [], carrs := [], pbs := [], nextLid := 1,
    rcd := false, rcdArm := false, replay := false, replayArm := false, rcdRep := none, rcdFull := [], rcdAt := 0, playAt := 0, logBase := 0,
    logLen := 0, logPos := [], rlog := [], diverged := false, killed := 0, spTab := [], saving := [], cmd := none, back := [],
    kept := [], armed := [] }

/-! ## Packet pipelines -/

/-- A stage table of a die (R390). `kind`: 0 exact, 1 ternary, 2 range. Entries are 64 bytes. -/
structure Table where
  ctx     : Nat
  handle  : Nat
  stage   : Nat
  kind    : Nat
  klen    : Nat
  cap     : Nat
  entries : List (List Byte)
  errs    : List (List Byte)
  deriving DecidableEq, Repr

/-- A stage program installed on a vat (R389). -/
structure Prog where
  ctx   : Nat
  stage : Nat
  entry : Nat
  regs  : Nat
  binds : List (W64 × W64)
  acts  : List (BitVec 128)
  reg   : SMap W64
  errs  : List Nat
  deriving DecidableEq, Repr

/-- Where a packet is in its vat (R383). -/
inductive VPhase where
  | parse | stage (n : Nat) | finish | recirc (n : Nat)
  deriving DecidableEq, Repr

/-- A packet in a vat (R383, R384, R388): number, place in vat order, port, header vector, frame, extract records, where
it is, header vector and records at ACCEPT (R404), the load of the stage programs that it meets (R391), the copies and
the recirculation that it has asked for (R403), whether a replay delivers it (R380), and the die cycle of its arrival. -/
structure VPkt where
  id      : Nat
  ord     : Nat
  port    : Nat
  hv      : SMap Byte
  frame   : List Byte
  recs    : List (Nat × Nat × Nat)
  phase   : VPhase
  accHv   : SMap Byte
  accRecs : List (Nat × Nat × Nat)
  epoch   : Nat
  mirrors : List (Nat × Bool)
  again   : Option Nat
  replayed : Bool
  at_     : Nat
  deriving DecidableEq, Repr

/-- A packet pipeline (R383 to R409). `progs` lists each load with the epoch from which, and up to which,
packets meet it (R391). `raised`: the flags that a packet has raised (R409). -/
structure Vat where
  words  : SMap (BitVec 256)
  starts : SMap Nat
  progs  : List (Nat × Option Nat × Prog)
  epoch  : Nat
  ctrs   : SMap W64
  reasons : SMap W64
  pkts   : List VPkt
  raised : SMap Flags
  deriving DecidableEq, Repr

/-- A vat at power-up. -/
def Vat.reset : Vat := ⟨[], [], [], 0, [], [], [], []⟩

/-! ## Links and the network engine -/

/-- Port states (R412). -/
inductive PortSt where
  | off | training | up | degraded
  deriving DecidableEq, Repr

/-- A frame in a port's egress (R413, R419, R420). -/
structure EFrame where
  bytes : List Byte
  cls   : Nat
  vc    : Nat
  skf   : Bool
  ctx   : Nat
  at_   : Nat
  deriving DecidableEq, Repr

/-- A fabric port (R412, R413, R420). `mode`: 0 off, 1 SKF, 2 UE; `heard` and `locked`: a HELLO has come, and both lanes are
locked, in the present training. `tokens`: class-0 meter of each context. -/
structure Port where
  mode    : Nat
  st      : PortSt
  peer    : Nat
  heard   : Bool
  locked  : Bool
  credits : SMap Nat
  egress  : List EFrame
  tokens  : SMap (Nat × Nat)
  trainFail : Nat
  linkDrop  : Nat
  ageDrop   : Nat
  hopDrop   : Nat
  deriving DecidableEq, Repr

/-- A port at power-up. -/
def Port.reset : Port := ⟨0, .off, 0, false, false, [], [], [], 0, 0, 0, 0⟩

/-- A packet that a source engine has sent and that is not yet acknowledged (R433, R435, R436). `wr` is the
work request or access that it serves. -/
structure Sent where
  id     : Nat
  pkt    : Pkt
  ctx    : Nat
  wr     : Nat
  sentAt : Nat
  higher : Nat
  retries : Nat
  parked : Bool
  resend : Nat
  deriving DecidableEq, Repr

/-- A connection (R421 to R423), at its source (`out`) or its target. -/
structure Conn where
  id      : W32
  out     : Bool
  gen     : BitVec 24
  msgid   : BitVec 32
  slots   : Nat
  granted : Nat
  window  : Nat
  resident : Bool
  rtts    : List Nat
  lastCut : Nat
  sent    : List Sent
  /-- Received PIDX values of each open message, unacknowledged count, die cycle of the first of them, and the
  die cycle at which its last new packet came (R435). -/
  msgs    : SMap (List Nat × Nat × Nat × Nat)
  /-- The header of the last packet of each open message, for its SACKs, and the reply that answered it. -/
  heads   : SMap Skf
  replies : SMap (List Byte)
  deriving DecidableEq, Repr

/-- A work request (R431 to R437). `kind` is OP of the record, and 6 for the answer to a READ of another chip, whose
data lies at `laddr` (R433); `ts` is then the TS of the READ request, which the answer echoes (R423). -/
structure WReq where
  id     : Nat
  ctx    : Nat
  carr   : Nat
  die    : Nat
  kind   : Nat
  cls    : Nat
  laddr  : Addr
  ptr    : W64
  roff   : Nat
  len    : Nat
  lctr   : Addr
  src    : BitVec 16
  rgt    : BitVec 3
  kctr   : Addr
  started : Bool
  next   : Nat
  acked  : Nat
  counted : Nat
  done   : Bool
  fired  : Bool
  msgid  : BitVec 32
  syl    : W32
  ts     : BitVec 16
  deriving DecidableEq, Repr

/-- A cached key entry (R425): chip, CTAG, index and the 32-byte entry. -/
structure KeyEnt where
  chip  : BitVec 16
  ctag  : BitVec 12
  index : BitVec 16
  e     : BitVec 256
  deriving DecidableEq, Repr

/-- A line that this chip has lent out, or holds on loan (R430): the other chip, the context of its home, the
number of the line in that context's addresses, and at its home the line's place (location div 64). `wanted`: 1 when
an access waits for it, 2 when the RECALL has been sent. -/
structure Lent where
  chip   : BitVec 16
  ctag   : BitVec 12
  line   : Nat
  key    : Nat
  bytes  : List Byte
  wanted : Nat
  deriving DecidableEq, Repr

/-- A retired connection generation in quarantine (R442). -/
structure Quar where
  id    : W32
  gen   : BitVec 24
  until_ : Nat
  deriving DecidableEq, Repr

/-- A pending home access that waits for a lent line (R430). -/
structure LineWait where
  key : Nat
  pkt : Pkt
  deriving DecidableEq, Repr

/-- A page command that has begun (R356, R363, R459): the command, the 64 KiB pages that it changes, the number below which
accesses may have used the old leaves, and for MIGRATE the page that is being moved. -/
structure PageJob where
  cmd  : Cmd
  lo   : Nat
  hi   : Nat
  id   : Nat
  page : Option Nat
  deriving DecidableEq, Repr

/-- A die (R338, R359, R287, R421): firmware, launch table, fault queue, network engine. -/
structure Die where
  fwSlot   : Nat
  cmds     : List Cmd
  jobs     : List PageJob
  launchq  : List LPacket
  inbox    : List LPacket
  notices  : List Notice
  rnotices : List (Nat × Nat × Nat × Nat)
  /-- Reports not yet published: context, queue, the ticket that is held for it, entry (R345). -/
  reports  : List (Nat × Nat × Option Nat × Entry)
  launches : List LEnt
  rinds    : List Rind
  faults   : List FRec
  nextRid  : Nat
  logs     : List LogEnt
  drops    : SMap Nat
  items    : List LogItem
  trigs    : List Trig
  fired    : List Trig
  misses   : List (Nat × Nat)
  svcs     : List Nat
  walks    : List (Nat × Nat × Nat × Bool)
  wreqs    : List WReq
  conns    : List Conn
  replayq  : List (W32 × Nat)
  keys     : List KeyEnt
  keyWaits : List (BitVec 16 × BitVec 12 × BitVec 16)
  lentOut  : List Lent
  lentIn   : List Lent
  lineWaits : List LineWait
  quar     : List Quar
  /-- Parked packets, with the die cycle of their parking and the connection that they wait for (R404). -/
  holds    : List (VPkt × Nat × W32)
  holdMiss : List W32
  tables   : List Table
  /-- Packets that the engine has sent to this chip itself (R425). -/
  loopb    : List Pkt
  ftime    : Nat
  kindDrop : Nat
  genDrop  : Nat
  lastChip : SMap Nat
  /-- The last GEN of each connection, at 2 × id, plus 1 at its source (R442). -/
  lastGens : SMap Nat
  /-- Single errors that the die has corrected, counted for the host adapter (R366). -/
  corrected : Nat
  /-- A command waits for a resident entry (R331). -/
  wantRoom : Bool
  deriving DecidableEq, Repr

/-- A die at power-up. -/
def Die.reset : Die :=
  { fwSlot := 0, cmds := [], jobs := [], launchq := [], inbox := [], notices := [], rnotices := [],
    reports := [], launches := [], rinds := [], faults := [], nextRid := 1, logs := [], drops := [],
    items := [], trigs := [], fired := [], misses := [], svcs := [], walks := [], wreqs := [], conns := [],
    replayq := [], keys := [], keyWaits := [], lentOut := [], lentIn := [], lineWaits := [], quar := [],
    holds := [], holdMiss := [], tables := [], loopb := [], ftime := 0, kindDrop := 0, genDrop := 0, lastChip := [], lastGens := [], corrected := 0, wantRoom := false }

/-- The Alias certificate (R381): the Alias public key, the digest of the boot record, and the signature by the DeviceID key. -/
structure AliasCert where
  key    : BitVec 256
  digest : BitVec 512
  sig    : BitVec 512
  deriving DecidableEq, Repr

/-- Power states of the package (R18). -/
inductive Power where
  | off | boot | active | gated
  deriving DecidableEq, Repr

/-- The state of the package. -/
structure State where
  power    : Power
  /-- The die-cycle count since the end of BOOT (R22). -/
  dieCycle : Nat
  /-- Cores that have not yet had their turn in this die cycle (R253). -/
  turn     : List Nat
  /-- What the outside world has done to the package and the package has not yet taken in. -/
  inputs   : List Instr
  /-- The model's own counter, to which the free values are applied (log 1, log 2). -/
  free     : Nat
  /-- The model's own counter of accesses, commands and packets, rising in the order of their making. -/
  nextId   : Nat
  /-- The seat that issues, for a syllable given to `exec` on its own. -/
  cur      : Nat
  /-- The vat whose oldest packet executes a micro-operation given to `exec` on its own. -/
  curVat   : Nat
  mem      : SMap Byte
  /-- Lines (location div 64) with an uncorrectable error (R366). -/
  poison   : SMap Bool
  /-- Swizzle tags of scratchpad sectors (location div 256), R151. -/
  tags     : SMap Nat
  seats    : SMap Seat
  cores    : SMap Core
  quads    : SMap Quad
  dies     : SMap Die
  accs     : List Acc
  waits    : List Wait
  recs     : List Rec
  coaches  : List Coach
  ctxs     : SMap Ctx
  vats     : SMap Vat
  ports    : SMap Port
  chip     : Nat
  spad     : SMap Nat
  bootCfg  : List Byte
  /-- The secrets of boot (R381): CDI0, which is erased before layer 1 runs, and CDI1. -/
  cdi0     : BitVec 512
  cdi1     : BitVec 512
  /-- The DeviceID public key, and the Alias certificate that layer 0 signs with it (R381). -/
  deviceKey : BitVec 256
  aliasCert : Option AliasCert
  keySlots : SMap Nat
  /-- Pending injections of set curds: context, quad, tile, whether a fault record holds it (R168, R461). -/
  curds    : List (Nat × Nat × Nat × Option Nat)
  /-- The replies that host reads have received, newest first, and codes reported to the adapter. -/
  hostOut  : List W64
  /-- The bytes that an injection read when it was first tried (R461). -/
  curdTry  : List ((Nat × Nat × Nat) × List Byte)
  /-- Host accesses held in the adapter until a queue miss is served or, in a replay, until their turn (R348, R380): context,
  handle, value, and 0 COMMIT, 1 RELEASE, 2 RES, 3 TAKE. -/
  hostHeld : List (Nat × Nat × W64 × Nat)
  /-- Host writes of ring entries on their way over Wenry Link: context, handle, ticket, bytes (R348). -/
  hostRing : List (Nat × Nat × BitVec 32 × List Byte)
  /-- Host commands to be logged in the slots of the host adapter: context, handle, ticket, digest (R348). -/
  hostCmds : List (Nat × Nat × BitVec 32 × List W64)
  /-- Frames that have left the package, newest first: port and bytes. -/
  wire     : List (Nat × List Byte)
  deriving DecidableEq, Repr

/-- What an unlisted byte of memory reads as: zero (R374 for scratchpad; DESIGN CHOICE, log 4, for HBM and
host memory, whose power-up contents the manual does not give). -/
def memDefault : Byte := 0

/-- The canonical form of memory: keys strictly rising, no listed zero. -/
def Memory.wf (m : SMap Byte) : Bool := SMap.wf memDefault m

/-- The package before the host adapter applies power: power state OFF, nothing listed (R18). -/
def State.reset : State :=
  { power := .off, dieCycle := 0, turn := [], inputs := [], free := 0, nextId := 1, cur := 0, curVat := 0,
    mem := [], poison := [], tags := [], seats := [], cores := [], quads := [], dies := [], accs := [],
    waits := [], recs := [], coaches := [], ctxs := [], vats := [], ports := [], chip := 0, spad := [],
    bootCfg := [], cdi0 := 0, cdi1 := 0, deviceKey := 0, aliasCert := none, keySlots := [], curds := [], hostOut := [], curdTry := [], hostHeld := [], hostRing := [], hostCmds := [], wire := [] }

end Sys2Proof.Machine
end

