-- ==== Sys2Proof/Machine/Fp.lean ====
section
/-!
DEFINITION. The number formats (R23 to R39): exact values as dyadic numbers, their decoding, rounding and
encoding in every format, and the binary32 arithmetic of the lanes and the scalar side. Nothing here is
computed in floating point: every operation forms the exact result and rounds it once.
-/

namespace Sys2Proof.Machine

/-- An exact value: a NaN, an infinity, or (−1)^neg × m × 2^e. A zero keeps its sign in `neg`. -/
inductive Fv where
  | nan
  | inf (neg : Bool)
  | num (neg : Bool) (m : Nat) (e : Int)
  deriving DecidableEq, Repr

/-- Flag bits of R38. -/
def fNX : Flags := 1
/-- Underflow. -/
def fUF : Flags := 2
/-- Overflow. -/
def fOF : Flags := 4
/-- Division by zero. -/
def fDZ : Flags := 8
/-- Invalid. -/
def fNV : Flags := 16
/-- Integer accumulator overflow. -/
def fIO : Flags := 32

/-- Rounding modes (R31). -/
inductive Rm where
  | rne | rtz | rup | rdn
  deriving DecidableEq, Repr

/-- The mode of a 2-bit code (R31). -/
def rmOf (c : BitVec 2) : Rm :=
  if c = 0#2 then .rne else if c = 1#2 then .rtz else if c = 2#2 then .rup else .rdn

/-- The number of bits of a number: 0 for 0. -/
def bitLen (n : Nat) : Nat := if n = 0 then 0 else Nat.log2 n + 1

/-- `m × 2^e` with a nonnegative exponent applied: the integer `m × 2^k` for `k ≥ 0`. -/
def shlInt (m : Nat) (k : Int) : Nat := m <<< k.toNat

/-- Rounds `m × 2^e` to a multiple of `2^q` and answers the multiple and whether it is inexact. `neg` is
the sign that the directed modes need. -/
def roundAt (mode : Rm) (neg : Bool) (m : Nat) (e q : Int) : Nat × Bool :=
  if q ≤ e then (shlInt m (e - q), false)
  else
    let k := (q - e).toNat
    let t := m >>> k
    let r := m - (t <<< k)
    let half := 1 <<< (k - 1)
    let up := match mode with
      | .rne => decide (half < r) || (r == half && t % 2 == 1)
      | .rtz => false
      | .rup => !neg && r != 0
      | .rdn => neg && r != 0
    (if up then t + 1 else t, r != 0)

/-- A binary format with sign, exponent and mantissa fields (R25). `maxM` and `maxE`: the largest finite
value is maxM × 2^(maxE − mb). `kind`: 0 with infinities and NaNs, 1 with a NaN only, 2 with neither. -/
structure Bf where
  eb   : Nat
  mb   : Nat
  bias : Nat
  maxM : Nat
  maxE : Int
  kind : Nat
  nan  : Nat
  deriving DecidableEq, Repr

/-- FP32. -/
def bfFP32 : Bf := ⟨8, 23, 127, 2 ^ 24 - 1, 127, 0, 0x7FC00000⟩
/-- BF16. -/
def bfBF16 : Bf := ⟨8, 7, 127, 255, 127, 0, 0x7FC0⟩
/-- FP16. -/
def bfFP16 : Bf := ⟨5, 10, 15, 2047, 15, 0, 0x7E00⟩
/-- FP8 E4M3. -/
def bfE4M3 : Bf := ⟨4, 3, 7, 14, 8, 1, 0x7F⟩
/-- FP8 E5M2. -/
def bfE5M2 : Bf := ⟨5, 2, 15, 7, 15, 0, 0x7E⟩
/-- FP6 E3M2. -/
def bfE3M2 : Bf := ⟨3, 2, 3, 7, 4, 2, 0⟩
/-- FP6 E2M3. -/
def bfE2M3 : Bf := ⟨2, 3, 1, 15, 2, 2, 0⟩
/-- FP4 E2M1. -/
def bfE2M1 : Bf := ⟨2, 1, 1, 3, 2, 2, 0⟩

/-- Exponent of the smallest normal. -/
def Bf.emin (f : Bf) : Int := 1 - (f.bias : Int)

/-- The value of a code (R25, R26). -/
def Bf.decode (f : Bf) (x : Nat) : Fv :=
  let m := x % 2 ^ f.mb
  let e := x / 2 ^ f.mb % 2 ^ f.eb
  let neg := x / 2 ^ (f.mb + f.eb) % 2 == 1
  if e == 2 ^ f.eb - 1 && (f.kind == 0) then (if m == 0 then .inf neg else .nan)
  else if e == 2 ^ f.eb - 1 && f.kind == 1 && m == 2 ^ f.mb - 1 then .nan
  else if e = 0 then .num neg m (f.emin - (f.mb : Int))
  else .num neg (m + 2 ^ f.mb) ((e : Int) - (f.bias : Int) - (f.mb : Int))

/-- The code of a sign and a magnitude `m × 2^q`, `m` at most `2^(mb+1)`, that the format holds. -/
def Bf.encode (f : Bf) (neg : Bool) (m : Nat) (q : Int) : Nat :=
  let s := if neg then 2 ^ (f.mb + f.eb) else 0
  if m = 0 then s
  else
    let m' := if m = 2 ^ (f.mb + 1) then 2 ^ f.mb else m
    let q' := if m = 2 ^ (f.mb + 1) then q + 1 else q
    if m' < 2 ^ f.mb then s + m'
    else s + (q' + (f.mb : Int) + (f.bias : Int)).toNat * 2 ^ f.mb + (m' - 2 ^ f.mb)

/-- The largest finite code with a sign. -/
def Bf.maxCode (f : Bf) (neg : Bool) : Nat := f.encode neg f.maxM (f.maxE - (f.mb : Int))

/-- The infinity of a format that has one. -/
def Bf.infCode (f : Bf) (neg : Bool) : Nat :=
  (if neg then 2 ^ (f.mb + f.eb) else 0) + (2 ^ f.eb - 1) * 2 ^ f.mb

/-- What an overflow gives (R32). -/
def Bf.overflow (f : Bf) (mode : Rm) (sat neg : Bool) : Nat :=
  let toInf := match mode with
    | .rne => true
    | .rtz => false
    | .rup => !neg
    | .rdn => neg
  if f.kind == 2 || sat || !toInf then f.maxCode neg
  else if f.kind == 0 then f.infCode neg else f.nan

/-- Rounds an exact value into a binary format (R32 to R34), with its flags. -/
def Bf.round (f : Bf) (mode : Rm) (sat : Bool) (v : Fv) : Nat × Flags :=
  match v with
  | .nan => if f.kind == 2 then (0, fNV) else (f.nan, 0)
  | .inf neg => if f.kind == 0 then (f.infCode neg, 0) else (f.maxCode neg, fOF)
  | .num neg m e =>
    if m = 0 then (f.encode neg 0 0, 0)
    else
      let p : Int := (f.mb : Int) + 1
      let qn := e + (bitLen m : Int) - p
      let qs := f.emin - (f.mb : Int)
      let (mn, inx) := roundAt mode neg m e qn
      -- the value rounded with an unbounded exponent range is mn × 2^qn
      let top := qn + (bitLen mn : Int) - 1
      let big := decide (f.maxE < top) || (top == f.maxE && decide (f.maxM * 2 ^ (bitLen mn - 1) < mn * 2 ^ f.mb))
      if big then (f.overflow mode sat neg, fOF ||| fNX)
      else if qs ≤ qn then (f.encode neg mn qn, if inx then fNX else 0)
      else
        let (ms, ins) := roundAt mode neg m e qs
        let tiny := decide (top < f.emin)
        (f.encode neg ms qs, (if ins then fNX else 0) ||| (if ins && tiny then fUF else 0))

/-! ## Integers and the power formats -/

/-- Rounds an exact value to an integer of `n` bits (R32 to R34). The result is taken modulo `2^n`. -/
def roundInt (n : Nat) (signed : Bool) (mode : Rm) (v : Fv) : Nat × Flags :=
  let lo : Int := if signed then -(2 ^ (n - 1) : Int) else 0
  let hi : Int := if signed then (2 ^ (n - 1) : Int) - 1 else (2 ^ n : Int) - 1
  match v with
  | .nan => (0, fNV)
  | .inf neg => (wrapInt n (if neg then lo else hi), fNV)
  | .num neg m e =>
    if m = 0 then (0, 0)
    else if e > 70 then (wrapInt n (if neg then lo else hi), fNV)
    else
      let (t, inx) := roundAt mode neg m e 0
      let x : Int := if neg then -(t : Int) else (t : Int)
      if t = 0 then (0, fUF ||| fNX)
      else if x < lo then (wrapInt n lo, fNV)
      else if hi < x then (wrapInt n hi, fNV)
      else (wrapInt n x, if inx then fNX else 0)

/-- The exact value of an integer. -/
def fvInt (x : Int) : Fv := .num (decide (x < 0)) x.natAbs 0

/-- A term of a power format in units of 2^−6 (R28). -/
def powTerm (s : Bool) (e : Nat) : Int :=
  if e = 7 then 0 else if s then -((2 ^ (6 - e) : Nat) : Int) else ((2 ^ (6 - e) : Nat) : Int)

/-- The value of a DP8 code in units of 2^−6 (R28). -/
def dp8Units (x : Nat) : Int :=
  powTerm (x / 128 % 2 == 1) (x / 16 % 8) + powTerm (x / 8 % 2 == 1) (x % 8)

/-- The value of an SP4 code in units of 2^−6 (R29). -/
def sp4Units (x : Nat) : Int := powTerm (x / 8 % 2 == 1) (x % 8)

/-- The exact value of a number of units of 2^−6; zero is +0. -/
def fvUnits (u : Int) : Fv := .num (decide (u < 0)) u.natAbs (-6)

/-- The magnitudes that DP8 holds, in units of 2^−6. -/
def dp8Mags : List Nat :=
  [0, 1, 2, 3, 4, 5, 6, 7, 8, 9, 10, 12, 14, 15, 16, 17, 18, 20, 24, 28] ++
  [30, 31, 32, 33, 34, 36, 40, 48, 56, 60, 62, 63, 64, 65, 66, 68, 72, 80, 96, 128]
/-- The magnitudes that SP4 holds, in units of 2^−6. -/
def sp4Mags : List Nat := [0, 1, 2, 4, 8, 16, 32, 64]

/-- The DP8 code that the device writes for a value in units of 2^−6 (R30). -/
def dp8Code (u : Int) : Nat :=
  let n := u.natAbs
  let s := if u < 0 then 8 else 0
  let ex := nats 7
  if n = 0 then 0x77
  else
    match ex.find? fun a => n == 2 ^ (6 - a) with
    | some a => (s + a) * 16 + 7
    | none =>
      match (ex.flatMap fun a => ex.map fun b => (a, b)).find? fun ab =>
          ab.1 ≤ ab.2 && n == 2 ^ (6 - ab.1) + 2 ^ (6 - ab.2) with
      | some (a, b) => (s + a) * 16 + (s + b)
      | none =>
        match (ex.flatMap fun a => ex.map fun b => (a, b)).find? fun ab =>
            ab.1 < ab.2 && n + 2 ^ (6 - ab.2) == 2 ^ (6 - ab.1) with
        | some (a, b) => (s + a) * 16 + ((8 - s) + b)
        | none => 0x77

/-- The SP4 code of a value in units of 2^−6 (R29). -/
def sp4Code (u : Int) : Nat :=
  let s := if u < 0 then 8 else 0
  match (nats 7).find? fun a => u.natAbs == 2 ^ (6 - a) with
  | some a => s + a
  | none => 7

/-- `m × 2^e × 64` compared with a natural number `x`. -/
def cmpUnits (m : Nat) (e : Int) (x : Nat) : Ordering :=
  if 0 ≤ e + 6 then compare (shlInt m (e + 6)) x else compare m (shlInt x (-(e + 6)))

/-- Rounds an exact value into a power format, given its magnitudes, its largest one and its code (R31 to
R34). -/
def roundPow (mags : List Nat) (top : Nat) (code : Int → Nat) (mode : Rm) (v : Fv) : Nat × Flags :=
  match v with
  | .nan => (code 0, fNV)
  | .inf neg => (code (if neg then -(top : Int) else top), fOF)
  | .num neg m e =>
    if m = 0 then (code 0, 0)
    else if cmpUnits m e top == .gt then (code (if neg then -(top : Int) else top), fOF ||| fNX)
    else
      let lo := mags.foldl (fun a x => if cmpUnits m e x != .lt && decide (a ≤ x) then x else a) 0
      let hi := mags.foldl (fun a x => if cmpUnits m e x != .gt && decide (x ≤ a) then x else a) top
      let exact := cmpUnits m e lo == .eq
      let pick := match mode with
        | .rtz => lo
        | .rup => if neg then lo else hi
        | .rdn => if neg then hi else lo
        | .rne => if cmpUnits (2 * m) e (lo + hi) == .gt then hi else lo
      let r := if exact then lo else pick
      (code (if neg then -(r : Int) else r),
        if r = 0 then fUF ||| fNX else if exact then 0 else fNX)

/-! ## The format codes (R23) -/

/-- Bits of an element (R23). -/
def fmtBits (c : Nat) : Nat :=
  match c with
  | 0 => 32
  | 1 => 16
  | 2 => 16
  | 3 => 8
  | 4 => 8
  | 5 => 6
  | 6 => 6
  | 7 => 4
  | 8 => 8
  | 9 => 8
  | 10 => 4
  | 11 => 4
  | 12 => 8
  | 13 => 4
  | _ => 0

/-- The code names a format (R23). -/
def fmtOk (c : Nat) : Bool := decide (c ≤ 13)

/-- Codes 0x8 to 0xB (R27). -/
def fmtInt (c : Nat) : Bool := decide (8 ≤ c ∧ c ≤ 11)

/-- The binary format of codes 0x0 to 0x7. -/
def bfOf (c : Nat) : Bf :=
  match c with
  | 0 => bfFP32
  | 1 => bfBF16
  | 2 => bfFP16
  | 3 => bfE4M3
  | 4 => bfE5M2
  | 5 => bfE3M2
  | 6 => bfE2M3
  | _ => bfE2M1

/-- The exact value of an element (R25 to R29). -/
def fmtDecode (c x : Nat) : Fv :=
  match c with
  | 8 => fvInt (sextNat 8 x)
  | 9 => fvInt (x % 256 : Nat)
  | 10 => fvInt (sextNat 4 x)
  | 11 => fvInt (x % 16 : Nat)
  | 12 => fvUnits (dp8Units x)
  | 13 => fvUnits (sp4Units x)
  | _ => (bfOf c).decode x

/-- Rounds an exact value into a format (R32 to R34). -/
def fmtRound (c : Nat) (mode : Rm) (sat : Bool) (v : Fv) : Nat × Flags :=
  match c with
  | 8 => roundInt 8 true mode v
  | 9 => roundInt 8 false mode v
  | 10 => roundInt 4 true mode v
  | 11 => roundInt 4 false mode v
  | 12 => roundPow dp8Mags 128 dp8Code mode v
  | 13 => roundPow sp4Mags 64 sp4Code mode v
  | _ => (bfOf c).round mode sat v

/-- emax of R42. -/
def fmtEmax (c : Nat) : Int :=
  match c with
  | 3 => 8
  | 4 => 15
  | 5 => 4
  | 6 => 2
  | 7 => 2
  | 8 => 6
  | 9 => 7
  | 10 => 2
  | 11 => 3
  | 12 => 1
  | 13 => 0
  | 0 => 127
  | 1 => 127
  | _ => 15

/-- The value times the scale of an E8M0 code (R40). -/
def fvScale (c : Nat) (v : Fv) : Fv :=
  if c = 255 then .nan
  else match v with
    | .num neg m e => .num neg m (e + (c : Int) - 127)
    | v => v

/-- The element `j` of a packed list of bytes (R24). -/
def elemAt (bits : Nat) (bs : List Byte) (j : Nat) : Nat :=
  let lo := j * bits
  let a := lo / 8
  let l := (bs.drop a).take ((lo % 8 + bits + 7) / 8)
  bitsAt (ofBytesLE l) (lo % 8) bits

/-- Packs elements of `bits` bits (R24). -/
def packElems (bits : Nat) (xs : List Nat) : List Byte :=
  bytesLE ((xs.length * bits + 7) / 8) (go xs)
where
  /-- The elements as one number, the first lowest. -/
  go : List Nat → Nat
    | [] => 0
    | x :: l => x % 2 ^ bits + 2 ^ bits * go l

/-! ## Exact arithmetic -/

/-- The sum of two dyadic numbers as a signed integer times a power of two. -/
def addInt (n1 : Bool) (m1 : Nat) (e1 : Int) (n2 : Bool) (m2 : Nat) (e2 : Int) : Int × Int :=
  let e := if e1 ≤ e2 then e1 else e2
  let a : Int := (shlInt m1 (e1 - e) : Nat)
  let b : Int := (shlInt m2 (e2 - e) : Nat)
  ((if n1 then -a else a) + (if n2 then -b else b), e)

/-- The exact sum (R36). `none` is the invalid ∞ − ∞. -/
def fvAdd (mode : Rm) : Fv → Fv → Option Fv
  | .nan, _ => some .nan
  | _, .nan => some .nan
  | .inf a, .inf b => if a = b then some (.inf a) else none
  | .inf a, .num .. => some (.inf a)
  | .num .., .inf b => some (.inf b)
  | .num n1 m1 e1, .num n2 m2 e2 =>
    if m1 = 0 ∧ m2 = 0 then
      some (.num (if n1 = n2 then n1 else mode == .rdn) 0 0)
    else
      let (x, e) := addInt n1 m1 e1 n2 m2 e2
      if x = 0 then some (.num (mode == .rdn) 0 0) else some (.num (decide (x < 0)) x.natAbs e)

/-- The negation. -/
def fvNeg : Fv → Fv
  | .nan => .nan
  | .inf n => .inf (!n)
  | .num n m e => .num (!n) m e

/-- The exact product. `none` is the invalid 0 × ∞. -/
def fvMul : Fv → Fv → Option Fv
  | .nan, _ => some .nan
  | _, .nan => some .nan
  | .inf a, .inf b => some (.inf (a != b))
  | .inf a, .num n m _ => if m = 0 then none else some (.inf (a != n))
  | .num n m _, .inf b => if m = 0 then none else some (.inf (n != b))
  | .num n1 m1 e1, .num n2 m2 e2 => some (.num (n1 != n2) (m1 * m2) (e1 + e2))

/-- The quotient, cut after enough bits with a last bit that stands for the rest, and its flags. -/
def fvDiv : Fv → Fv → Option (Fv × Flags)
  | .nan, _ => some (.nan, 0)
  | _, .nan => some (.nan, 0)
  | .inf _, .inf _ => none
  | .inf a, .num n _ _ => some (.inf (a != n), 0)
  | .num n _ _, .inf b => some (.num (n != b) 0 0, 0)
  | .num n1 m1 e1, .num n2 m2 e2 =>
    if m2 = 0 then (if m1 = 0 then none else some (.inf (n1 != n2), fDZ))
    else
      let q := (m1 <<< 64) / m2
      let r := (m1 <<< 64) % m2
      some (.num (n1 != n2) (2 * q + (if r = 0 then 0 else 1)) (e1 - e2 - 65), 0)

/-- The integer square root, one bit at a time from bit `k` down. -/
def isqrtGo (n : Nat) : Nat → Nat → Nat
  | 0, a => a
  | k + 1, a =>
    let b := a + 2 ^ k
    isqrtGo n k (if b * b ≤ n then b else a)

/-- The integer square root of a number below 2^128. -/
def isqrt (n : Nat) : Nat := isqrtGo n 64 0

/-- The square root. -/
def fvSqrt : Fv → Option Fv
  | .nan => some .nan
  | .inf n => if n then none else some (.inf false)
  | .num n m e =>
    if m = 0 then some (.num n 0 0)
    else if n then none
    else
      let k : Nat := if e % 2 = 0 then 80 else 81
      let x := m <<< k
      let r := isqrt x
      some (.num false (2 * r + (if r * r = x then 0 else 1)) ((e - (k : Int)) / 2 - 1))

/-! ## Binary32 (R36, R37) -/

/-- The exact value of a binary32 pattern. -/
def f32 (x : W32) : Fv := bfFP32.decode x.toNat

/-- The canonical NaN (R26). -/
def nan32 : W32 := 0x7FC00000

/-- Rounds into binary32; `none` is an invalid operation. -/
def out32 (mode : Rm) (sat : Bool) (v : Option Fv) : W32 × Flags :=
  match v with
  | none => (nan32, fNV)
  | some v =>
    let (x, fl) := bfFP32.round mode sat v
    (BitVec.ofNat 32 x, fl)

/-- Addition. -/
def fadd32 (mode : Rm) (sat : Bool) (x y : W32) : W32 × Flags := out32 mode sat (fvAdd mode (f32 x) (f32 y))
/-- Subtraction. -/
def fsub32 (mode : Rm) (sat : Bool) (x y : W32) : W32 × Flags := out32 mode sat (fvAdd mode (f32 x) (fvNeg (f32 y)))
/-- Multiplication. -/
def fmul32 (mode : Rm) (sat : Bool) (x y : W32) : W32 × Flags := out32 mode sat (fvMul (f32 x) (f32 y))
/-- Division. -/
def fdiv32 (mode : Rm) (sat : Bool) (x y : W32) : W32 × Flags :=
  match fvDiv (f32 x) (f32 y) with
  | none => (nan32, fNV)
  | some (v, fl) =>
    let (r, f2) := out32 mode sat (some v)
    (r, fl ||| f2)
/-- Square root. -/
def fsqrt32 (mode : Rm) (sat : Bool) (x : W32) : W32 × Flags := out32 mode sat (fvSqrt (f32 x))

/-- x × y + z with one rounding. A NaN operand gives a NaN with no flag, whatever the product (R36). -/
def ffma32 (mode : Rm) (sat : Bool) (x y z : W32) : W32 × Flags :=
  if f32 x == .nan || f32 y == .nan || f32 z == .nan then (nan32, 0)
  else match fvMul (f32 x) (f32 y) with
    | none => (nan32, fNV)
    | some p => out32 mode sat (fvAdd mode p (f32 z))

/-- Order of two values that are not NaNs; zeros are equal. -/
def fvLt : Fv → Fv → Bool
  | .inf a, .inf b => a && !b
  | .inf a, .num .. => a
  | .num .., .inf b => !b
  | .num n1 m1 e1, .num n2 m2 e2 => decide ((addInt n1 m1 e1 (!n2) m2 e2).1 < 0)
  | _, _ => false

/-- Equality of two values that are not NaNs. -/
def fvEq (a b : Fv) : Bool := !fvLt a b && !fvLt b a

/-- The sign of a value. -/
def fvSign : Fv → Bool
  | .nan => false
  | .inf n => n
  | .num n _ _ => n

/-- Minimum of R37 on binary32 patterns. -/
def fmin32 (x y : W32) : W32 :=
  let a := f32 x
  let b := f32 y
  if a == .nan && b == .nan then nan32
  else if a == .nan then y
  else if b == .nan then x
  else if fvLt a b then x
  else if fvLt b a then y
  else if fvSign a then x else y

/-- Maximum of R37 on binary32 patterns. -/
def fmax32 (x y : W32) : W32 :=
  let a := f32 x
  let b := f32 y
  if a == .nan && b == .nan then nan32
  else if a == .nan then y
  else if b == .nan then x
  else if fvLt a b then y
  else if fvLt b a then x
  else if fvSign a then y else x

/-- The compares of R37 by condition code: 0 eq, 1 lt, 2 le, 3 un. -/
def fcmp32 (cond : Nat) (x y : W32) : Bool × Flags :=
  let a := f32 x
  let b := f32 y
  let un := a == .nan || b == .nan
  match cond with
  | 0 => (!un && fvEq a b, 0)
  | 1 => if un then (false, fNV) else (fvLt a b, 0)
  | 2 => if un then (false, fNV) else (!fvLt b a, 0)
  | _ => (un, 0)

/-! ## Scalar conversions (R117) -/

/-- The exact value of a conversion source: 0 f32, 1 bf16, 2 f16, 3 i32, 4 u32, 5 i64, 6 u64. -/
def cvtSrc (k : Nat) (x : W64) : Fv :=
  match k with
  | 0 => bfFP32.decode (x.toNat % 2 ^ 32)
  | 1 => bfBF16.decode (x.toNat % 2 ^ 16)
  | 2 => bfFP16.decode (x.toNat % 2 ^ 16)
  | 3 => fvInt (sextNat 32 x.toNat)
  | 4 => fvInt (x.toNat % 2 ^ 32 : Nat)
  | 5 => fvInt x.toInt
  | _ => fvInt (x.toNat : Nat)

/-- The conversion of R117, with the placement of its result. -/
def cvtScalar (tgt src : Nat) (mode : Rm) (sat : Bool) (x : W64) : W64 × Flags :=
  let v := cvtSrc src x
  match tgt with
  | 0 => let (r, f) := bfFP32.round mode sat v; (BitVec.ofNat 64 r, f)
  | 1 => let (r, f) := bfBF16.round mode sat v; (BitVec.ofNat 64 r, f)
  | 2 => let (r, f) := bfFP16.round mode sat v; (BitVec.ofNat 64 r, f)
  | 3 => let (r, f) := roundInt 32 true mode v; ((BitVec.ofNat 32 r).signExtend 64, f)
  | 4 => let (r, f) := roundInt 32 false mode v; (BitVec.ofNat 64 r, f)
  | 5 => let (r, f) := roundInt 64 true mode v; (BitVec.ofNat 64 r, f)
  | _ => let (r, f) := roundInt 64 false mode v; (BitVec.ofNat 64 r, f)

/-- The lane conversion of R134: kinds 0 f32, 1 i32, 2 bf16, 3 f16. -/
def cvtLane (tgt src : Nat) (mode : Rm) (sat : Bool) (x : W32) : W32 × Flags :=
  let v := match src with
    | 0 => f32 x
    | 1 => fvInt x.toInt
    | 2 => bfBF16.decode (x.toNat % 2 ^ 16)
    | _ => bfFP16.decode (x.toNat % 2 ^ 16)
  let (r, f) := match tgt with
    | 0 => bfFP32.round mode sat v
    | 1 => roundInt 32 true mode v
    | 2 => bfBF16.round mode sat v
    | _ => bfFP16.round mode sat v
  (BitVec.ofNat 32 r, f)

/-! ## Stream conversions (R145) -/

/-- An element of a stream as a lane value, with the flags of the conversion. `sc` is its scale code. -/
def elemToLane (fmt : Nat) (raw : Bool) (sc : Option Nat) (x : Nat) : W32 × Flags :=
  if raw then (BitVec.ofNat 32 x, 0)
  else match sc with
    | some c => let (r, f) := bfFP32.round .rne false (fvScale c (fmtDecode fmt x)); (BitVec.ofNat 32 r, f)
    | none =>
      if fmtInt fmt then
        (match fmtDecode fmt x with
          | .num n m _ => BitVec.ofInt 32 (if n then -(m : Int) else m)
          | _ => 0, 0)
      else let (r, f) := bfFP32.round .rne false (fmtDecode fmt x); (BitVec.ofNat 32 r, f)

/-- A lane value as an element of an out stream, with the flags of the conversion (R145). A NaN lane raises
no NV. -/
def laneToElem (fmt : Nat) (raw : Bool) (mode : Rm) (sat : Bool) (x : W32) : Nat × Flags :=
  if raw then (x.toNat % 2 ^ fmtBits fmt, 0)
  else if fmtInt fmt then
    let (r, f) := fmtRound fmt .rne true (fvInt x.toInt)
    (r, f &&& fNV)
  else
    let (r, f) := fmtRound fmt mode sat (f32 x)
    (r, if f32 x == .nan then 0 else f)

end Sys2Proof.Machine
end

