-- ==== Sys2Proof/Machine/Tables.lean ====
section
/-!
DEFINITION. The tables of the special functions (R47, R48): for each interval the coefficients C0 in
multiples of 2^−30, C1 in multiples of 2^−26 and C2 in multiples of 2^−22, computed from the formula of R47
with exact or 80-digit arithmetic. R48's sin2pi has 64 intervals of sin(πu/2) and 64 of cos(πu/2).
-/

namespace Sys2Proof.Machine

/-- Entries 0 to 15 of 1/u on [1, 2) (R48). -/
def rcpTab0 : List (Int × Int × Int) := [
  (1073741824, -1048451, 1000), (1057222719, -1016443, 955), (1041204193, -985878, 913), (1025663832, -956672, 873),
  (1010580540, -928744, 835), (995934445, -902022, 800), (981706811, -876436, 766), (967879954, -851924, 734),
  (954437177, -828426, 704), (941362695, -805887, 676), (928641578, -784255, 649), (916259690, -763483, 624),
  (904203641, -743525, 600), (892460737, -724340, 577), (881018933, -705888, 555), (869866794, -688132, 534)]

/-- Entries 16 to 31 of 1/u on [1, 2) (R48). -/
def rcpTab1 : List (Int × Int × Int) := [
  (858993459, -671037, 515), (848388602, -654572, 496), (838042399, -638705, 478), (827945503, -623408, 461),
  (818089009, -608655, 445), (808464432, -594419, 429), (799063683, -580676, 415), (789879043, -567405, 401),
  (780903145, -554584, 387), (772128952, -542192, 374), (763549742, -530211, 362), (755159085, -518622, 350),
  (746950834, -507410, 339), (738919105, -496557, 328), (731058263, -486049, 318), (723362913, -475871, 308)]

/-- Entries 32 to 47 of 1/u on [1, 2) (R48). -/
def rcpTab2 : List (Int × Int × Int) := [
  (715827883, -466009, 299), (708448214, -456450, 290), (701219150, -447183, 281), (694136129, -438195, 273),
  (687194767, -429476, 264), (680390859, -421014, 257), (673720360, -412799, 249), (667179386, -404823, 242),
  (660764199, -397076, 235), (654471207, -389549, 229), (648296950, -382234, 222), (642238100, -375123, 216),
  (636291451, -368209, 210), (630453915, -361484, 204), (624722516, -354942, 199), (619094385, -348575, 194)]

/-- Entries 48 to 63 of 1/u on [1, 2) (R48). -/
def rcpTab3 : List (Int × Int × Int) := [
  (613566757, -342379, 189), (608136962, -336346, 184), (602802428, -330471, 179), (597560667, -324749, 174),
  (592409282, -319174, 170), (587345955, -313742, 165), (582368447, -308447, 161), (577474594, -303285, 157),
  (572662306, -298251, 153), (567929560, -293342, 150), (563274399, -288553, 146), (558694933, -283880, 143),
  (554189329, -279320, 139), (549755814, -274869, 136), (545392673, -270524, 133), (541098242, -266280, 130)]

/-- The table of 1/u on [1, 2) (R48). -/
def rcpTab : List (Int × Int × Int) := rcpTab0 ++ rcpTab1 ++ rcpTab2 ++ rcpTab3

/-- Entries 0 to 15 of 1/√u on [1, 2) and [2, 4) (R48). -/
def rsqTab0 : List (Int × Int × Int) := [
  (1073741824, -524249, 377), (1065450257, -512199, 362), (1057347856, -500603, 349), (1049427536, -489438, 336),
  (1041682578, -478683, 324), (1034106604, -468315, 312), (1026693558, -458317, 302), (1019437682, -448669, 291),
  (1012333500, -439355, 281), (1005375799, -430359, 272), (998559613, -421665, 263), (991880210, -413261, 254),
  (985333074, -405132, 246), (978913898, -397266, 238), (972618566, -389651, 230), (966443148, -382277, 223)]

/-- Entries 16 to 31 of 1/√u on [1, 2) and [2, 4) (R48). -/
def rsqTab1 : List (Int × Int × Int) := [
  (960383883, -375132, 216), (954437177, -368207, 210), (948599586, -361492, 204), (942867814, -354980, 198),
  (937238702, -348660, 192), (931709222, -342526, 186), (926276469, -336569, 181), (920937655, -330783, 176),
  (915690104, -325161, 171), (910531246, -319697, 166), (905458609, -314383, 161), (900469818, -309216, 157),
  (895562589, -304188, 153), (890734723, -299295, 149), (885984104, -294532, 145), (881308694, -289894, 141)]

/-- Entries 32 to 47 of 1/√u on [1, 2) and [2, 4) (R48). -/
def rsqTab2 : List (Int × Int × Int) := [
  (876706528, -285377, 138), (872175715, -280975, 134), (867714429, -276686, 131), (863320910, -272504, 127),
  (858993459, -268427, 124), (854730438, -264451, 121), (850530263, -260571, 118), (846391405, -256786, 115),
  (842312387, -253091, 113), (838291779, -249485, 110), (834328203, -245963, 108), (830420321, -242523, 105),
  (826566842, -239162, 103), (822766514, -235879, 100), (819018128, -232670, 98), (815320510, -229533, 96)]

/-- Entries 48 to 63 of 1/√u on [1, 2) and [2, 4) (R48). -/
def rsqTab3 : List (Int × Int × Int) := [
  (811672525, -226466, 94), (808073073, -223466, 92), (804521086, -220532, 90), (801015531, -217662, 88),
  (797555404, -214854, 86), (794139734, -212105, 84), (790767575, -209415, 82), (787438013, -206781, 81),
  (784150157, -204201, 79), (780903145, -201675, 77), (777696137, -199201, 76), (774528319, -196777, 74),
  (771398898, -194401, 73), (768307107, -192073, 71), (765252196, -189791, 70), (762233438, -187554, 69)]

/-- Entries 64 to 79 of 1/√u on [1, 2) and [2, 4) (R48). -/
def rsqTab4 : List (Int × Int × Int) := [
  (759250125, -370700, 266), (753387102, -362179, 256), (747657839, -353980, 247), (742057327, -346085, 238),
  (736580814, -338480, 229), (731223792, -331149, 221), (725981977, -324079, 213), (720851298, -317257, 206),
  (715827883, -310671, 199), (710908045, -304310, 192), (706088274, -298162, 186), (701365222, -292220, 180),
  (696735698, -286471, 174), (692196655, -280909, 168), (687745184, -275525, 163), (683378504, -270310, 158)]

/-- Entries 80 to 95 of 1/√u on [1, 2) and [2, 4) (R48). -/
def rsqTab5 : List (Int × Int × Int) := [
  (679093957, -265258, 153), (674889000, -260362, 148), (670761200, -255614, 144), (666708225, -251008, 140),
  (662727842, -246540, 136), (658817909, -242202, 132), (654976372, -237990, 128), (651201261, -233899, 124),
  (647490682, -229924, 121), (643842818, -226060, 117), (640255922, -222303, 114), (636728315, -218649, 111),
  (633258380, -215094, 108), (629844563, -211634, 105), (626485368, -208266, 102), (623179354, -204986, 100)]

/-- Entries 96 to 111 of 1/√u on [1, 2) and [2, 4) (R48). -/
def rsqTab6 : List (Int × Int × Int) := [
  (619925131, -201792, 97), (616721362, -198679, 95), (613566757, -195646, 92), (610460069, -192690, 90),
  (607400100, -189807, 88), (604385689, -186995, 86), (601415717, -184252, 84), (598489102, -181575, 82),
  (595604800, -178963, 80), (592761802, -176412, 78), (589959130, -173922, 76), (587195840, -171489, 74),
  (584471019, -169113, 73), (581783781, -166791, 71), (579133272, -164522, 69), (576518662, -162304, 68)]

/-- Entries 112 to 127 of 1/√u on [1, 2) and [2, 4) (R48). -/
def rsqTab7 : List (Int × Int × Int) := [
  (573939147, -160135, 66), (571393950, -158014, 65), (568882316, -155940, 63), (566403514, -153910, 62),
  (563956835, -151925, 61), (561541591, -149981, 59), (559157115, -148079, 58), (556802759, -146216, 57),
  (554477894, -144392, 56), (552181909, -142606, 55), (549914212, -140856, 54), (547674226, -139142, 52),
  (545461392, -137462, 51), (543275165, -135816, 50), (541115017, -134202, 49), (538980433, -132621, 48)]

/-- The table of 1/√u on [1, 2) and [2, 4) (R48). -/
def rsqTab : List (Int × Int × Int) := rsqTab0 ++ rsqTab1 ++ rsqTab2 ++ rsqTab3 ++ rsqTab4 ++ rsqTab5 ++ rsqTab6 ++ rsqTab7

/-- Entries 0 to 15 of log2 u on [1, 2) (R48). -/
def log2Tab0 : List (Int × Int × Int) := [
  (0, 1512715, -727), (24017256, 1489444, -705), (47667823, 1466879, -684), (70962728, 1444986, -664),
  (93912511, 1423738, -645), (116527248, 1403106, -626), (138816582, 1383063, -609), (160789745, 1363584, -592),
  (182455581, 1344647, -576), (203822568, 1326228, -560), (224898839, 1308307, -545), (245692198, 1290864, -531),
  (266210141, 1273880, -517), (286459867, 1257337, -504), (306448299, 1241218, -491), (326182095, 1225507, -479)]

/-- Entries 16 to 31 of log2 u on [1, 2) (R48). -/
def log2Tab1 : List (Int × Int × Int) := [
  (345667660, 1210189, -467), (364911162, 1195249, -456), (383918542, 1180674, -445), (402695523, 1166450, -434),
  (421247625, 1152564, -424), (439580170, 1139005, -414), (457698295, 1125761, -404), (475606957, 1112822, -395),
  (493310944, 1100177, -386), (510814882, 1087816, -378), (528123241, 1075730, -369), (545240343, 1063909, -361),
  (562170370, 1052345, -354), (578917365, 1041030, -346), (595485245, 1029956, -339), (611877800, 1019114, -332)]

/-- Entries 32 to 47 of log2 u on [1, 2) (R48). -/
def log2Tab2 : List (Int × Int × Int) := [
  (628098702, 1008499, -325), (644151509, 998102, -318), (660039669, 987918, -312), (675766525, 977939, -306),
  (691335320, 968160, -300), (706749198, 958575, -294), (722011213, 949177, -288), (737124328, 939962, -282),
  (752091421, 930925, -277), (766915285, 922059, -272), (781598637, 913360, -267), (796144114, 904825, -262),
  (810554283, 896447, -257), (824831638, 888223, -252), (838978604, 880148, -248), (852997541, 872219, -243)]

/-- Entries 48 to 63 of log2 u on [1, 2) (R48). -/
def log2Tab3 : List (Int × Int × Int) := [
  (866890747, 864432, -239), (880660455, 856782, -235), (894308843, 849267, -231), (907838029, 841882, -227),
  (921250079, 834624, -223), (934547002, 827491, -219), (947730758, 820479, -215), (960803257, 813584, -212),
  (973766362, 806804, -208), (986621888, 800137, -205), (999371606, 793578, -202), (1012017244, 787127, -198),
  (1024560487, 780779, -195), (1037002979, 774533, -192), (1049346328, 768386, -189), (1061592099, 762336, -186)]

/-- The table of log2 u on [1, 2) (R48). -/
def log2Tab : List (Int × Int × Int) := log2Tab0 ++ log2Tab1 ++ log2Tab2 ++ log2Tab3

/-- Entries 0 to 15 of 2^u on [0, 1) (R48). -/
def exp2Tab0 : List (Int × Int × Int) := [
  (1073741824, 726810, 247), (1085434106, 734725, 250), (1097253708, 742725, 253), (1109202018, 750813, 255),
  (1121280436, 758989, 258), (1133490379, 767254, 261), (1145833280, 775609, 264), (1158310587, 784055, 267),
  (1170923762, 792592, 270), (1183674286, 801223, 273), (1196563654, 809948, 276), (1209593378, 818768, 279),
  (1222764986, 827683, 282), (1236080024, 836696, 285), (1249540052, 845807, 288), (1263146652, 855018, 291)]

/-- Entries 16 to 31 of 2^u on [0, 1) (R48). -/
def exp2Tab1 : List (Int × Int × Int) := [
  (1276901417, 864328, 294), (1290805962, 873740, 297), (1304861917, 883254, 301), (1319070932, 892872, 304),
  (1333434672, 902595, 307), (1347954824, 912424, 310), (1362633090, 922359, 314), (1377471191, 932403, 317),
  (1392470869, 942556, 321), (1407633882, 952820, 324), (1422962010, 963196, 328), (1438457051, 973684, 331),
  (1454120821, 984287, 335), (1469955159, 995005, 339), (1485961921, 1005840, 342), (1502142985, 1016793, 346)]

/-- Entries 32 to 47 of 2^u on [0, 1) (R48). -/
def exp2Tab2 : List (Int × Int × Int) := [
  (1518500250, 1027865, 350), (1535035634, 1039058, 354), (1551751076, 1050372, 357), (1568648537, 1061810, 361),
  (1585730000, 1073373, 365), (1602997467, 1085061, 369), (1620452965, 1096876, 373), (1638098541, 1108821, 377),
  (1655936265, 1120895, 381), (1673968228, 1133101, 386), (1692196547, 1145439, 390), (1710623359, 1157912, 394),
  (1729250827, 1170521, 398), (1748081133, 1183267, 403), (1767116489, 1196152, 407), (1786359126, 1209177, 411)]

/-- Entries 48 to 63 of 2^u on [0, 1) (R48). -/
def exp2Tab3 : List (Int × Int × Int) := [
  (1805811301, 1222344, 416), (1825475297, 1235655, 420), (1845353420, 1249110, 425), (1865448001, 1262712, 430),
  (1885761398, 1276462, 434), (1906295993, 1290362, 439), (1927054196, 1304413, 444), (1948038440, 1318617, 449),
  (1969251188, 1332976, 454), (1990694927, 1347491, 459), (2012372174, 1362164, 464), (2034285470, 1376997, 469),
  (2056437387, 1391992, 474), (2078830522, 1407150, 479), (2101467502, 1422473, 484), (2124350982, 1437962, 489)]

/-- The table of 2^u on [0, 1) (R48). -/
def exp2Tab : List (Int × Int × Int) := exp2Tab0 ++ exp2Tab1 ++ exp2Tab2 ++ exp2Tab3

/-- Entries 0 to 15 of sin(πu/2) on [0, 1) (R48). -/
def sinTab0 : List (Int × Int × Int) := [
  (0, 1647182, -16), (26350943, 1646686, -46), (52686014, 1645198, -77), (78989349, 1642719, -108),
  (105245103, 1639250, -139), (131437462, 1634794, -170), (157550647, 1629354, -201), (183568930, 1622931, -231),
  (209476638, 1615532, -262), (235258165, 1607159, -292), (260897982, 1597818, -322), (286380643, 1587514, -352),
  (311690799, 1576255, -382), (336813204, 1564045, -411), (361732726, 1550894, -440), (386434353, 1536809, -469)]

/-- Entries 16 to 31 of sin(πu/2) on [0, 1) (R48). -/
def sinTab1 : List (Int × Int × Int) := [
  (410903207, 1521797, -498), (435124548, 1505870, -526), (459083786, 1489035, -554), (482766489, 1471303, -582),
  (506158392, 1452684, -609), (529245404, 1433191, -636), (552013618, 1412835, -663), (574449320, 1391627, -689),
  (596538995, 1369581, -715), (618269338, 1346711, -740), (639627258, 1323029, -765), (660599890, 1298550, -789),
  (681174602, 1273288, -813), (701339000, 1247260, -837), (721080937, 1220481, -860), (740388522, 1192966, -882)]

/-- Entries 32 to 47 of sin(πu/2) on [0, 1) (R48). -/
def sinTab2 : List (Int × Int × Int) := [
  (759250125, 1164733, -904), (777654384, 1135798, -926), (795590213, 1106179, -946), (813046808, 1075894, -967),
  (830013654, 1044961, -986), (846480531, 1013398, -1005), (862437520, 981225, -1024), (877875009, 948460, -1042),
  (892783698, 915125, -1059), (907154608, 881238, -1076), (920979082, 846820, -1091), (934248793, 811892, -1107),
  (946955747, 776476, -1121), (959092290, 740591, -1135), (970651112, 704260, -1149), (981625251, 667506, -1161)]

/-- Entries 48 to 63 of sin(πu/2) on [0, 1) (R48). -/
def sinTab3 : List (Int × Int × Int) := [
  (992008094, 630349, -1173), (1001793390, 592812, -1184), (1010975242, 554918, -1195), (1019548121, 516690, -1204),
  (1027506862, 478151, -1213), (1034846671, 439324, -1222), (1041563127, 400232, -1229), (1047652185, 360899, -1236),
  (1053110176, 321349, -1242), (1057933813, 281605, -1247), (1062120190, 241691, -1252), (1065666786, 201632, -1256),
  (1068571464, 161451, -1259), (1070832474, 121173, -1261), (1072448455, 80823, -1262), (1073418433, 40423, -1263)]

/-- The table of sin(πu/2) on [0, 1) (R48). -/
def sinTab : List (Int × Int × Int) := sinTab0 ++ sinTab1 ++ sinTab2 ++ sinTab3

/-- Entries 0 to 15 of cos(πu/2) on [0, 1) (R48). -/
def cosTab0 : List (Int × Int × Int) := [
  (1073741824, -1, -1263), (1073418433, -40425, -1262), (1072448455, -80824, -1261), (1070832474, -121175, -1259),
  (1068571464, -161453, -1256), (1065666786, -201633, -1252), (1062120190, -241693, -1247), (1057933813, -281606, -1242),
  (1053110176, -321350, -1236), (1047652185, -360900, -1229), (1041563127, -400233, -1222), (1034846671, -439325, -1213),
  (1027506862, -478152, -1204), (1019548121, -516692, -1195), (1010975242, -554920, -1184), (1001793390, -592813, -1173)]

/-- Entries 16 to 31 of cos(πu/2) on [0, 1) (R48). -/
def cosTab1 : List (Int × Int × Int) := [
  (992008094, -630350, -1161), (981625251, -667507, -1149), (970651112, -704262, -1135), (959092290, -740592, -1121),
  (946955747, -776477, -1107), (934248793, -811894, -1091), (920979082, -846821, -1076), (907154608, -881239, -1059),
  (892783698, -915126, -1042), (877875009, -948462, -1024), (862437520, -981226, -1005), (846480531, -1013399, -986),
  (830013654, -1044962, -967), (813046808, -1075895, -946), (795590213, -1106180, -926), (777654384, -1135799, -904)]

/-- Entries 32 to 47 of cos(πu/2) on [0, 1) (R48). -/
def cosTab2 : List (Int × Int × Int) := [
  (759250125, -1164734, -882), (740388522, -1192967, -860), (721080937, -1220482, -837), (701339000, -1247261, -813),
  (681174602, -1273289, -789), (660599890, -1298551, -765), (639627258, -1323029, -740), (618269338, -1346711, -715),
  (596538995, -1369582, -689), (574449320, -1391628, -663), (552013618, -1412836, -636), (529245404, -1433192, -609),
  (506158392, -1452685, -582), (482766489, -1471303, -554), (459083786, -1489035, -526), (435124548, -1505870, -498)]

/-- Entries 48 to 63 of cos(πu/2) on [0, 1) (R48). -/
def cosTab3 : List (Int × Int × Int) := [
  (410903207, -1521798, -469), (386434353, -1536809, -440), (361732726, -1550895, -411), (336813204, -1564046, -382),
  (311690799, -1576255, -352), (286380643, -1587515, -322), (260897982, -1597818, -292), (235258165, -1607159, -262),
  (209476638, -1615532, -231), (183568930, -1622932, -201), (157550647, -1629354, -170), (131437462, -1634795, -139),
  (105245103, -1639250, -108), (78989349, -1642719, -77), (52686014, -1645198, -46), (26350943, -1646686, -16)]

/-- The table of cos(πu/2) on [0, 1) (R48). -/
def cosTab : List (Int × Int × Int) := cosTab0 ++ cosTab1 ++ cosTab2 ++ cosTab3

end Sys2Proof.Machine
end

