-- ==== Sys2Proof/Machine/Special.lean ====
section
/-!
DEFINITION. The special functions exp2, log2, rcp, rsq and sin2pi (R47 to R49): a table look-up, a quadratic
formed exactly, and one rounding to binary32 under RNE. The unit's mode and saturation play no part.
-/

namespace Sys2Proof.Machine

/-- Y of R47 in units of 2^−56, from an entry and k. -/
def quadY (c : Int × Int × Int) (k : Nat) : Int :=
  c.1 * 2 ^ 26 + c.2.1 * (k : Int) * 2 ^ 13 + c.2.2 * ((k * k : Nat) : Int)

/-- Entry `i` of a table. -/
def tabAt (t : List (Int × Int × Int)) (i : Nat) : Int × Int × Int := nth (0, 0, 0) t i

/-- Rounds a signed number of units of 2^(e−56) to binary32 under RNE. A zero is +0. -/
def roundY (neg : Bool) (y : Int) (e : Int) : W32 :=
  let n := (decide (y < 0)) != neg
  BitVec.ofNat 32 (bfFP32.round .rne false (.num (if y = 0 then false else n) y.natAbs (e - 56))).1

/-- The flags of a rounded result that R49 gives rcp and exp2. -/
def specFlags (r : W32) : Flags :=
  match f32 r with
  | .inf _ => fOF
  | .num _ m e => if m = 0 then fUF else if e = -149 ∧ m < 2 ^ 23 then fUF else 0
  | .nan => 0

/-- The exponent e and the 23 fraction bits of the normalised operand (R48). -/
def normParts (m : Nat) (e : Int) : Int × Nat :=
  let b := bitLen m
  (e + (b : Int) - 1, (m <<< (24 - b)) % 2 ^ 23)

/-- rcp. -/
def spRcp (x : W32) : W32 × Flags :=
  match f32 x with
  | .nan => (nan32, 0)
  | .inf n => (if n then 0x80000000 else 0, 0)
  | .num n m e =>
    if m = 0 then (if n then 0xFF800000 else 0x7F800000, fDZ)
    else
      let (ex, f) := normParts m e
      let r := roundY n (quadY (tabAt rcpTab (f / 2 ^ 17)) (f % 2 ^ 17)) (-ex)
      (r, specFlags r)

/-- rsq. -/
def spRsq (x : W32) : W32 × Flags :=
  match f32 x with
  | .nan => (nan32, 0)
  | .inf n => if n then (nan32, fNV) else (0, 0)
  | .num n m e =>
    if m = 0 then (if n then 0xFF800000 else 0x7F800000, fDZ)
    else if n then (nan32, fNV)
    else
      let (ex, f) := normParts m e
      let odd := ex % 2 != 0
      let e' := if odd then ex - 1 else ex
      (roundY false (quadY (tabAt rsqTab (f / 2 ^ 17 + if odd then 64 else 0)) (f % 2 ^ 17)) (-(e' / 2)), 0)

/-- log2. -/
def spLog2 (x : W32) : W32 × Flags :=
  match f32 x with
  | .nan => (nan32, 0)
  | .inf n => if n then (nan32, fNV) else (0x7F800000, 0)
  | .num n m e =>
    if m = 0 then (0xFF800000, fDZ)
    else if n then (nan32, fNV)
    else
      let (ex, f) := normParts m e
      (roundY false (ex * 2 ^ 56 + quadY (tabAt log2Tab (f / 2 ^ 17)) (f % 2 ^ 17)) 0, 0)

/-- exp2. Operands of magnitude 2^9 or more are past the range of the results. -/
def spExp2 (x : W32) : W32 × Flags :=
  match f32 x with
  | .nan => (nan32, 0)
  | .inf n => (if n then 0 else 0x7F800000, 0)
  | .num n m e =>
    if m = 0 then (0x3F800000, 0)
    else if e + (bitLen m : Int) > 9 then (if n then (0, fUF) else (0x7F800000, fOF))
    else
      -- the operand in units of 2^−23, rounded down: its floor and its 23 fraction bits
      let u : Int := if 0 ≤ e + 23 then (if n then -(shlInt m (e + 23) : Int) else shlInt m (e + 23))
        else
          let q := m >>> (-(e + 23)).toNat
          let r := m - (q <<< (-(e + 23)).toNat)
          if n then -(q : Int) - (if r = 0 then 0 else 1) else q
      let f := (u % 2 ^ 23).toNat
      let r := roundY false (quadY (tabAt exp2Tab (f / 2 ^ 17)) (f % 2 ^ 17)) (u / 2 ^ 23)
      (r, specFlags r)

/-- sin2pi. -/
def spSin (x : W32) : W32 × Flags :=
  match f32 x with
  | .nan => (nan32, 0)
  | .inf _ => (nan32, fNV)
  | .num n m e =>
    if m = 0 then (0, 0)
    else if e + (bitLen m : Int) > 23 then (0, 0)
    else
      let u : Int := if 0 ≤ e + 25 then (if n then -(shlInt m (e + 25) : Int) else shlInt m (e + 25))
        else
          let q := m >>> (-(e + 25)).toNat
          let r := m - (q <<< (-(e + 25)).toNat)
          if n then -(q : Int) - (if r = 0 then 0 else 1) else q
      let f := (u % 2 ^ 25).toNat
      let q := f / 2 ^ 23
      let v := f % 2 ^ 23
      let c := if q % 2 = 0 then tabAt sinTab (v / 2 ^ 17) else tabAt cosTab (v / 2 ^ 17)
      (roundY (decide (2 ≤ q)) (quadY c (v % 2 ^ 17)) 0, 0)

end Sys2Proof.Machine
end

