-- ==== Sys2Proof/Machine/Hcw.lean ====
section
/-!
DEFINITION. Horizontal control words: their fields (R76), their checks (R78, R124), and what the three
units of a cluster compute in one issue (R123, R126 to R137). The seat's side of an issue (operands from
registers and streams, writes, pushes) is in Clusters.lean.
-/

namespace Sys2Proof.Machine

/-- A field of an HCW. -/
def hf (h : BitVec 256) (hi lo : Nat) : Nat := bitsAt h.toNat lo (hi + 1 - lo)

/-- Operation codes of the fore, mid and aft units. -/
def hcwOp (h : BitVec 256) (u : Nat) : Nat := hf h (255 - 8 * u) (248 - 8 * u)
/-- The selector of fore operand a. -/
def hcwFA (h : BitVec 256) : Nat := hf h 231 224
/-- The selector of operand b of a unit. -/
def hcwB (h : BitVec 256) (u : Nat) : Nat := hf h (223 - 8 * u) (216 - 8 * u)
/-- Destination 1 and 2: selector. -/
def hcwD (h : BitVec 256) (d : Nat) : Nat := if d = 1 then hf h 199 192 else hf h 189 182
/-- Destination 1 and 2: source (0 none, 1 fore, 2 mid, 3 aft). -/
def hcwDS (h : BitVec 256) (d : Nat) : Nat := if d = 1 then hf h 191 190 else hf h 181 180
/-- PD: enable and K index. -/
def hcwPD (h : BitVec 256) : Nat := hf h 179 176
/-- LIMM. -/
def hcwLimm (h : BitVec 256) : W32 := BitVec.ofNat 32 (hf h 175 160)
/-- BIMM. -/
def hcwBimm (h : BitVec 256) : W32 := BitVec.ofNat 32 (hf h 159 128)
/-- XMASK8. -/
def hcwX (h : BitVec 256) : Nat := hf h 127 120
/-- The rounding mode of a unit. -/
def hcwMode (h : BitVec 256) (u : Nat) : Rm := rmOf (BitVec.ofNat 2 (hf h (119 - 2 * u) (118 - 2 * u)))
/-- The saturation control. -/
def hcwSat (h : BitVec 256) : Bool := h.getLsbD 113

/-- A conversion code and its kinds (R129). -/
def isCvt (op : Nat) : Bool := decide (0x30 ≤ op ∧ op ≤ 0x3F) && op / 4 % 4 != op % 4
/-- A compare. -/
def isCmp (op : Nat) : Bool := decide ((0x09 ≤ op ∧ op ≤ 0x0C) ∨ (0x1E ≤ op ∧ op ≤ 0x20))
/-- The code is assigned in the unit: 0 fore, 1 mid, 2 aft (R129). -/
def opAllowed (u op : Nat) : Bool :=
  decide (op ≤ 0x0C) || decide (0x10 ≤ op ∧ op ≤ 0x20) || op == 0x29 || isCvt op || op == 0x48 || op == 0x49
    || decide (0x4A ≤ op ∧ op ≤ 0x4C)
    || (decide (1 ≤ u) && (op == 0x28 || decide (0x40 ≤ op ∧ op ≤ 0x44)))
    || (u == 2 && op == 0x50)
/-- The operation uses operand x (R129). -/
def usesX (op : Nat) : Bool := op != 0x29
/-- The operation uses operand y (R129). -/
def usesY (op : Nat) : Bool :=
  !(op == 0x00 || op == 0x07 || op == 0x08 || isCvt op || decide (0x40 ≤ op ∧ op ≤ 0x44)
    || decide (0x4A ≤ op ∧ op ≤ 0x4C) || op == 0x50)

/-- An operand selector (R77), 0x4C where it is not used (R78). -/
def selLegal (used : Bool) (x : Nat) : Bool := if used then decide (x ≤ 0x4C) else x == 0x4C

/-- A destination selector with its source (R78). -/
def dstLegal (d ds : Nat) : Bool := if ds = 0 then d == 0xFF else decide (d ≤ 0x3F)

/-- A register number after the BASE adjustment (R75, R141). -/
def adjReg (base r : Nat) : Nat := (r + 8 * base) % 64

/-- The checks of R78 and R124. `bound` tells whether an adjusted register is bound to a stream. -/
def hcwLegal (h : BitVec 256) (base : Nat) (bound : Nat → Bool) : Bool :=
  let f := hcwOp h 0
  let m := hcwOp h 1
  let a := hcwOp h 2
  hf h 112 0 == 0
    && opAllowed 0 f && opAllowed 1 m && opAllowed 2 a
    && selLegal (usesX f) (hcwFA h) && selLegal (usesY f) (hcwB h 0)
    && selLegal (usesY m) (hcwB h 1) && selLegal (usesY a) (hcwB h 2)
    && dstLegal (hcwD h 1) (hcwDS h 1) && dstLegal (hcwD h 2) (hcwDS h 2)
    && !(hcwDS h 1 != 0 && hcwDS h 2 != 0 && hcwD h 1 == hcwD h 2)
    && !(decide (8 ≤ hcwPD h) && (hcwPD h == 8 || !(isCmp f || isCmp m || isCmp a)))
    && !(m == 0x28 && !isCmp f) && !(a == 0x28 && !(isCmp f || isCmp m))
    && (if a == 0x50 then
          hcwDS h 1 == 3 && hcwDS h 2 != 3 && hcwX h != 0 && !bound (adjReg base (hcwD h 1))
        else hcwX h == 0)

/-- Lane by lane, with the flags of the enabled lanes (R127). -/
def lanes2 (en : BitVec 16) (f : W32 → W32 → W32 × Flags) (x y : List W32) : List W32 × Flags :=
  let r := (nats 16).map fun i => f (nth 0 x i) (nth 0 y i)
  (r.map Prod.fst, ((nats 16).zip r).foldl (fun fl e => if en.getLsbD e.1 then fl ||| e.2.2 else fl) 0)

/-- One level of the tree of R46. -/
def treeLevel (f : W32 → W32 → W32 × Flags) : List W32 → List W32 × Flags
  | a :: b :: l =>
    let (r, fl) := f a b
    let (rs, fl2) := treeLevel f l
    (r :: rs, fl ||| fl2)
  | l => (l, 0)

/-- The reduction tree of R46 over 16 lanes. -/
def laneTree (f : W32 → W32 → W32 × Flags) (x : List W32) : W32 × Flags :=
  let (a, f1) := treeLevel f x
  let (b, f2) := treeLevel f a
  let (c, f3) := treeLevel f b
  let (d, f4) := treeLevel f c
  (nth 0 d 0, f1 ||| f2 ||| f3 ||| f4)

/-- A signed comparison of lanes. -/
def sLt (x y : W32) : Bool := decide (x.toInt < y.toInt)
/-- An unsigned comparison of lanes. -/
def uLt (x y : W32) : Bool := decide (x.toNat < y.toNat)

/-- A two-operand lane form that keeps no lane but its own (R130, R132, R134, R135), and pass and mov (R133). -/
def laneOp (op : Nat) (mode : Rm) (sat : Bool) (x y : W32) : W32 × Flags :=
  match op with
  | 0x01 => fadd32 mode sat x y
  | 0x02 => fsub32 mode sat x y
  | 0x03 => fsub32 mode sat y x
  | 0x04 => fmul32 mode sat x y
  | 0x05 => (fmin32 x y, 0)
  | 0x06 => (fmax32 x y, 0)
  | 0x07 => (if f32 x == .nan then nan32 else x &&& 0x7FFFFFFF, 0)
  | 0x08 => (if f32 x == .nan then nan32 else x ^^^ 0x80000000, 0)
  | 0x10 => (x + y, 0)
  | 0x11 => (x - y, 0)
  | 0x12 => (x * y, 0)
  | 0x13 => (BitVec.ofInt 32 (x.toInt * y.toInt / 2 ^ 32), 0)
  | 0x14 => (x &&& y, 0)
  | 0x15 => (x ||| y, 0)
  | 0x16 => (x ^^^ y, 0)
  | 0x17 => (x <<< (y.toNat % 32), 0)
  | 0x18 => (x >>> (y.toNat % 32), 0)
  | 0x19 => (x.sshiftRight (y.toNat % 32), 0)
  | 0x1A => (if sLt y x then y else x, 0)
  | 0x1B => (if sLt x y then y else x, 0)
  | 0x1C => (if uLt y x then y else x, 0)
  | 0x1D => (if uLt x y then y else x, 0)
  | 0x29 => (y, 0)
  | 0x40 => spExp2 x
  | 0x41 => spLog2 x
  | 0x42 => spRcp x
  | 0x43 => spRsq x
  | 0x44 => spSin x
  | _ => if isCvt op then cvtLane (op / 4 % 4) (op % 4) mode sat x else (x, 0)

/-- The compare flag of a lane and the flag it raises (R131). -/
def laneCmp (op : Nat) (x y : W32) : Bool × Flags :=
  match op with
  | 0x1E => (x == y, 0)
  | 0x1F => (sLt x y, 0)
  | 0x20 => (uLt x y, 0)
  | _ => fcmp32 (op - 0x09) x y

/-- One unit of a cluster: the result lanes, the compare flags and the flags raised (R123, R130 to R137). -/
def unitOp (op : Nat) (mode : Rm) (sat : Bool) (en : BitVec 16) (x y : List W32) (cf : List Bool) :
    List W32 × List Bool × Flags :=
  if isCmp op then
    let r := (nats 16).map fun i => laneCmp op (nth 0 x i) (nth 0 y i)
    (x, r.map Prod.fst, ((nats 16).zip r).foldl (fun fl e => if en.getLsbD e.1 then fl ||| e.2.2 else fl) 0)
  else
    match op with
    | 0x28 => ((nats 16).map fun i => if nth false cf i then nth 0 x i else nth 0 y i, cf, 0)
    | 0x48 => ((nats 16).map fun i => nth 0 x ((nth 0 y i).toNat % 16), cf, 0)
    | 0x49 => ((nats 16).map fun i => nth 0 x ((i + (nth 0 y 0).toNat) % 16), cf, 0)
    | 0x4A =>
      let (v, fl) := laneTree (fadd32 mode sat) ((nats 16).map fun i => if en.getLsbD i then nth 0 x i else 0x80000000)
      (List.replicate 16 v, cf, fl)
    | 0x4B =>
      let (v, _) := laneTree (fun a b => (fmax32 a b, 0))
        ((nats 16).map fun i => if en.getLsbD i then nth 0 x i else 0xFF800000)
      (List.replicate 16 v, cf, 0)
    | 0x4C =>
      let (v, _) := laneTree (fun a b => (a + b, 0)) ((nats 16).map fun i => if en.getLsbD i then nth 0 x i else 0)
      (List.replicate 16 v, cf, 0)
    | _ =>
      let (r, fl) := lanes2 en (laneOp op mode sat) x y
      (r, cf, fl)

/-- What the chain of an HCW yields: the results of the fore, mid and aft units, the compare flags and the
flags raised. -/
structure HcwOut where
  fore : List W32
  mid  : List W32
  aft  : List W32
  cf   : List Bool
  fl   : Flags
  deriving DecidableEq, Repr

/-- The three units in cascade (R123); `opnd` gives the lanes of a selector. -/
def hcwRun (h : BitVec 256) (en : BitVec 16) (opnd : Nat → List W32) : HcwOut :=
  let (f, c1, l1) := unitOp (hcwOp h 0) (hcwMode h 0) (hcwSat h) en (opnd (hcwFA h)) (opnd (hcwB h 0)) []
  let (m, c2, l2) := unitOp (hcwOp h 1) (hcwMode h 1) (hcwSat h) en f (opnd (hcwB h 1)) c1
  let (a, c3, l3) := unitOp (hcwOp h 2) (hcwMode h 2) (hcwSat h) en m (opnd (hcwB h 2)) c2
  ⟨f, m, a, c3, l1 ||| l2 ||| l3⟩

/-- The result that a destination takes. -/
def HcwOut.src (o : HcwOut) (ds : Nat) : List W32 := if ds = 1 then o.fore else if ds = 2 then o.mid else o.aft

end Sys2Proof.Machine
end

