-- ==== Sys2Proof/Machine/Hash.lean ====
section
/-!
DEFINITION. The published functions that the manual names and does not give (R3, R381): SHA-512 (FIPS 180-4), HMAC with it,
and Ed25519 (RFC 8032). They are taken from those standards (PRESUMED, log 3).
-/

namespace Sys2Proof.Machine

/-! ## SHA-512 (FIPS 180-4) -/

/-- The round constants: the first 64 bits of the fractions of the cube roots of the first 80 primes. -/
def shaK : List W64 :=
  ([0x428A2F98D728AE22, 0x7137449123EF65CD, 0xB5C0FBCFEC4D3B2F, 0xE9B5DBA58189DBBC] ++
   [0x3956C25BF348B538, 0x59F111F1B605D019, 0x923F82A4AF194F9B, 0xAB1C5ED5DA6D8118] ++
   [0xD807AA98A3030242, 0x12835B0145706FBE, 0x243185BE4EE4B28C, 0x550C7DC3D5FFB4E2] ++
   [0x72BE5D74F27B896F, 0x80DEB1FE3B1696B1, 0x9BDC06A725C71235, 0xC19BF174CF692694] ++
   [0xE49B69C19EF14AD2, 0xEFBE4786384F25E3, 0x0FC19DC68B8CD5B5, 0x240CA1CC77AC9C65] ++
   [0x2DE92C6F592B0275, 0x4A7484AA6EA6E483, 0x5CB0A9DCBD41FBD4, 0x76F988DA831153B5] ++
   [0x983E5152EE66DFAB, 0xA831C66D2DB43210, 0xB00327C898FB213F, 0xBF597FC7BEEF0EE4] ++
   [0xC6E00BF33DA88FC2, 0xD5A79147930AA725, 0x06CA6351E003826F, 0x142929670A0E6E70] ++
   [0x27B70A8546D22FFC, 0x2E1B21385C26C926, 0x4D2C6DFC5AC42AED, 0x53380D139D95B3DF] ++
   [0x650A73548BAF63DE, 0x766A0ABB3C77B2A8, 0x81C2C92E47EDAEE6, 0x92722C851482353B] ++
   [0xA2BFE8A14CF10364, 0xA81A664BBC423001, 0xC24B8B70D0F89791, 0xC76C51A30654BE30] ++
   [0xD192E819D6EF5218, 0xD69906245565A910, 0xF40E35855771202A, 0x106AA07032BBD1B8] ++
   [0x19A4C116B8D2D0C8, 0x1E376C085141AB53, 0x2748774CDF8EEB99, 0x34B0BCB5E19B48A8] ++
   [0x391C0CB3C5C95A63, 0x4ED8AA4AE3418ACB, 0x5B9CCA4F7763E373, 0x682E6FF3D6B2B8A3] ++
   [0x748F82EE5DEFB2FC, 0x78A5636F43172F60, 0x84C87814A1F0AB72, 0x8CC702081A6439EC] ++
   [0x90BEFFFA23631E28, 0xA4506CEBDE82BDE9, 0xBEF9A3F7B2C67915, 0xC67178F2E372532B] ++
   [0xCA273ECEEA26619C, 0xD186B8C721C0C207, 0xEADA7DD6CDE0EB1E, 0xF57D4F7FEE6ED178] ++
   [0x06F067AA72176FBA, 0x0A637DC5A2C898A6, 0x113F9804BEF90DAE, 0x1B710B35131C471B] ++
   [0x28DB77F523047D84, 0x32CAAB7B40C72493, 0x3C9EBE0A15C9BEBC, 0x431D67C49C100D4C] ++
   [0x4CC5D4BECB3E42B6, 0x597F299CFC657E2A, 0x5FCB6FAB3AD6FAEC, 0x6C44198C4A475817] : List W64)

/-- The initial hash value: the first 64 bits of the fractions of the square roots of the first 8 primes. -/
def shaInit : List W64 :=
  [0x6A09E667F3BCC908, 0xBB67AE8584CAA73B, 0x3C6EF372FE94F82B, 0xA54FF53A5F1D36F1] ++
   [0x510E527FADE682D1, 0x9B05688C2B3E6C1F, 0x1F83D9ABFB41BD6B, 0x5BE0CD19137E2179]

/-- Two rotations and a third term, as the functions of the standard combine them. -/
def shaMix (a b : Nat) (x y : W64) : W64 := x.rotateRight a ^^^ x.rotateRight b ^^^ y

/-- The message schedule: `n` words from the sixteen before them. -/
def shaSchedule : Nat → List W64 → List W64
  | 0, _ => []
  | n + 1, w =>
    let next := shaMix 19 61 (nth 0 w 14) (nth 0 w 14 >>> 6) + nth 0 w 9 + shaMix 1 8 (nth 0 w 1) (nth 0 w 1 >>> 7) + nth 0 w 0
    nth 0 w 0 :: shaSchedule n (w.drop 1 ++ [next])

/-- One round. -/
def shaRound (h : List W64) (kw : W64 × W64) : List W64 :=
  match h with
  | [a, b, c, d, e, f, g, h] =>
    let t := h + shaMix 14 18 e (e.rotateRight 41) + ((e &&& f) ^^^ (~~~e &&& g)) + kw.1 + kw.2
    let u := shaMix 28 34 a (a.rotateRight 39) + ((a &&& b) ^^^ (a &&& c) ^^^ (b &&& c))
    [t + u, a, b, c, d + t, e, f, g]
  | h => h

/-- The words of a block, the most significant byte first. -/
def shaWords (l : List Byte) : List W64 := (nats 16).map fun i => BitVec.ofNat 64 (ofBytesBE ((l.drop (8 * i)).take 8))

/-- The hash value after one block of 128 bytes. -/
def shaBlock (h : List W64) (l : List Byte) : List W64 :=
  (h.zip ((shaK.zip (shaSchedule 80 (shaWords l))).foldl shaRound h)).map fun x => x.1 + x.2

/-- The message padded to whole blocks: a one bit, zeros, and the length in bits. -/
def shaPad (l : List Byte) : List Byte :=
  l ++ 0x80 :: (List.replicate ((239 - l.length % 128) % 128) 0 ++ bytesBE 16 (8 * l.length))

/-- SHA-512. -/
def sha512 (l : List Byte) : List Byte :=
  let m := shaPad l
  ((nats (m.length / 128)).foldl (fun h i => shaBlock h ((m.drop (128 * i)).take 128)) shaInit).flatMap fun w => bytesBE 8 w.toNat

/-- HMAC-SHA-512 (R381) under a key of at most 128 bytes. -/
def hmac512 (k m : List Byte) : List Byte :=
  let key := k ++ List.replicate (128 - k.length) 0
  sha512 (key.map (· ^^^ 0x5C) ++ sha512 (key.map (· ^^^ 0x36) ++ m))

/-- The 64 bytes of a 512-bit value, in the order in which memory holds them. -/
def bytes512 (v : BitVec 512) : List Byte := bytesLE 64 v.toNat
/-- The 32 bytes of a 256-bit value. -/
def bytes256 (v : BitVec 256) : List Byte := bytesLE 32 v.toNat
/-- The 512-bit value that bytes hold. -/
def bits512 (l : List Byte) : BitVec 512 := BitVec.ofNat 512 (ofBytesLE l)

/-! ## Ed25519 (RFC 8032) -/

/-- The field prime. -/
def edP : Nat := 2 ^ 255 - 19
/-- The order of the base point. -/
def edL : Nat := 2 ^ 252 + 27742317777372353535851937790883648493
/-- The constant of the curve: -121665/121666. -/
def edD : Nat := 0x52036CEE2B6FFE738CC740797779E89800700A4D4141D8AB75EB4DCA135978A3
/-- A square root of -1. -/
def edI : Nat := 0x2B8324804FC1DF0B2B4D00993DFBD7A72F431806AD2FE478C4EE1B274A0EA0B0

/-- A power in the field, by the bits of the exponent below `2 ^ n`. -/
def edPow (b e : Nat) : Nat → Nat
  | 0 => 1
  | n + 1 =>
    let r := edPow b (e / 2) n
    let q := r * r % edP
    if e % 2 = 1 then q * b % edP else q

/-- The inverse in the field. -/
def edInv (x : Nat) : Nat := edPow x (edP - 2) 255

/-- A point of the curve in extended coordinates. -/
structure EdPoint where
  x : Nat
  y : Nat
  z : Nat
  t : Nat
  deriving DecidableEq, Repr

/-- The neutral point. -/
def edZero : EdPoint := ⟨0, 1, 1, 0⟩

/-- The base point. -/
def edBase : EdPoint :=
  let x := 0x216936D3CD6E53FEC0A4E231FDD6DC5C692CC7609525A7B2C9562D608F25D51A
  let y := 0x6666666666666666666666666666666666666666666666666666666666666658
  ⟨x, y, 1, x * y % edP⟩

/-- The sum of two points. -/
def edAdd (a b : EdPoint) : EdPoint :=
  let p := (a.y + edP - a.x) * (b.y + edP - b.x) % edP
  let q := (a.y + a.x) * (b.y + b.x) % edP
  let r := a.t * 2 * edD * b.t % edP
  let s := a.z * 2 * b.z % edP
  let e := q + edP - p
  let f := s + edP - r
  let g := s + r
  let h := q + p
  ⟨e * f % edP, g * h % edP, f * g % edP, e * h % edP⟩

/-- A multiple of a point, by the bits of the factor below `2 ^ n`. -/
def edMul (b : EdPoint) (e : Nat) : Nat → EdPoint
  | 0 => edZero
  | n + 1 =>
    let r := edMul b (e / 2) n
    let q := edAdd r r
    if e % 2 = 1 then edAdd q b else q

/-- Two points are the same. -/
def edSame (a b : EdPoint) : Bool := a.x * b.z % edP == b.x * a.z % edP && a.y * b.z % edP == b.y * a.z % edP

/-- The 32 bytes of a point. -/
def edEncode (a : EdPoint) : List Byte :=
  let z := edInv a.z
  bytesLE 32 (a.y * z % edP + 2 ^ 255 * (a.x * z % edP % 2))

/-- The point that 32 bytes stand for, if they stand for one. -/
def edDecode (l : List Byte) : Option EdPoint :=
  let n := ofBytesLE l
  let sign := n / 2 ^ 255
  let y := n % 2 ^ 255
  let xx := (y * y + edP - 1) * edInv (edD * y * y + 1) % edP
  let r := edPow xx ((edP + 3) / 8) 255
  let x := if r * r % edP = xx then r else r * edI % edP
  if edP ≤ y ∨ x * x % edP ≠ xx ∨ (x = 0 ∧ sign = 1) then none
  else
    let x := if x % 2 = sign then x else edP - x
    some ⟨x, y, 1, x * y % edP⟩

/-- The secret factor and the prefix of a 32-byte seed. -/
def edSecret (seed : List Byte) : Nat × List Byte :=
  let h := sha512 seed
  let n := ofBytesLE (h.take 32)
  (n % 2 ^ 254 / 8 * 8 + 2 ^ 254, h.drop 32)

/-- The public key of a seed. -/
def edPublic (seed : List Byte) : List Byte := edEncode (edMul edBase (edSecret seed).1 255)

/-- The signature of a message under a seed: 64 bytes. -/
def edSign (seed m : List Byte) : List Byte :=
  let s := edSecret seed
  let r := ofBytesLE (sha512 (s.2 ++ m)) % edL
  let point := edEncode (edMul edBase r 253)
  let k := ofBytesLE (sha512 (point ++ edPublic seed ++ m)) % edL
  point ++ bytesLE 32 ((r + k * s.1) % edL)

/-- The check of a signature under a public key, by the group equation with the cofactor. -/
def edVerify (key m sig : List Byte) : Bool :=
  match edDecode key, edDecode (sig.take 32) with
  | some a, some r =>
    let s := ofBytesLE (sig.drop 32)
    let k := ofBytesLE (sha512 (sig.take 32 ++ key ++ m)) % edL
    let eight (x : EdPoint) : EdPoint := edMul x 8 4
    decide (sig.length = 64 ∧ s < edL) && edSame (eight (edMul edBase s 253)) (edAdd (eight r) (eight (edMul a k 253)))
  | _, _ => false

end Sys2Proof.Machine
end

