-- ==== Sys2Proof/Machine/Base.lean ====
section
/-!
DEFINITION. Access to the parts of the state, memory and its lines in error, and translation
(R170, R172, R349 to R355, R366, R374). Every read and write of a part of the state goes through the
functions of this file.
-/

namespace Sys2Proof.Machine

/-! ## The parts of the state -/

/-- The seat numbered `i`. -/
def State.seat (s : State) (i : Nat) : Seat := SMap.get Seat.reset s.seats i
/-- Replaces a seat. -/
def State.setSeat (s : State) (i : Nat) (x : Seat) : State := { s with seats := SMap.set Seat.reset s.seats i x }
/-- Changes a seat. -/
def State.modSeat (s : State) (i : Nat) (f : Seat → Seat) : State := s.setSeat i (f (s.seat i))
/-- The core numbered `i`. -/
def State.core (s : State) (i : Nat) : Core := SMap.get Core.reset s.cores i
/-- Replaces a core. -/
def State.setCore (s : State) (i : Nat) (x : Core) : State := { s with cores := SMap.set Core.reset s.cores i x }
/-- Changes a core. -/
def State.modCore (s : State) (i : Nat) (f : Core → Core) : State := s.setCore i (f (s.core i))
/-- The quad numbered `i`. -/
def State.quad (s : State) (i : Nat) : Quad := SMap.get Quad.reset s.quads i
/-- Replaces a quad. -/
def State.setQuad (s : State) (i : Nat) (x : Quad) : State := { s with quads := SMap.set Quad.reset s.quads i x }
/-- Changes a quad. -/
def State.modQuad (s : State) (i : Nat) (f : Quad → Quad) : State := s.setQuad i (f (s.quad i))
/-- The array of a quad. -/
def State.arr (s : State) (i : Nat) : Arr := (s.quad i).arr
/-- Changes the array of a quad. -/
def State.modArr (s : State) (i : Nat) (f : Arr → Arr) : State := s.modQuad i fun q => { q with arr := f q.arr }
/-- The die numbered `i`. -/
def State.die (s : State) (i : Nat) : Die := SMap.get Die.reset s.dies i
/-- Replaces a die. -/
def State.setDie (s : State) (i : Nat) (x : Die) : State := { s with dies := SMap.set Die.reset s.dies i x }
/-- Changes a die. -/
def State.modDie (s : State) (i : Nat) (f : Die → Die) : State := s.setDie i (f (s.die i))
/-- The context with tag `t`. -/
def State.ctx (s : State) (t : Nat) : Ctx := SMap.get Ctx.fresh s.ctxs t
/-- Replaces a context. -/
def State.setCtx (s : State) (t : Nat) (x : Ctx) : State := { s with ctxs := SMap.set Ctx.fresh s.ctxs t x }
/-- Changes a context. -/
def State.modCtx (s : State) (t : Nat) (f : Ctx → Ctx) : State := s.setCtx t (f (s.ctx t))
/-- The packet pipeline numbered `v`. -/
def State.vat (s : State) (v : Nat) : Vat := SMap.get Vat.reset s.vats v
/-- Changes a packet pipeline. -/
def State.modVat (s : State) (v : Nat) (f : Vat → Vat) : State := { s with vats := SMap.set Vat.reset s.vats v (f (s.vat v)) }
/-- The port numbered `p`. -/
def State.port (s : State) (p : Nat) : Port := SMap.get Port.reset s.ports p
/-- Changes a port. -/
def State.modPort (s : State) (p : Nat) (f : Port → Port) : State := { s with ports := SMap.set Port.reset s.ports p (f (s.port p)) }
/-- The queue of a context under a handle. -/
def State.queue (s : State) (t h : Nat) : Queue := SMap.get Queue.free (s.ctx t).queues h
/-- Changes a queue. -/
def State.modQueue (s : State) (t h : Nat) (f : Queue → Queue) : State :=
  s.modCtx t fun c => { c with queues := SMap.set Queue.free c.queues h (f (SMap.get Queue.free c.queues h)) }

/-- The core of a seat. -/
def coreOf (seat : Nat) : Nat := seat / 4
/-- The quad of a seat. -/
def quadOf (seat : Nat) : Nat := seat / 16
/-- The die of a seat. -/
def dieOf (seat : Nat) : Nat := seat / 448

/-- The cycle count of a core: die cycles less its frozen and gated ones (R90, R19). -/
def State.cycle (s : State) (core : Nat) : Nat := s.dieCycle - (s.core core).frozen - (s.quad (core / 4)).gated

/-- The cycle count of an array: ungated die cycles (R19, R204). -/
def State.arrCycle (s : State) (quad : Nat) : Nat := s.dieCycle - (s.quad quad).gated

/-- PLACE of a seat. -/
def placeOf (seat : Nat) : W64 :=
  BitVec.ofNat 64 (dieOf seat * 2 ^ 16 + quadOf seat % 28 * 2 ^ 8 + coreOf seat % 4 * 16 + seat % 4)

/-- A free value and the state after it (log 2). -/
def State.freshWord (s : State) : W64 × State := (Config.freeWord s.free, { s with free := s.free + 1 })

/-- A number not used before. -/
def State.freshId (s : State) : Nat × State := (s.nextId, { s with nextId := s.nextId + 1 })

/-! ## The descriptor of a context (R368) -/

/-- A word of the descriptor. -/
def Ctx.word (c : Ctx) (i : Nat) : W64 := SMap.get 0 c.desc i
/-- WDINT. -/
def Ctx.wdint (c : Ctx) : Nat := fld (c.word 0) 50 45
/-- DBG. -/
def Ctx.dbg (c : Ctx) : Bool := bit (c.word 0) 58
/-- REC. -/
def Ctx.recMode (c : Ctx) : Bool := c.rcd || c.replay
/-- XVEC, with its low bits zero. -/
def Ctx.xvec (c : Ctx) : Addr := BitVec.ofNat 48 (fld (c.word 3) 47 2 * 4)
/-- LOGH. -/
def Ctx.logh (c : Ctx) : Nat := fld (c.word 4) 23 12
/-- FQH. -/
def Ctx.fqh (c : Ctx) : Nat := fld (c.word 4) 11 0
/-- POOLN and POOL. -/
def Ctx.pooln (c : Ctx) : Nat := fld (c.word 5) 63 48
/-- POOL. -/
def Ctx.poolVa (c : Ctx) : Nat := fld (c.word 5) 47 0
/-- SAVE. -/
def Ctx.saveVa (c : Ctx) : Nat := fld (c.word 6) 47 0
/-- SPTAB. -/
def Ctx.sptabVa (c : Ctx) : Nat := fld (c.word 7) 47 0
/-- FGBASE. -/
def Ctx.fgBase (c : Ctx) : Nat := fld (c.word 8) 47 16
/-- FGLEN. -/
def Ctx.fgLen (c : Ctx) : Nat := fld (c.word 9) 31 0
/-- CARN. -/
def Ctx.carn (c : Ctx) : Nat := fld (c.word 10) 63 48
/-- CARA. -/
def Ctx.caraVa (c : Ctx) : Nat := fld (c.word 10) 47 0
/-- NRK. -/
def Ctx.nrk (c : Ctx) : Nat := fld (c.word 11) 63 48
/-- RKT. -/
def Ctx.rktVa (c : Ctx) : Nat := fld (c.word 11) 47 0
/-- IPK. -/
def Ctx.ipk (c : Ctx) : BitVec 256 := c.word 15 ++ c.word 14 ++ c.word 13 ++ c.word 12

/-! ## Memory -/

/-- First key of host memory. -/
def hostBase : Nat := 2 ^ 48
/-- First key of the scratchpads. -/
def spadBase : Nat := 2 ^ 49
/-- The location of a byte of a context's scratchpad on a quad of the package (R350). -/
def spKey (ctx quad off : Nat) : Nat := spadBase + ctx * 2 ^ 32 + quad * 2 ^ 22 + off
/-- The location lies in a scratchpad. -/
def isSpad (k : Nat) : Bool := decide (spadBase ≤ k)

/-- One byte. -/
def State.rdByte (s : State) (k : Nat) : Byte := SMap.get memDefault s.mem k
/-- `n` bytes from `k` on. -/
def State.rdBytes (s : State) (k : Nat) : Nat → List Byte
  | 0 => []
  | n + 1 => s.rdByte k :: s.rdBytes (k + 1) n
/-- `n` bytes from `k` on, as a little-endian number. -/
def State.rdNat (s : State) (k n : Nat) : Nat := ofBytesLE (s.rdBytes k n)
/-- A 64-bit word. -/
def State.rdWord (s : State) (k : Nat) : W64 := BitVec.ofNat 64 (s.rdNat k 8)

/-- Writes bytes into the sparse memory. -/
def putBytes : SMap Byte → Nat → List Byte → SMap Byte
  | m, _, [] => m
  | m, k, b :: l => putBytes (SMap.set memDefault m k b) (k + 1) l

/-- Lines that a write of `n` bytes at `k` covers whole (R366). -/
def linesCovered (k n : Nat) : List Nat := natsFrom (cdiv k 64) ((k + n) / 64 - cdiv k 64)

/-- Takes lines out of error. -/
def clearLines : SMap Bool → List Nat → SMap Bool
  | m, [] => m
  | m, l :: ls => clearLines (SMap.erase m l) ls

/-- Writes bytes at a location: a line in error stays so unless the write covers all its 64 bytes (R366). -/
def State.wrBytes (s : State) (k : Nat) (l : List Byte) : State :=
  { s with mem := putBytes s.mem k l, poison := clearLines s.poison (linesCovered k l.length) }
/-- Writes the low `n` bytes of a number, little-endian. -/
def State.wrNat (s : State) (k n v : Nat) : State := s.wrBytes k (bytesLE n v)
/-- Writes a 64-bit word. -/
def State.wrWord (s : State) (k : Nat) (w : W64) : State := s.wrNat k 8 w.toNat

/-- The line (location div 64) is in error. -/
def State.bad (s : State) (line : Nat) : Bool := SMap.get false s.poison line
/-- The first line in error among those that `n` bytes at `k` touch. -/
def State.badIn (s : State) (k n : Nat) : Option Nat :=
  (natsFrom (k / 64) (if n = 0 then 0 else (k + n - 1) / 64 + 1 - k / 64)).find? s.bad

/-- Removes every listed byte, tag and error of a range of locations. -/
def State.wipe (s : State) (k n : Nat) : State :=
  { s with mem := SMap.keep (fun a => decide (a < k ∨ k + n ≤ a)) s.mem
           tags := SMap.keep (fun a => decide (a < k / 256 ∨ (k + n) / 256 ≤ a)) s.tags
           poison := clearLines s.poison ((s.poison.map Prod.fst).filter fun a => decide (k / 64 ≤ a ∧ a < (k + n) / 64)) }

/-! ## Places of an address -/

/-- The publishable buffer with an index. -/
def Ctx.pb (c : Ctx) (i : Nat) : PubBuf := SMap.get ⟨0, 0, 0, 0, false, []⟩ c.pbs i

/-- The location that reads and plain writes reach: the front (R180). -/
def State.front (s : State) (ctx : Nat) (p : PLoc) : Nat :=
  match p.pb with
  | none => p.key
  | some (i, kb) => if ((s.ctx ctx).pb i).sel then kb else p.key

/-- The location that engine writes reach: the shadow (R180). -/
def State.shadow (s : State) (ctx : Nat) (p : PLoc) : Nat :=
  match p.pb with
  | none => p.key
  | some (i, kb) => if ((s.ctx ctx).pb i).sel then p.key else kb

/-- The place `n` bytes further on, in the same page. -/
def PLoc.plus (p : PLoc) (n : Nat) : PLoc := ⟨p.key + n, p.pb.map fun x => (x.1, x.2 + n)⟩

/-- What an access needs of a leaf (R353). `dev` is a write of the device itself, which ignores DW (R352). -/
inductive Right where
  | fetch | rd | wr | red | atom | dev
  deriving DecidableEq, Repr

/-- A leaf grants the access (R353). -/
def rightOk (k : Right) (l : Leaf) : Bool :=
  match k with
  | .fetch => l.x
  | .rd => l.r
  | .wr => l.w && !l.dw
  | .red => l.w && !l.dw && l.kind != 1#2
  | .atom => l.r && l.w && !l.dw && l.kind != 1#2
  | .dev => true

/-- What a translation answers: a place; a walk to wait for; a page to wait for (R354); or a fault. -/
inductive Tr where
  | ok (p : PLoc)
  | walk (page : Nat) (large : Bool)
  | hold
  | fault (cause : Nat)
  deriving DecidableEq, Repr

/-- The leaf of an address and whether it is a large one (R351). -/
def Ctx.leafAt (c : Ctx) (va : Nat) : Leaf × Bool :=
  match SMap.find c.small (va / 2 ^ 16) with
  | some l => (l, false)
  | none => (SMap.get Leaf.absent c.large (va / 2 ^ 25), true)

/-- The place of an address under a leaf (R351, R352, R364). -/
def Ctx.placeOf (c : Ctx) (l : Leaf) (large : Bool) (va : Nat) : PLoc :=
  let off := if large then va % 2 ^ 25 else va % 2 ^ 16
  let phys := l.frame.toNat * 2 ^ 16 + off
  if l.kind = 1#2 then ⟨hostBase + phys, none⟩
  else if l.kind = 2#2 then
    let b := c.pb l.pbi.toNat
    ⟨phys, some (l.pbi.toNat, (b.frameB.toNat + (l.frame.toNat - b.frameA.toNat)) * 2 ^ 16 + off)⟩
  else ⟨phys, none⟩

/-- The scratchpad window that holds an address: quad of the package and offset (R350). -/
def windowOf (va : Nat) : Option (Nat × Nat) :=
  if 0xFF0000000000 ≤ va ∧ va < 0xFF0020000000 then
    let o := va - 0xFF0000000000
    if o % 0x8000000 / 0x400000 < 28 then some (o / 0x8000000 * 28 + o % 0x8000000 / 0x400000, o % 0x400000) else none
  else none

/-- The base address of the scratchpad window of a quad of the package (R350). -/
def windowBase (quad : Nat) : Nat := 0xFF0000000000 + quad / 28 * 0x8000000 + quad % 28 * 0x400000

/-- SPLEN of a context on a quad, in bytes (R350). -/
def Ctx.spLen (c : Ctx) (quad : Nat) : Nat := SMap.get 0 c.splen quad

/-- An address below the reserved ranges that is translated through page tables (R349). -/
def paged (va : Nat) : Bool := decide (va < 0xC00000000000)

/-- The address lies in the host window (R349). -/
def inHost (va : Nat) : Bool := decide (0x800000000000 ≤ va ∧ va < 0xC00000000000)

/-- The translation of one address with the leaves as they stand (R349 to R354). -/
def Ctx.look (c : Ctx) (ctx : Nat) (k : Right) (va : Nat) : Tr :=
  if paged va then
    let (l, big) := c.leafAt va
    if l.err then .fault 0x70
    else if l.mig then .hold
    else if l.v then (if rightOk k l then .ok (c.placeOf l big va) else .fault 0x21)
    else if l.onhost then .hold
    else .fault 0x20
  else
    match windowOf va with
    | none => .fault 0x20
    | some (q, o) => if o < c.spLen q then .ok ⟨spKey ctx q o, none⟩ else .fault 0x21

/-- The line of a location is lent to another chip (R430). -/
def State.lentAt (s : State) (key : Nat) : Bool := (nats 4).any fun d => (s.die d).lentOut.any fun l => l.key == key / 64

/-- The translation that an engine or a device makes now, with no wait for a walk (log 12). An access to a line that
is lent waits for its return (R430). -/
def State.look (s : State) (ctx : Nat) (k : Right) (va : Nat) : Tr :=
  match (s.ctx ctx).look ctx k va with
  | .ok p => if k != .dev && s.lentAt (s.front ctx p) then .hold else .ok p
  | r => r

/-- The quad's cache holds the page, or a walk for it has ended (R355). -/
def State.cached (s : State) (ctx quad va : Nat) : Bool :=
  (s.quad quad).tlb.any (fun e => e == (ctx, va / 2 ^ 16, false) || e == (ctx, va / 2 ^ 25, true))
    || (s.die (quad / 28)).walks.any fun w => w == (ctx, va / 2 ^ 16, quad, true)

/-- The translation that a seat of a quad makes at issue (R355, R357). Bundle fetch, scalar and Y-slot
accesses do not reach the windows of other dies (R170). -/
def State.trans (s : State) (ctx quad : Nat) (k : Right) (va : Nat) : Tr :=
  if paged va then
    if s.cached ctx quad va then s.look ctx k va else .walk (va / 2 ^ 16) (s.ctx ctx |>.leafAt va).2
  else
    match windowOf va with
    | none => .fault 0x20
    | some (q, _) => if q / 28 = quad / 28 then s.look ctx k va else .fault 0x21

/-- Asks the walker of the die for a page, unless it has been asked or has no room: 64 walks and 1,024
requests behind them (R355). -/
def State.askWalk (s : State) (ctx quad page : Nat) : State :=
  let d := quad / 28
  if (s.die d).walks.any (fun w => w.1 == ctx && w.2.1 == page && w.2.2.1 == quad) then s
  else if ((s.die d).walks.filter fun w => !w.2.2.2).length < 1088 then
    s.modDie d fun x => { x with walks := x.walks ++ [(ctx, page, quad, false)] }
  else s

/-- The tile table of a context on a quad, as its first location (R165). -/
def Ctx.tileTable (c : Ctx) (ctx quad : Nat) : Nat := spKey ctx quad (c.spLen quad - 8192)

/-- `n` bytes at an address touch the tile table of the window they lie in (R165). -/
def Ctx.onTile (c : Ctx) (va n : Nat) : Bool :=
  match windowOf va with
  | none => false
  | some (q, o) => decide (0 < c.spLen q ∧ c.spLen q - 8192 < o + n ∧ o < c.spLen q)

/-- The address of COUNT of a tile descriptor (R165). -/
def Ctx.onCount (c : Ctx) (va : Nat) : Bool :=
  c.onTile va 8 && (match windowOf va with | none => false | some (_, o) => o % 32 == 16)

/-- The 64 KiB pages that `n` bytes from `va` touch, each with the first address in it. -/
def pagesOf (va n : Nat) : List Nat :=
  if n = 0 then []
  else (natsFrom (va / 2 ^ 16) ((va + n - 1) / 2 ^ 16 + 1 - va / 2 ^ 16)).map fun p => Nat.max va (p * 2 ^ 16)

/-- What the translation of a range answers: the held places of its pages; a wait; or the first address
that fails, with its cause. -/
inductive TrRange where
  | ok (h : Held)
  | walk (page : Nat)
  | hold (va : Nat)
  | fault (cause va : Nat)
  deriving DecidableEq, Repr

/-- Translates the pages of a range one after the other. -/
def transPages (f : Nat → Tr) : List Nat → TrRange
  | [] => .ok []
  | a :: l =>
    match f (a % 2 ^ 48) with
    | .fault c => .fault c (a % 2 ^ 48)
    | .walk p _ => .walk p
    | .hold => .hold (a % 2 ^ 48)
    | .ok p =>
      match transPages f l with
      | .ok h => .ok ((a % 2 ^ 48 / 2 ^ 16, ⟨p.key - a % 2 ^ 16, p.pb.map fun x => (x.1, x.2 - a % 2 ^ 16)⟩) :: h)
      | r => r

/-- The place of an address through held translations (R459). -/
def heldPlace (h : Held) (va : Nat) : Option PLoc :=
  (h.find? fun e => e.1 == va % 2 ^ 48 / 2 ^ 16).map fun e => e.2.plus (va % 2 ^ 16)

/-- The front location of an address through held translations; 0 where none is held. -/
def State.heldKey (s : State) (ctx : Nat) (h : Held) (va : Nat) : Nat :=
  match heldPlace h va with
  | some p => s.front ctx p
  | none => 0

/-- Reads `n` bytes, byte by byte, through a function from addresses to locations. -/
def State.gather (s : State) (loc : Nat → Nat) (va : Nat) : Nat → List Byte
  | 0 => []
  | n + 1 => s.rdByte (loc (va % 2 ^ 48)) :: s.gather loc (va + 1) n

/-- The first error among the lines of `n` bytes read through a function from addresses to locations,
as the address of the failing line. -/
def State.gatherBad (s : State) (loc : Nat → Nat) (va n : Nat) : Option Nat :=
  ((natsFrom (va / 64) (if n = 0 then 0 else (va + n - 1) / 64 + 1 - va / 64)).find? fun l =>
    s.bad (loc (Nat.max va (l * 64) % 2 ^ 48) / 64)).map fun l => l * 64

/-- The physical address of a byte of a sector written with swizzle `z` (R151). -/
def swzAddr (z va : Nat) : Nat := va / 256 * 256 + ((va % 256 / 16) ^^^ (2 * z)) * 16 + va % 16

/-- The first line in error among `n` bytes at an address that are read as 16-byte chunks, each at the place
that `f` gives: the address of the line (R366). -/
def State.badChunk (s : State) (loc f : Nat → Nat) (va n : Nat) : Option Nat :=
  (natsFrom (va / 16) (if n = 0 then 0 else (va + n - 1) / 16 + 1 - va / 16)).findSome? fun i =>
    let a := f (Nat.max va (16 * i) % 2 ^ 48)
    if s.bad (loc a / 64) then some (a / 64 * 64) else none

/-- Puts the values of `f` at `n` keys from `lo` on into a sparse map, in the place of what stood there. -/
def splice {α : Type} [DecidableEq α] (d : α) (m : SMap α) (lo n : Nat) (f : Nat → α) : SMap α :=
  SMap.keep (fun k => decide (k < lo)) m
    ++ (nats n).filterMap (fun i => if f i = d then none else some (lo + i, f i))
    ++ SMap.keep (fun k => decide (lo + n ≤ k)) m

/-- The engine has written: its exposed words are exposed no more. -/
def State.unexpose (s : State) (id : Nat) : State :=
  { s with cores := s.cores.map fun c => (c.1, { c.2 with exposed := c.2.exposed.filter fun x => x.id != id }) }

/-! ## Fault records -/

/-- The next record id of a die (R360). -/
def State.addFault (s : State) (d : Nat) (r : FRec) : State :=
  s.modDie d fun x => { x with faults := x.faults ++ [{ r with rid := x.nextRid }], nextRid := x.nextRid + 1 }

/-- A lent line is wanted at its home, which recalls it (R430). -/
def State.wantLine (s : State) (key : Nat) : State :=
  (nats 4).foldl (fun s d => s.modDie d fun x =>
    { x with lentOut := x.lentOut.map fun l => if l.key = key / 64 ∧ l.wanted = 0 then { l with wanted := 1 } else l }) s

/-- The record of a page on the host that an access waits for, once for each page (R354), or the recall of a lent
line (R430). -/
def State.noteHold (s : State) (d ctx va : Nat) : State :=
  let s := match (s.ctx ctx).look ctx .dev va with
    | .ok p => s.wantLine (s.front ctx p)
    | _ => s
  let page := va / 2 ^ 16 * 2 ^ 16
  let (l, _) := (s.ctx ctx).leafAt va
  if l.mig || !l.onhost then s
  else if (nats 4).any fun e => (s.die e).faults.any fun r => r.src == 3 && r.ctx == ctx && r.va == BitVec.ofNat 48 page then s
  else if 1024 ≤ (s.die d).faults.length then s
  else s.addFault d { rid := 0, ctx, cause := 0x20, src := 3, side := 0, hold := true, va := BitVec.ofNat 48 page,
                      carr := 0, chip := 0, first := 0, secs := [], tid := 0, sent := false }

/-! ## Who waits for what (R330, R354, R355, R363) -/

/-- The token of the next issue of a seat. -/
def Seat.tok (x : Seat) : QTok := .issue x.carr x.lastIssue

/-- What a token names still waits. -/
def State.tokLive (s : State) (ctx : Nat) (t : QTok) : Bool :=
  match t with
  | .acc id => s.accs.any fun a => a.id == id
  | .issue carr last => s.seats.any fun x => x.2.st == .occupied && x.2.ctx == ctx && x.2.carr == carr && x.2.lastIssue == last
  | .elem carr sq n => s.seats.any fun x => x.2.st == .occupied && x.2.ctx == ctx && x.2.carr == carr
      && x.2.streams.any fun q => q.1 == sq && q.2.st == .active && q.2.pos.toNat + q.2.fetched.length == n
  | .sector id sec => s.quads.any fun q => q.2.trans.any fun t => t.id == id && t.todo.any fun r => decide (r.1 ≤ sec ∧ sec < r.1 + r.2)

/-- An access to a page may proceed, as far as others wait for the page: none that still waits arrived before it (R363). -/
def State.pageMay (s : State) (ctx va : Nat) (t : QTok) : Bool :=
  match (s.ctx ctx).pageq.find? fun e => e.1 == va % 2 ^ 48 / 2 ^ 16 && s.tokLive ctx e.2 with
  | none => true
  | some e => e.2 == t

/-- An access is turned away from a page: at one that is away or moves, or behind those that wait for it, it takes its place. It
waits at one page at a time. -/
def State.pageJoin (s : State) (ctx va : Nat) (t : QTok) : State :=
  let l := ((s.ctx ctx).leafAt va).1
  let page := va % 2 ^ 48 / 2 ^ 16
  if paged va && (l.mig || (!l.v && l.onhost) || !s.pageMay ctx va t) && !(s.ctx ctx).pageq.contains (page, t) then
    s.modCtx ctx fun c => { c with pageq := (c.pageq.filter fun e => s.tokLive ctx e.2 && e.2 != t) ++ [(page, t)] }
  else s

/-- The translation that an issue of a seat of a quad makes: of `State.trans`, in the order of those that wait for the page. -/
def State.seatTrans (s : State) (seat quad : Nat) (k : Right) (va : Nat) : Tr :=
  match s.trans (s.seat seat).ctx quad k va with
  | .ok p => if s.pageMay (s.seat seat).ctx va (s.seat seat).tok then .ok p else .hold
  | r => r

/-- The issue of a seat waits for a page (R354, R363). -/
def State.seatHold (s : State) (seat va : Nat) : State :=
  let x := s.seat seat
  (s.noteHold (dieOf seat) x.ctx va).pageJoin x.ctx va x.tok

/-- The translation that the transfer unit or a transfer queue of a quad makes, through the quad's cache and the die's walker
(R355), in the order of those that wait for the page. -/
def State.unitTrans (s : State) (ctx quad : Nat) (k : Right) (va : Nat) (t : QTok) : Tr :=
  if paged va && !s.cached ctx quad va then .walk (va / 2 ^ 16) ((s.ctx ctx).leafAt va).2
  else
    match s.look ctx k va with
    | .ok p => if s.pageMay ctx va t then .ok p else .hold
    | r => r

/-- What a unit does that waits at an address: it asks the walker (R355), or waits for the page. -/
def State.unitHold (s : State) (ctx quad va : Nat) (t : QTok) : State :=
  if paged va && !s.cached ctx quad va then s.askWalk ctx quad (va % 2 ^ 48 / 2 ^ 16)
  else (s.noteHold (quad / 28) ctx va).pageJoin ctx va t

/-! ## The fields of a queue (R329) -/

/-- HOME (R329). -/
def Queue.home (q : Queue) : Nat := fld q.word0 57 56
/-- CLASS. -/
def Queue.cls (q : Queue) : Nat := fld q.word0 55 54
/-- CONS. -/
def Queue.cons (q : Queue) : Nat := fld q.word0 53 52
/-- LOG2N. -/
def Queue.log2n (q : Queue) : Nat := fld q.word0 51 48
/-- RING. -/
def Queue.ringVa (q : Queue) : Nat := fld q.word0 47 0
/-- NODEV. -/
def Queue.nodev (q : Queue) : Bool := bit q.word0 59
/-- NOHOST. -/
def Queue.nohost (q : Queue) : Bool := bit q.word0 60
/-- PIN. -/
def Queue.pin (q : Queue) : Bool := bit q.word0 58
/-- The ring length N. -/
def Queue.n (q : Queue) : Nat := 2 ^ q.log2n
/-- The bit of a ticket in a bitmap. -/
def Queue.idx (q : Queue) (k : BitVec 32) : Nat := k.toNat % q.n
/-- The address of the entry of a ticket. -/
def Queue.entryVa (q : Queue) (k : BitVec 32) : Nat := q.ringVa + 64 * q.idx k

/-- The states of R329. -/
def qFree : Nat := 0
/-- SWAPPED. -/
def qSwapped : Nat := 1
/-- LOADING. -/
def qLoading : Nat := 2
/-- RESIDENT. -/
def qResident : Nat := 3
/-- EVICTING. -/
def qEvicting : Nat := 4

/-- Pads a list of bytes to a length. -/
def padTo (n : Nat) (l : List Byte) : List Byte := l ++ List.replicate (n - l.length) 0

end Sys2Proof.Machine
end

