-- ==== Sys2Proof/Machine/Moves.lean ====
section
/-!
DEFINITION. The bytes and sectors of a transfer command (R162, R163, R359), the swizzle tags that it checks (R152), and the
command of a fired TCOPY (R321, R323).
-/

namespace Sys2Proof.Machine

/-! ## Bytes of a command -/

/-- The number of bytes of the byte range of a command (R359). -/
def Trans.bytes (t : Trans) : Nat :=
  match t.k with
  | .gld | .sct => t.len * t.rb
  | _ => t.len
/-- Its transfer sectors. -/
def Trans.nsec (t : Trans) : Nat := cdiv t.bytes 256

/-- The quad `j - 7` places along the ring (R9, R163). -/
def ringQuad (quad j : Nat) : Nat := quad / 28 * 28 + (quad % 28 + 21 + j) % 28

/-- The quads that the mask of an MCAST from a quad names (R163). -/
def targetsOf (quad : Nat) (mask : BitVec 15) : List Nat := ((nats 15).filter fun j => mask.getLsbD j).map (ringQuad quad)

/-- How often the byte range is written: once for each target of an MCAST. -/
def Trans.copies (t : Trans) : Nat :=
  match t.k with
  | .mcast m => (targetsOf t.home m).length
  | _ => 1

/-- The padding index (R162). -/
def padIdx : Nat := 0xFFFFFFFF

/-- The address that byte `o` of the range is read from; none for a padding row of a GLD. -/
def Trans.srcVa (t : Trans) (o : Nat) : Option Nat :=
  match t.k with
  | .gld =>
    let x := nth 0 t.idx (o / t.rb)
    if x = padIdx then none else some ((t.src.toNat + x * t.rb + o % t.rb) % 2 ^ 48)
  | _ => some ((t.src.toNat + o) % 2 ^ 48)

/-- The address that byte `o` is written to, for copy `i`; none for a padding entry of a SCT. -/
def Trans.dstVa (t : Trans) (i o : Nat) : Option Nat :=
  match t.k with
  | .sct =>
    let x := nth 0 t.idx (o / t.rb)
    if x = padIdx then none else some ((t.dst.toNat + x * t.rb + o % t.rb) % 2 ^ 48)
  | .mcast m => some (windowBase (nth 0 (targetsOf t.home m) i) + (t.dst.toNat - windowBase t.home) + o)
  | _ => some ((t.dst.toNat + o) % 2 ^ 48)

/-- The bytes of a transfer sector: the copy, and the offsets. -/
def Trans.secBytes (t : Trans) (sec : Nat) : Nat × List Nat :=
  let k := sec % t.nsec
  (sec / t.nsec, natsFrom (256 * k) (Nat.min 256 (t.bytes - 256 * k)))

/-- A sector is still to be tried. -/
def Trans.isTodo (t : Trans) (sec : Nat) : Bool := t.todo.any fun r => decide (r.1 ≤ sec ∧ sec < r.1 + r.2)

/-- Takes a sector out of the list of those still to be tried. -/
def dropSec (sec : Nat) (l : List (Nat × Nat)) : List (Nat × Nat) :=
  l.flatMap fun r =>
    if r.1 ≤ sec ∧ sec < r.1 + r.2 then
      (if sec = r.1 then [] else [(r.1, sec - r.1)]) ++ (if sec + 1 = r.1 + r.2 then [] else [(sec + 1, r.1 + r.2 - (sec + 1))])
    else [r]

/-- The fault records of a command (R359, R360). -/
def State.recsOf (s : State) (t : Trans) : List FRec := (s.die (t.home / 28)).faults.filter fun f => f.src == 1 && f.tid == t.id

/-- A sector has been written. -/
def State.secDone (s : State) (t : Trans) (sec : Nat) : Bool :=
  !t.isTodo sec && !t.lost.contains sec && !((s.recsOf t).any fun f => f.secs.contains sec)

/-- The offsets of the other entries of a SCT that name the row of byte `o`: those of earlier or later entries. -/
def Trans.twins (t : Trans) (o : Nat) (later : Bool) : List Nat :=
  match t.k with
  | .sct =>
    let k := o / t.rb
    ((nats t.len).filter fun j => (if later then decide (k < j) else decide (j < k)) && nth 0 t.idx j == nth 0 t.idx k).map
      fun j => j * t.rb + o % t.rb
  | _ => []

/-! ## Swizzle tags (R152) -/

/-- The tag of the sector at an address; sectors outside allocated scratchpad have tag 0. -/
def State.tagVa (s : State) (ctx va : Nat) : Nat :=
  match windowOf va with
  | some (q, o) => if o < (s.ctx ctx).spLen q then SMap.get 0 s.tags (spKey ctx q o / 256) else 0
  | none => 0

/-- The address of the sector is in allocated scratchpad. -/
def State.padVa (s : State) (ctx va : Nat) : Bool :=
  match windowOf va with
  | some (q, o) => decide (o < (s.ctx ctx).spLen q)
  | none => false

/-- The addresses of the sectors of a context with a tag other than 0. -/
def State.taggedVas (s : State) (ctx : Nat) : List Nat :=
  s.tags.filterMap fun t =>
    let o := t.1 * 256 - spadBase
    if o / 2 ^ 32 = ctx then some (windowBase (o % 2 ^ 32 / 2 ^ 22) + o % 2 ^ 22) else none

/-- The least element of a list. -/
def least : List Nat → Option Nat
  | [] => none
  | a :: l => some (l.foldl Nat.min a)

/-- The sectors that `n` bytes at an address touch; no more than scratchpad has and one. -/
def secsOf (va n : Nat) : List Nat :=
  if n = 0 then [] else (natsFrom (va / 256) (Nat.min ((va + n - 1) / 256 + 1 - va / 256) (2 ^ 21 + 1))).map fun k => 256 * k

/-- The lowest sector of a range that a reader with a swizzle does not find tagged so. -/
def State.readMismatch (s : State) (ctx swz va n : Nat) : Option Nat :=
  if n = 0 then none
  else if swz = 0 then least ((s.taggedVas ctx).filter fun a => decide (a < va + n ∧ va < a + 256))
  else (secsOf va n).find? fun a => s.tagVa ctx (a % 2 ^ 48) != swz

/-- Ranges cover the whole of the sector at an address. -/
def covered (rs : List (Nat × Nat)) (a : Nat) : Bool :=
  rs.any (fun r => decide (r.1 ≤ a ∧ a + 256 ≤ r.1 + r.2))
    || (nats 256).all fun i => rs.any fun r => decide (r.1 ≤ a + i ∧ a + i < r.1 + r.2)

/-- The lowest sector of the ranges of one writer with a swizzle that it may not write: one with another tag that it does not
cover, or for a swizzle other than 0 one that can hold no tag. -/
def State.writeMismatch (s : State) (ctx swz : Nat) (l : List (Nat × Nat)) : Option Nat :=
  let rs := l.filter fun r => r.2 != 0
  if swz = 0 then
    least ((s.taggedVas ctx).filter fun a => rs.any (fun r => decide (a < r.1 + r.2 ∧ r.1 < a + 256)) && !covered rs a)
  else least ((rs.flatMap fun r => secsOf r.1 r.2).filter fun a =>
    !s.padVa ctx (a % 2 ^ 48) || (s.tagVa ctx (a % 2 ^ 48) != swz && !covered rs a))

/-- The number of scratchpad sectors that `n` bytes at an address touch (R152). -/
def State.padSecs (s : State) (ctx va n : Nat) : Nat :=
  if n = 0 then 0
  else (nats 112).foldl (fun k q =>
    let lo := Nat.max va (windowBase q)
    let hi := Nat.min (va + n) (windowBase q + (s.ctx ctx).spLen q)
    if lo < hi then k + ((hi - 1) / 256 + 1 - lo / 256) else k) 0

/-- The rows of the table that the entries of an index list name. -/
def tableRows (base rb : Nat) (idx : List Nat) : List Nat := (idx.filter fun x => x != padIdx).map fun x => (base + x * rb) % 2 ^ 48

/-- A command covers the whole of the sector at an address of its destination, for copy `i`. -/
def Trans.covers (t : Trans) (i a : Nat) : Bool :=
  match t.k with
  | .sct => covered ((tableRows t.dst.toNat t.rb t.idx).map fun r => (r, t.rb)) a
  | _ =>
    let d := (t.dstVa i 0).getD 0
    decide (d ≤ a ∧ a + 256 ≤ d + t.bytes)

/-- The first tag check that a command fails: sources first, the lowest sector (R152). -/
def State.tagFault (s : State) (t : Trans) : Option Nat :=
  let ctx := t.ctx
  match t.k with
  | .gld =>
    let rows := tableRows t.src.toNat t.rb t.idx
    match least (rows.filterMap fun r => s.readMismatch ctx 0 r t.rb) with
    | some a => some a
    | none => s.writeMismatch ctx t.dsw.toNat [(t.dst.toNat, t.bytes)]
  | .sct =>
    let rows := tableRows t.dst.toNat t.rb t.idx
    match s.readMismatch ctx t.ssw.toNat t.src.toNat t.bytes with
    | some a => some a
    | none => s.writeMismatch ctx 0 (rows.map fun r => (r, t.rb))
  | .mcast _ =>
    match s.readMismatch ctx t.ssw.toNat t.src.toNat t.len with
    | some a => some a
    | none => (nats t.copies).findSome? fun i => s.writeMismatch ctx t.dsw.toNat [((t.dstVa i 0).getD 0, t.len)]
  | _ =>
    match s.readMismatch ctx t.ssw.toNat t.src.toNat t.len with
    | some a => some a
    | none => s.writeMismatch ctx t.dsw.toNat [(t.dst.toNat, t.len)]

/-- The scratchpad source sectors of a command, which its issue checks (R152). -/
def State.srcSecs (s : State) (t : Trans) : Nat :=
  match t.k with
  | .gld => (tableRows t.src.toNat t.rb t.idx).foldl (fun n r => n + s.padSecs t.ctx r t.rb) 0
  | .sct => s.padSecs t.ctx t.src.toNat t.bytes
  | _ => s.padSecs t.ctx t.src.toNat t.len

/-! ## Commands -/

/-- A command with nothing done yet. -/
def newTrans (id carr ctx seat home : Nat) (syl ext : W32) (k : TKind) (src dst len rb : Nat) (idx : List Nat) (ssw dsw : BitVec 3)
    (cmode : BitVec 2) (w : W64) (wref : Held) (fired : Bool) : Trans :=
  let t : Trans :=
    { id, carr, ctx, seat, home, syl, ext, k, src := BitVec.ofNat 48 src, dst := BitVec.ofNat 48 dst, len, rb, idx, ssw, dsw, cmode,
      w, wref, todo := [], lost := [], written := 0, counted := 0, stopped := false, aband := none, fired }
  { t with todo := if t.bytes = 0 then [] else [(0, t.nsec * t.copies)] }

/-- The address of the completion word of a command. -/
def Trans.wVa (t : Trans) : Nat := fld t.w 47 0

/-! ## The command of a fired TCOPY (R321, R323) -/

/-- A word of a record. -/
def recWord (l : List Byte) (i : Nat) : W64 := BitVec.ofNat 64 (ofBytesLE ((l.drop (8 * i)).take 8))

/-- CMODE of a TCOPY record. -/
def tcMode (l : List Byte) : BitVec 2 := (recWord l 3).extractLsb' 6 2

/-- The transfer command of a TCOPY record. -/
def tcTrans (id ctx carr seat home : Nat) (l : List Byte) (wref : Held) : Trans :=
  newTrans id carr ctx seat home 0 0 .copy (fld (recWord l 1) 47 0) (fld (recWord l 0) 47 0) (recWord l 2).toNat 0 []
    ((recWord l 3).extractLsb' 0 3) ((recWord l 3).extractLsb' 3 3) (tcMode l) (recWord l 4) wref true

/-- The quad whose scratchpad holds the counter of a trigger. -/
def Trig.quad (t : Trig) : Nat := ((windowOf t.va.toNat).map Prod.fst).getD 0

/-- Translates the completion word of a fired TCOPY. -/
def State.firedWord (s : State) (t : Trig) : TrRange :=
  let va := fld (recWord t.rcd 4) 47 0
  match (tcMode t.rcd).toNat with
  | 1 => transPages (fun a => s.look t.ctx .red a) (pagesOf va 8)
  | 2 => transPages (fun a => s.look t.ctx .atom a) (pagesOf va 16)
  | _ => .ok []

end Sys2Proof.Machine
end

