-- ==== Sys2Proof/Machine/Sync.lean ====
section
/-!
DEFINITION. What happens at the home port of a word that carriages wait on: barrier and counter words
(R307 to R312), the conditions of waits (R317), the carriage record in memory (R244, R245), the waking of a
carriage, triggers that fire or are cancelled (R322, R324), and error release (R326, R460). Every write
applied to memory goes through `State.apply`, so that no wait and no trigger misses one.
-/

namespace Sys2Proof.Machine

/-! ## Barrier and counter words -/

/-- EXP (R307). -/
def bExp (w : W64) : Nat := fld w 63 48
/-- ARR. -/
def bArr (w : W64) : Nat := fld w 47 32
/-- GEN. -/
def bGen (w : W64) : Nat := fld w 31 24
/-- BST. -/
def bSt (w : W64) : Nat := fld w 23 16
/-- OWNER or ERR. -/
def bOwn (w : W64) : Nat := fld w 15 0
/-- A barrier word of its fields. -/
def bWord (exp arr gen st own : Nat) : W64 :=
  BitVec.ofNat 64 (exp % 65536 * 2 ^ 48 + arr % 65536 * 2 ^ 32 + gen % 256 * 2 ^ 24 + st % 256 * 2 ^ 16 + own % 65536)

/-- A malformed barrier word (R309). -/
def bBad (w : W64) : Bool := bExp w == 0 || decide (bExp w < bArr w) || decide (4 ≤ bSt w)

/-- The word after an arrival (R310). A plain-stored OPEN or FILLING word whose count is complete has no row in the table: an
arrival leaves it as it is (DESIGN CHOICE, log 91). -/
def bArrive (w : W64) : W64 :=
  if bBad w || bSt w == 3 then w
  else if bSt w == 2 then
    (if bExp w = 1 then bWord 1 1 (bGen w + 1) 2 0 else bWord (bExp w) 1 (bGen w + 1) 1 (bOwn w))
  else if bArr w + 1 = bExp w then bWord (bExp w) (bExp w) (bGen w) 2 0
  else if bArr w + 1 < bExp w then bWord (bExp w) (bArr w + 1) (bGen w) 1 (bOwn w)
  else w

/-- The word after BARINIT (R315). -/
def bInit (w : W64) (exp own : Nat) : W64 := bWord exp 0 (bGen w + 1) 0 own

/-- The OWNER field of a seat (R308). -/
def ownerOf (seat : Nat) : Nat :=
  32768 + dieOf seat % 4 * 8192 + quadOf seat % 28 * 256 + coreOf seat % 4 * 4 + seat % 4
/-- The seat that an OWNER field with OWN = 1 names. -/
def seatOfOwner (own : Nat) : Nat :=
  own / 8192 % 4 * 448 + own / 256 % 32 * 16 + own / 4 % 4 * 4 + own % 4

/-- The error value of a counter word (R312). -/
def ctrErr (cause reason : Nat) : W64 := BitVec.ofNat 64 (2 ^ 63 + cause % 256 * 2 ^ 48 + reason % 256 * 2 ^ 40)

/-- The role in which failing work names a word (R326). -/
inductive Role where
  | barrier | counter
  deriving DecidableEq, Repr

/-- The word that an error release leaves (R326). -/
def errWord (r : Role) (w : W64) (cause reason : Nat) : W64 :=
  match r with
  | .barrier => if bBad w || bSt w == 3 then w else bWord (bExp w) (bArr w) (bGen w) 3 (cause % 256 * 256 + reason % 256)
  | .counter => ctrErr cause reason

/-! ## Carriage records in memory -/

/-- The location of word `i` of a carriage, if its page is mapped. -/
def State.carrKey (s : State) (ctx carr i : Nat) : Option Nat :=
  match s.look ctx .dev (carr + 8 * i) with
  | .ok p => some (s.front ctx p)
  | _ => none

/-- Word `i` of a carriage; 0 where its page is not mapped. -/
def State.carrWord (s : State) (ctx carr i : Nat) : W64 :=
  match s.carrKey ctx carr i with
  | some k => s.rdWord k
  | none => 0

/-- Writes word `i` of a carriage as the device does (R245, R352). -/
def State.setCarrWord (s : State) (ctx carr i : Nat) (w : W64) : State :=
  match s.carrKey ctx carr i with
  | some k => s.wrWord k w
  | none => s

/-- The codes of STATE (R245). -/
def carrCode : CarrSt → Nat
  | .new => 0
  | .runnable => 1
  | .seated => 2
  | .waiting => 3
  | .done => 4
  | .cancelled => 5

/-- Writes the STATE field of word 0. -/
def State.setCarrState (s : State) (ctx carr : Nat) (st : CarrSt) : State :=
  let w := s.carrWord ctx carr 0
  s.setCarrWord ctx carr 0 (BitVec.ofNat 64 (w.toNat / 2 ^ 52 * 2 ^ 52 + carrCode st * 2 ^ 49 + w.toNat % 2 ^ 49))

/-- The record of a carriage. -/
def State.recOf (s : State) (ctx carr : Nat) : Option Rec := s.recs.find? fun r => r.ctx == ctx && r.carr == carr

/-- Changes the record of a carriage. -/
def State.modRec (s : State) (ctx carr : Nat) (f : Rec → Rec) : State :=
  { s with recs := s.recs.map fun r => if r.ctx == ctx && r.carr == carr then f r else r }

/-- PIN and PQ of a carriage are cleared: its lease state is IDLE (R246). -/
def State.unpin (s : State) (ctx carr : Nat) : State :=
  let w := (s.carrWord ctx carr 0).toNat
  (s.modRec ctx carr fun r => { r with pin := none }).setCarrWord ctx carr 0 (BitVec.ofNat 64 (w / 2 ^ 58 * 2 ^ 58 + w % 2 ^ 52))

/-- A carriage takes a new state, in its record and in memory. -/
def State.setCarr (s : State) (ctx carr : Nat) (st : CarrSt) : State :=
  (s.modRec ctx carr fun r => { r with st := st, since := if st = .runnable then s.dieCycle else r.since }).setCarrState ctx carr st

/-- A waiting carriage becomes runnable, with a value delivered to a carried register if it asked (R317, R337). -/
def State.wake (s : State) (ctx carr : Nat) (deliver : Option (Nat × W64)) : State :=
  match s.recOf ctx carr with
  | some r =>
    if r.st = .waiting then
      let s := match deliver with
        | some (i, w) => s.setCarrWord ctx carr (4 + i) w
        | none => s
      s.setCarr ctx carr .runnable
    else s
  | none => s

/-! ## Waits -/

/-- The condition of a BARWAIT on generation `gen` (R317). -/
def barCond (gen : Nat) (w : W64) : Bool := bGen w != gen || bSt w == 2 || bSt w == 3 || bBad w
/-- The condition of a CTRWAIT (R317). -/
def ctrCond (thr w : W64) : Bool := decide (thr.toNat ≤ w.toNat)

/-- The condition of a registered wait, given the word (R317). -/
def State.waitCond (s : State) (x : Wait) (w : W64) : Bool :=
  if x.kind = 1 then barCond (x.aux.toNat % 256) w
  else if x.kind = 2 then ctrCond (s.carrWord x.ctx x.carr (4 + x.aux.toNat % 4)) w
  else false

/-- Where the word of a satisfied wait is delivered (R317). -/
def waitDeliver (x : Wait) (w : W64) : Option (Nat × W64) :=
  if x.kind = 1 then (if x.aux.getLsbD 10 then some (x.aux.toNat / 256 % 4, w) else none)
  else (if x.aux.getLsbD 4 then some (x.aux.toNat / 4 % 4, w) else none)

/-- Satisfies the listed waits with a word and removes them. -/
def State.satisfy (s : State) (xs : List Wait) (w : W64) : State :=
  xs.foldl (fun s x => { (s.wake x.ctx x.carr (waitDeliver x w)) with waits := s.waits.filter fun y => y != x }) s

/-- A range of locations touches the 8-byte word at `key`. -/
def touches (k n key : Nat) : Bool := decide (k < key + 8 ∧ key < k + n)

/-- Re-evaluates the waits registered on words that a write touched. -/
def State.checkWaits (s : State) (k n : Nat) : State :=
  let hit := s.waits.filter fun x => (x.kind == 1 || x.kind == 2) && touches k n x.key && s.waitCond x (s.rdWord x.key)
  hit.foldl (fun s x => s.satisfy [x] (s.rdWord x.key)) s

/-! ## Triggers -/

/-- The completion word of an armed operation, with its role (R321, R431). -/
def trigWord (t : Trig) : Option (Role × Nat) :=
  let w (i : Nat) := ofBytesLE ((t.rcd.drop (8 * i)).take 8)
  if t.kind = 2 then
    (if w 3 / 64 % 4 = 1 then some (.counter, w 4 % 2 ^ 48)
     else if w 3 / 64 % 4 = 2 then some (.barrier, w 4 % 2 ^ 48) else none)
  else if w 4 = 0 then none else some (.counter, w 4 % 2 ^ 48)

/-- The location of a word of a context that the device writes for it, if it is mapped with the right. -/
def State.wordKey (s : State) (ctx : Nat) (k : Right) (va : Nat) : Option Nat :=
  match s.look ctx k va with
  | .ok p => some (s.front ctx p)
  | _ => none

/-- The armed triggers of all dies on words that a write of `n` bytes at `k` touches. -/
def State.trigsOn (s : State) (k n : Nat) : List (Nat × Trig) :=
  (nats 4).flatMap fun d => ((s.die d).trigs.filter fun t => touches k n t.key).map fun t => (d, t)

/-- Removes an armed trigger. -/
def State.dropTrig (s : State) (d : Nat) (t : Trig) : State :=
  s.modDie d fun x => { x with trigs := x.trigs.filter fun y => y != t }

/-- What becomes of an armed trigger at a write or at its arm (R322 to R324): it stays, fires with the translation of its
completion word, leaves without a word, or is cancelled with a cause. -/
inductive TrigDo where
  | stay
  | fire (h : Option Held)
  | drop
  | cancel (cause : Nat)

/-- The checks of a TCOPY as it fires (R323, R324): its completion word is translated, for good, and the sector tags are
checked. Without a page for the word the translation is still to be made; a word that cannot be translated is not written. -/
def State.fireChk (s : State) (t : Trig) : TrigDo :=
  if t.kind ≠ 2 then .fire (some [])
  else
    match s.firedWord t with
    | .fault _ _ => .drop
    | .ok h => if (s.tagFault (tcTrans t.id t.ctx t.carr (16 * t.quad) t.quad t.rcd h)).isSome then .cancel 0x44 else .fire (some h)
    | _ => if (s.tagFault (tcTrans t.id t.ctx t.carr (16 * t.quad) t.quad t.rcd [])).isSome then .cancel 0x44 else .fire none

/-- What a word that stands at the counter of a trigger makes of it (R322). -/
def State.trigDo (s : State) (w : W64) (t : Trig) : TrigDo :=
  if bit w 63 then .cancel (fld w 55 48) else if t.thr.toNat ≤ w.toNat then s.fireChk t else .stay

/-- A trigger fires: the operation enters the list of fired operations of its die (R323). -/
def State.fire (s : State) (d : Nat) (t : Trig) (h : Option Held) : State :=
  (s.dropTrig d t).modDie d fun x => { x with fired := x.fired ++ [{ t with held := h }] }

/-- The cause that the error value of a counter word holds (R312). -/
def ctrCause (w : W64) : Nat := fld w 55 48

/-- Removes an address from the owned-word table of the seat that an OWNER field names (R311). -/
def freeOwnedAt (s : State) (own key : Nat) : State :=
  if own < 32768 then s
  else s.modSeat (seatOfOwner own) fun x =>
    { x with owned := x.owned.filter fun a => s.wordKey x.ctx .rd a.toNat != some key }

/-- Removes the address of a word from the owned-word table of every seat but those that `keep` names (R311). -/
def freeListed (s : State) (key : Nat) (keep : Nat → Bool) : State :=
  { s with seats := s.seats.map fun (e : Nat × Seat) =>
      if keep e.1 then e else (e.1, { e.2 with owned := e.2.owned.filter fun a => s.wordKey e.2.ctx .rd a.toNat != some key }) }

/-- Error release on the word at a location, with the waits it satisfies and the triggers it cancels, whose
own completion words it releases in turn (R326, R324, R460). In the role of a counter, and on a line in error, it cancels
every trigger armed on the word; in the role of a barrier it is a write like another to them (R322). The fuel bounds the
chain of triggers. -/
def releaseAt : Nat → State → Role → Nat → Nat → Nat → State
  | 0, s, _, _, _, _ => s
  | fuel + 1, s, role, key, cause, reason =>
    let old := s.rdWord key
    let new := errWord role old cause reason
    let bad := (s.badIn key 8).isSome
    let s := if bad then s else s.wrWord key new
    let s := if !bad && bOwn new != bOwn old then freeOwnedAt s (bOwn old) key else s
    let s := s.satisfy (s.waits.filter fun x => (x.kind == 1 || x.kind == 2) && touches key 8 x.key) new
    if !bad && role == .barrier && new == old then s
    else
      let act (s : State) (t : Trig) : TrigDo := if bad || role == .counter then .cancel cause else s.trigDo new t
      (s.trigsOn key 8).foldl (fun s t => match act s t.2 with
        | .stay => s
        | .fire h => s.fire t.1 t.2 h
        | .drop => s.dropTrig t.1 t.2
        | .cancel c =>
          let s := s.dropTrig t.1 t.2
          match trigWord t.2 with
          | some (r, va) => match s.wordKey t.2.ctx .red va with
            | some k => releaseAt fuel s r k c 3
            | none => s
          | none => s) s

/-- The number of armed triggers, a bound on any chain of cancellations. -/
def State.trigCount (s : State) : Nat := (nats 4).foldl (fun n d => n + (s.die d).trigs.length) 2

/-- Error release on the word at a location (R326). -/
def State.errRelease (s : State) (role : Role) (key cause reason : Nat) : State :=
  releaseAt s.trigCount s role key cause reason

/-- Error release on a word named by address; nothing where the address is not mapped. -/
def State.errReleaseVa (s : State) (ctx : Nat) (role : Role) (va cause reason : Nat) : State :=
  match s.wordKey ctx .red va with
  | some k => s.errRelease role k cause reason
  | none => s

/-- Cancels an armed operation that has left the table: error release on its completion word (R324). -/
def State.cancelTrig (s : State) (t : Trig) (cause : Nat) : State :=
  match trigWord t with
  | some (r, va) => s.errReleaseVa t.ctx r va cause 3
  | none => s

/-- What becomes of a trigger that a write has met (R322). -/
def State.doTrig (s : State) (d : Nat) (t : Trig) (x : TrigDo) : State :=
  match x with
  | .stay => s
  | .fire h => s.fire d t h
  | .drop => s.dropTrig d t
  | .cancel c => (s.dropTrig d t).cancelTrig t c

/-- A trigger is armed: it takes a place in the table of its die, unless the word fires or cancels it at once (R322). -/
def State.armTrig (s : State) (d : Nat) (t : Trig) : State :=
  let s := s.modDie d fun x => { x with trigs := x.trigs ++ [t] }
  s.doTrig d t (s.trigDo (s.rdWord t.key) t)

/-- Fires or cancels the triggers armed on words that a write touched, in the order of their arms (R322). -/
def State.checkTrigs (s : State) (k n : Nat) : State :=
  (s.trigsOn k n).foldl (fun s x => s.doTrig x.1 x.2 (s.trigDo (s.rdWord x.2.key) x.2)) s

/-! ## Writes -/

/-- A write applied at its home port, with what it does to waits and triggers (R317, R322). -/
def State.apply (s : State) (k : Nat) (l : List Byte) : State :=
  if l.isEmpty then s else ((s.wrBytes k l).checkWaits k l.length).checkTrigs k l.length

/-- A word applied at its home port. -/
def State.applyWord (s : State) (k : Nat) (w : W64) : State := s.apply k (bytesLE 8 w.toNat)

/-- An arrival applied to the word at a location (R310), with the word it leaves. -/
def State.arrive (s : State) (key : Nat) : W64 × State :=
  let old := s.rdWord key
  let new := bArrive old
  let s := if bOwn old != bOwn new && (bSt old == 0 || bSt old == 1) then freeOwnedAt s (bOwn old) key else s
  (new, if new = old then s else s.applyWord key new)

/-- A completion addition to a counter word (R154): the waits and triggers of a word in error are dealt
with as by error release (R460). A word on a tile's COUNT is dealt with by the caller. -/
def State.addCompletion (s : State) (key amount : Nat) : State :=
  if (s.badIn key 8).isSome then s.errRelease .counter key 0x70 2
  else s.applyWord key (s.rdWord key + BitVec.ofNat 64 amount)

/-- A completion arrival at a barrier word (R154, R460). -/
def State.arriveCompletion (s : State) (key : Nat) : State :=
  if (s.badIn key 8).isSome then s.errRelease .barrier key 0x70 2 else (s.arrive key).2

/-! ## Writes of the device itself -/

/-- A byte of a context's memory that the device reads; 0 where nothing is mapped. -/
def State.devByte (s : State) (ctx va : Nat) : Byte :=
  match s.wordKey ctx .dev (va % 2 ^ 48) with
  | some k => s.rdByte k
  | none => 0

/-- A 64-bit word that the device reads. -/
def State.devWord (s : State) (ctx va : Nat) : W64 :=
  match s.wordKey ctx .dev (va % 2 ^ 48) with
  | some k => s.rdWord k
  | none => 0

/-- The device writes a 64-bit word for itself. -/
def State.devPut (s : State) (ctx va : Nat) (w : W64) : State :=
  match s.wordKey ctx .dev (va % 2 ^ 48) with
  | some k => s.wrWord k w
  | none => s

/-- The device writes `n` bytes for itself: byte `i` is `f i`. -/
def State.devFill (s : State) (ctx va n : Nat) (f : Nat → Byte) : State :=
  (pagesOf va n).foldl (fun s a =>
    match s.wordKey ctx .dev (a % 2 ^ 48) with
    | some k =>
      let m := Nat.min (va + n) ((a / 2 ^ 16 + 1) * 2 ^ 16) - a
      { s with mem := splice memDefault s.mem k m fun i => f (a - va + i)
               poison := clearLines s.poison ((linesCovered k m).filter fun l => s.bad l) }
    | none => s) s

/-- The first line in error among `n` bytes of a context's memory that the device reads, as an address. -/
def State.devBad (s : State) (ctx va n : Nat) : Option Nat :=
  s.gatherBad (fun a => (s.wordKey ctx .dev a).getD 0) va n

end Sys2Proof.Machine
end

