-- ==== Sys2Proof/Machine/Record.lean ====
section
/-!
DEFINITION. Record and replay (R379, R380): the entries of a die's log, the order that home ports give to operations
that contend (R182, R320, R332), and what a replay holds back or finds different.
-/

namespace Sys2Proof.Machine

/-- The die whose ports serve a location: its stack's for HBM, its quad's for a scratchpad, D0 for the host (R13, R170). In which
stack a frame lies is not stated: frames go in rising order, 144 GiB (three stacks) to a die (DESIGN CHOICE, log 100). -/
def dieOfKey (key : Nat) : Nat :=
  if isSpad key then (key - spadBase) % 2 ^ 32 / 2 ^ 22 / 28 % 4
  else if hostBase ≤ key then 0
  else key / Config.hbmPerDie % 4

/-- Word 0 of a log entry. -/
def logHead (kind units cycle : Nat) : Nat := kind * 2 ^ 56 + units * 2 ^ 48 + cycle % 2 ^ 48

/-- Appends an entry to the log of a die, if it has room; else the log is full, and the die logs nothing more (R379). `l`
follows word 0. -/
def State.logAdd (s : State) (ctx d kind units : Nat) (l : List Byte) : State :=
  let c := s.ctx ctx
  if !c.rcd || c.rcdFull.contains d then s
  else
    let pos := SMap.get 0 c.logPos d
    if c.logLen < 32 * (pos + units) then s.modCtx ctx fun c => { c with rcdFull := c.rcdFull ++ [d] }
    else
      let va := c.logBase.toNat + d * c.logLen + 32 * pos
      let data := bytesLE 8 (logHead kind units s.dieCycle) ++ padTo (32 * units - 8) l
      let s := (nats (4 * units)).foldl (fun s i => s.devPut ctx (va + 8 * i) (BitVec.ofNat 64 (ofBytesLE ((data.drop (8 * i)).take 8)))) s
      s.modCtx ctx fun c => { c with logPos := SMap.set 0 c.logPos d (pos + units) }

/-- What a replay has still to meet on a die: the first entry of a kind that satisfies `p`. -/
def Ctx.expected (c : Ctx) (d kind : Nat) (p : List W64 → Bool) : Option (Nat × List W64) :=
  c.rlog.find? fun e => e.1 == d && fld (nth 0 e.2 0) 63 56 == kind && p e.2

/-- A replay has met an entry. -/
def State.met (s : State) (ctx : Nat) (e : Nat × List W64) : State := s.modCtx ctx fun c => { c with rlog := c.rlog.erase e }

/-- The eight 64-bit words of a digest. -/
def digestWords (l : List Byte) : List W64 :=
  let h := sha512 l
  (nats 8).map fun i => BitVec.ofNat 64 (ofBytesLE ((h.drop (8 * i)).take 8))

/-- A host command or host data of a context: logged with its digest while it records, and compared with the log in a
replay (R348, R379, R380). `a` and `b` are the two words that the entry has beside the digest `dg`. -/
def State.hostLog (s : State) (ctx kind : Nat) (a b : W64) (dg : List W64) : State :=
  let c := s.ctx ctx
  if c.replay then
    match c.expected 0 kind fun _ => true with
    | some e => if (e.2.drop 1).take 2 == [a, b] && (e.2.drop 4).take 8 == dg then s.met ctx e
                else s.modCtx ctx fun c => { c with diverged := true }
    | none => s
  else s.logAdd ctx 0 kind 3 (bytesLE 8 a.toNat ++ bytesLE 8 b.toNat ++ bytesLE 8 0 ++ dg.flatMap fun w => bytesLE 8 w.toNat)

/-! ## The order of a home port (R182, R320, R332) -/

/-- The agents of an order entry, beside seats, which have their place: the packet pipeline of a vat, the host, the transfer
engine of a quad, the network engine of a die, and its firmware (log 62). -/
def agentVat (v : Nat) : W64 := BitVec.ofNat 64 (2 ^ 32 + v)
/-- The host. -/
def agentHost : W64 := 0x200000000
/-- The transfer engine of a quad. -/
def agentQuad (q : Nat) : W64 := BitVec.ofNat 64 (2 ^ 34 + q)
/-- The network engine of a die. -/
def agentNet (d : Nat) : W64 := BitVec.ofNat 64 (2 ^ 35 + d)
/-- The firmware of a die. -/
def agentFirmware (d : Nat) : W64 := BitVec.ofNat 64 (2 ^ 36 + d)

/-- The next entry that a replay has to meet for a line of a die's ports. -/
def State.lineNext (s : State) (ctx d line : Nat) : Option (Nat × List W64) :=
  (s.ctx ctx).expected d 4 fun w => nth 0 w 1 == BitVec.ofNat 64 line

/-- An agent's operation on a line may be applied now: in a replay, it is its turn (R380). -/
def State.turnAt (s : State) (ctx d line : Nat) (agent : W64) : Bool :=
  !(s.ctx ctx).replay ||
    match s.lineNext ctx d line with
    | some e => nth 0 e.2 2 == agent
    | none => true

/-- An agent's operation on a line is applied at its home port: its place in the order is logged, or met in a replay
(R379, R380). -/
def State.logAt (s : State) (ctx d line : Nat) (agent : W64) : State :=
  if (s.ctx ctx).replay then
    match s.lineNext ctx d line with
    | some e => if nth 0 e.2 2 == agent then s.met ctx e else s
    | none => s
  else if (s.ctx ctx).rcd then
    s.logAdd ctx d 4 1 (bytesLE 8 line ++ bytesLE 8 agent.toNat ++ bytesLE 8 (SMap.get 0 (s.ctx ctx).logPos d))
  else s

/-- The turn of an operation at a location. -/
def State.keyTurn (s : State) (ctx key : Nat) (agent : W64) : Bool := s.turnAt ctx (dieOfKey key) (key / 64 * 64) agent

/-- The place of an operation at a location. -/
def State.keyLog (s : State) (ctx key : Nat) (agent : W64) : State := s.logAt ctx (dieOfKey key) (key / 64 * 64) agent

/-- The turn of an operation on a queue, which is logged under the address of its ring (R332). -/
def State.queueTurn (s : State) (ctx h : Nat) (agent : W64) : Bool :=
  s.turnAt ctx (s.queue ctx h).home (s.queue ctx h).ringVa agent

/-- The place of an operation on a queue. -/
def State.queueLog (s : State) (ctx h : Nat) (agent : W64) : State :=
  s.logAt ctx (s.queue ctx h).home (s.queue ctx h).ringVa agent

/-- Accesses whose order at a home port is logged when they are applied: atomics, reductions, arrivals, additions and the
operations of queues, and the lines of the packet pipelines (R182, R320, R332, R407). A take that its issue has made is
logged there. -/
def Acc.ordered (a : Acc) : Bool :=
  match a.k with
  | .atomic | .reduction | .arrival | .ctradd | .qres | .qcommit | .qrelease | .pline | .pdepo | .pbump => true
  | .qtake => !a.flag
  | _ => false

/-- The agent of an access: the place of its seat, or a packet pipeline. -/
def Acc.agent (a : Acc) : W64 := if a.carr = 0 then agentVat a.seat else placeOf a.seat

/-- An access may be applied now, as far as a replay has an order for it. -/
def State.turnOf (s : State) (a : Acc) : Bool :=
  !a.ordered ||
    match a.locs with
    | p :: _ => s.keyTurn a.ctx (s.front a.ctx p) a.agent
    | [] => s.queueTurn a.ctx a.op a.agent

/-- An access is applied at its home. -/
def State.logOrder (s : State) (a : Acc) : State :=
  if !a.ordered then s
  else
    match a.locs with
    | p :: _ => s.keyLog a.ctx (s.front a.ctx p) a.agent
    | [] => s.queueLog a.ctx a.op a.agent

end Sys2Proof.Machine
end

