-- ==== Sys2Proof/Machine/Tiles.lean ====
section
/-!
DEFINITION. Tiles and arrival-counting tiles in their table in scratchpad (R165 to R168): the fields of a
descriptor, its states, and the bump that sets a curd.
-/

namespace Sys2Proof.Machine

/-- The location of the descriptor of a tile (R165). -/
def State.tileKey (s : State) (ctx quad i : Nat) : Nat := (s.ctx ctx).tileTable ctx quad + 32 * i

/-- The tile whose COUNT is the 8-byte word at a location: context, quad and index. -/
def State.countOf (s : State) (key : Nat) : Option (Nat × Nat × Nat) :=
  if isSpad key then
    let o := key - spadBase
    let ctx := o / 2 ^ 32
    let quad := o % 2 ^ 32 / 2 ^ 22
    let off := o % 2 ^ 22
    let len := (s.ctx ctx).spLen quad
    if 0 < len ∧ len - 8192 ≤ off ∧ off < len ∧ (off - (len - 8192)) % 32 = 16 then
      some (ctx, quad, (off - (len - 8192)) / 32)
    else none
  else none

/-- TSTATE of the descriptor at a location. -/
def State.tState (s : State) (key : Nat) : Nat := fld (s.rdWord (key + 24)) 2 0
/-- Writes TSTATE. -/
def State.setTState (s : State) (key st : Nat) : State :=
  s.wrWord (key + 24) (BitVec.ofNat 64 ((s.rdWord (key + 24)).toNat / 8 * 8 + st))

/-- The test after a bump of the COUNT at a location (R167): FILLING below the threshold, SET at it, and
the injection of its record begins. -/
def State.tileTest (s : State) (key : Nat) : State :=
  match s.countOf key with
  | none => s
  | some (ctx, quad, i) =>
    let d := key - 16
    let st := s.tState d
    if st = 1 ∨ st = 2 then
      if fld (s.rdWord d) 31 0 ≤ (s.rdWord key).toNat then
        { (s.setTState d 3) with curds := s.curds ++ [(ctx, quad, i, none)] }
      else if st = 1 then s.setTState d 2 else s
    else s

/-- An addition to a 64-bit word at its home port, with the test of a curd (R154, R167). -/
def State.addCount (s : State) (key amount : Nat) : State := (s.addCompletion key amount).tileTest key

/-- The pending injection of a tile is cancelled, and its fault record is resolved as abandoned (R166, R461). -/
def State.dropCurd (s : State) (ctx quad i : Nat) : State :=
  let mine := s.curds.filter fun c => c.1 == ctx && c.2.1 == quad && c.2.2.1 == i
  let s := { s with curds := s.curds.filter fun c => !(c.1 == ctx && c.2.1 == quad && c.2.2.1 == i)
                    curdTry := s.curdTry.filter fun c => c.1 != (ctx, quad, i) }
  mine.foldl (fun s c => match c.2.2.2 with
    | some r => s.modDie (quad / 28) fun d => { d with faults := d.faults.filter fun f => f.rid != r }
    | none => s) s

end Sys2Proof.Machine
end

