-- ==== Sys2Proof/Machine/Queue.lean ====
section
/-!
DEFINITION. Queues at their home port (R329 to R337): reservation, commit and publication, take and
release, the tickets of carriages that have gone, and the publication of whole entries by the device.
-/

namespace Sys2Proof.Machine

/-- FULL and EMPTY (R335, R337). -/
def qNone : W64 := 0x8000000000000000
/-- EMPTY, DESTROYED (R337). -/
def qDestroyed : W64 := 0xC000000000000000
/-- RETRY (R348). -/
def qRetry : W64 := 0x4000000000000000

/-- An access to a queue that is not resident raises its miss (R330). -/
def State.qMiss (s : State) (ctx h : Nat) : State :=
  let q := s.queue ctx h
  if q.st = qSwapped then
    (s.modQueue ctx h fun q => { q with st := qLoading }).modDie q.home fun d => { d with misses := d.misses ++ [(ctx, h)] }
  else s

/-- Marks an access, for the choice of a victim (R331). -/
def State.qTouch (s : State) (ctx h : Nat) : State := s.modQueue ctx h fun q => { q with last := s.dieCycle }

/-- An access to a resident queue may proceed: none that arrived before it still waits (R330). In a replay the logged order
decides (R380). -/
def State.qMay (s : State) (ctx h : Nat) (t : QTok) : Bool :=
  (s.ctx ctx).replay || (match (s.queue ctx h).waiting.find? (s.tokLive ctx) with
    | none => true
    | some u => u == t)

/-- An access waits at a queue behind those that wait already; its miss is raised (R330). -/
def State.qHold (s : State) (ctx h : Nat) (t : QTok) : State :=
  ((s.qMiss ctx h).modQueue ctx h fun q => if q.waiting.contains t then q else
    { q with last := s.dieCycle, waiting := q.waiting.filter (s.tokLive ctx) ++ [t] })

/-- An access proceeds (R330, R331). -/
def State.qEnter (s : State) (ctx h : Nat) (t : QTok) : State :=
  s.modQueue ctx h fun q => { q with last := s.dieCycle, waiting := q.waiting.filter fun u => u != t }

/-- The 64 bytes of an entry. -/
def Entry.bytes (e : Entry) : List Byte :=
  [e.w0, e.w1, e.w2, e.w3, e.w4, e.w5, e.w6, e.w7].flatMap fun w => bytesLE 8 w.toNat

/-- The entry of 64 bytes. -/
def entryOf (l : List Byte) : Entry :=
  let w (i : Nat) := BitVec.ofNat 64 (ofBytesLE ((l.drop (8 * i)).take 8))
  ⟨w 0, w 1, w 2, w 3, w 4, w 5, w 6, w 7⟩

/-- The location of the entry of a ticket, through the ring's held translation (R459). -/
def State.qKey (s : State) (ctx h : Nat) (k : BitVec 32) : Nat :=
  let q := s.queue ctx h
  s.heldKey ctx q.ring (q.entryVa k)

/-- Serves the oldest registered QTAKE.wait with the ticket at H (R333, R337). -/
def State.qServe (s : State) (ctx h : Nat) : State :=
  let q := s.queue ctx h
  if q.cons = 1 ∧ q.h ≠ q.p then
    match s.waits.find? fun w => w.kind == 3 && w.ctx == ctx && w.addr.toNat == h with
    | some w =>
      let s := { s with waits := s.waits.filter fun y => y != w }
      let s := s.modQueue ctx h fun q => { q with h := q.h + 1 }
      s.wake ctx w.carr (some (w.aux.toNat / 256 % 4, q.h.setWidth 64))
    | none => s
  else s

/-- Publication: P advances over every committed ticket at the bottom of CB (R333). -/
def publishGo : Nat → State → Nat → Nat → State
  | 0, s, _, _ => s
  | fuel + 1, s, ctx, h =>
    let q := s.queue ctx h
    if SMap.get false q.cb (q.idx q.p) then
      publishGo fuel ((s.modQueue ctx h fun q => { q with cb := SMap.erase q.cb (q.idx q.p), p := q.p + 1 }).qServe ctx h) ctx h
    else s

/-- Publication (R333). -/
def State.qPublish (s : State) (ctx h : Nat) : State := publishGo (s.queue ctx h).n s ctx h

/-- F advances over every released ticket at the bottom of RB (R333). -/
def releaseGo : Nat → Queue → Queue
  | 0, q => q
  | fuel + 1, q =>
    if SMap.get false q.rb (q.idx q.f) then releaseGo fuel { q with rb := SMap.erase q.rb (q.idx q.f), f := q.f + 1 }
    else q

/-- QRES at the home (R335); `carr` is 0 for the host, whose tickets have no record. -/
def State.qRes (s : State) (ctx h carr : Nat) : W64 × State :=
  let q := s.queue ctx h
  if q.n ≤ (q.t - q.f).toNat then (qNone, s)
  else (q.t.setWidth 64, s.modQueue ctx h fun q =>
    { q with t := q.t + 1, tickets := SMap.set 0 q.tickets q.t.toNat carr, inj := SMap.erase q.inj (q.idx q.t) })

/-- One more rejected commit or release, saturating (R336). -/
def Queue.bad (q : Queue) : Queue := { q with badc := if q.badc = 0xFFFF then q.badc else q.badc + 1 }

/-- QCOMMIT at the home (R336). -/
def State.qCommit (s : State) (ctx h : Nat) (k : BitVec 32) : State :=
  let q := s.queue ctx h
  if (q.t - q.p).toNat ≤ (k - q.p).toNat ∨ SMap.get false q.cb (q.idx k) = true then s.modQueue ctx h Queue.bad
  else (s.modQueue ctx h fun q =>
    { q with cb := SMap.set false q.cb (q.idx k) true, tickets := SMap.erase q.tickets k.toNat }).qPublish ctx h

/-- QCOMMIT.rel at the home (R336). -/
def State.qRelease (s : State) (ctx h : Nat) (k : BitVec 32) : State :=
  let q := s.queue ctx h
  if (q.h - q.f).toNat ≤ (k - q.f).toNat ∨ SMap.get false q.rb (q.idx k) = true then s.modQueue ctx h Queue.bad
  else s.modQueue ctx h fun q => releaseGo q.n { q with rb := SMap.set false q.rb (q.idx k) true }

/-- QTAKE without a wait at the home (R337). -/
def State.qTake (s : State) (ctx h : Nat) : W64 × State :=
  let q := s.queue ctx h
  if q.h = q.p then (qNone, s)
  else (q.h.setWidth 64, s.modQueue ctx h fun q => { q with h := q.h + 1 })

/-- Publishes 64 bytes as one entry of a resident queue with room, when it is the agent's turn: reserve, write, commit
(R332). -/
def State.qPut (s : State) (ctx h : Nat) (agent : W64) (l : List Byte) : Option State :=
  let q := s.queue ctx h
  if q.st = qResident ∧ (q.t - q.f).toNat < q.n ∧ s.queueTurn ctx h agent = true then
    let k := q.t
    let s := ((s.queueLog ctx h agent).qRes ctx h 0).2
    some ((s.apply (s.qKey ctx h k) l).qCommit ctx h k)
  else none

/-- Writes the entry of a ticket already reserved by the device and commits it, when it is the agent's turn. -/
def State.qFill (s : State) (ctx h : Nat) (agent : W64) (k : BitVec 32) (l : List Byte) : Option State :=
  if s.queueTurn ctx h agent then
    let s := s.queueLog ctx h agent
    some ((s.apply (s.qKey ctx h k) l).qCommit ctx h k)
  else none

/-- Voids a ticket that a carriage reserved: 64 zero bytes, then the commit (R333). -/
def State.qVoid (s : State) (ctx h k : Nat) : State :=
  let t := BitVec.ofNat 32 k
  let s := s.queueLog ctx h (agentFirmware (s.queue ctx h).home)
  (s.apply (s.qKey ctx h t) (List.replicate 64 0)).qCommit ctx h t

/-- Voids every ticket that a carriage has reserved and not committed (R333). -/
def State.qVoidAll (s : State) (ctx carr : Nat) : State :=
  (s.ctx ctx).queues.foldl (fun s e =>
    (e.2.tickets.filter fun t => t.2 == carr).foldl (fun s t => s.qVoid ctx e.1 t.1) s) s

end Sys2Proof.Machine
end

