-- ==== Sys2Proof/Machine/Launch.lean ====
section
/-!
DEFINITION. Launches on a die (R281 to R299): the fields of a launch packet, distribution and the creation
of records, states, predecessors, effective classes, notices, and the rinds of frontier launches.
-/

namespace Sys2Proof.Machine

/-! ## The launch header (R281) -/

/-- A word of the header. -/
def LPacket.w (p : LPacket) (i : Nat) : W64 := nth 0 p.hdr i
/-- LID. -/
def LPacket.lid (p : LPacket) : Nat := fld (p.w 0) 63 32
/-- SLOT. -/
def LPacket.slot (p : LPacket) : Nat := fld (p.w 0) 31 24
/-- CLASS. -/
def LPacket.cls (p : LPacket) : Nat := fld (p.w 0) 23 22
/-- SWAP. -/
def LPacket.swap (p : LPacket) : Bool := bit (p.w 0) 21
/-- FRONT. -/
def LPacket.isFront (p : LPacket) : Bool := bit (p.w 0) 20
/-- GANG. -/
def LPacket.gang (p : LPacket) : Bool := bit (p.w 0) 19
/-- NPRED. -/
def LPacket.npred (p : LPacket) : Nat := fld (p.w 0) 18 16
/-- COACH. -/
def LPacket.coach (p : LPacket) : Nat := fld (p.w 1) 63 61
/-- SEATS. -/
def LPacket.seats (p : LPacket) : Nat := fld (p.w 1) 60 57
/-- BLK + 1. -/
def LPacket.blk (p : LPacket) : Nat := fld (p.w 1) 55 40 + 1
/-- The width of field `f`. -/
def LPacket.width (p : LPacket) (f : Nat) : Nat := fld (p.w 1) (35 - 6 * f) (30 - 6 * f)
/-- The extent of field `f`, X + 1. -/
def LPacket.extent (p : LPacket) (f : Nat) : Nat :=
  (if f % 2 = 0 then fld (p.w (2 + f / 2)) 63 32 else fld (p.w (2 + f / 2)) 31 0) + 1
/-- Predecessor `k`. -/
def LPacket.pred (p : LPacket) (k : Nat) : Nat :=
  if k % 2 = 0 then fld (p.w (5 + k / 2)) 63 32 else fld (p.w (5 + k / 2)) 31 0
/-- TCNT. -/
def LPacket.tcnt (p : LPacket) : Nat := fld (p.w 7) 63 32
/-- SPOFF and SPLEN in bytes. -/
def LPacket.spOff (p : LPacket) : Nat := fld (p.w 7) 31 16 * 256
/-- SPLEN in bytes. -/
def LPacket.spLen (p : LPacket) : Nat := fld (p.w 7) 15 0 * 256
/-- RL`k`. -/
def LPacket.rlk (p : LPacket) (k : Nat) : W64 := nth 0 p.rl k

/-- The WID of field values (R284). -/
def LPacket.wid (p : LPacket) (vals : List Nat) : W64 :=
  let go := fun (acc : Nat × Nat) (f : Nat) =>
    let used := acc.2 + p.width f
    (acc.1 + nth 0 vals f * 2 ^ (64 - used), used)
  BitVec.ofNat 64 ((nats 6).foldl go (0, 0)).1

/-- The number of values of field 0 that die `d` owns (R285). -/
def LPacket.ownedVs (p : LPacket) (d : Nat) : Nat :=
  let e := p.extent 0
  let b := p.blk
  e / (4 * b) * b + Nat.min (e % (4 * b) - d * b) b

/-- The `n`-th value of field 0 that die `d` owns. -/
def LPacket.ownedV (p : LPacket) (d n : Nat) : Nat := (n / p.blk * 4 + d) * p.blk + n % p.blk

/-- The product of the extents of fields `f` and after. -/
def LPacket.prodFrom (p : LPacket) (f : Nat) : Nat := ((nats 6).filter (fun k => decide (f ≤ k))).foldl (fun a k => a * p.extent k) 1

/-- Row-major values of fields `f` to 5 from an index. -/
def LPacket.rowMajor (p : LPacket) (f n : Nat) : List Nat :=
  ((nats 6).filter fun k => decide (f ≤ k)).map fun k => n / p.prodFrom (k + 1) % p.extent k

/-- The number of records that die `d` creates: coaches of a gang launch, points otherwise (R285). -/
def LPacket.total (p : LPacket) (d : Nat) : Nat :=
  if p.gang then p.ownedVs d else if p.isFront then 0 else p.ownedVs d * p.prodFrom 1

/-- The number of carriages of the launch, which TCNT = 0xFFFF_FFFF stands for (R289). -/
def LPacket.carriages (p : LPacket) : Nat :=
  if p.gang then p.extent 0 * (p.coach + 1) * (p.seats + 1) else p.prodFrom 0

/-! ## Frontier launches (R293 to R296) -/

/-- ND. -/
def LPacket.nd (p : LPacket) : Nat := fld (nth 0 p.front 0) 63 62
/-- SF of a stepped dimension, outermost first. -/
def LPacket.sf (p : LPacket) (k : Nat) : Nat := fld (nth 0 p.front 0) (61 - 3 * k) (59 - 3 * k)
/-- NV. -/
def LPacket.nv (p : LPacket) : Nat := fld (nth 0 p.front 0) 52 50
/-- Component `k` of vector `v`, outermost first. -/
def LPacket.vec (p : LPacket) (v k : Nat) : Int := sextNat 5 ((nth 0 p.front 1).toNat >>> (15 * v + 10 - 5 * k))
/-- SAVE. -/
def LPacket.saveVa (p : LPacket) : Nat := fld (nth 0 p.front 2) 47 0
/-- STRIDE. -/
def LPacket.stride (p : LPacket) : Nat := fld (nth 0 p.front 3) 31 0
/-- The extent of a stepped dimension. -/
def LPacket.stepExt (p : LPacket) (k : Nat) : Nat := p.extent (p.sf k)
/-- The innermost extent Ex. -/
def LPacket.ex (p : LPacket) : Nat := p.stepExt (p.nd - 1)
/-- The extents of the outer dimensions. -/
def LPacket.outer (p : LPacket) : List Nat := (nats (p.nd - 1)).map p.stepExt
/-- NL, the number of lines (R295). -/
def LPacket.lines (p : LPacket) : Nat := p.outer.foldl (· * ·) 1
/-- The outer coordinates of a line (R295). -/
def LPacket.lineCoords (p : LPacket) (l : Nat) : List Nat :=
  match p.outer with
  | [] => []
  | [_] => [l]
  | _ :: e :: _ => [l / e, l % e]
/-- The line of outer coordinates, if they lie inside the space. -/
def LPacket.lineOf (p : LPacket) (c : List Int) : Option Nat :=
  match p.outer, c with
  | [], _ => some 0
  | [e], [i] => if 0 ≤ i ∧ i < (e : Int) then some i.toNat else none
  | e0 :: e1 :: _, i :: j :: _ =>
    if 0 ≤ i ∧ i < (e0 : Int) ∧ 0 ≤ j ∧ j < (e1 : Int) then some (i.toNat * e1 + j.toNat) else none
  | _, _ => none
/-- Die `d` owns the line (R295). -/
def LPacket.ownsLine (p : LPacket) (d l : Nat) : Bool := l / p.blk % 4 == d
/-- The lines that die `d` owns. -/
def LPacket.myLines (p : LPacket) (d : Nat) : List Nat := (nats p.lines).filter (p.ownsLine d)

/-- The condition of R296 for point (l, x), given the counts. -/
def LPacket.ready (p : LPacket) (f : SMap Nat) (l x : Nat) : Bool :=
  (nats p.nv).all fun v =>
    let dl := (nats (p.nd - 1)).map fun k => p.vec v k
    let dx := p.vec v (p.nd - 1)
    let px : Int := (x : Int) - dx
    match p.lineOf (((p.lineCoords l).zip dl).map fun e => (e.1 : Int) - e.2) with
    | none => true
    | some l' => decide (px < 0) || decide ((p.ex : Int) ≤ px) || decide (px < Int.ofNat (SMap.get 0 f l'))

/-- The WID of point (l, x). -/
def LPacket.pointWid (p : LPacket) (l x : Nat) : W64 :=
  let cs := p.lineCoords l ++ [x]
  p.wid ((nats 6).map fun f => ((nats p.nd).zip cs).foldl (fun a e => if p.sf e.1 = f then e.2 else a) 0)

/-! ## Entries of the launch table -/

/-- The entry of a launch on a die. -/
def State.lent (s : State) (d ctx lid : Nat) : Option LEnt :=
  (s.die d).launches.find? fun e => e.p.ctx == ctx && e.lid == lid

/-- Changes the entry of a launch on a die. -/
def State.modLent (s : State) (d ctx lid : Nat) (f : LEnt → LEnt) : State :=
  s.modDie d fun x => { x with launches := x.launches.map fun e => if e.p.ctx == ctx && e.lid == lid then f e else e }

/-- The effective class of a carriage: that of its launch on its die (R290). -/
def State.effClass (s : State) (d ctx lid : Nat) : Nat :=
  match s.lent d ctx lid with
  | some e => e.eff
  | none => 3

/-- The triggers known to die `d` for an entry (R289). -/
def LEnt.known (e : LEnt) : Nat := e.trigs + e.seen.foldl (fun a x => a + x.2) 0
/-- The trigger count that satisfies dependents (R289). -/
def LEnt.need (e : LEnt) : Nat := if e.p.tcnt = 2 ^ 32 - 1 then e.p.carriages else e.p.tcnt

/-- Predecessor `k` is satisfied on the die (R288). -/
def predOk (es : List LEnt) (p : LPacket) (k : Nat) : Bool :=
  match es.find? fun e => e.p.ctx == p.ctx && e.lid == p.pred k with
  | none => true
  | some e => e.st == .complete || (e.p.tcnt != 0 && decide (e.need ≤ e.known))

/-- One round of the inheritance of classes (R290). -/
def classRound (es : List LEnt) : List LEnt :=
  es.map fun e =>
    let below := es.filter fun x => x.st == .waiting && x.p.ctx == e.p.ctx
      && (nats x.p.npred).any fun k => x.p.pred k == e.lid && !predOk es x.p k
    { e with eff := below.foldl (fun a x => Nat.min a x.eff) (Nat.min e.eff e.p.cls) }

/-- Effective classes of every entry (R290): rounds until the longest chain is done. -/
def classes (es : List LEnt) : List LEnt :=
  (nats es.length).foldl (fun es _ => classRound es) (es.map fun e => { e with eff := e.p.cls })

/-! ## The carriage area -/

/-- Slots of 64 bytes in the carriage area. -/
def Ctx.carrSlots (c : Ctx) : Nat := c.carn * 1024

/-- The lowest `n` adjacent free slots: walks the used slots, which are listed rising. -/
def freeRun (n limit : Nat) : List Nat → Nat → Option Nat
  | [], a => if a + n ≤ limit then some a else none
  | u :: us, a => if a + n ≤ u then some a else freeRun n limit us (u + 1)

/-- Takes `n` adjacent slots of the carriage area: the address of the first, at the lowest place that is
free (log 13). -/
def State.carrAlloc (s : State) (ctx n : Nat) : Option (Nat × State) :=
  let c := s.ctx ctx
  match freeRun n c.carrSlots (c.carrs.map Prod.fst) 0 with
  | none => none
  | some a =>
    some (c.caraVa + 64 * a, s.modCtx ctx fun c =>
      { c with carrs := (natsFrom a n).foldl (fun m i => SMap.set false m i true) c.carrs })

/-- Gives a slot of the carriage area back. -/
def State.carrFree (s : State) (ctx carr : Nat) : State :=
  s.modCtx ctx fun c => { c with carrs := SMap.erase c.carrs ((carr - c.caraVa) / 64) }

/-- KIND codes (R244). -/
def kPoint : BitVec 2 := 0
/-- Group member. -/
def kMember : BitVec 2 := 1
/-- Handler. -/
def kHandler : BitVec 2 := 2

/-- Writes a new carriage (R244, R286) and makes its record. -/
def State.newCarr (s : State) (d : Nat) (e : LEnt) (carr : Nat) (kind : BitVec 2) (wid : W64) (coach : Option Nat)
    (member : Nat) : State :=
  let p := e.p
  let pc := ((p.rlk 0).toNat + p.entry.toNat) % 2 ^ 48
  let w0 := kind.toNat * 2 ^ 61 + e.eff % 4 * 2 ^ 59 + (if p.swap then 2 ^ 58 else 0) + pc
  let s := s.setCarrWord p.ctx carr 0 (BitVec.ofNat 64 w0)
  let s := s.setCarrWord p.ctx carr 1 wid
  let s := (natsFrom 2 6).foldl (fun s i => s.setCarrWord p.ctx carr i 0) s
  let r : Rec := { carr, ctx := p.ctx, die := d, lid := e.lid, st := .new, kind, pin := none, quad := none,
                   since := s.dieCycle, coach, member, pool := none, lease := Lease.none, uiRep := 0, imgIds := [], hcwErr := [] }
  { s with recs := s.recs ++ [r] }

/-- The number of records of a launch in NEW on a die. -/
def State.newCount (s : State) (d ctx lid : Nat) : Nat :=
  (s.recs.filter fun r => r.die == d && r.ctx == ctx && r.lid == lid && r.st == .new).length

/-- Creates the next record of a launch on a die: a point, or a coach with its members (R285, R286). A handler is the single
carriage of a launch that a set curd injected; no form of the manual fires a launch, so that the other source of R244, a
triggered launch, has none (DEDUCED, log 90). -/
def State.createOne (s : State) (d : Nat) (e : LEnt) : Option State :=
  let p := e.p
  if p.total d ≤ e.next then none
  else if p.gang then
    let v := p.ownedV d e.next
    let per := p.seats + 1
    let n := (p.coach + 1) * per
    if 256 < s.newCount d p.ctx e.lid + n then none
    else match s.carrAlloc p.ctx (n + 1) with
      | none => none
      | some (a, s) =>
        let first := a + 64
        let idx := s.nextId
        let s := { s with nextId := s.nextId + 1 }
        let w0 := p.coach * 2 ^ 61 + p.seats * 2 ^ 57 + e.eff % 4 * 2 ^ 55 + (if p.swap then 2 ^ 54 else 0) + first
        let s := s.setCarrWord p.ctx a 0 (BitVec.ofNat 64 w0)
        let s := s.setCarrWord p.ctx a 1 (BitVec.ofNat 64 e.lid)
        let s := s.setCarrWord p.ctx a 2 0
        let s := s.setCarrWord p.ctx a 3 (BitVec.ofNat 64 s.dieCycle)
        let s := (natsFrom 4 4).foldl (fun s i => s.setCarrWord p.ctx a i 0) s
        let s := (nats n).foldl (fun s i =>
          s.newCarr d e (first + 64 * i) kMember (p.wid (v :: i / per :: p.rowMajor 2 (i % per))) (some idx) i) s
        let c : Coach := { idx, die := d, ctx := p.ctx, lid := e.lid, groups := p.coach, seats := p.seats,
                           swap := p.swap, first, cst := 0, qstart := 0, since := s.dieCycle, resv := [], seatedAt := 0, swapping := false, saves := [] }
        let s := { s with coaches := s.coaches ++ [c] }
        some (s.modLent d p.ctx e.lid fun e => { e with next := e.next + 1, live := e.live + n })
  else
    if 256 < s.newCount d p.ctx e.lid + 1 then none
    else match s.carrAlloc p.ctx 1 with
      | none => none
      | some (a, s) =>
        let v := p.ownedV d (e.next / p.prodFrom 1)
        let kind := if p.inj && p.carriages == 1 then kHandler else kPoint
        let s := s.newCarr d e a kind (p.wid (v :: p.rowMajor 1 (e.next % p.prodFrom 1))) none 0
        some (s.modLent d p.ctx e.lid fun e => { e with next := e.next + 1, live := e.live + 1 })

/-- Creates records of an active launch while R286 allows. -/
def createGo : Nat → State → Nat → Nat → Nat → State
  | 0, s, _, _, _ => s
  | fuel + 1, s, d, ctx, lid =>
    match s.lent d ctx lid with
    | some e =>
      if e.st = .active then
        match s.createOne d e with
        | some s => createGo fuel s d ctx lid
        | none => s
      else s
    | none => s

/-- Creates records (R286). -/
def State.create (s : State) (d ctx lid : Nat) : State := createGo 257 s d ctx lid

/-! ## Rinds -/

/-- The rind of a launch on a die. -/
def State.rind (s : State) (d ctx lid : Nat) : Option Rind :=
  (s.die d).rinds.find? fun r => r.ctx == ctx && r.lid == lid

/-- Changes the rind of a launch on a die. -/
def State.modRind (s : State) (d ctx lid : Nat) (f : Rind → Rind) : State :=
  s.modDie d fun x => { x with rinds := x.rinds.map fun r => if r.ctx == ctx && r.lid == lid then f r else r }

/-- Fires the next point of a line if R296 allows and none of the line is unfinished. -/
def State.fireLine (s : State) (d ctx lid l : Nat) : State :=
  match s.lent d ctx lid, s.rind d ctx lid with
  | some e, some r =>
    let x := SMap.get 0 r.f l
    if e.st = .active ∧ r.held = true ∧ r.leaving = false ∧ x < e.p.ex ∧ (r.pts.any fun q => q.1 == l) = false ∧ e.p.ready r.f l x = true
        ∧ s.newCount d ctx lid < 256 then
      match s.carrAlloc ctx 1 with
      | none => s
      | some (a, s) =>
        let s := s.newCarr d e a kPoint (e.p.pointWid l x) none 0
        let s := s.modLent d ctx lid fun e => { e with live := e.live + 1 }
        s.modRind d ctx lid fun r => { r with pts := r.pts ++ [(l, x, a)] }
    else s
  | _, _ => s

/-- Evaluates R296 for every owned line. -/
def State.fireAll (s : State) (d ctx lid : Nat) : State :=
  match s.lent d ctx lid with
  | some e => (e.p.myLines d).foldl (fun s l => s.fireLine d ctx lid l) s
  | none => s

/-- Creates the records that are due on a die: those of its active launches, and the ready points of its frontiers, that the
limit of R286 or the room of the carriage area held back. -/
def State.createDue (s : State) (d : Nat) : State :=
  (s.die d).launches.foldl (fun s e =>
    if e.st ≠ .active then s
    else if e.p.isFront then s.fireAll d e.p.ctx e.lid
    else if e.next < e.p.total d then s.create d e.p.ctx e.lid
    else s) s

/-- The location of a byte of the save area of a rind (R299). -/
def State.rindKey (s : State) (p : LPacket) (d off : Nat) : Option Nat :=
  s.wordKey p.ctx .dev ((p.saveVa + d * p.stride + off) % 2 ^ 48)

/-- Writes `n` bytes of a number into the save area of a rind; nothing where it is not mapped. -/
def State.rindPut (s : State) (p : LPacket) (d off n v : Nat) : State :=
  match s.rindKey p d off with
  | some k => s.wrNat k n v
  | none => s

/-- A count of a line changes on a die: in the rind, or in its save area while it is saved (R295, R298). -/
def State.setCount (s : State) (d ctx lid l v : Nat) : State :=
  match s.rind d ctx lid with
  | none => s
  | some r =>
    let s := s.modRind d ctx lid fun r => { r with f := SMap.set 0 r.f l v }
    if r.saved then
      match s.lent d ctx lid with
      | some e => s.rindPut e.p d (64 + 2 * l) 2 v
      | none => s
    else s.fireAll d ctx lid

/-- Point (l, x) of a carriage completes if F[l] = x still: F becomes x + 1, and the other dies are told
(R297, R295). -/
def State.pointDone (s : State) (d ctx lid carr : Nat) : State :=
  match s.rind d ctx lid with
  | none => s
  | some r =>
    match r.pts.find? fun q => q.2.2 == carr with
    | none => s
    | some (l, x, _) =>
      let s := s.modRind d ctx lid fun r => { r with pts := r.pts.filter fun q => q.2.2 != carr }
      if SMap.get 0 r.f l = x then
        let s := ((nats 4).filter (· != d)).foldl (fun s o =>
          s.modDie o fun x' => { x' with rnotices := x'.rnotices ++ [(ctx, lid, l, x + 1)] }) s
        s.setCount d ctx lid l (x + 1)
      else s

/-- The number of rinds that a die holds (R298). -/
def State.heldRinds (s : State) (d : Nat) : Nat := ((s.die d).rinds.filter fun r => r.held).length

/-- The save area of a rind, written (R299). -/
def State.saveRind (s : State) (d : Nat) (e : LEnt) (r : Rind) : State :=
  let p := e.p
  let nl := p.lines
  let base := 64 + 64 * cdiv (2 * nl) 64
  let s := s.rindPut p d 0 8 (e.lid * 2 ^ 32 + d * 2 ^ 30 + p.nd * 2 ^ 28)
  let s := s.rindPut p d 8 8 nl
  let s := s.rindPut p d 16 8 r.pts.length
  let s := s.rindPut p d 24 8 (2 ^ 63)
  let s := (nats 4).foldl (fun s i => s.rindPut p d (32 + 8 * i) 8 0) s
  let s := (nats (32 * cdiv (2 * nl) 64)).foldl (fun s l => s.rindPut p d (64 + 2 * l) 2 (SMap.get 0 r.f l)) s
  let pts := sortBy (fun a b => decide (a.1 ≤ b.1)) r.pts
  let s := ((nats pts.length).zip pts).foldl (fun s q =>
    (s.rindPut p d (base + 16 * q.1) 8 (q.2.2.1 * 2 ^ 48 + q.2.2.2)).rindPut p d (base + 16 * q.1 + 8) 8 q.2.1) s
  s.modRind d p.ctx e.lid fun r => { r with saved := true, held := false, leaving := false }

/-- The seats of a die with carriages of a launch. -/
def State.seatsOf (s : State) (d ctx lid : Nat) : List (Nat × Seat) :=
  s.seats.filter fun x => dieOf x.1 == d && x.2.st != .free && x.2.st != .reserved && x.2.ctx == ctx && x.2.lid == lid

/-- A rind is to be saved: it fires no more points, and its seated points are marked to be pre-empted (R298). -/
def State.evictRind (s : State) (d ctx lid : Nat) : State :=
  let s := s.modRind d ctx lid fun r => { r with leaving := true }
  ((s.seatsOf d ctx lid).filter fun x => x.2.st == .occupied || x.2.st == .loading).foldl (fun s x =>
    s.modSeat x.1 fun y => if y.mark = .none then { y with mark := .rind } else y) s

/-- Saves the rinds of a die that are leaving and have no carriage on a seat (R298). -/
def State.rindSaves (s : State) (d : Nat) : State :=
  (s.die d).rinds.foldl (fun s r =>
    if r.leaving && (s.seatsOf d r.ctx r.lid).isEmpty then
      match s.lent d r.ctx r.lid, s.rind d r.ctx r.lid with
      | some e, some r => s.saveRind d e r
      | _, _ => s
    else s) s

/-- A frontier launch that has become active takes a rind, evicting one with a higher effective class if
two are held, or waits (R298). -/
def State.takeRind (s : State) (d : Nat) (e : LEnt) : State :=
  if s.heldRinds d < 2 then
    (s.modRind d e.p.ctx e.lid fun r => { r with held := true, saved := false }).fireAll d e.p.ctx e.lid
  else
    let worse := (s.die d).rinds.filter fun r => r.held && !r.leaving && decide (e.eff < s.effClass d r.ctx r.lid)
    match (sortBy (fun a b => decide (s.effClass d b.ctx b.lid < s.effClass d a.ctx a.lid
        ∨ (s.effClass d b.ctx b.lid = s.effClass d a.ctx a.lid ∧ b.lid ≤ a.lid))) worse) with
    | [] => s
    | r :: _ => (s.evictRind d r.ctx r.lid).rindSaves d

/-! ## States of a launch -/

/-- Sends a notice to the other dies (R289). -/
def State.notify (s : State) (d : Nat) (e : LEnt) (fin : Bool) : State :=
  ((nats 4).filter (· != d)).foldl (fun s o =>
    s.modDie o fun x => { x with notices := x.notices ++ [⟨e.p.ctx, e.lid, d, e.trigs, e.err, fin⟩] }) s

/-- A COMPLETE report to a queue (R345). -/
def completeReport (op status tag lid : Nat) : Entry :=
  ⟨BitVec.ofNat 64 (op * 2 ^ 56 + status * 2 ^ 48 + tag), BitVec.ofNat 64 lid, 0, 0, 0, 0, 0, 0⟩

/-- Every record that the die owns is done, and every line of a frontier launch is complete (R287). -/
def State.allDone (s : State) (d : Nat) (e : LEnt) : Bool :=
  e.live == 0 && decide (e.p.total d ≤ e.next) &&
    (!e.p.isFront || match s.rind d e.p.ctx e.lid with
      | some r => (e.p.myLines d).all fun l => SMap.get 0 r.f l == e.p.ex
      | none => false)

/-- One move of one entry, if it has one (R287); a die that owns no line of a frontier launch never holds its rind (R448). -/
def State.moveOne (s : State) (d : Nat) (e : LEnt) : Option State :=
  match e.st with
  | .waiting =>
    if (nats e.p.npred).all (predOk (s.die d).launches e.p) then
      let s := s.modLent d e.p.ctx e.lid fun e => { e with st := .active }
      let s := s.modDie d fun x => { x with launches := classes x.launches }
      if e.p.isFront then
        let s := s.modDie d fun x => { x with rinds := x.rinds ++ [⟨e.p.ctx, e.lid, [], [], false, false, false⟩] }
        match s.lent d e.p.ctx e.lid with
        | some e => some (if (e.p.myLines d).isEmpty then s else s.takeRind d e)
        | none => some s
      else some (s.create d e.p.ctx e.lid)
    else none
  | .active =>
    if s.allDone d e then
      let s := s.modLent d e.p.ctx e.lid fun e => { e with st := .localDone, told := true }
      let s := s.modDie d fun x =>
        { x with launches := classes x.launches, rinds := x.rinds.filter fun r => !(r.ctx == e.p.ctx && r.lid == e.lid) }
      some (s.notify d e true)
    else none
  | .localDone =>
    if e.dones.length = 3 then
      let status := if e.err then 3 else 2
      let s := s.modLent d e.p.ctx e.lid fun e => { e with st := .complete, waiters := [] }
      let s := s.modDie d fun x => { x with launches := classes x.launches }
      let own := if e.p.die = d ∧ e.p.rq ≠ 4095 then [(e.p.ctx, e.p.rq, none, completeReport 1 status e.p.tag e.lid)] else []
      let wl := e.waiters.map fun w => (w.1, w.2.1, none, completeReport 7 status w.2.2.1 e.lid)
      some (s.modDie d fun x => { x with reports := x.reports ++ own ++ wl })
    else none
  | _ => none

/-- Moves the entries of a die until none has a move. -/
def settleGo : Nat → State → Nat → State
  | 0, s, _ => s
  | fuel + 1, s, d =>
    match (s.die d).launches.findSome? fun e => s.moveOne d e with
    | some s => settleGo fuel s d
    | none => s

/-- The effective classes of a die are written into CLASS of its carriages and gang launch records (R290). -/
def State.writeClasses (s : State) (d : Nat) : State :=
  let s := s.recs.foldl (fun (s : State) r =>
    let w := s.carrWord r.ctx r.carr 0
    let c := s.effClass d r.ctx r.lid
    if r.die ≠ d ∨ fld w 60 59 = c then s
    else s.setCarrWord r.ctx r.carr 0 (BitVec.ofNat 64 (w.toNat - fld w 60 59 * 2 ^ 59 + c * 2 ^ 59))) s
  s.coaches.foldl (fun (s : State) k =>
    let w := s.carrWord k.ctx (k.first - 64) 0
    let c := s.effClass d k.ctx k.lid
    if k.die ≠ d ∨ fld w 56 55 = c then s
    else s.setCarrWord k.ctx (k.first - 64) 0 (BitVec.ofNat 64 (w.toNat - fld w 56 55 * 2 ^ 55 + c * 2 ^ 55))) s

/-- The entries of a die settle (R287, R290). -/
def State.settle (s : State) (d : Nat) : State :=
  (settleGo (3 * (s.die d).launches.length) (s.modDie d fun x => { x with launches := classes x.launches }) d).writeClasses d

/-- CSTATE and QSTART of a gang launch record in memory (R260). -/
def State.putCoach (s : State) (c : Coach) : State :=
  s.setCarrWord c.ctx (c.first - 64) 2 (BitVec.ofNat 64 (c.cst * 2 ^ 61 + c.qstart % 32))

/-- Changes a gang launch record. -/
def State.modCoach (s : State) (i : Nat) (f : Coach → Coach) : State :=
  { s with coaches := s.coaches.map fun c => if c.idx = i then f c else c }

/-- The last member of a gang launch record has gone: DONE, or CANCELLED if any member was; seats kept for it become
free, and what a team swap has saved of it leaves the image pool. The place of a record that is DONE is free. -/
def State.coachGone (s : State) (i : Nat) : State :=
  match s.coaches.find? fun c => c.idx == i with
  | none => s
  | some c =>
    let bad := (nats ((c.groups + 1) * (c.seats + 1))).any fun k => fld (s.carrWord c.ctx (c.first + 64 * k) 0) 51 49 == 5
    let s := s.putCoach { c with cst := if bad then 4 else 3 }
    let s := { s with coaches := s.coaches.filter fun c => c.idx != i }
    let s := c.resv.foldl (fun s k => s.modSeat k fun x => { x with st := .free }) s
    let s := s.modCtx c.ctx fun x => { x with pool := (c.saves.flatMap fun g => g.slots).foldl SMap.erase x.pool }
    if bad then s else s.carrFree c.ctx (c.first - 64)

/-- A record of a launch has become DONE or CANCELLED (R287, R289, R297): the count of live records falls,
a frontier point completes, and new records may be created. -/
def State.recGone (s : State) (ctx carr : Nat) (cancelled : Bool) : State :=
  match s.recOf ctx carr with
  | none => s
  | some r =>
    let s := s.setCarr ctx carr (if cancelled then .cancelled else .done)
    let s := { s with recs := s.recs.filter fun x => !(x.ctx == ctx && x.carr == carr) }
    let s := if cancelled then s else s.carrFree ctx carr
    let s := s.modLent r.die ctx r.lid fun e => { e with live := e.live - 1, err := e.err || cancelled }
    let s := s.pointDone r.die ctx r.lid carr
    let s := match r.coach with
      | some i => if s.recs.any fun x => x.coach == some i then s else s.coachGone i
      | none => s
    (s.create r.die ctx r.lid).settle r.die

end Sys2Proof.Machine
end

