-- ==== Sys2Proof/Machine/MatMath.lean ====
section
/-!
DEFINITION. What the matrix array computes (R42 to R46, R196, R217 to R222) and the steps of the
factorisations (R229, R236 to R240), on values, apart from the array that holds them.
-/

namespace Sys2Proof.Machine

/-! ## Block sums (R43, R44) -/

/-- The sum of finite products over one exponent. -/
def sumFin : List Fv → Int × Int
  | [] => (0, 0)
  | .num n m e :: l =>
    let (a, ea) := sumFin l
    addInt n m e (decide (a < 0)) a.natAbs ea
  | _ :: l => sumFin l

/-- A product that is −0. -/
def isNegZero : Fv → Bool
  | .num true 0 _ => true
  | _ => false

/-- The exact sum of the products of a block, with its NV (R43). `none` is a 0 × ∞ product. -/
def blockSum (ps : List (Option Fv)) : Fv × Flags :=
  let bad := ps.any Option.isNone
  let vs := ps.filterMap id
  let pos := vs.any (· == .inf false)
  let neg := vs.any (· == .inf true)
  let nv : Flags := if bad || (pos && neg) then fNV else 0
  if bad || (pos && neg) || vs.any (· == .nan) then (.nan, nv)
  else if pos then (.inf false, 0)
  else if neg then (.inf true, 0)
  else
    let (a, e) := sumFin vs
    if a = 0 then (.num (!vs.isEmpty && vs.all isNegZero) 0 0, 0) else (.num (decide (a < 0)) a.natAbs e, 0)

/-- One block added to an FP32 accumulator (R43). -/
def accFp (z : W32) (ps : List (Option Fv)) : W32 × Flags :=
  let (v, f1) := blockSum ps
  let (r, f2) := bfFP32.round .rne false v
  let (o, f3) := fadd32 .rne false z (BitVec.ofNat 32 r)
  (o, f1 ||| f2 ||| f3)

/-- The integer that an integer element holds. -/
def fvToInt : Fv → Int
  | .num n m e => (if n then -1 else 1) * (shlInt m e : Nat)
  | _ => 0

/-- One block added to an INT32 accumulator, with IO (R44). -/
def accInt (z : W32) (ps : List Int) : W32 × Flags :=
  let t := z.toInt + ps.foldl (· + ·) 0
  (BitVec.ofInt 32 t, if t < -(2 ^ 31) ∨ 2 ^ 31 ≤ t then fIO else 0)

/-- Zero, the element of rows that a tile does not have (R194). -/
def fvZero : Fv := .num false 0 0

/-- One K block of 16 accumulated into a plane: `a` and `b` hold the 128 rows of A and columns of B, each
with the 16 values of the block (R43, R44). A position of A with none contributes an exact product of +0 (R45). -/
def accPlane (int : Bool) (z : Nat → Nat → W32) (a : List (List (Option Fv))) (b : List (List Fv)) : Array W32 × Flags :=
  let go := fun (acc : Array W32 × Flags) (m : Nat) =>
    let ra := nth [] a m
    (nats 128).foldl (fun (acc : Array W32 × Flags) n =>
      let rb := nth [] b n
      let (v, f) := if int then accInt (z m n) ((ra.zip rb).map fun e => (e.1.map fvToInt).getD 0 * fvToInt e.2)
        else accFp (z m n) ((ra.zip rb).map fun e => match e.1 with
          | some x => fvMul x e.2
          | none => some fvZero)
      (acc.1.push v, acc.2 ||| f)) acc
  (nats 128).foldl go (#[], 0)

/-! ## Sparse operands (R217 to R219) -/

/-- The index of kept value `e` in segment `seg` of a metadata row (R218). -/
def mdIdx (row : BitVec 128) (g8 : Bool) (seg e : Nat) : Nat :=
  if g8 then bitsAt row.toNat (48 * seg + 3 * e) 3 else bitsAt row.toNat (32 * seg + 2 * e) 2

/-- Decompresses the 16 kept codes of a row into 32 positions, none at those that no kept value names (R217). A position that is
not named contributes an exact product of +0 (R45), also against an infinity or a NaN of B, and whatever the sign of B; it does so
although the row starts as zero (DEDUCED, log 92). -/
def decompress (row : BitVec 128) (g8 : Bool) (seg : Nat) (kept : List (Option Nat)) : List (Option (Option Nat)) :=
  ((nats 16).zip kept).foldl (fun l e =>
    let g := if g8 then e.1 / 4 * 8 else e.1 / 2 * 4
    setNth l (g + mdIdx row g8 seg e.1) (some e.2)) (List.replicate 32 none)

/-- The order of R219: a NaN above every number, then by magnitude. `true` when `a` ranks above `b`. -/
def rankAbove (a b : Fv) : Bool :=
  match a, b with
  | .nan, .nan => false
  | .nan, _ => true
  | _, .nan => false
  | .inf _, .inf _ => false
  | .inf _, _ => true
  | _, .inf _ => false
  | .num _ m1 e1, .num _ m2 e2 => decide (0 < (addInt false m1 e1 true m2 e2).1)

/-- The positions of a group that CMPR keeps: the `k` of largest magnitude, equal ones at lower positions,
in ascending order (R219). -/
def keepOf (k : Nat) (vs : List Fv) : List Nat :=
  (nats vs.length).filter fun i =>
    decide (((nats vs.length).filter fun j =>
      rankAbove (nth fvZero vs j) (nth fvZero vs i)
        || (!rankAbove (nth fvZero vs i) (nth fvZero vs j) && decide (j < i))).length < k)

/-- Compresses a row of 32 codes: the 16 kept codes and the segment of metadata (R218, R219). -/
def compress (fmt : Nat) (g8 : Bool) (codes : List Nat) : List Nat × Nat :=
  let g := if g8 then 8 else 4
  let n := 32 / g
  let idx := (nats n).flatMap fun i =>
    (keepOf (g / 2) ((codes.drop (g * i)).take g |>.map (fmtDecode fmt))).map fun j => (g * i + j, j)
  let w := if g8 then 3 else 2
  (idx.map fun e => nth 0 codes e.1, ((nats 16).zip idx).foldl (fun a e => a + e.2.2 * 2 ^ (w * e.1)) 0)

/-! ## The drain converter (R42, R222) -/

/-- The multiplier M (R222): the Hadamard factor of the size, if any, times 2^SH. -/
def drainMul (had : Option Nat) (sh : Int) : Fv :=
  let h : Nat := match had with
    | none => 0x3F800000
    | some 16 => 0x3E800000
    | some 32 => 0x3E3504F3
    | some 64 => 0x3E000000
    | some _ => 0x3DB504F3
  match bfFP32.decode h with
  | .num n m e => .num n m (e + sh)
  | v => v

/-- The multiplier is 1 (R222): with no Hadamard factor and SH 0, or with a factor of 1/4 or 1/8 that SH undoes. -/
def mulOne (had : Option Nat) (sh : Int) : Bool :=
  (had == none && sh == 0) || (had == some 16 && sh == 2) || (had == some 64 && sh == 3)

/-- An element of a plane after the multiplier (R222). -/
def drainVal (int : Bool) (had : Option Nat) (sh : Int) (z : W32) : Fv × Flags :=
  if int && mulOne had sh then (fvInt z.toInt, 0)
  else
    let x := if int then fvInt z.toInt else f32 z
    let (r, f) := bfFP32.round .rne true ((fvMul x (drainMul had sh)).getD .nan)
    (bfFP32.decode r, f)

/-- The largest of the magnitudes of R42, as a number; an infinity counts as the FP32 largest finite. -/
def maxMag (vs : List Fv) : Fv :=
  vs.foldl (fun a v =>
    let w := match v with
      | .num _ m e => Fv.num false m e
      | .inf _ => bfFP32.decode 0x7F7FFFFF
      | .nan => fvZero
    if rankAbove w a then w else a) fvZero

/-- The scale code of a block (R42). -/
def scaleCode (fmt : Nat) (vs : List Fv) : Nat :=
  match maxMag vs with
  | .num _ m e =>
    if m = 0 then 0x7F
    else
      let x : Int := (bitLen m : Int) - 1 + e - fmtEmax fmt + 127
      if x < 0 then 0 else if 254 < x then 254 else x.toNat
  | _ => 0x7F

/-- The conversion of a drained value with saturation on; with scale generation an infinity is written as
the largest finite value of its sign (R42). The flags of that in E5M2, which has infinities, are not stated: OF alone, as
R33 has it for the formats without them (DESIGN CHOICE, log 93). -/
def drainConv (fmt : Nat) (mode : Rm) (sc : Option Nat) (v : Fv) : Nat × Flags :=
  match sc with
  | none => fmtRound fmt mode true v
  | some c =>
    match v with
    | .num n m e => fmtRound fmt mode true (.num n m (e + 127 - (c : Int)))
    | .inf n => if fmt = 4 then (bfE5M2.maxCode n, fOF) else fmtRound fmt mode true v
    | .nan => fmtRound fmt mode true v

/-- A block of up to 16 drained values: codes, scale code, flags (R42, R222). -/
def drainBlock (fmt : Nat) (mode : Rm) (gen : Bool) (vs : List Fv) : List Nat × Nat × Flags :=
  let c := scaleCode fmt vs
  let r := vs.map (drainConv fmt mode (if gen then some c else none))
  (r.map Prod.fst, c, r.foldl (fun f e => f ||| e.2) 0)

/-! ## Factorisations -/

/-- FP32 operations with RNE and saturation off (R227), with flags gathered in the second component. -/
abbrev Fl (α : Type) := α × Flags

/-- A plane as an array of 128 × 128 elements. -/
abbrev Pl := Array W32

/-- Element (i, k). -/
def Pl.at (p : Pl) (i k : Nat) : W32 := p.getD (128 * i + k) 0
/-- Writes element (i, k). -/
def Pl.put (p : Pl) (i k : Nat) (v : W32) : Pl := p.setIfInBounds (128 * i + k) v

/-- The negation of a value: its sign inverted. -/
def fneg (x : W32) : W32 := x ^^^ 0x80000000
/-- fma(−x, y, z). -/
def fnma (x y z : W32) : Fl W32 := ffma32 .rne false (fneg x) y z

/-- Applies an operation with flags to element (i, k). -/
def Pl.upd (p : Fl Pl) (i k : Nat) (f : Pl → Fl W32) : Fl Pl :=
  let (v, fl) := f p.1
  (p.1.put i k v, p.2 ||| fl)

/-- A loop over indices that carries a plane and flags. -/
def overPl (l : List Nat) (p : Fl Pl) (f : Fl Pl → Nat → Fl Pl) : Fl Pl := l.foldl f p

/-- The magnitude of an FP32 value; a NaN is ignored and counts as zero. -/
def magOf (x : W32) : W32 := if f32 x == .nan then 0 else x &&& 0x7FFFFFFF

/-- The largest magnitude of the listed values, NaN ignored (R229, R236). -/
def maxAbs (l : List W32) : W32 := l.foldl (fun a x => if a.toNat < (magOf x).toNat then magOf x else a) 0

/-- What a factorisation holds in its PM beside the plane: SING, GROWTH, INMAX, the entries. -/
structure FactSt where
  pl     : Pl
  zs     : Pl
  sing   : Nat
  growth : W32
  inmax  : W32
  ent    : List Nat
  fl     : Flags

/-- A step completes, or meets a pivot that stops it (R232): status code and column. -/
inductive FactRes where
  | ok (f : FactSt)
  | stop (status col : Nat)

/-- The pivot row of column `j` (R236), with NV if a candidate is a NaN. -/
def pivotRow (p : Pl) (n j : Nat) : Nat × Flags :=
  match (natsFrom j (n - j)).find? fun i => f32 (p.at i j) == .nan with
  | some i => (i, fNV)
  | none => ((natsFrom j (n - j)).foldl (fun b i => if (magOf (p.at b j)).toNat < (magOf (p.at i j)).toNat then i else b) j, 0)

/-- Swaps two rows of the region. -/
def swapRows (p : Pl) (n a b : Nat) : Pl :=
  (nats n).foldl (fun q k => (q.put a k (p.at b k)).put b k (p.at a k)) p

/-- The growth estimate after a column (R236). -/
def growthOf (growth inmax g : W32) : W32 :=
  if inmax &&& 0x7FFFFFFF = 0 then growth
  else
    let q := (fdiv32 .rup false g inmax).1
    if f32 growth == .nan ∨ f32 q == .nan then nan32 else fmax32 growth q

/-- A column of FLU (R236). -/
def stepFlu (s : FactSt) (n j : Nat) (nf : Bool) : FactRes :=
  let (p, f0) := pivotRow s.pl n j
  if s.pl.at p j &&& 0x7FFFFFFF = 0 then
    if nf then .ok { s with sing := Nat.min s.sing j, fl := s.fl ||| f0 } else .stop 4 j
  else
    let below := natsFrom (j + 1) (n - (j + 1))
    let pl := swapRows s.pl n j p
    let ent := setNth (setNth s.ent j (nth 0 s.ent p)) p (nth 0 s.ent j)
    let r := overPl below (pl, s.fl ||| f0) fun a i => Pl.upd a i j fun q => fdiv32 .rne false (q.at i j) (q.at j j)
    let r := overPl below r fun a i => overPl below a fun a k =>
      Pl.upd a i k fun q => fnma (q.at i j) (q.at j k) (q.at i k)
    let g := maxAbs (below.flatMap fun i => below.map fun k => r.1.at i k)
    .ok { s with pl := r.1, ent, fl := r.2, growth := growthOf s.growth s.inmax g }

/-- A column of FCHOL (R237). -/
def stepFchol (s : FactSt) (n j : Nat) : FactRes :=
  if fvLt fvZero (f32 (s.pl.at j j)) = false then .stop 5 j
  else
    let below := natsFrom (j + 1) (n - (j + 1))
    let r := Pl.upd (s.pl, s.fl) j j fun q => fsqrt32 .rne false (q.at j j)
    let r := overPl below r fun a i => Pl.upd a i j fun q => fdiv32 .rne false (q.at i j) (q.at j j)
    let r := overPl below r fun a k => overPl (natsFrom k (n - k)) a fun a i =>
      Pl.upd a i k fun q => fnma (q.at i j) (q.at k j) (q.at i k)
    .ok { s with pl := r.1, fl := r.2 }

/-- A column of FQR (R238); τ goes to column `tc` of Zs. -/
def stepFqr (s : FactSt) (n j tc : Nat) : FactRes :=
  let below := natsFrom (j + 1) (n - (j + 1))
  let al := s.pl.at j j
  let sg := below.foldl (fun (a : Fl W32) i =>
    let (v, f) := ffma32 .rne false (s.pl.at i j) (s.pl.at i j) a.1
    (v, a.2 ||| f)) ((0 : W32), s.fl)
  if sg.1 &&& 0x7FFFFFFF = 0 then .ok { s with zs := s.zs.put j tc 0, fl := sg.2 }
  else
    let (x, f1) := ffma32 .rne false al al sg.1
    let (mu, f2) := fsqrt32 .rne false x
    let be := if al.getLsbD 31 ∨ f32 mu = .nan then mu else fneg mu
    let (d, f3) := fsub32 .rne false al be
    let (ta, f4) := fdiv32 .rne false (fneg d) be
    let fl := sg.2 ||| f1 ||| f2 ||| f3 ||| f4
    let r := overPl below (s.pl, fl) fun a i => Pl.upd a i j fun q => fdiv32 .rne false (q.at i j) d
    let r : Fl Pl := (r.1.put j j be, r.2)
    let r := overPl below r fun a k =>
      let w := below.foldl (fun (b : Fl W32) i =>
        let (v, f) := ffma32 .rne false (a.1.at i j) (a.1.at i k) b.1
        (v, b.2 ||| f)) (a.1.at j k, a.2)
      let (t, f5) := fmul32 .rne false ta w.1
      let a := Pl.upd (a.1, w.2 ||| f5) j k fun q => fsub32 .rne false (q.at j k) t
      overPl below a fun a i => Pl.upd a i k fun q => fnma t (q.at i j) (q.at i k)
    .ok { s with pl := r.1, zs := s.zs.put j tc ta, fl := r.2 }

/-- A step of FTRS (R239). With `same`, B is columns `n` and after of Zd, else columns 0 and after of Zs. -/
def stepFtrs (s : FactSt) (n m st : Nat) (nf upper unit same : Bool) : FactRes :=
  let j := if upper then n - 1 - st else st
  let t (i k : Nat) : W32 := s.pl.at i k
  let off := if same then n else 0
  let zero := !unit && (t j j &&& 0x7FFFFFFF) == 0
  if zero && !nf then .stop 4 j
  else if zero then .ok { s with sing := Nat.min s.sing st }
  else
    let b : Fl Pl := (if same then s.pl else s.zs, s.fl)
    let b := if unit then b else overPl (nats m) b fun a c =>
      Pl.upd a j (off + c) fun q => fdiv32 .rne false (q.at j (off + c)) (t j j)
    let rows := if upper then nats j else natsFrom (j + 1) (n - (j + 1))
    let b := overPl rows b fun a i => overPl (nats m) a fun a c =>
      Pl.upd a i (off + c) fun q => fnma (t i j) (q.at j (off + c)) (q.at i (off + c))
    if same then .ok { s with pl := b.1, fl := b.2 } else .ok { s with zs := b.1, fl := b.2 }

/-- The lowest entry of FPERM that is out of range or repeats an earlier one (R240). -/
def permBad (ent : List Nat) (n : Nat) : Option Nat :=
  (nats n).find? fun i => decide (n ≤ nth 0 ent i) || (nats i).any fun j => nth 0 ent j == nth 0 ent i

/-- FPERM (R240). -/
def permPl (p : Pl) (ent : List Nat) (n : Nat) (cols inv : Bool) : Pl :=
  let src (i : Nat) : Nat :=
    if n ≤ i then i
    else if inv then ((nats n).find? fun k => nth 0 ent k == i).getD i
    else nth 0 ent i
  ((nats 128).flatMap fun i => (nats 128).map fun k => if cols then p.at i (src k) else p.at (src i) k).toArray

end Sys2Proof.Machine
end

