-- ==== Sys2Proof/Machine/Walk.lean ====
section
/-!
DEFINITION. The stream registers of a seat and the walk of a stream (R143 to R145): rows, elements, scale bytes.
-/

namespace Sys2Proof.Machine

/-! ## The walk (R144) -/

/-- A stream register of a seat. -/
def Seat.sq (x : Seat) (i : Nat) : Stream := SMap.get Stream.zero x.streams i
/-- Replaces a stream register. -/
def Seat.setSq (x : Seat) (i : Nat) (q : Stream) : Seat := { x with streams := SMap.set Stream.zero x.streams i q }
/-- Changes a stream register of a seat. -/
def State.modSq (s : State) (seat i : Nat) (f : Stream → Stream) : State := s.modSeat seat fun x => x.setSq i (f (x.sq i))

/-- Bits of an element. -/
def Stream.eb (q : Stream) : Nat := fmtBits q.fmt.toNat
/-- The length of a row in bytes. -/
def Stream.rb (q : Stream) : Nat := q.cols.toNat * q.eb / 8
/-- The number of rows of the walk. -/
def Stream.nrows (q : Stream) : Nat := q.de0.toNat * q.de1.toNat * q.de2.toNat * q.de3.toNat
/-- T, the number of elements. -/
def Stream.total (q : Stream) : Nat := q.nrows * q.cols.toNat
/-- The start of row `j` in walk order, computed exactly. -/
def Stream.rowStart (q : Stream) (j : Nat) : Int :=
  let i0 := j % q.de0.toNat
  let j := j / q.de0.toNat
  let i1 := j % q.de1.toNat
  let j := j / q.de1.toNat
  let i2 := j % q.de2.toNat
  let i3 := j / q.de2.toNat
  (q.base.toNat : Int) + i0 * q.ds0.toInt + i1 * q.ds1.toInt + i2 * q.ds2.toInt + i3 * q.ds3.toInt
/-- The address of row `j`. -/
def Stream.rowVa (q : Stream) (j : Nat) : Nat := wrapInt 48 (q.rowStart j)
/-- The bytes that element `n` touches: the address of the first, their number, and the bit at which it starts. -/
def Stream.elemSpan (q : Stream) (n : Nat) : Nat × Nat × Nat :=
  let bit := n % q.cols.toNat * q.eb
  (q.rowVa (n / q.cols.toNat) + bit / 8, (bit + q.eb + 7) / 8 - bit / 8, bit % 8)
/-- The address of the scale byte of element `n`. -/
def Stream.scaleVa (q : Stream) (n : Nat) : Nat :=
  (q.sbase.toNat + n / q.cols.toNat * q.sstride.toNat + n % q.cols.toNat / 16) % 2 ^ 48
/-- The elements that the next pop or push takes: 16, or the remainder (R128, R145). -/
def Stream.step (q : Stream) : Nat := Nat.min 16 (q.total - q.pos.toNat)
/-- POS after it; at T the stream is EXHAUSTED (R147). -/
def Stream.moved (q : Stream) : Stream :=
  let n := q.pos.toNat + q.step
  { q with pos := BitVec.ofNat 48 n, st := (if n = q.total then .exhausted else q.st) }

/-- The commands of an array that are not completed, oldest first. -/
def Arr.cmds (a : Arr) : List MCmd := a.outs.map (·.cmd) ++ a.q

/-- A command names a stream of its seat (R160, R219). -/
def MKind.names (k : MKind) (sq : Nat) : Bool :=
  let src (a : MSrc) : Bool := match a with
    | .tile t => t.sq == sq
    | _ => false
  match k with
  | .mma _ a _ _ _ b _ _ | .mmas _ a _ _ _ b _ _ _ _ => src a || b.sq == sq
  | .cmpr d a _ _ _ _ _ _ => src d || src a
  | _ => false

/-- Every byte of the 256-byte sector at an address lies in a row of the walk (R152). -/
def Stream.coversSec (q : Stream) (va : Nat) : Bool :=
  (nats 256).all fun i => (nats q.nrows).any fun j => decide (q.rowVa j ≤ va + i ∧ va + i < q.rowVa j + q.rb)

/-- The bytes of an element with the masks and values of its bits. -/
def elemBytes (va n bit eb code : Nat) : List (Nat × Byte × Byte) :=
  let m := (2 ^ eb - 1) * 2 ^ bit
  let v := code * 2 ^ bit
  (nats n).map fun i => ((va + i) % 2 ^ 48, BitVec.ofNat 8 (m >>> (8 * i)), BitVec.ofNat 8 (v >>> (8 * i)))

end Sys2Proof.Machine
end

