-- ==== Sys2Proof/Machine/Array.lean ====
section
/-!
DEFINITION. The matrix array of a quad (R191 to R223): its resources and their allocation, lease runs and
arbitration, the reads and writes of its commands, and what each command does when it executes.
-/

namespace Sys2Proof.Machine

/-! ## Resources (R192, R197, R203) -/

/-- The codes of the resources that lease masks name (R197, R206). -/
def maskRes (m : BitVec 24) : List Nat :=
  ((nats 4).filter fun i => m.getLsbD (6 + i))
    ++ (((nats 4).filter fun i => m.getLsbD i).map (0x10 + ·))
    ++ (((nats 4).filter fun i => m.getLsbD (14 + i)).flatMap fun i => [0x20 + 2 * i, 0x21 + 2 * i])
    ++ (((nats 4).filter fun i => m.getLsbD (20 + i)).map (0x30 + ·))

/-- The lines of a plane are written whole, and are in error no more (R366). -/
def Arr.clearBad (a : Arr) (z : Nat) : Arr := { a with zbad := a.zbad.filter fun l => l / 1024 != z }

/-- Sets a resource to zero, with its tags at their power-up values. -/
def Arr.zeroRes (a : Arr) (r : Nat) : Arr :=
  if r < 0x10 then
    { a with hoop := splice 0 a.hoop (128 * r * 256) 32768 fun _ => 0
             hscale := splice 0 a.hscale (128 * r * 64) 8192 fun _ => 0
             hf := SMap.erase a.hf r, hs := SMap.erase a.hs r }
  else if r < 0x20 then
    let z := r - 0x10
    { a with z := splice 0 a.z (16384 * z) 16384 fun _ => 0, zt := SMap.erase a.zt z, zopen := SMap.erase a.zopen z
             zbad := a.zbad.filter fun l => l / 1024 != z }
  else if r < 0x30 then { a with md := splice 0 a.md (128 * (r - 0x20)) 128 fun _ => 0 }
  else { a with pm := SMap.erase a.pm (r - 0x30) }

/-- The number by which an array knows a carriage: its context and its address. -/
def carrId (ctx carr : Nat) : Nat := ctx * 2 ^ 48 + carr

/-- The number by which the array knows the carriage of a seat. -/
def Seat.cid (x : Seat) : Nat := carrId x.ctx x.carr

/-- The resources that are allocated to a carriage. -/
def Arr.allocOf (a : Arr) (carr : Nat) : List Nat := (a.alloc.filter fun e => e.2 == carr + 1).map Prod.fst

/-- The resource is allocated to the carriage. -/
def Arr.has (a : Arr) (carr r : Nat) : Bool := SMap.get 0 a.alloc r == carr + 1

/-- Frees the allocation of a carriage, but for some resources. -/
def Arr.freeBut (a : Arr) (carr : Nat) (keep : List Nat) : Arr :=
  { a with alloc := a.alloc.filter fun e => e.2 != carr + 1 || keep.contains e.1 }
/-- Frees the allocation of a carriage. -/
def Arr.freeAlloc (a : Arr) (carr : Nat) : Arr := a.freeBut carr []

/-- Allocates resources at a first grant, with the zeroing of R192. -/
def Arr.allocate (a : Arr) (ctx carr : Nat) (rs : List Nat) : Arr :=
  rs.foldl (fun a r =>
    let a := if SMap.get 0 a.owner r = ctx + 1 then a else { a.zeroRes r with owner := SMap.set 0 a.owner r (ctx + 1) }
    { a with alloc := SMap.set 0 a.alloc r (carr + 1) }) a

/-- A resource was last written by another context (R192); one that no context has written is at its power-up value. -/
def Arr.foreign (a : Arr) (ctx r : Nat) : Bool := let o := SMap.get 0 a.owner r; o != 0 && o != ctx + 1

/-- The number of resources that a grant has to zero, a pair of metadata registers being one (R192). -/
def Arr.toZero (a : Arr) (ctx : Nat) (rs : List Nat) : Nat :=
  (rs.filter fun r => a.foreign ctx r && !(decide (0x20 ≤ r ∧ r < 0x30) && decide (r % 2 = 1))).length

/-- Planes are named by bit in the masks. -/
def Arr.openPlane (a : Arr) (carr : Nat) : Bool :=
  (nats 4).any fun z => SMap.get false a.zopen z && a.has carr (0x10 + z)

/-- Closes every open plane of a carriage, with its contents kept (R209). -/
def Arr.closePlanes (a : Arr) (carr : Nat) : Arr :=
  (nats 4).foldl (fun a z => if a.has carr (0x10 + z) then { a with zopen := SMap.erase a.zopen z } else a) a

/-- Closes a plane. -/
def Arr.close (a : Arr) (z : Nat) : Arr := { a with zopen := SMap.erase a.zopen z }
/-- Opens a plane. -/
def Arr.opens (a : Arr) (z : Nat) : Arr := { a with zopen := SMap.set false a.zopen z true }

/-! ## Lease runs (R199, R200) -/

/-- The run of a carriage ends, if it holds one: the array may grant two array cycles later (R200). -/
def State.endRun (s : State) (quad carr : Nat) : State :=
  if (s.arr quad).holder = some carr then s.modArr quad fun a => { a with holder := none, run := 0, freeAt := s.arrCycle quad + 2 }
  else s

/-- The run of a seat's carriage ends: HELD or EXPIRING to REQUESTED. -/
def State.endRunSeat (s : State) (seat : Nat) : State :=
  let s := s.endRun (quadOf seat) (s.seat seat).cid
  s.modSeat seat fun x =>
    if x.lease.st = .held ∨ x.lease.st = .expiring then { x with lease := { x.lease with st := .requested, openAt := none } } else x

/-- Commands of a carriage that are not completed. -/
def State.queued (s : State) (quad ctx carr : Nat) : List MCmd :=
  (s.arr quad).cmds.filter fun c => c.carr == carr && c.ctx == ctx

/-- The resources that a lease holds now: none before its first grant (R197). -/
def Lease.holds (l : Lease) : List Nat := if l.granted then maskRes l.masks else []

/-- The allocation of a carriage is freed once its queued commands are done, if its lease has ended; what MREL has left to be
freed once those issued before it are done, but for what a later LEASE has been granted (R199, R209). -/
def State.settleFree (s : State) (quad ctx carr : Nat) : State :=
  let l : Lease := match s.seats.find? fun e => e.2.st != .free && e.2.st != .reserved && e.2.ctx == ctx && e.2.carr == carr with
    | some e => e.2.lease
    | none => match s.recOf ctx carr with
      | some r => r.lease
      | none => Lease.none
  let left := s.queued quad ctx carr
  if l.st = .idle ∧ left = [] ∨ (l.freeing.any fun n => left.all fun c => decide (n ≤ c.id)) = true then
    let s := s.modArr quad fun a => a.freeBut (carrId ctx carr) (if l.st = .idle then [] else l.holds)
    let s := s.modRec ctx carr fun r => { r with lease := { r.lease with freeing := none } }
    { s with seats := s.seats.map fun e =>
        if e.2.ctx == ctx && e.2.carr == carr then (e.1, { e.2 with lease := { e.2.lease with freeing := none } }) else e }
  else s

/-- One more command of a seat's run has been accepted (R199): at the 256th the run ends, or expires while a
reduction is open; while EXPIRING it ends with the last open plane. `cyc` is the core cycle of the commit, and the
tags of the command have changed already. -/
def State.countCmd (s : State) (seat cyc : Nat) : State :=
  let q := quadOf seat
  let x := s.seat seat
  let s := s.modArr q fun a => { a with run := a.run + 1 }
  let s := s.modSeat seat fun x => { x with lease := { x.lease with lastCmd := cyc } }
  let isOpen := (s.arr q).openPlane x.cid
  let s := s.modSeat seat fun x =>
    { x with lease := { x.lease with openAt := if isOpen then (match x.lease.openAt with
                                                              | some t => some t
                                                              | none => some cyc) else none } }
  if isOpen then
    (if 256 ≤ (s.arr q).run ∧ x.lease.st = .held then s.modSeat seat fun x => { x with lease := { x.lease with st := .expiring } } else s)
  else if 256 ≤ (s.arr q).run ∨ x.lease.st = .expiring then s.endRunSeat seat
  else s

/-! ## Memory of array commands -/

/-- The place of a byte through the translations of a command, with its swizzle undone: reads reach the front. -/
def State.readLoc (s : State) (ctx : Nat) (refs : Held) (swz va : Nat) : Nat := s.heldKey ctx refs (swzAddr swz va)

/-- Reads `n` bytes through held translations. -/
def State.readHeld (s : State) (ctx : Nat) (refs : Held) (swz va n : Nat) : List Byte :=
  s.gather (s.readLoc ctx refs swz) va n

/-- The first line in error that such a read meets. -/
def State.badHeld (s : State) (ctx : Nat) (refs : Held) (swz va n : Nat) : Option Nat :=
  s.badChunk (s.heldKey ctx refs) (swzAddr swz) va n

/-- Splits a write into pieces that lie in one 16-byte chunk each; `f` gives the location of an address. -/
def piecesGo (f : Nat → Nat) : Nat → Nat → List Byte → List (Nat × List Byte)
  | 0, _, _ => []
  | fuel + 1, va, l =>
    if l.isEmpty then []
    else
      let n := 16 - va % 16
      (f (va % 2 ^ 48), l.take n) :: piecesGo f fuel (va + n) (l.drop n)

/-- The pieces of a write. -/
def pieces (f : Nat → Nat) (va : Nat) (l : List Byte) : List (Nat × List Byte) := piecesGo f (l.length / 16 + 2) va l

/-- Lines that the pieces of one write cover whole (R366). -/
def wholeLines (ps : List (Nat × List Byte)) : List Nat :=
  ((ps.filter fun p => p.1 % 64 == 0).map fun p => p.1 / 64).filter fun l =>
    (nats 4).all fun i => ps.any fun p => p.1 == 64 * l + 16 * i && p.2.length == 16

/-- Applies the pieces of one engine write at their home ports, and clears the lines they cover whole. -/
def State.applyPieces (s : State) (ps : List (Nat × List Byte)) : State :=
  let s := ps.foldl (fun s p => s.apply p.1 p.2) s
  { s with poison := clearLines s.poison (wholeLines ps) }

/-- The shadow location of an address through held translations: engine writes reach the shadow (R180). -/
def State.heldShadow (s : State) (ctx : Nat) (refs : Held) (va : Nat) : Nat :=
  match heldPlace refs va with
  | some p => s.shadow ctx p
  | none => 0

/-- Sets the swizzle tags of the scratchpad sectors at the listed addresses (R151, R152). -/
def State.setTagSecs (s : State) (f : Nat → Nat) (swz : Nat) (secs : List Nat) : State :=
  secs.foldl (fun s a =>
    let k := f (a % 2 ^ 48)
    if isSpad k then { s with tags := SMap.set 0 s.tags (k / 256) swz } else s) s

/-- Sets the swizzle tags of the scratchpad sectors that a write of one range covers whole (R151, R152). -/
def State.setTags (s : State) (f : Nat → Nat) (swz va n : Nat) : State :=
  s.setTagSecs f swz ((natsFrom (cdiv va 256) ((va + n) / 256 - cdiv va 256)).map (256 * ·))

/-- An engine write through held translations (R151, R180). -/
def State.engineWrite (s : State) (ctx : Nat) (refs : Held) (swz va : Nat) (l : List Byte) : State :=
  let s := s.setTags (s.heldShadow ctx refs) swz va l.length
  s.applyPieces (pieces (fun a => s.heldShadow ctx refs (swzAddr swz a)) va l)

/-- An engine write that reaches the front: every one but those of transfers, DRAINs and network placement (R180). -/
def State.frontWrite (s : State) (ctx : Nat) (refs : Held) (swz va : Nat) (l : List Byte) : State :=
  let s := s.setTags (s.heldKey ctx refs) swz va l.length
  s.applyPieces (pieces (s.readLoc ctx refs swz) va l)

/-! ## Operands of a command (R194, R195) -/

/-- The rows of a tile. -/
def Tile.rows (t : Tile) : Nat := t.q.rows.toNat
/-- The columns of a tile. -/
def Tile.cols (t : Tile) : Nat := t.q.cols.toNat
/-- The number of element `j` of row `r` in the walk of the stream. -/
def Tile.elem (t : Tile) (r j : Nat) : Nat := t.q.pos.toNat + r * t.cols + j
/-- The address of the first scale byte of row `r` of a tile. A tile row that begins inside a stream row, and goes on in the
next, has for all its elements the scale of the stream row of its first element (DESIGN CHOICE, log 58: R40 and R144 give scales
to stream rows only). -/
def Tile.scaleAt (t : Tile) (r : Nat) : Nat := (t.q.sbase.toNat + t.elem r 0 / t.cols * t.q.sstride.toNat) % 2 ^ 48

/-- The stretches of row `r` of a tile that lie in one stream row each: the address, the bytes (R194). -/
def Tile.spans (t : Tile) (r : Nat) : List (Nat × Nat) :=
  let k := t.elem r 0 % t.cols
  let span (j n : Nat) : Nat × Nat :=
    let a := t.q.elemSpan (t.elem r j)
    let b := t.q.elemSpan (t.elem r (j + n - 1))
    (a.1, (b.1 + b.2.1 + 2 ^ 48 - a.1) % 2 ^ 48)
  if k = 0 then [span 0 t.cols] else [span 0 (t.cols - k), span (t.cols - k) k]

/-- The bytes that a tile takes up. -/
def Tile.allSpans (t : Tile) : List (Nat × Nat) := (nats t.rows).flatMap t.spans

/-- The code of zero in a format: of −0 and +0 the canonical one (R29, R30, R34). -/
def zeroCode (fmt : Nat) : Nat := (fmtRound fmt .rne true fvZero).1

/-- The codes of a row of a tile; none for a row that the tile does not have. -/
def State.tileCodes (s : State) (ctx : Nat) (t : Tile) (r : Nat) : List (Option Nat) :=
  if t.rows ≤ r then List.replicate t.cols none
  else (nats t.cols).map fun j =>
    let sp := t.q.elemSpan (t.elem r j)
    some (bitsAt (ofBytesLE (s.readHeld ctx t.refs t.q.swz.toNat sp.1 sp.2.1)) sp.2.2 t.q.eb)

/-- The scale bytes of a row of a tile, `n` of them; none for an unscaled tile. -/
def State.tileScales (s : State) (ctx : Nat) (t : Tile) (r n : Nat) : Option (List Nat) :=
  if t.q.sstride = 0 ∨ t.rows ≤ r then none else some ((s.readHeld ctx t.refs 0 (t.scaleAt r) n).map BitVec.toNat)

/-- The first line in error that the read of a tile meets. -/
def State.tileBad (s : State) (ctx : Nat) (t : Tile) (scn : Nat) : Option Nat :=
  let row (r : Nat) : Option Nat := (nats t.cols).findSome? fun j =>
    let sp := t.q.elemSpan (t.elem r j)
    s.badHeld ctx t.refs t.q.swz.toNat sp.1 sp.2.1
  match (nats t.rows).findSome? row with
  | some l => some l
  | none => if t.q.sstride = 0 then none else (nats t.rows).findSome? fun r => s.badHeld ctx t.refs 0 (t.scaleAt r) scn

/-- The 16 codes of K-step `c` of a hoop row (R195). -/
def Arr.hoopCodes (a : Arr) (h fmt c r : Nat) : List (Option Nat) :=
  let bits := fmtBits fmt
  let base := (128 * h + r) * 256 + 2 * bits * c
  let bs := (nats (2 * bits)).map fun i => SMap.get 0 a.hoop (base + i)
  (nats 16).map fun j => some (elemAt bits bs j)

/-- A scale byte of a hoop row. -/
def Arr.hoopScale (a : Arr) (h r j : Nat) : Nat := (SMap.get 0 a.hscale ((128 * h + r) * 64 + j)).toNat

/-- The value of a code under its format and scale; zero where the tile has no such row. -/
def codeVal (fmt : Nat) (sc : Option Nat) (x : Option Nat) : Fv :=
  match x with
  | none => fvZero
  | some x => match sc with
    | none => fmtDecode fmt x
    | some c => fvScale c (fmtDecode fmt x)

/-- Values of a row whose 16-element blocks have the listed scales. -/
def rowVals (fmt : Nat) (scs : Option (List Nat)) (codes : List (Option Nat)) : List Fv :=
  ((nats codes.length).zip codes).map fun e => codeVal fmt (scs.map fun l => nth 0 l (e.1 / 16)) e.2

/-- Values of a decompressed row: none for a position that the metadata does not name (R45, R217). -/
def sparseVals (fmt : Nat) (scs : Option (List Nat)) (codes : List (Option (Option Nat))) : List (Option Fv) :=
  ((nats codes.length).zip codes).map fun e => e.2.map (codeVal fmt (scs.map fun l => nth 0 l (e.1 / 16)))

/-- An element of a plane. -/
def Arr.zAt (a : Arr) (p i j : Nat) : W32 := SMap.get 0 a.z ((128 * p + i) * 128 + j)

/-- A plane as an array of its elements, for one pass over it. -/
def Arr.plane (a : Arr) (p : Nat) : Pl :=
  (a.z.filter fun e => decide (16384 * p ≤ e.1 ∧ e.1 < 16384 * (p + 1))).foldl
    (fun (q : Pl) e => q.setIfInBounds (e.1 - 16384 * p) e.2) (Array.replicate 16384 0)

/-- Replaces a plane. -/
def Arr.setPlane (a : Arr) (p : Nat) (q : Pl) : Arr := { a with z := splice 0 a.z (16384 * p) 16384 fun i => q.getD i 0 }

/-! ## Execution (R204 to R220) -/

/-- What a command leaves: the state, the flags for its seat, or the line in error that it met. -/
inductive MRes where
  | ok (s : State) (fl : Flags)
  | err (line : Nat)

/-- The rows of A of an MMA, with the flags of the down-conversion of a plane source (R196, R215). -/
def State.mmaA (s : State) (quad ctx : Nat) (a : MSrc) (c fa : Nat) (sa : Bool) : List (List Fv) × Flags :=
  let ar := s.arr quad
  match a with
  | .hoop h => ((nats 128).map fun r =>
      rowVals fa (if sa then some [ar.hoopScale h r c] else none) (ar.hoopCodes h fa c r), 0)
  | .tile t => ((nats 128).map fun r => rowVals fa (s.tileScales ctx t r 1) (s.tileCodes ctx t r), 0)
  | .plane z int =>
    let p := ar.plane z
    let e := (nats 128).map fun r => (nats 16).map fun k =>
      let x := p.at r (16 * c + k)
      fmtRound fa .rne true (if int then fvInt x.toInt else f32 x)
    (e.map fun l => l.map fun x => fmtDecode fa x.1, e.foldl (fun f l => l.foldl (fun f x => f ||| x.2) f) 0)

/-- The first line in error among the tiles of an operand. -/
def State.srcBad (s : State) (ctx : Nat) (a : MSrc) (scn : Nat) : Option Nat :=
  match a with
  | .tile t => s.tileBad ctx t scn
  | _ => none

/-- MMA (R215, R216). -/
def State.doMma (s : State) (quad ctx zd : Nat) (a : MSrc) (c fa : Nat) (sa : Bool) (bt : Tile) (int : Bool) : MRes :=
  match s.srcBad ctx a 1, s.tileBad ctx bt 1 with
  | some l, _ => .err l
  | none, some l => .err l
  | none, none =>
    let (ra, f1) := s.mmaA quad ctx a c fa sa
    let rb := (nats 128).map fun n => rowVals bt.q.fmt.toNat (s.tileScales ctx bt n 1) (s.tileCodes ctx bt n)
    let p := (s.arr quad).plane zd
    let (q, f2) := accPlane int p.at (ra.map (·.map some)) rb
    .ok (s.modArr quad fun x => x.setPlane zd q) (f1 ||| f2)

/-- MMAS (R217): two blocks of 16, the lower positions first (R45). -/
def State.doMmas (s : State) (quad ctx zd : Nat) (a : MSrc) (c fa : Nat) (sa : Bool) (bt : Tile) (int : Bool)
    (md seg : Nat) (g8 : Bool) : MRes :=
  match s.srcBad ctx a 2, s.tileBad ctx bt 2 with
  | some l, _ => .err l
  | none, some l => .err l
  | none, none =>
    let ar := s.arr quad
    let ra := (nats 128).map fun r =>
      let (kept, scs) := match a with
        | .hoop h => (ar.hoopCodes h fa c r, if sa then some [ar.hoopScale h r (2 * c), ar.hoopScale h r (2 * c + 1)] else none)
        | .tile t => (s.tileCodes ctx t r, s.tileScales ctx t r 2)
        | .plane _ _ => ([], none)
      sparseVals fa scs (decompress (SMap.get 0 ar.md (128 * md + r)) g8 seg kept)
    let rb := (nats 128).map fun n => rowVals bt.q.fmt.toNat (s.tileScales ctx bt n 2) (s.tileCodes ctx bt n)
    let p := ar.plane zd
    let (q, f1) := accPlane int p.at (ra.map (·.take 16)) (rb.map (·.take 16))
    let (q, f2) := accPlane int (fun m n => Pl.at q m n) (ra.map (·.drop 16)) (rb.map (·.drop 16))
    .ok (s.modArr quad fun x => x.setPlane zd q) (f1 ||| f2)

/-- Replaces `n` bits of a metadata row from `lo` on. -/
def setBits (row : BitVec 128) (lo n v : Nat) : BitVec 128 :=
  BitVec.ofNat 128 (row.toNat / 2 ^ (lo + n) * 2 ^ (lo + n) + v % 2 ^ n * 2 ^ lo + row.toNat % 2 ^ lo)

/-- Replaces the 16 codes of K-step `c` of a hoop row (R195). -/
def Arr.putCodes (a : Arr) (h fmt c r : Nat) (codes : List Nat) : Arr :=
  let bits := fmtBits fmt
  let base := (128 * h + r) * 256 + 2 * bits * c
  let bs := packElems bits codes
  { a with hoop := splice 0 a.hoop base (2 * bits) fun i => nth 0 bs i }

/-- Writes the codes of a row of a tile into memory, in one piece where the row is a stream row. The elements of a stream reach
the front (R180). -/
def State.tileWrite (s : State) (ctx : Nat) (t : Tile) (r : Nat) (codes : List Nat) : State :=
  let z := t.q.swz.toNat
  if t.elem r 0 % t.cols = 0 then
    s.applyPieces (pieces (s.readLoc ctx t.refs z) (t.q.rowVa (t.elem r 0 / t.cols)) (packElems t.q.eb codes))
  else ((nats t.cols).zip codes).foldl (fun s e =>
    let sp := t.q.elemSpan (t.elem r e.1)
    (elemBytes sp.1 sp.2.1 sp.2.2 t.q.eb e.2).foldl (fun s b =>
      let k := s.readLoc ctx t.refs z b.1
      s.apply k [(s.rdByte k &&& ~~~b.2.1) ||| (b.2.2 &&& b.2.1)]) s) s

/-- Writes a tile: the tags of the sectors that it covers whole, then its rows (R152, R219). -/
def State.tileWrites (s : State) (ctx : Nat) (t : Tile) (out : List (List Nat × Nat)) : State :=
  let l := t.allSpans
  let s := s.setTagSecs (s.heldKey ctx t.refs) t.q.swz.toNat ((l.flatMap fun r => secsOf r.1 r.2).filter (covered l))
  (nats t.rows).foldl (fun s r => s.tileWrite ctx t r (nth ([], 0) out r).1) s

/-- CMPR (R219). -/
def State.doCmpr (s : State) (quad ctx : Nat) (dst src : MSrc) (c fmt : Nat) (scaled : Bool) (md seg : Nat) (g8 : Bool) : MRes :=
  match s.srcBad ctx src 2 with
  | some l => .err l
  | none =>
    let ar := s.arr quad
    let rows := (nats 128).map fun r => match src with
      | .hoop h => (ar.hoopCodes h fmt (2 * c) r ++ ar.hoopCodes h fmt (2 * c + 1) r).map (·.getD 0)
      | .tile t => (s.tileCodes ctx t r).map (·.getD (zeroCode fmt))
      | .plane _ _ => []
    let scs := (nats 128).map fun r => match src with
      | .hoop h => [ar.hoopScale h r (2 * c), ar.hoopScale h r (2 * c + 1)]
      | .tile t => (s.tileScales ctx t r 2).getD [127, 127]
      | .plane _ _ => []
    let out := rows.map (compress fmt g8)
    let w := if g8 then 48 else 32
    let put := fun (a : Arr) (r : Nat) =>
      let k := 128 * md + r
      { a with md := SMap.set 0 a.md k (setBits (SMap.get 0 a.md k) (w * seg) w (nth ([], 0) out r).2) }
    let s := s.modArr quad fun a => (nats 128).foldl put a
    match dst with
    | .hoop h =>
      .ok (s.modArr quad fun a => (nats 128).foldl (fun (a : Arr) r =>
        let a := a.putCodes h fmt c r (nth ([], 0) out r).1
        if scaled then
          let k := (128 * h + r) * 64 + 2 * c
          { a with hscale := SMap.set 0 (SMap.set 0 a.hscale k (BitVec.ofNat 8 (nth 0 (nth [] scs r) 0)))
                               (k + 1) (BitVec.ofNat 8 (nth 0 (nth [] scs r) 1)) }
        else a) a) 0
    | .tile t => .ok (s.tileWrites ctx t out) 0
    | .plane _ _ => .ok s 0

/-- HLD (R213). -/
def State.doHld (s : State) (quad ctx : Nat) (refs : Held) (h va pitch swz : Nat) (scl : Option Addr) : MRes :=
  let row (r : Nat) : Nat := (va + r * pitch) % 2 ^ 48
  match (nats 128).findSome? fun r => s.badHeld ctx refs swz (row r) 256 with
  | some l => .err l
  | none =>
    let put := fun (s : State) => (nats 128).foldl (fun (s : State) r =>
      let bs := s.readHeld ctx refs swz (row r) 256
      s.modArr quad fun a => { a with hoop := splice 0 a.hoop ((128 * h + r) * 256) 256 fun i => nth 0 bs i }) s
    match scl with
    | none => .ok (put s) 0
    | some sv =>
      match s.badHeld ctx refs 0 sv.toNat 8192 with
      | some l => .err l
      | none =>
        let bs := s.readHeld ctx refs 0 sv.toNat 8192
        .ok ((put s).modArr quad fun a => { a with hscale := splice 0 a.hscale (8192 * h) 8192 fun i => nth 0 bs i }) 0

/-- K-steps that a hoop row holds in a format (R195). -/
def hoopSteps (fmt : Nat) : Nat :=
  match fmtBits fmt with
  | 32 => 4
  | 16 => 8
  | 8 => 16
  | 6 => 21
  | _ => 32

/-- HLDC (R214): the Hadamard matrix of size `n` along the diagonal. -/
def Arr.hadamard (a : Arr) (h fmt n : Nat) : Arr :=
  let bits := fmtBits fmt
  let one := (fmtRound fmt .rne true (fvInt 1)).1
  let neg := (fmtRound fmt .rne true (fvInt (-1))).1
  let zer := (fmtRound fmt .rne true fvZero).1
  let pop (x : Nat) : Nat := ((nats 7).filter fun i => x.testBit i).length
  let row (r : Nat) : List Byte := packElems bits ((nats (16 * hoopSteps fmt)).map fun k =>
    if k < 128 ∧ r / n = k / n then (if pop ((r % n) &&& (k % n)) % 2 = 0 then one else neg) else zer)
  (nats 128).foldl (fun (a : Arr) r =>
    let bs := row r
    { a with hoop := splice 0 a.hoop ((128 * h + r) * 256) 256 fun i => nth 0 bs i }) a

/-- MDLD (R220). -/
def State.doMdld (s : State) (quad ctx : Nat) (refs : Held) (md va : Nat) : MRes :=
  match s.badHeld ctx refs 0 va 2048 with
  | some l => .err l
  | none =>
    let bs := s.readHeld ctx refs 0 va 2048
    .ok (s.modArr quad fun a =>
      { a with md := splice 0 a.md (128 * md) 128 fun r => BitVec.ofNat 128 (ofBytesLE ((bs.drop (16 * r)).take 16)) }) 0

/-- The 2 KiB of a metadata register, as an MDST writes them (R220). -/
def Arr.mdBytes (a : Arr) (m : Nat) : List Byte := (nats 128).flatMap fun r => bytesLE 16 (SMap.get 0 a.md (128 * m + r)).toNat

/-- The codes, scales and flags of a row of a drained region (R222). -/
def drainRow (int : Bool) (fmt : Nat) (rtz sc : Bool) (had : Option Nat) (sh : Int) (zs : List W32) :
    List Nat × List Nat × Flags :=
  let vs := zs.map (drainVal int had sh)
  let f0 := vs.foldl (fun f e => f ||| e.2) 0
  let mode : Rm := if rtz then .rtz else .rne
  if int && fmt == 0 then (zs.map BitVec.toNat, [], f0)
  else if sc then
    let r := (nats (zs.length / 16)).map fun b => drainBlock fmt mode true (((vs.drop (16 * b)).take 16).map Prod.fst)
    (r.flatMap fun e => e.1, r.map fun e => e.2.1, r.foldl (fun f e => f ||| e.2.2) f0)
  else
    let r := drainBlock fmt mode false (vs.map Prod.fst)
    (r.1, [], f0 ||| r.2.2)

/-- What a DRAIN writes, with its flags (R221 to R223). -/
def Arr.drained (a : Arr) (z fmt va fr nr c0 nc : Nat) (rtz sc : Bool) (swz scl : Nat) (had : Option Nat) (sh : Int) (int : Bool) :
    List (Nat × Nat × List Byte) × Flags :=
  let p := a.plane z
  let r := (nats (nr + 1)).map fun i => drainRow int fmt rtz sc had sh ((nats (nc + 1)).map fun j => p.at (fr + i) (c0 + j))
  ((swz, va, r.flatMap fun e => packElems (fmtBits fmt) e.1)
      :: (if sc then [(0, scl, r.flatMap fun e => e.2.1.map fun x => BitVec.ofNat 8 x)] else []),
    r.foldl (fun f e => f ||| e.2.2) 0)

/-- Reserved bits of a PM are discarded, and STATUS codes 6 to 15 are stored as 0 (R225, R242). -/
def pmClean (v : BitVec 1024) : BitVec 1024 :=
  let n := v.toNat
  let st := bitsAt n 924 4
  let n := n - bitsAt n 944 16 * 2 ^ 944 - bitsAt n 896 1 * 2 ^ 896
  BitVec.ofNat 1024 (if 6 ≤ st then n - st * 2 ^ 924 else n)

/-- Writes word `w` of a PM. -/
def pmPut (v : BitVec 1024) (w : Nat) (x : W64) : BitVec 1024 :=
  pmClean (BitVec.ofNat 1024 (v.toNat - bitsAt v.toNat (64 * w) 64 * 2 ^ (64 * w) + x.toNat * 2 ^ (64 * w)))

/-- Array cycles of a command (R204, R241, R242). -/
def MKind.cycles : MKind → Nat
  | .mzero _ => 8
  | .mtrans _ _ => 64
  | .hldc _ _ _ => 16
  | .hld _ _ _ _ _ _ => 128
  | .mma _ _ _ fa _ bt _ same => mmTime fa bt.q.fmt.toNat + (if same then 128 else 0)
  | .mmas _ _ _ fa _ bt _ _ _ _ => mmTime fa bt.q.fmt.toNat
  | .cmpr _ _ _ _ _ _ _ _ => 16
  | .mdld _ _ => 16
  | .mdst _ _ => 16
  | .drain _ _ _ _ nr _ _ _ _ _ _ _ _ _ => 2 * (nr + 1)
  | .pmrd _ _ _ => 2
  | .pmwr _ _ _ => 2
  | .fact _ _ => 0
where
  /-- The time of a product by the formats of its operands. -/
  mmTime (fa fb : Nat) : Nat :=
    if fa = 0 ∨ fb = 0 then 64
    else if (1 ≤ fa ∧ fa ≤ 2) ∨ (1 ≤ fb ∧ fb ≤ 2) then 16
    else if [3, 4, 8, 9].contains fa ∨ [3, 4, 8, 9].contains fb then 8
    else 4

/-- A command begins only when something has come about: its data has arrived, the elements that it writes to a stream have their
place after earlier ones, a PMRD has the seat's earlier commands behind it (R204, R219, R241). -/
def MKind.awaits (k : MKind) : Bool :=
  match k with
  | .hld .. | .mma .. | .mmas .. | .mdld .. | .pmrd .. => true
  | .cmpr d a _ _ _ _ _ _ => (match d with | .tile _ => true | _ => false) || (match a with | .tile _ => true | _ => false)
  | _ => false

/-- A command writes memory (R302). -/
def MKind.stores (k : MKind) : Bool :=
  match k with
  | .drain .. | .mdst .. => true
  | .cmpr (.tile _) _ _ _ _ _ _ _ => true
  | _ => false

/-- What a command does to the array and to memory when it executes; a DRAIN and an MDST write afterwards. -/
def State.runM (s : State) (quad : Nat) (c : MCmd) : MRes :=
  match c.k with
  | .mzero z => .ok (s.modArr quad fun a => { (a.clearBad z) with z := splice 0 a.z (16384 * z) 16384 fun _ => 0 }) 0
  | .mtrans zd zs =>
    let p := (s.arr quad).plane zs
    .ok (s.modArr quad fun a => { (a.clearBad zd) with z := splice 0 a.z (16384 * zd) 16384 fun i => p.at (i % 128) (i / 128) }) 0
  | .hldc h fmt n => .ok (s.modArr quad fun a => a.hadamard h fmt n) 0
  | .hld h _ va pitch swz scl => s.doHld quad c.ctx c.refs h va.toNat pitch.toNat swz scl
  | .mma zd a k fa sa bt int _ => s.doMma quad c.ctx zd a k fa sa bt int
  | .mmas zd a k fa sa bt int md seg g8 => s.doMmas quad c.ctx zd a k fa sa bt int md seg g8
  | .cmpr dst src k fmt scaled md seg g8 => s.doCmpr quad c.ctx dst src k fmt scaled md seg g8
  | .mdld md va => s.doMdld quad c.ctx c.refs md va.toNat
  | .mdst .. => .ok s 0
  | .pmwr w pm v => .ok (s.modArr quad fun a => { a with pm := SMap.set 0 a.pm pm (pmPut (SMap.get 0 a.pm pm) w v) }) 0
  | .drain .. => .ok s 0
  | .pmrd .. => .ok s 0
  | .fact .. => .ok s 0

/-- What a command leaves to be written when its time in the array is over: a DRAIN the region as it then stands, an MDST its
register. -/
def Arr.leaves (a : Arr) (c : MCmd) : Option ArrOut :=
  match c.k with
  | .drain z fmt va fr nr c0 nc rtz sc swz scl had sh int =>
    let d := a.drained z fmt va.toNat fr nr c0 nc rtz sc swz scl.toNat had sh int
    some ⟨c, d.1, d.2⟩
  | .mdst md va => some ⟨c, [(0, va.toNat, a.mdBytes md)], 0⟩
  | _ => none

/-- The writes of a command that has left the array: those of a DRAIN to the shadow of a publishable buffer, those of an MDST to
the front (R180). -/
def State.writeOut (s : State) (o : ArrOut) : State :=
  o.writes.foldl (fun s w => match o.cmd.k with
    | .mdst .. => s.frontWrite o.cmd.ctx o.cmd.refs w.1 w.2.1 w.2.2
    | _ => s.engineWrite o.cmd.ctx o.cmd.refs w.1 w.2.1 w.2.2) s

/-- The time of the head of the queue begins. -/
def Arr.begins (a : Arr) (now : Nat) : Arr :=
  match a.q with
  | c :: l => { a with q := { c with begun := true } :: l, busyTo := now + c.k.cycles }
  | [] => a

/-- The head of the queue has left: the next command begins if it waits for nothing. `now`: when the array is free for it. -/
def Arr.headBegins (a : Arr) (now : Nat) : Arr :=
  match a.q with
  | c :: _ => if c.begun || c.k.awaits then a else a.begins now
  | [] => a

/-- Flags of a command join FFLAGS of the carriage's seat, or of its image (R39, R234). -/
def State.orFlags (s : State) (ctx carr : Nat) (fl : Flags) : State :=
  if fl = 0 then s
  else match s.seats.find? fun e => e.2.st != .free && e.2.st != .reserved && e.2.ctx == ctx && e.2.carr == carr with
    | some e => s.modSeat e.1 fun x => { x with fflags := x.fflags ||| fl }
    | none => s

end Sys2Proof.Machine
end

