-- ==== Sys2Proof/Machine/Net.lean ====
section
/-!
DEFINITION. Packets and frames of the fabric (R414 to R420): the SKF header as bytes, the frame with its
check sequence, the route table, the egress of a port, and a packet that the network engine sends.
-/

namespace Sys2Proof.Machine

/-! ## The SKF header (R415) -/

/-- The header as a 256-bit number. -/
def skfBits (h : Skf) : BitVec 256 :=
  h.dchip ++ h.schip ++ h.cls ++ h.hop ++ BitVec.ofBool h.ce ++ BitVec.ofBool h.vcls ++ 0#1 ++ h.ctag ++ h.kind ++ 0#4
    ++ h.gen ++ h.msgid ++ h.offset ++ h.len ++ h.ts ++ h.rkey ++ h.pidx ++ h.grant

/-- The 32 bytes of a header, big-endian. -/
def skfBytes (h : Skf) : List Byte := bytesBE 32 (skfBits h).toNat

/-- The header of a 256-bit number. -/
def skfOf (n : Nat) : Skf :=
  let f (lo w : Nat) : BitVec w := BitVec.ofNat w (bitsAt n lo w)
  { dchip := f 240 16, schip := f 224 16, cls := f 222 2, hop := f 219 3, ce := n.testBit 218, vcls := n.testBit 217,
    ctag := f 204 12, kind := f 196 8, gen := f 168 24, msgid := f 136 32, offset := f 96 40, len := f 80 16,
    ts := f 64 16, rkey := f 32 32, pidx := f 16 16, grant := f 0 16 }

/-! ## Frames (R414) -/

/-- One step of the IEEE 802.3 check sequence, on one bit. -/
def crcBit (c : BitVec 32) : BitVec 32 := if c.getLsbD 0 then (c >>> 1) ^^^ 0xEDB88320 else c >>> 1

/-- One byte of the IEEE 802.3 check sequence. -/
def crcByte (c : BitVec 32) (b : Byte) : BitVec 32 := (nats 8).foldl (fun c _ => crcBit c) (c ^^^ b.setWidth 32)

/-- The IEEE 802.3 frame check sequence of the bytes before it, as the four bytes that follow (log 20). -/
def fcsOf (l : List Byte) : List Byte := bytesLE 4 ((l.foldl crcByte 0xFFFFFFFF) ^^^ 0xFFFFFFFF).toNat

/-- The MAC address of a port of a chip (R414). -/
def macOf (chip port : Nat) : List Byte := [0x02, 0x00] ++ bytesBE 2 chip ++ [0x00, BitVec.ofNat 8 port]

/-- A frame without its check sequence, padded, with the check sequence (R414). -/
def sealFrame (l : List Byte) : List Byte :=
  let l := l ++ List.replicate (60 - l.length) 0
  l ++ fcsOf l

/-- The frame of a packet that leaves by a port (R414). -/
def State.skfFrame (s : State) (port : Nat) (p : Pkt) : List Byte :=
  sealFrame (macOf (s.port port).peer (Config.peerPort port).toNat ++ macOf s.chip port ++ [0x88, 0xB5] ++ skfBytes p.h ++ p.data)

/-- A frame has the EtherType of SKF. -/
def isSkf (l : List Byte) : Bool := (l.drop 12).take 2 == [0x88, 0xB5]

/-- The packet that an SKF frame carries: header, and as many payload bytes as LEN says. -/
def pktOf (l : List Byte) : Pkt :=
  let h := skfOf (ofBytesBE ((l.drop 14).take 32))
  ⟨h, (l.drop 46).take h.len.toNat⟩

/-! ## Routes (R418) -/

/-- The port carries packets (R412). -/
def State.usable (s : State) (port : Nat) : Bool := (s.port port).st == .up || (s.port port).st == .degraded

/-- The usable candidates of the route table of a die for a chip (R418). -/
def State.routes (s : State) (die chip : Nat) : List Nat :=
  if 8192 ≤ chip then []
  else
    let w := s.rdNat (spKey 0 (28 * die) (4 * chip)) 4
    if w.testBit 29 then
      ((nats (bitsAt w 30 2 + 1)).map fun i => bitsAt w (21 - 7 * i) 7).filter s.usable
    else []

/-! ## Egress (R413, R419) -/

/-- What a context has spent of its class-0 bucket on a port, in sixteenths of a byte: it refills with the
reservation, RSVBW sixteenths of a byte in each die cycle (R413, R368). -/
def State.spent (s : State) (port ctx : Nat) : Nat :=
  let t := SMap.get (0, 0) (s.port port).tokens ctx
  t.1 - (s.ctx ctx).rsvBw * (s.dieCycle - t.2)

/-- The class bits of an SKF frame, with its check sequence made anew. -/
def reclass (l : List Byte) (c : Nat) : List Byte :=
  let i := 18
  let b := (nth 0 l i).toNat
  let body := setNth (l.take (l.length - 4)) i (BitVec.ofNat 8 (b % 64 + c * 64))
  body ++ fcsOf body

/-- A frame enters the egress of a port, at the time it arrived there: a class-0 frame that finds the bucket of its
context short goes at class 1 (R413). -/
def State.toEgress (s : State) (port : Nat) (f : EFrame) : State :=
  let n := 16 * f.bytes.length
  let f' : EFrame :=
    if f.cls = 0 ∧ 16 * 65536 < s.spent port f.ctx + n then
      { f with cls := 1, bytes := if f.skf then reclass f.bytes 1 else f.bytes }
    else f
  s.modPort port fun p =>
    { p with egress := p.egress ++ [f']
             tokens := if f'.cls = 0 then SMap.set (0, 0) p.tokens f.ctx (s.spent port f.ctx + n, s.dieCycle) else p.tokens }

/-- Fabric time of a die, in microseconds modulo 2^16. -/
def State.fabTime (s : State) (d : Nat) : Nat := (s.die d).ftime % 65536

/-- A kind of packet that exists on SKF ports only: those of the fabric forms, VAT messages and key fetches (R440). What
stands for a packet of Ultra Ethernet on a UE port is of the model's choice (log 80). -/
def skfOnly (kind : Nat) : Bool := !([1, 2, 3, 0x10, 0x11, 0x12, 0x13].contains kind)

/-- The network engine of a die sends a packet for a context: to itself when it names this chip (R425), else by one
of the usable routes, on virtual channel 0 (R418, R419, log 21). A packet without a route is not sent. A response
echoes the TS of the packet it answers (R423). -/
def State.emit (s : State) (d ctx : Nat) (p : Pkt) : State :=
  let p := { p with h := { p.h with schip := BitVec.ofNat 16 s.chip, hop := 0, len := BitVec.ofNat 16 p.data.length,
                                    ts := if p.h.vcls then p.h.ts else BitVec.ofNat 16 (s.fabTime d) } }
  if p.h.dchip.toNat = s.chip then s.modDie d fun x => { x with loopb := x.loopb ++ [p] }
  else
    let rs := (s.routes d p.h.dchip.toNat).filter fun k => !(skfOnly p.h.kind.toNat && (s.port k).mode == 2)
    if rs.isEmpty then s
    else
      let port := nth 0 rs (Config.freeChoice s.free % rs.length)
      let s := { s with free := s.free + 1 }
      s.toEgress port { bytes := s.skfFrame port p, cls := p.h.cls.toNat, vc := (if p.h.vcls then 5 else 0), skf := true,
                        ctx := ctx, at_ := s.dieCycle }

/-! ## Names on the wire (R421, R425) -/

/-- The id of a connection (R421). -/
def connId (chip ctag : Nat) : W32 := BitVec.ofNat 32 (chip % 65536 * 65536 + ctag % 4096 * 16)

/-- The die whose engine keeps a connection: `d` itself, or another of the package. A connection joins two chips for one
context (R421), so one die keeps it, that of its first traffic (log 74). -/
def State.connDie (s : State) (d : Nat) (out : Bool) (id : W32) : Nat :=
  ((d :: nats 4).find? fun k => (s.die k).conns.any fun c => c.out == out && c.id == id).getD d

/-- A connection of the package, as a die finds it. -/
def State.conn (s : State) (d : Nat) (out : Bool) (id : W32) : Option Conn :=
  (s.die (s.connDie d out id)).conns.find? fun c => c.out == out && c.id == id

/-- Changes a connection of the package. -/
def State.modConn (s : State) (d : Nat) (out : Bool) (id : W32) (f : Conn → Conn) : State :=
  s.modDie (s.connDie d out id) fun x => { x with conns := x.conns.map fun c => if c.out == out && c.id == id then f c else c }

/-- The chip and the context tag that a remote pointer names (R425). -/
def ptrChip (p : W64) : Nat := fld p 63 48
/-- CTAG of a remote pointer. -/
def ptrTag (p : W64) : Nat := fld p 43 32

/-- A header with nothing but its destination, kind and connection generation. -/
def plainSkf (chip ctag kind : Nat) (resp : Bool) (gen : BitVec 24) : Skf :=
  { dchip := BitVec.ofNat 16 chip, schip := 0, cls := 2, hop := 0, ce := false, vcls := resp, ctag := BitVec.ofNat 12 ctag,
    kind := BitVec.ofNat 8 kind, gen, msgid := 0, offset := 0, len := 0, ts := 0, rkey := 0, pidx := 0, grant := 0 }

/-! ## Connections (R421 to R423, R442) -/

/-- Die cycles in a microsecond (R7). -/
def usCycles : Nat := 2000

/-- A GEN that is not in quarantine, from `g` on. -/
def liveGen (q : List Quar) (id : W32) : Nat → BitVec 24 → BitVec 24
  | 0, g => g
  | fuel + 1, g => if q.any fun x => x.id == id && x.gen == g then liveGen q id fuel (g + 1) else g

/-- A connection that has just been opened: 4 slots, and a window of 256 KiB. -/
def Conn.opened (id : W32) (out : Bool) (gen : BitVec 24) : Conn :=
  { id, out, gen, msgid := 0, slots := 4, granted := 4, window := 262144, resident := true, rtts := [], lastCut := 0, sent := [],
    msgs := [], heads := [], replies := [] }

/-- The state of a connection comes to be resident, in the place of the one that stands first when 4,096 are
(R421, log 21). -/
def Die.toFront (x : Die) (id : W32) (out : Bool) : Die :=
  let mine (c : Conn) : Bool := c.id == id && c.out == out
  let cs := x.conns.map fun c => if mine c then { c with resident := true } else c
  if 4096 < (cs.filter fun c => c.resident).length then
    match cs.find? fun c => c.resident && !mine c with
    | some v => { x with conns := cs.map fun c => if c.id = v.id ∧ c.out = v.out then { c with resident := false } else c }
    | none => { x with conns := cs }
  else { x with conns := cs }

/-- Every GEN in quarantine. -/
def State.quars (s : State) : List Quar := (nats 4).flatMap fun d => (s.die d).quar

/-- A connection, opened by a die if no die keeps it: at its source under the next GEN, at its target under the GEN of the
packet (R421, R442). The last GEN of each connection is kept with D0. -/
def State.openConn (s : State) (d : Nat) (out : Bool) (id : W32) (gen : BitVec 24) : State :=
  let s := if (s.conn d out id).isSome then s
    else
      let k := 2 * id.toNat + (if out then 1 else 0)
      let g := if out then liveGen s.quars id (s.quars.length + 1) (BitVec.ofNat 24 (SMap.get 0 (s.die 0).lastGens k + 1)) else gen
      (s.modDie d fun x => { x with conns := x.conns ++ [Conn.opened id out g] }).modDie 0 fun x =>
        { x with lastGens := SMap.set 0 x.lastGens k g.toNat }
  s.modDie (s.connDie d out id) fun x => x.toFront id out

/-- Bytes of a connection that are sent and not acknowledged. -/
def Conn.flying (c : Conn) : Nat := (c.sent.filter fun p => !p.parked).foldl (fun n p => n + p.pkt.data.length) 0

/-- The packet occupies a slot at its target (R422). -/
def takesSlot (kind : Nat) : Bool := kind == 1 || kind == 2 || kind == 4 || kind == 6 || kind == 7 || kind == 9

/-- The packet has a number of a message; KEYREQ and RECALL have none (log 23). -/
def Sent.numbered (p : Sent) : Bool := takesSlot p.pkt.h.kind.toNat || p.pkt.h.kind == 3

/-- Packets of a connection are not sent again, and the slots that they hold come back (R439). -/
def Conn.dropSent (c : Conn) (f : Sent → Bool) : Conn :=
  { c with slots := c.slots + (c.sent.filter fun p => f p && !p.parked && takesSlot p.pkt.h.kind.toNat).length
           sent := c.sent.filter fun p => !f p }

/-- Packets of the package are not sent again: they leave their connections and the replay queues (R436, R439). -/
def State.dropSent (s : State) (f : Sent → Bool) : State :=
  (nats 4).foldl (fun s k => s.modDie k fun x =>
    { x with conns := x.conns.map fun c => c.dropSent f
             replayq := x.replayq.filter fun e => !(x.conns.any fun c => c.sent.any fun p => p.id == e.2 && f p) }) s

/-- A packet of a kind may be sent on a connection now: the replay queue has room, a slot is held, and the window is
open (R422, R423, R436). -/
def State.maySend (s : State) (d : Nat) (c : Conn) (kind : Nat) : Bool :=
  decide ((s.die (s.connDie d c.out c.id)).replayq.length < 4096) && (!takesSlot kind || decide (0 < c.slots)) && decide (c.flying < c.window)

/-- Sends a packet on a connection for the first time and keeps it until it is acknowledged. -/
def State.sendOn (s : State) (d ctx : Nat) (c : Conn) (p : Pkt) (wr : Nat) : State :=
  let (id, s) := s.freshId
  let p : Pkt := { p with h := { p.h with gen := c.gen } }
  let s := s.modConn d c.out c.id fun x =>
    { x with slots := if takesSlot p.h.kind.toNat then x.slots - 1 else x.slots
             sent := x.sent ++ [⟨id, p, ctx, wr, s.dieCycle, 0, 0, false, 0⟩] }
  s.emit (s.connDie d c.out c.id) ctx p

/-- Takes the next message id of a connection. -/
def State.newMsg (s : State) (d : Nat) (c : Conn) : BitVec 32 × State :=
  (c.msgid, s.modConn d c.out c.id fun x => { x with msgid := x.msgid + 1 })

/-- The window after a sample of `r` microseconds that acknowledges `n` bytes (R423). -/
def Conn.sample (c : Conn) (now r n : Nat) (ce : Bool) : Conn :=
  let l := c.rtts ++ [r]
  let l := l.drop (l.length - 1024)
  let b := l.foldl Nat.min r
  let c := { c with rtts := l }
  if r ≤ b + 8 ∧ ce = false then { c with window := Nat.min 4194304 (c.window + 4096 * n / c.window) }
  else
    let r := if ce then 2 * b + 16 else r
    if c.lastCut ≠ 0 ∧ now < c.lastCut + b * usCycles then c
    else { c with window := Nat.max 4096 (c.window * (2 * r - (r - b - 8)) / (2 * r)), lastCut := now }

/-! ## Remote keys (R424, R425) -/

/-- KGEN of a key entry. -/
def kGen (e : BitVec 256) : Nat := bitsAt e.toNat 224 16
/-- CCTR. -/
def kCctr (e : BitVec 256) : Nat := bitsAt e.toNat 128 48
/-- SRC. -/
def kSrc (e : BitVec 256) : Nat := bitsAt e.toNat 112 16
/-- LEN. -/
def kLen (e : BitVec 256) : Nat := bitsAt e.toNat 64 40
/-- BASE. -/
def kBase (e : BitVec 256) : Nat := bitsAt e.toNat 0 48

/-- The right that an access needs, as its bit of a key entry: RR, RW or RA. -/
def needBit (kind : Nat) : Nat := if kind = 1 ∨ kind = 6 then 61 else if kind = 7 then 60 else 62

/-- The reason of a key violation, 0 when there is none (R425). -/
def keyReason (e : Option (BitVec 256)) (off size kind chip kgen : Nat) : Nat :=
  match e with
  | none => 1
  | some e =>
    if !e.getLsbD 63 then 1
    else if kLen e < off + size then 2
    else if !e.getLsbD (needBit kind) then 3
    else if kSrc e ≠ 0xFFFF ∧ kSrc e ≠ chip then 4
    else if kGen e ≠ kgen then 5
    else 0

/-- The location of an entry of a context's key table. -/
def State.keyLoc (s : State) (ctx i : Nat) : Option Nat :=
  if i < (s.ctx ctx).nrk then s.wordKey ctx .dev (((s.ctx ctx).rktVa + 32 * i) % 2 ^ 48) else none

/-- An entry of a context's key table, while the context is live. -/
def State.keyEntry (s : State) (ctx i : Nat) : Option (BitVec 256) :=
  if (s.ctx ctx).st = .runnable then (s.keyLoc ctx i).map fun k => BitVec.ofNat 256 (s.rdNat k 32) else none

/-- No chip of the SKF fabric: there are 8,192, and every route to this one leaves by a UE port, where remote keys do not exist
(R440, log 23). -/
def State.notSkf (s : State) (d chip : Nat) : Bool :=
  chip != s.chip && (decide (8192 ≤ chip) || (!(s.routes d chip).isEmpty && (s.routes d chip).all fun p => (s.port p).mode == 2))

/-- What a key check answers. -/
inductive KeyRes where
  | ok (base : Nat)
  | wait
  | bad (reason : Nat)

/-- The key check of an access through a remote pointer (R425), against the entry that the engine has cached. -/
def State.keyCheck (s : State) (d : Nat) (ptr : W64) (off size kind : Nat) : KeyRes :=
  if s.notSkf d (ptrChip ptr) then .bad 1
  else
    match (s.die d).keys.find? fun k => k.chip.toNat == ptrChip ptr && k.ctag.toNat == ptrTag ptr && k.index.toNat == fld ptr 31 16 with
    | none => .wait
    | some k =>
      match keyReason (some k.e) off size kind s.chip (fld ptr 15 0) with
      | 0 => .ok (kBase k.e)
      | r => .bad r

/-- XVA of a key violation (R425). -/
def keyXva (ptr : W64) (reason off : Nat) : W64 := BitVec.ofNat 64 (ptrChip ptr * 2 ^ 48 + reason * 2 ^ 44 + off % 2 ^ 40)

/-- The engine fetches a key entry with KEYREQ, once until it comes (R425). KEYREQ takes no message id (log 23). -/
def State.askKey (s : State) (d ctx : Nat) (ptr : W64) : State :=
  let w : BitVec 16 × BitVec 12 × BitVec 16 :=
    (BitVec.ofNat 16 (ptrChip ptr), BitVec.ofNat 12 (ptrTag ptr), BitVec.ofNat 16 (fld ptr 31 16))
  if (s.die d).keyWaits.contains w then s
  else
    let s := s.modDie d fun x => { x with keyWaits := x.keyWaits ++ [w] }
    let id := connId (ptrChip ptr) (ptrTag ptr)
    let s := s.openConn d true id 0
    match s.conn d true id with
    | none => s
    | some c =>
      let h : Skf := { plainSkf (ptrChip ptr) (ptrTag ptr) 0x15 false c.gen with rkey := ptr.setWidth 32 }
      s.sendOn d ctx c ⟨h, []⟩ 0

/-! ## Work requests (R431, R439) -/

/-- Cancels a work request (R439): nothing further is sent, retransmission stops, and one CANCEL goes to the
target, whose OFFSET carries the cause (log 22). -/
def State.cancelWreq (s : State) (d : Nat) (w : WReq) (cause : Nat) : State :=
  let id := connId (ptrChip w.ptr) (ptrTag w.ptr)
  let s := (s.modDie d fun x => { x with wreqs := x.wreqs.filter fun y => y.id != w.id }).dropSent fun p => p.wr == w.id
  if w.kind ≤ 3 then
    let s := s.openConn d true id 0
    let gen := match s.conn d true id with
      | some c => c.gen
      | none => 0
    let h : Skf := { plainSkf (ptrChip w.ptr) (ptrTag w.ptr) 0x13 false gen with
      cls := BitVec.ofNat 2 w.cls, msgid := w.msgid, rkey := w.ptr.setWidth 32, offset := BitVec.ofNat 40 cause
      pidx := BitVec.ofNat 16 (w.kind - 1) }
    s.emit d w.ctx ⟨h, []⟩
  else s

/-- Retires every connection of a context on a die: their generations enter quarantine for 4 ms (R421, R442). -/
def State.retireConns (s : State) (d ctx : Nat) : State :=
  let mine := (s.die d).conns.filter fun c => !c.out && c.id.toNat / 16 % 4096 == ctx
  (s.modDie d fun x =>
    { x with conns := x.conns.filter fun c => !(!c.out && c.id.toNat / 16 % 4096 == ctx)
             quar := x.quar ++ (mine.map fun c => ⟨c.id, c.gen, s.dieCycle + 8000000⟩) }).modDie 0 fun x =>
    { x with lastGens := mine.foldl (fun m c => SMap.set 0 m (2 * c.id.toNat) c.gen.toNat) x.lastGens }

end Sys2Proof.Machine
end

