-- ==== Sys2Proof/Machine/Contain.lean ====
section
/-!
DEFINITION. The freeing of a seat (R249, R251, R252, R262), containment on and off the seat (R203, R274 to
R278), the containment log (R276, R372), and the killing of a context (R377).
-/

namespace Sys2Proof.Machine

/-! ## Seats that become free -/

/-- Releases the image pool slot of a carriage, if it has one (R251). -/
def State.poolFree (s : State) (ctx carr : Nat) : State :=
  match s.recOf ctx carr with
  | some r =>
    match r.pool with
    | some i => (s.modCtx ctx fun c => { c with pool := SMap.erase c.pool i }).modRec ctx carr fun r => { r with pool := none, imgIds := [] }
    | none => s
  | none => s

/-- The coach in RESERVING that still lacks a seat of a quad, by index (R262). -/
def State.wantsSeat (s : State) (quad : Nat) : Option Nat :=
  (s.coaches.find? fun c =>
    c.cst == 1 && c.die == quad / 28 &&
      (nats (c.groups + 1)).any fun g =>
        (c.qstart + g) % 28 == quad % 28 && decide ((c.resv.filter fun t => quadOf t == quad).length < c.seats + 1)).map (·.idx)

/-- A seat becomes FREE: it keeps its HCW table under the tag of the kernel that left (R252), and a coach in
RESERVING may take it (R262). The image slot is released unless the carriage has just been saved there. -/
def State.freeSeat (s : State) (seat : Nat) (saved : Bool) : State :=
  let x := s.seat seat
  let s := if saved then s else s.poolFree x.ctx x.carr
  let s := s.modCore (coreOf seat) fun c =>
    { c with running := if c.running = some seat then none else c.running
             xcls := c.xcls.filter fun e => e.seat != seat, hcwp := c.hcwp.filter fun e => e.seat != seat }
  let base : Seat := { x with st := .free, tag := some x.kernel, mark := .none, markFor := (0, 0), late := none, owned := [], items := [],
                              uis := [], fact := none, fence := none, fenceSys := none, relDue := false, lease := Lease.none }
  match s.wantsSeat (quadOf seat) with
  | some i =>
    { (s.setSeat seat { base with st := .reserved }) with
      coaches := s.coaches.map fun c => if c.idx = i then { c with resv := c.resv ++ [seat] } else c }
  | none => s.setSeat seat base

/-! ## The containment log (R276, R372) -/

/-- An entry for the context's log queue, kept until it has a ticket; beyond 256 it is dropped and counted. -/
def State.addLog (s : State) (d ctx : Nat) (e : Entry) : State :=
  s.modDie d fun x =>
    if x.logs.length < 256 then { x with logs := x.logs ++ [⟨ctx, e⟩] }
    else { x with drops := SMap.set 0 x.drops ctx (SMap.get 0 x.drops ctx + 1) }

/-- Logs one cancelled item. -/
def State.logItem (s : State) (d ctx : Nat) (i : LogItem) : State :=
  (s.modDie d fun x => { x with items := x.items ++ [i] }).addLog d ctx ⟨0x0200000000000000, 0, 0, 0, i.w0, i.w1, i.w2, i.w3⟩

/-- An item of the log: kind, cause, carriage, syllable, extension, DONE and completion word address. -/
def mkItem (ctx kind cause carr syl ext done cwa : Nat) : LogItem :=
  ⟨ctx, BitVec.ofNat 64 (kind * 2 ^ 56 + cause % 256 * 2 ^ 48 + carr), BitVec.ofNat 64 (syl % 2 ^ 32 * 2 ^ 32 + ext % 2 ^ 32),
    BitVec.ofNat 64 done, BitVec.ofNat 64 cwa⟩

/-! ## What a command of the array waits for -/

/-- The seat that a carriage is on, if it is on one. -/
def State.seatOf (s : State) (ctx carr : Nat) : Option Nat :=
  (s.seats.find? fun e => e.2.st != .free && e.2.st != .reserved && e.2.ctx == ctx && e.2.carr == carr).map Prod.fst

/-- Two lists of ranges meet. -/
def rangesMeet (a b : List (Nat × Nat)) : Bool :=
  a.any fun x => b.any fun y => decide (x.1 < y.1 + y.2 ∧ y.1 < x.1 + x.2)

/-- The vectors that a carriage has pushed and that are not yet written. -/
def State.pushesOf (s : State) (ctx carr : Nat) : List Pushed :=
  match s.seatOf ctx carr with
  | some i => (s.seat i).streams.flatMap fun q => q.2.pushed
  | none => []

/-- The HCWLDs of a carriage that have not yet read their source (R164). -/
def State.hcwldOf (s : State) (ctx carr : Nat) : List HcwPend :=
  match s.seatOf ctx carr with
  | some i => (s.core (coreOf i)).hcwp.filter fun w => w.seat == i
  | none => []

/-- An access of a seat that the reads of its later M commands do not wait for: it stores nothing of its own in memory that
they could read, or waits itself for the seat's engine work (R148, R205, R302 to R304). -/
def mPasses (k : AKind) : Bool :=
  match k with
  | .launch | .trig | .pdone | .svc | .fld | .fst | .fatom => true
  | _ => false

/-- A DRAIN is performed after every earlier event of its seat (R179); the reads of other commands are those of an in stream
started at the issue (R148, R205). -/
def MKind.afterAll (k : MKind) : Bool :=
  match k with
  | .drain .. => true
  | _ => false

/-- A command may execute: the earlier events of its seat that it comes after are performed (R148, R179), and no earlier engine
write of its core to the pages it touches is outstanding (R148). -/
def State.mReady (s : State) (c : MCmd) : Bool :=
  let pages := c.refs.map fun x => (x.2.key, 65536)
  !(s.accs.any fun a => a.ctx == c.ctx && a.carr == c.carr && decide (a.id < c.id) && (c.k.afterAll || !mPasses a.k))
    && !((s.pushesOf c.ctx c.carr).any fun p => decide (p.id < c.id))
    && !((s.hcwldOf c.ctx c.carr).any fun w => decide (w.id < c.id))
    && !((s.core (coreOf c.seat)).exposed.any fun z => decide (z.id < c.id) && rangesMeet pages z.words)

/-- What a containment lets the command at the head of the queue do, if it is executing: it completes (R203); one that meets an
error has no effect (R207). -/
def State.finishCut (s : State) (quad : Nat) (c : MCmd) : State :=
  match (s.arr quad).leaves c with
  | some o => s.writeOut o
  | none =>
    match s.runM quad c with
    | .ok t _ => t
    | .err _ => s

/-! ## What containment cancels -/

/-- The transfer commands of a carriage, with their quads, in issue order; fired ones are not of a seat (R322, R323). -/
def State.transOf (s : State) (ctx carr : Nat) : List (Nat × Trans) :=
  sortBy (fun a b => decide (a.2.id ≤ b.2.id))
    (s.quads.flatMap fun q => (q.2.trans.filter fun t => t.ctx == ctx && t.carr == carr && !t.fired).map fun t => (q.1, t))

/-- The role of the completion word of a transfer command (R154, R326). -/
def Trans.role (t : Trans) : Option Role := if t.cmode = 1 then some .counter else if t.cmode = 2 then some .barrier else none

/-- The location of the completion word of a transfer, through its held translation (R459). -/
def State.wordOf (s : State) (t : Trans) (off : Nat) : Option Nat :=
  (heldPlace t.wref (t.wVa + off)).map fun p => s.front t.ctx p

/-- Error release on the completion word of a transfer. -/
def State.releaseTrans (s : State) (t : Trans) (cause reason : Nat) : State :=
  match t.role, s.wordOf t 0 with
  | some r, some k => s.errRelease r k cause reason
  | _, _ => s

/-- Removes a transfer command and the fault records that name it. -/
def State.dropTrans (s : State) (quad : Nat) (t : Trans) : State :=
  let s := s.modQuad quad fun q => { q with trans := q.trans.filter fun y => y.id != t.id }
  (nats 4).foldl (fun s d => s.modDie d fun x => { x with faults := x.faults.filter fun f => !(f.src == 1 && f.tid == t.id) }) s

/-- The work requests of a carriage, with their dies, in issue order; fired ones are not of a seat (R322, R323). -/
def State.wreqsOf (s : State) (ctx carr : Nat) : List (Nat × WReq) :=
  sortBy (fun a b => decide (a.2.id ≤ b.2.id))
    ((nats 4).flatMap fun d => ((s.die d).wreqs.filter fun w => w.ctx == ctx && w.carr == carr && carr != 0 && !w.fired).map fun w => (d, w))

/-- The kinds of access that containment and END discard: their results have no taker, or they have not taken
effect and R305 discards them. -/
def dropKind (k : AKind) : Bool :=
  match k with
  | .load | .ldacq | .bartest | .qres | .qtake | .launch | .trig | .pdone | .svc | .producer | .fld => true
  | _ => false

/-- Removes accesses, with the entries of landing buffers that END has left to those whose data never comes now (R93). -/
def State.discard (s : State) (p : Acc → Bool) : State :=
  let ids := (s.accs.filter p).map (·.id)
  { s with
    accs := s.accs.filter fun a => !p a
    cores := s.cores.map fun (c : Nat × Core) => (c.1, { c.2 with ghosts := c.2.ghosts.filter fun i => !ids.contains i }) }

/-- Cancels the transfers of a carriage: error release on their completion words, reason 0x02, and log items. -/
def State.cancelTrans (s : State) (d ctx carr cause : Nat) : State :=
  (s.transOf ctx carr).foldl (fun s t =>
    let cwa := if t.2.cmode = 1 ∨ t.2.cmode = 2 then t.2.wVa else 0
    let s := (s.dropTrans t.1 t.2).releaseTrans t.2 cause 2
    s.logItem d ctx (mkItem ctx 2 cause carr t.2.syl.toNat t.2.ext.toNat t.2.written cwa)) s

/-- Cancels the queued M commands of a carriage on a quad (R203): the one that executes completes, and what has left the array is
written; the allocated resources are zeroed and freed, and a run ends. The next command begins no earlier than the time of the one
that completes is over. -/
def State.cancelArr (s : State) (d quad ctx carr cause : Nat) : State :=
  let mine (c : MCmd) : Bool := c.ctx == ctx && c.carr == carr
  let a := s.arr quad
  let s := (a.outs.filter fun o => mine o.cmd).foldl (fun s o => (s.writeOut o).unexpose o.cmd.id) s
  let s := (a.q.filter mine).foldl (fun s c =>
    let s := s.unexpose c.id
    if c.begun then s.finishCut quad c else s.logItem d ctx (mkItem ctx 3 cause carr c.syl.toNat c.ext.toNat 0 0)) s
  let free := if a.q.any (fun c => mine c && c.begun) then Nat.max (s.arrCycle quad) a.busyTo else s.arrCycle quad
  let s := s.modArr quad fun a =>
    Arr.headBegins { a with outs := a.outs.filter (fun o => !mine o.cmd), q := a.q.filter (fun c => !mine c) } free
  let s := s.modArr quad fun a => ((a.allocOf (carrId ctx carr)).foldl Arr.zeroRes a).freeAlloc (carrId ctx carr)
  s.endRun quad (carrId ctx carr)

/-- The bytes that a work request has written: what a READ has placed here, or what the far end has acknowledged. -/
def WReq.written (w : WReq) : Nat := if w.kind = 2 then w.counted else w.acked

/-- Cancels the work requests of a carriage, with error release on their completion counters. -/
def State.cancelReqs (s : State) (d ctx carr cause : Nat) : State :=
  (s.wreqsOf ctx carr).foldl (fun s w =>
    let s := s.cancelWreq w.1 w.2 cause
    let s := if w.2.lctr = 0 then s else s.errReleaseVa ctx .counter w.2.lctr.toNat cause 2
    s.logItem d ctx (mkItem ctx 4 cause carr w.2.syl.toNat 0 w.2.written w.2.lctr.toNat)) s

/-- The streams of a seat become CANCELLED; those ACTIVE or EXHAUSTED are logged (R147, R276). -/
def State.cancelStreams (s : State) (d seat ctx carr cause : Nat) : State :=
  (nats 16).foldl (fun s i =>
    let q := SMap.get Stream.zero (s.seat seat).streams i
    let q' : Stream := { q with st := .cancelled, fcause := BitVec.ofNat 8 cause, fetched := [], pushed := [] }
    let s := s.modSeat seat fun x => { x with streams := SMap.set Stream.zero x.streams i q' }
    let s := q.pushed.foldl (fun s p => s.unexpose p.id) s
    if q.st = .active ∨ q.st = .exhausted then s.logItem d ctx (mkItem ctx 1 cause carr i 0 q.pos.toNat 0) else s) s

/-- The words that a seat owns get error release with reason 0x01 if they are OPEN or FILLING (R311, R326). -/
def State.releaseOwned (s : State) (seat cause : Nat) : State :=
  let x := s.seat seat
  x.owned.foldl (fun s a =>
    match s.wordKey x.ctx .rd a.toNat with
    | some k =>
      let w := s.rdWord k
      if bOwn w = ownerOf seat ∧ bSt w < 2 ∧ bBad w = false then s.errRelease .barrier k cause 1 else s
    | none => s) s

/-- The carriage becomes CANCELLED with its summary in word 3 (R276), its waits removed and its tickets voided
(R333). `n` is the number of logged items. -/
def State.cancelCarr (s : State) (ctx carr cause va n : Nat) : State :=
  let s := s.discard fun a => a.ctx == ctx && a.carr == carr && dropKind a.k
  let s := { s with waits := s.waits.filter fun w => !(w.ctx == ctx && w.carr == carr) }
  let s := s.qVoidAll ctx carr
  let s := s.unpin ctx carr
  let s := s.setCarrWord ctx carr 3 (BitVec.ofNat 64 (cause % 256 * 2 ^ 56 + Nat.min n 255 * 2 ^ 48 + va % 2 ^ 48))
  s.recGone ctx carr true

/-- The number of items that the die's log has. -/
def State.itemCount (s : State) (d : Nat) : Nat := (s.die d).items.length

/-- Containment of a seat without the check of R278; `launch` is the syllable of a failed LAUNCH (R302). -/
def State.containSeat (s : State) (seat cause va : Nat) (launch : Option Nat) : State :=
  let x := s.seat seat
  if x.st = .free ∨ x.st = .reserved then s
  else
    let d := dieOf seat
    let n0 := s.itemCount d
    let s := s.cancelStreams d seat x.ctx x.carr cause
    let s := s.cancelTrans d x.ctx x.carr cause
    let s := s.cancelArr d (quadOf seat) x.ctx x.carr cause
    let s := s.cancelReqs d x.ctx x.carr cause
    let s := match launch with
      | some syl => s.logItem d x.ctx (mkItem x.ctx 5 cause x.carr syl 0 0 0)
      | none => s
    let s := s.releaseOwned seat cause
    let n := s.itemCount d - n0
    let s := s.poolFree x.ctx x.carr
    let s := s.cancelCarr x.ctx x.carr cause va n
    (s.freeSeat seat true).rindSaves d

/-- Containment of a carriage that is off its seat, without the check of R278 (R277). -/
def State.containOff (s : State) (ctx carr cause va : Nat) : State :=
  match s.recOf ctx carr with
  | none => s
  | some r =>
    let n0 := s.itemCount r.die
    let quad := r.pin.orElse fun _ => r.quad
    let s := s.cancelTrans r.die ctx carr cause
    let s := match quad with
      | some q => s.cancelArr r.die q ctx carr cause
      | none => s
    let s := s.cancelReqs r.die ctx carr cause
    let n := s.itemCount r.die - n0
    (s.poolFree ctx carr).cancelCarr ctx carr cause va n

/-! ## Killing a context (R377) -/

/-- The place of a seat as the kill record has it: PLACE[17:16], 0, PLACE[12:0]. -/
def killPlace (seat : Nat) : Nat :=
  dieOf seat * 2 ^ 14 + quadOf seat % 28 * 2 ^ 8 + coreOf seat % 4 * 16 + seat % 4

/-- The kill record. -/
def killRecord (ctx reason : Nat) (seat : Option (Nat × Seat)) (cause : Nat) (va : W64) : Entry :=
  let w0 := BitVec.ofNat 64 (0xE0 * 2 ^ 56 + ctx % 4096 * 2 ^ 32 + reason)
  let (w1, c1, v1, c2, v2) := match seat with
    | none => ((0 : W64), (0 : W64), (0 : W64), (0 : W64), (0 : W64))
    | some (i, x) => (BitVec.ofNat 64 (killPlace i * 2 ^ 48 + x.carr), x.bank1.cause.setWidth 64, x.bank1.va,
        x.bank2.cause.setWidth 64, x.bank2.va)
  ⟨w0, w1, c1, v1, c2, v2, BitVec.ofNat 64 cause, va⟩

/-- The scratchpad windows of a context are zeroed and freed. -/
def State.freeWindows (s : State) (ctx : Nat) : State :=
  let s := (nats 112).foldl (fun s q =>
    let n := (s.ctx ctx).spLen q
    if n = 0 then s else s.wipe (spKey ctx q 0) n) s
  { (s.modCtx ctx fun c => { c with splen := [] }) with curds := s.curds.filter fun c => c.1 != ctx, curdTry := s.curdTry.filter fun c => c.1.1 != ctx }

/-- The BUSY report of a CTXQUIESCE that a kill overtakes (R373). -/
def State.overtaken (s : State) (k : Cmd) : State :=
  let rq := fld k.e.w0 55 44
  if rq = 4095 ∨ (s.queue k.ctx rq).st = qFree then s
  else s.modDie k.die fun x =>
    { x with reports := x.reports ++ [(k.ctx, rq, k.ticket,
        (⟨BitVec.ofNat 64 (fld k.e.w0 63 56 * 2 ^ 56 + 0x16 * 2 ^ 48 + fld k.e.w0 31 0), 0, 0, 0, 0, 0, 0, 0⟩ : Entry))] }

/-- Kills a context: cancels every launch, so that no record is created any more, contains every seat, cancels every record, discards its triggers, fault records
and commands, sets its reservations to 0, retires its connections, publishes the kill record, and zeroes and
frees its windows. -/
def State.killCtx (s : State) (ctx reason : Nat) (seat : Option Nat) (cause : Nat) (va : W64) : State :=
  let er := killRecord ctx reason (seat.map fun i => (i, s.seat i)) cause va
  let seats := (s.seats.filter fun e => e.2.ctx == ctx && e.2.st != .free && e.2.st != .reserved).map Prod.fst
  let s := match (s.ctx ctx).cmd with
    | some k => s.overtaken k
    | none => s
  let s := s.modCtx ctx fun c =>
    { c with st := .killed, killed := reason, rsvSeats := 0, rsvBw := 0, saving := [], cmd := none, back := [], kept := [], armed := [],
             rcd := false, rcdArm := false, replay := false, replayArm := false, rlog := [], diverged := false }
  let s := (nats 4).foldl (fun s d => s.modDie d fun x =>
    { x with launches := x.launches.map fun e => if e.p.ctx = ctx then { e with st := .cancelled, waiters := [] } else e
             rinds := x.rinds.filter fun r => r.ctx != ctx }) s
  let s := seats.foldl (fun s i => s.containSeat i cause (va.toNat % 2 ^ 48) none) s
  let recs := (s.recs.filter fun r => r.ctx == ctx).map (·.carr)
  let s := recs.foldl (fun s c => s.containOff ctx c cause (va.toNat % 2 ^ 48)) s
  let s := (s.coaches.filter fun c => c.ctx == ctx).foldl (fun s c => s.coachGone c.idx) s
  let s := s.discard fun a => a.ctx == ctx && (dropKind a.k || a.locs.any fun p => isSpad p.key)
  let s := { s with waits := s.waits.filter fun w => w.ctx != ctx }
  let s := (nats 4).foldl (fun s d =>
    (s.modDie d fun x =>
      { x with trigs := x.trigs.filter fun t => t.ctx != ctx
               fired := x.fired.filter fun t => t.ctx != ctx
               faults := x.faults.filter fun f => f.ctx != ctx
               cmds := x.cmds.filter fun c => c.ctx != ctx
               jobs := x.jobs.filter fun j => j.cmd.ctx != ctx
               launchq := x.launchq.filter fun p => p.ctx != ctx
               inbox := x.inbox.filter fun p => p.ctx != ctx
               notices := x.notices.filter fun n => n.ctx != ctx
               rnotices := x.rnotices.filter fun n => n.1 != ctx
               reports := x.reports.filter fun r => r.1 != ctx }).retireConns d ctx) s
  let s := { s with quads := s.quads.map fun (q : Nat × Quad) => (q.1, { q.2 with trans := q.2.trans.filter fun t => t.ctx != ctx }) }
  let s := s.freeWindows ctx
  s.modDie 0 fun x => { x with reports := x.reports ++ [(0, 1, none, er)] }

/-- Containment with the check of R278: a fault that would contain a seat of a context in QUIESCING kills it. A carriage
that is being seated is contained once its seat is OCCUPIED (R277). -/
def State.contain (s : State) (seat cause va : Nat) (launch : Option Nat) : State :=
  let x := s.seat seat
  if (s.ctx x.ctx).st = .quiescing ∧ x.st ≠ .free ∧ x.st ≠ .reserved then
    s.killCtx x.ctx 2 (some seat) cause (BitVec.ofNat 64 va)
  else if x.st = .loading then s.modSeat seat fun y => { y with late := some (y.late.getD (cause, va)) }
  else s.containSeat seat cause va launch

/-- A containing fault in the work of a carriage, on its seat or off it (R277). -/
def State.containCarr (s : State) (ctx carr cause va : Nat) : State :=
  match s.seatOf ctx carr with
  | some i => s.contain i cause va none
  | none => s.containOff ctx carr cause va

end Sys2Proof.Machine
end

