-- ==== Sys2Proof/Machine/Image.lean ====
section
/-!
DEFINITION. The seat image (R254 to R258): stream registers as 512 bits (R143), control frames (R256), item
records (R257), the writing of the whole image at a save and its restoration at a seating.
-/

namespace Sys2Proof.Machine

/-! ## Stream registers (R143) -/

/-- The codes of STATE. -/
def streamCode : StreamSt → BitVec 3
  | .idle => 0
  | .active => 1
  | .exhausted => 2
  | .cancelled => 3

/-- The state that a code names; 4 to 7 are never produced. -/
def streamStOf (c : Nat) : StreamSt :=
  match c with
  | 1 => .active
  | 2 => .exhausted
  | 3 => .cancelled
  | _ => .idle

/-- A stream register as 512 bits. -/
def Stream.bits (q : Stream) : BitVec 512 :=
  q.base ++ q.fmt ++ q.dir ++ q.swz ++ streamCode q.st ++ q.rmode ++ BitVec.ofBool q.sat ++ BitVec.ofBool q.raw
    ++ q.sbase ++ q.sstride ++ q.rows ++ q.cols ++ q.bound ++ q.de3 ++ q.de2 ++ q.de1 ++ q.de0
    ++ q.ds3 ++ q.ds2 ++ q.ds1 ++ q.ds0 ++ q.pos ++ 0#16 ++ BitVec.ofBool q.be ++ 0#3 ++ q.breg ++ q.fcause ++ q.fva

/-- The stream register of 512 bits. -/
def streamOf (n : Nat) : Stream :=
  let f (lo w : Nat) : BitVec w := BitVec.ofNat w (bitsAt n lo w)
  { base := f 464 48, fmt := f 460 4, dir := f 458 2, swz := f 455 3, st := streamStOf (bitsAt n 452 3), rmode := f 450 2,
    sat := n.testBit 449, raw := n.testBit 448, sbase := f 400 48, sstride := f 384 16, rows := f 368 16, cols := f 352 16,
    bound := f 320 32, de3 := f 304 16, de2 := f 288 16, de1 := f 272 16, de0 := f 256 16, ds3 := f 224 32, ds2 := f 192 32,
    ds1 := f 160 32, ds0 := f 128 32, pos := f 80 48, be := n.testBit 63, breg := f 56 4, fcause := f 48 8, fva := f 0 48,
    since := 0, resting := false, fetched := [], pushed := [] }

/-! ## Control frames (R256) -/

/-- The three words of an M or X sticky slot. -/
def stickyBytes (o : Option Stored) : List Byte :=
  match o with
  | none => List.replicate 24 0
  | some x => bytesLE 8 (2 ^ 63 + x.syl.toNat) ++ bytesLE 8 x.ext.toNat ++ bytesLE 8 x.delta.toNat

/-- The V syllable that stands for no operation (R66). -/
def vNone : BitVec 16 × BitVec 3 := (0xFF80, 0)

/-- The 256 bytes of a control frame. -/
def Frame.bytes (f : Frame) : List Byte :=
  let l := stickyBytes f.m ++ stickyBytes f.x
    ++ ((nats 8).flatMap fun i => bytesLE 2 (SMap.get vNone f.v i).1.toNat)
    ++ ((nats 8).flatMap fun i => bytesLE 1 (SMap.get vNone f.v i).2.toNat)
    ++ List.replicate 8 0 ++ bytesLE 8 f.loop.length
    ++ (f.loop.reverse.flatMap fun e => bytesLE 8 e.start.toNat ++ bytesLE 8 e.stop.toNat ++ bytesLE 8 e.count.toNat)
  l ++ List.replicate (256 - l.length) 0

/-- A 64-bit word of an image. -/
def imgWord (a : Array Byte) (off : Nat) : W64 := BitVec.ofNat 64 (ofBytesLE ((nats 8).map fun i => a.getD (off + i) 0))

/-- An M or X sticky slot of an image. -/
def stickyAt (a : Array Byte) (off : Nat) : Option Stored :=
  if bit (imgWord a off) 63 then
    some ⟨(imgWord a off).setWidth 32, (imgWord a (off + 8)).setWidth 32, addrOf (imgWord a (off + 16))⟩
  else none

/-- The control frame of an image at an offset. -/
def frameAt (a : Array Byte) (off : Nat) : Frame :=
  let v (i : Nat) : BitVec 16 × BitVec 3 :=
    let y : BitVec 16 := BitVec.ofNat 16 ((a.getD (off + 0x30 + 2 * i) 0).toNat + 256 * (a.getD (off + 0x31 + 2 * i) 0).toNat)
    if y = 0xFF80 then vNone else (y, (a.getD (off + 0x40 + i) 0).setWidth 3)
  let n := Nat.min 4 (fld (imgWord a (off + 0x50)) 2 0)
  let e (i : Nat) : LoopEnt :=
    ⟨addrOf (imgWord a (off + 0x58 + 24 * i)), addrOf (imgWord a (off + 0x60 + 24 * i)), imgWord a (off + 0x68 + 24 * i)⟩
  ⟨stickyAt a off, stickyAt a (off + 0x18), splice vNone [] 0 8 v, ((nats n).map e).reverse⟩

/-! ## Items (R257) -/

/-- The record of an item; `now` is the core cycle at the save. -/
def itemBytes (now : Nat) (i : Item) : List Byte :=
  let w := 2 ^ 63 + (if i.landing then 2 ^ 62 else 0) + (if i.data.isSome then 2 ^ 61 else 0)
    + (if i.sh then 2 ^ 60 else 0) + i.reg.toNat * 2 ^ 54 + (if i.er then 2 ^ 53 else 0)
    + i.flags.toNat % 32 * 2 ^ 48 + (if i.landing then i.due - now else 0) % 2 ^ 48
  bytesLE 8 w ++ bytesLE 8 (i.data.getD 0).toNat

/-- The item of a record at an offset; its number is new. -/
def itemAt (a : Array Byte) (off id : Nat) : Option Item :=
  let w := imgWord a off
  if bit w 63 then
    some { id, landing := bit w 62, sh := bit w 60, reg := BitVec.ofNat 6 (fld w 59 54), due := fld w 47 0,
           data := if bit w 61 || bit w 53 then some (imgWord a (off + 8)) else none,
           flags := BitVec.ofNat 6 (fld w 52 48), er := bit w 53 }
  else none

/-! ## The image (R254, R255) -/

/-- The codes of a lease state in LEASE (R255). -/
def leaseCode : LeaseSt → Nat
  | .idle => 0
  | .requested => 1
  | .held => 2
  | .expiring => 3
  | .revoked => 4

/-- The 64 bytes of a trap bank (R254). -/
def Bank.bytes (b : Bank) : List Byte :=
  bytesLE 8 b.cause.toNat ++ bytesLE 8 b.pc.toNat ++ bytesLE 8 b.va.toNat ++ bytesLE 8 b.mask.toNat ++ bytesLE 8 b.rep.toNat
    ++ List.replicate 24 0

/-- The trap bank of an image, with its control frame. -/
def bankAt (a : Array Byte) (off foff : Nat) : Bank :=
  ⟨a.getD off 0, addrOf (imgWord a (off + 8)), imgWord a (off + 16), (imgWord a (off + 24)).setWidth 14,
    (imgWord a (off + 32)).setWidth 5, frameAt a foff⟩

/-- A pending user-level interrupt. -/
def UserInt.toBytes (u : UserInt) : List Byte :=
  bytesLE 8 (2 ^ 63 + u.cause.toNat * 2 ^ 48 + u.bytes.toNat) ++ bytesLE 8 u.w.toNat

/-- UISTAT (R95). -/
def Seat.uistat (x : Seat) : W64 := BitVec.ofNat 64 (x.uiCause.toNat * 256 + if x.uiActive then 1 else 0)

/-- The image of a seat. The spill map names holder 3 for every occupied park slot (log 27). -/
def Seat.image (x : Seat) (now : Nat) : List Byte :=
  let words (l : List W64) : List Byte := l.flatMap fun w => bytesLE 8 w.toNat
  let cb : List W64 :=
    [x.fflags.setWidth 64, x.stepm.setWidth 64, x.stepx.setWidth 64, x.vstep.setWidth 64, x.waitd, x.frameReg, x.xsave, x.uivec,
     x.uipc.setWidth 64, x.uistat, BitVec.ofNat 64 x.wdcnt, x.parkmap,
     x.vparkmap.setWidth 64, x.lvl.setWidth 64, BitVec.ofNat 64 (x.rep.toNat * 2 ^ 48 + x.pc.toNat),
     BitVec.ofNat 64 (leaseCode x.lease.st * 2 ^ 61 + x.lease.masks.toNat)]
  ((nats 8192).flatMap fun i => bytesLE 4 (SMap.get 0 x.vregs i).toNat)
    ++ ((nats 512).flatMap fun i => bytesLE 32 (SMap.get 0 x.hcw i).toNat)
    ++ ((nats 2048).flatMap fun i => bytesLE 4 (SMap.get 0 x.vpark i).toNat)
    ++ ((nats 64).flatMap fun i => bytesLE 8 (SMap.get 0 x.park i).toNat)
    ++ ((nats 64).flatMap fun i => bytesLE 8 (SMap.get 0 x.sregs i).toNat)
    ++ ((natsFrom 56 4).flatMap fun i => bytesLE 8 (SMap.get 0 x.shadow i).toNat)
    ++ words [x.empty, x.shEmpty, 0, 0]
    ++ ((nats 64).flatMap fun i => bytesLE 2 (if i % 8 = 0 then 0xFFFF else (SMap.get 0 x.kregs i).toNat))
    ++ words cb ++ List.replicate 192 0
    ++ x.frame.bytes ++ x.bank1.bytes ++ x.bank2.bytes ++ List.replicate 128 0
    ++ x.bank1.frame.bytes ++ x.bank2.frame.bytes ++ x.uiFrame.bytes
    ++ padTo 256 (x.uis.flatMap UserInt.toBytes)
    ++ padTo 1024 (x.items.flatMap (itemBytes now))
    ++ ((nats 16).flatMap fun i => bytesLE 64 (Stream.bits { SMap.get Stream.zero x.streams i with fetched := [] }).toNat)
    ++ padTo 256 (((nats 64).map fun j => if x.parkmap.getLsbD j then (3 : Byte) else 0)
        ++ (nats 16).map fun j => if x.vparkmap.getLsbD j then (3 : Byte) else 0)
    ++ List.replicate 2816 0

/-- The lease that an image holds: a HELD or EXPIRING one comes back as REQUESTED (R255). -/
def leaseOf (w : W64) (granted : Bool) : Lease :=
  let st : LeaseSt := match fld w 63 61 with
    | 0 => .idle
    | 4 => .revoked
    | _ => .requested
  { Lease.none with st := st, masks := w.setWidth 24, granted := granted }

/-- Restores the fields of an image into a seat (R250); `id0` numbers the items. What the image has no place
for, the issue index kept at user-level interrupt entry and whether the lease has its resources, comes from
the carriage's record (log 28). -/
def Seat.restore (x : Seat) (a : Array Byte) (id0 : Nat) (uiRep : BitVec 5) (granted : Bool) : Seat :=
  let cb (i : Nat) : W64 := imgWord a (0xE4C0 + 8 * i)
  let n32 (off : Nat) : W32 := BitVec.ofNat 32 (ofBytesLE ((nats 4).map fun i => a.getD (off + i) 0))
  { x with
    vregs := splice 0 [] 0 8192 fun i => n32 (4 * i)
    hcw := splice 0 [] 0 512 fun i => BitVec.ofNat 256 (ofBytesLE ((nats 32).map fun j => a.getD (0x8000 + 32 * i + j) 0))
    hcwErr := []
    vpark := splice 0 [] 0 2048 fun i => n32 (0xC000 + 4 * i)
    park := splice 0 [] 0 64 fun i => imgWord a (0xE000 + 8 * i)
    sregs := splice 0 [] 1 63 fun i => imgWord a (0xE200 + 8 * (i + 1))
    shadow := splice 0 [] 56 4 fun i => imgWord a (0xE400 + 8 * i)
    empty := imgWord a 0xE420 &&& 0xFFFFFFFFFFFFFFFE
    shEmpty := imgWord a 0xE428 &&& 15
    kregs := (splice 0 [] 0 64 fun i => BitVec.ofNat 16 ((a.getD (0xE440 + 2 * i) 0).toNat + 256 * (a.getD (0xE441 + 2 * i) 0).toNat)).filter
      fun e => e.1 % 8 != 0
    fflags := (cb 0).setWidth 6, stepm := (cb 1).setWidth 32, stepx := (cb 2).setWidth 32, vstep := (cb 3).setWidth 3
    waitd := cb 4, frameReg := cb 5, xsave := cb 6, uivec := cb 7, uipc := addrOf (cb 8)
    uiActive := bit (cb 9) 0, uiCause := BitVec.ofNat 8 (fld (cb 9) 15 8), uiRep := uiRep
    wdcnt := (cb 10).toNat, parkmap := cb 11, vparkmap := (cb 12).setWidth 16, lvl := (cb 13).setWidth 2
    pc := addrOf (cb 14), rep := BitVec.ofNat 5 (fld (cb 14) 52 48), lease := leaseOf (cb 15) granted
    frame := frameAt a 0xE600, bank1 := bankAt a 0xE700 0xE800, bank2 := bankAt a 0xE740 0xE900, uiFrame := frameAt a 0xEA00
    uis := (nats 16).filterMap fun i =>
      let w := imgWord a (0xEB00 + 16 * i)
      if bit w 63 then some ⟨BitVec.ofNat 8 (fld w 55 48), imgWord a (0xEB08 + 16 * i), addrOf w⟩ else none
    items := (nats 64).filterMap fun i => itemAt a (0xEC00 + 16 * i) (id0 + i)
    relDue := true
    streams := splice Stream.zero [] 0 16 fun i => streamOf (ofBytesLE ((nats 64).map fun j => a.getD (0xF000 + 64 * i + j) 0)) }

/-- The carriage image at an address as an array of bytes. -/
def State.readImage (s : State) (ctx va : Nat) : Array Byte :=
  match s.wordKey ctx .dev va with
  | some k => (s.rdBytes k 65536).toArray
  | none => #[]

/-- Writes 64 KiB of image at an address. -/
def State.writeImage (s : State) (ctx va : Nat) (l : List Byte) : State :=
  let a := l.toArray
  s.devFill ctx va 65536 fun i => a.getD i 0

/-- The shadow empty bits are kept in bits [3:0], bit `n` that of S56 + `n` (R254). -/
def shBit (r : Nat) : Nat := r - 56

end Sys2Proof.Machine
end

