-- ==== Sys2Proof/Machine/Ops.lean ====
section
/-!
DEFINITION. The registers of a seat (R85, R88), its control registers (R95, R96), what arrives at a register
(R88, R90, R115), taking a trap and returning from it (R269 to R272, R109), and the entry to and the return
from a user-level interrupt handler (R155, R110).
-/

namespace Sys2Proof.Machine

/-! ## Scalar registers -/

/-- The register is one of the shadow S56 to S59 that are visible now (R85, R155). -/
def Seat.inShadow (x : Seat) (r : Nat) : Bool := x.uiActive && decide (56 ≤ r ∧ r ≤ 59)

/-- The value of S`r`; S0 reads as zero. -/
def Seat.reg (x : Seat) (r : Reg) : W64 :=
  if r = 0#6 then 0 else if x.inShadow r.toNat then SMap.get 0 x.shadow r.toNat else SMap.get 0 x.sregs r.toNat

/-- S`r` is empty; S0 never is. -/
def Seat.isEmpty (x : Seat) (r : Reg) : Bool :=
  if r = 0#6 then false else if x.inShadow r.toNat then x.shEmpty.getLsbD (shBit r.toNat) else x.empty.getLsbD r.toNat

/-- Writes S`r`; a write to S0 is discarded. -/
def Seat.setReg (x : Seat) (r : Reg) (v : W64) : Seat :=
  if r = 0#6 then x
  else if x.inShadow r.toNat then { x with shadow := SMap.set 0 x.shadow r.toNat v }
  else { x with sregs := SMap.set 0 x.sregs r.toNat v }

/-- A 64-bit word with bit `i` set or cleared. -/
def putBit (w : W64) (i : Nat) (b : Bool) : W64 := if b then w ||| (1#64 <<< i) else w &&& ~~~(1#64 <<< i)

/-- Marks S`r` empty or full (R88). -/
def Seat.markEmpty (x : Seat) (r : Reg) (b : Bool) : Seat :=
  if r = 0#6 then x
  else if x.inShadow r.toNat then { x with shEmpty := putBit x.shEmpty (shBit r.toNat) b }
  else { x with empty := putBit x.empty r.toNat b }

/-- A landing to S`r` is still pending (R90). -/
def Seat.landingOn (x : Seat) (r : Reg) : Bool :=
  r != 0#6 && x.items.any fun i => i.landing && i.reg == r && i.sh == x.inShadow r.toNat

/-- An issue that would write S`r` blocks (R88, R89, R90). -/
def Seat.destBlocked (x : Seat) (r : Reg) : Bool := x.isEmpty r || x.landingOn r

/-- What a value that arrives does to the bank that its item names (R88). -/
def Seat.arrive (x : Seat) (i : Item) (v : W64) : Seat :=
  let n := i.reg.toNat
  let x := { x with fflags := x.fflags ||| i.flags }
  if n = 0 then x
  else if i.sh then { x with shadow := SMap.set 0 x.shadow n v, shEmpty := if i.landing then x.shEmpty else putBit x.shEmpty (shBit n) false }
  else { x with sregs := SMap.set 0 x.sregs n v, empty := if i.landing then x.empty else putBit x.empty n false }

/-- Adds an item of S`r` (R92); a producer whose latency is not named marks it empty (R88). -/
def Seat.addItem (x : Seat) (id : Nat) (r : Reg) (landing : Bool) (due : Nat) (data : Option W64) (fl : Flags) : Seat :=
  let x := if landing then x else x.markEmpty r true
  { x with items := x.items ++ [⟨id, landing, x.inShadow r.toNat, r, due, data, fl, false⟩] }

/-- A predicate register of a cluster; K0 is all ones (R121). -/
def Seat.kreg (x : Seat) (c k : Nat) : BitVec 16 := if k = 0 then 0xFFFF else SMap.get 0 x.kregs (8 * c + k)

/-- Writes the enabled lanes of V`r` of cluster `c`. -/
def Seat.setVreg (x : Seat) (c r : Nat) (en : BitVec 16) (v : List W32) : Seat :=
  { x with vregs := (nats 16).foldl (fun m i => if en.getLsbD i then SMap.set 0 m (64 * 16 * c + 16 * r + i) (nth 0 v i) else m) x.vregs }

/-- The copies of a core that are due by a cycle are written, in slot order within a cycle (R138, R139). -/
def State.landXclsAt (s : State) (core now : Nat) : State :=
  let l := sortBy (fun a b : Xcl => decide (a.due < b.due ∨ (a.due = b.due ∧ a.slot ≤ b.slot))) ((s.core core).xcls.filter fun c => decide (c.due ≤ now))
  let s := l.foldl (fun s c => s.modSeat c.seat fun x =>
    (nats 8).foldl (fun x j => if c.mask.getLsbD j then x.setVreg j c.reg.toNat c.en c.vals else x) x) s
  s.modCore core fun k => { k with xcls := k.xcls.filter fun c => decide (now < c.due) }

/-! ## What arrives -/

/-- Changes an item of a seat. -/
def Seat.modItem (x : Seat) (id : Nat) (f : Item → Item) : Seat := { x with items := x.items.map fun i => if i.id = id then f i else i }

/-- The seat that holds an item. -/
def State.itemSeat (s : State) (id : Nat) : Option (Nat × Item) :=
  s.seats.findSome? fun e => (e.2.items.find? fun i => i.id == id).map fun i => (e.1, i)

/-- The carriage in whose seat image an item is recorded, with the address of the record (R257). -/
def State.itemImage (s : State) (id : Nat) : Option (Nat × Nat) :=
  s.recs.findSome? fun r =>
    match (nats r.imgIds.length).find? fun k => r.imgIds[k]? == some id with
    | some k => some (r.ctx, fld (s.carrWord r.ctx r.carr 3) 47 0 + 0xEC00 + 16 * k)
    | none => none

/-- A result, or the address of the line in error that its read met (R115), is recorded with its item: at a
seat, or in a seat image (R93, R257); nowhere when END has discarded the item, whose buffer entry is then free. -/
def State.setResult (s : State) (id : Nat) (v : W64) (fl : Flags) (er : Bool) : State :=
  match s.itemSeat id with
  | some (k, _) => s.modSeat k fun x => x.modItem id fun i => { i with data := some v, flags := i.flags ||| fl, er := er }
  | none =>
    match s.itemImage id with
    | some (ctx, va) =>
      let w := s.devWord ctx va
      let w' := w ||| BitVec.ofNat 64 ((if er then 2 ^ 53 else 2 ^ 61) + fl.toNat % 32 * 2 ^ 48)
      (s.devPut ctx va w').devPut ctx (va + 8) v
    | none => { s with cores := s.cores.map fun c => (c.1, { c.2 with ghosts := c.2.ghosts.filter fun g => g != id }) }

/-- A result comes to its item: one of a producer whose latency is not named is written at once, and a landing
waits for its cycle (R88, R90). -/
def State.deliver (s : State) (id : Nat) (v : W64) (fl : Flags) : State :=
  match s.itemSeat id with
  | some (k, i) =>
    if i.landing then s.setResult id v fl false
    else s.modSeat k fun x => { (x.arrive { i with flags := i.flags ||| fl } v) with items := x.items.filter fun i => i.id != id }
  | none => s.setResult id v fl false

/-! ## Control registers (R95) -/

/-- Free entries of the landing buffer of a core (R91): one for each landing of its seats that has not landed,
and one for each that END has discarded and whose data has not returned (R93). -/
def State.landFree (s : State) (core : Nat) : Nat :=
  64 - (s.core core).ghosts.length
    - (nats 4).foldl (fun n k => n + ((s.seat (4 * core + k)).items.filter fun i => i.landing && !i.er).length) 0

/-- A trap bank of a seat. -/
def Seat.bank (x : Seat) (n : Nat) : Bank := if n = 1 then x.bank1 else x.bank2

/-- Replaces a trap bank. -/
def Seat.setBank (x : Seat) (n : Nat) (b : Bank) : Seat := if n = 1 then { x with bank1 := b } else { x with bank2 := b }

/-- A register of a trap bank: cause, pc, value, mask, issue index. -/
def Bank.get (b : Bank) (k : Nat) : W64 :=
  match k with
  | 0 => b.cause.setWidth 64
  | 1 => b.pc.setWidth 64
  | 2 => b.va
  | 3 => b.mask.setWidth 64
  | _ => b.rep.setWidth 64

/-- Writes XPC or XREP of a trap bank. -/
def Bank.put (b : Bank) (k : Nat) (v : W64) : Bank :=
  if k = 1 then { b with pc := addrOf v &&& 0xFFFFFFFFFFFC } else { b with rep := v.setWidth 5 }

/-- RL`k` of the launch of a seat (R86, R283). -/
def State.relocOf (s : State) (seat k : Nat) : W64 :=
  let x := s.seat seat
  match s.lent (dieOf seat) x.ctx x.lid with
  | some e => e.p.rlk k
  | none => 0

/-- The value of a control register; none for a number that R95 does not list. -/
def State.ctrl (s : State) (seat num : Nat) : Option W64 :=
  let x := s.seat seat
  let c := s.ctx x.ctx
  let core := coreOf seat
  match num with
  | 0x000 => some (x.fflags.setWidth 64)
  | 0x001 => some (x.stepm.signExtend 64)
  | 0x002 => some (x.stepx.signExtend 64)
  | 0x003 => some (x.vstep.setWidth 64)
  | 0x004 => some x.waitd
  | 0x008 => some x.wid
  | 0x009 => some x.frameReg
  | 0x00A => some (BitVec.ofNat 64 (s.effClass (dieOf seat) x.ctx x.lid))
  | 0x00B => some (placeOf seat)
  | 0x00C => some (BitVec.ofNat 64 x.carr)
  | 0x010 => some (BitVec.ofNat 64 x.frame.loop.length)
  | 0x018 => some (s.relocOf seat 0)
  | 0x019 => some (s.relocOf seat 1)
  | 0x01A => some (s.relocOf seat 2)
  | 0x01B => some (s.relocOf seat 3)
  | 0x01C => some (s.relocOf seat 4)
  | 0x01D => some (s.relocOf seat 5)
  | 0x01E => some (s.relocOf seat 6)
  | 0x01F => some (s.relocOf seat 7)
  | 0x020 => some (BitVec.ofNat 64 (s.cycle core))
  | 0x021 => some (BitVec.ofNat 64 (s.core core).frozen)
  | 0x022 => some (s.core core).vsplits
  | 0x023 => some (BitVec.ofNat 64 (s.quad (core / 4)).gated)
  | 0x024 => some (BitVec.ofNat 64 (s.landFree core))
  | 0x028 => some x.parkmap
  | 0x029 => some (x.vparkmap.setWidth 64)
  | 0x030 => some (x.lvl.setWidth 64)
  | 0x031 => some (c.xvec.setWidth 64)
  | 0x032 => some x.xsave
  | 0x038 => some (x.bank1.get 0)
  | 0x039 => some (x.bank1.get 1)
  | 0x03A => some (x.bank1.get 2)
  | 0x03B => some (x.bank1.get 3)
  | 0x03C => some (x.bank1.get 4)
  | 0x040 => some (x.bank2.get 0)
  | 0x041 => some (x.bank2.get 1)
  | 0x042 => some (x.bank2.get 2)
  | 0x043 => some (x.bank2.get 3)
  | 0x044 => some (x.bank2.get 4)
  | 0x048 => some x.uivec
  | 0x049 => some (x.uipc.setWidth 64)
  | 0x04A => some x.uistat
  | 0x050 => some (BitVec.ofNat 64 c.wdint)
  | 0x051 => some (BitVec.ofNat 64 x.wdcnt)
  | 0x058 => some (if c.dbg then 1 else 0)
  | _ => none

/-- The control registers that WRC may write (R95). -/
def ctrlRW : List Nat := [0x000, 0x001, 0x002, 0x003, 0x004, 0x009, 0x032, 0x039, 0x03C, 0x041, 0x044, 0x048]

/-- Writes a control register: reserved bits are ignored (R21, R96). -/
def Seat.setCtrl (x : Seat) (num : Nat) (v : W64) : Seat :=
  match num with
  | 0x000 => { x with fflags := v.setWidth 6 }
  | 0x001 => { x with stepm := v.setWidth 32 }
  | 0x002 => { x with stepx := v.setWidth 32 }
  | 0x003 => { x with vstep := v.setWidth 3 }
  | 0x004 => { x with waitd := v }
  | 0x009 => { x with frameReg := v }
  | 0x032 => { x with xsave := v &&& 0x0000FFFFFFFFFE00 }
  | 0x039 => { x with bank1 := x.bank1.put 1 v }
  | 0x03C => { x with bank1 := x.bank1.put 4 v }
  | 0x041 => { x with bank2 := x.bank2.put 1 v }
  | 0x044 => { x with bank2 := x.bank2.put 4 v }
  | 0x048 => { x with uivec := v &&& 0x0000FFFFFFFFFFFC }
  | _ => x

/-! ## Taking a trap and returning from it -/

/-- What XPC holds of an address: its bits [1:0] are 0 (R270). -/
def xpcOf (pc : Addr) : Addr := pc &&& 0xFFFFFFFFFFFC#48

/-- Trap entry (R271): at level 2 the context is killed; else the next bank takes cause, pc, value, slots and
issue index with the control frame, and the handler begins. -/
def State.trapEntry (s : State) (seat : Nat) (cause : Nat) (va : W64) (mask : BitVec 14) (pc : Addr) (rep : BitVec 5) : State :=
  let x := s.seat seat
  if x.lvl = 2 then s.killCtx x.ctx 1 (some seat) cause va
  else
    let n := x.lvl.toNat + 1
    s.setSeat seat { (x.setBank n ⟨BitVec.ofNat 8 cause, xpcOf pc, va, mask, rep, x.frame⟩) with
      frame := Frame.clear, lvl := x.lvl + 1, pc := (s.ctx x.ctx).xvec, rep := 0, lastFirst := none, fact := none }

/-- A trap at the boundary where the seat stands (R272). -/
def State.boundaryTrap (s : State) (seat cause : Nat) (va : W64) : State :=
  s.trapEntry seat cause va 0 (s.seat seat).pc (s.seat seat).rep

/-- XRET: the return from the current level (R109). -/
def Seat.xret (x : Seat) : Seat :=
  let b := x.bank x.lvl.toNat
  { x with pc := b.pc, rep := b.rep, frame := b.frame, lvl := x.lvl - 1, lastFirst := none }

/-- Entry to the user-level interrupt handler (R155). -/
def Seat.uiEnter (x : Seat) (u : UserInt) : Seat :=
  { x with uipc := x.pc, uiRep := x.rep, uiFrame := x.frame, frame := Frame.clear,
           shadow := SMap.set 0 (SMap.set 0 x.shadow 56 u.w) 57 (u.bytes.setWidth 64),
           uiCause := u.cause, uiActive := true, pc := addrOf x.uivec, rep := 0, lastFirst := none, uis := x.uis.drop 1 }

/-- UIRET: the return from the handler (R110). -/
def Seat.uiret (x : Seat) : Seat :=
  { x with pc := x.uipc, rep := x.uiRep, frame := x.uiFrame, uiActive := false, lastFirst := none }

end Sys2Proof.Machine
end

