-- ==== Sys2Proof/Machine/Slot.lean ====
section
/-!
DEFINITION. What the evaluation of a slot is given and what it answers (R56, R59), and the accesses that an
issue makes: their translation and checks, the exposed latencies that they meet (R94), the order in which
they are performed (R172, R175, R187 to R189), and the results they bring.
-/

namespace Sys2Proof.Machine

/-- What the evaluation of a slot is given: the seat, its place and context, the cycle at which the issue starts and that
of its commit (R15), the number of the issue, the bit of the slot in XMASK, the addresses of this bundle and the next, the issue index, and the syllable
with its extension word, offset Δ and BASE. -/
structure Env where
  seat  : Nat
  pos   : Nat
  start : Nat
  cyc   : Nat
  iss   : Nat
  pc    : Addr
  next  : Addr
  rep   : BitVec 5
  syl   : W32
  ext   : W32
  delta : Addr
  base  : BitVec 3

/-- The core of the seat. -/
def Env.core (e : Env) : Nat := coreOf e.seat
/-- The quad of the seat. -/
def Env.quad (e : Env) : Nat := quadOf e.seat
/-- The die of the seat. -/
def Env.die (e : Env) : Nat := dieOf e.seat

/-- What a slot does at the commit of its issue: its writes, the flags that it raises, where it transfers
control and whether that pops loop entries (R98), and what comes after the back-edge rule (R97, R108). -/
structure Commit where
  act  : State → State := id
  fl   : Flags := 0
  npc  : Option Addr := none
  pops : Bool := false
  post : Option (State → State) := none

/-- What the evaluation of a slot answers. `wait`: it blocks, and asks for something meanwhile. `freeze`: the
core freezes until an engine has written (R94). `hold`: it has begun a factorisation and commits later. -/
inductive SlotRes where
  | ok (c : Commit)
  | wait (f : State → State)
  | freeze
  | fault (cause : Nat) (va : W64)
  | hold (f : State → State)

/-- The evaluation of a slot: the state before the issue, the state with the commits of the earlier slots,
and its surroundings. -/
abbrev Eval := State → State → Env → SlotRes

/-- It blocks and asks for nothing. -/
def waits : SlotRes := .wait id
/-- A fault without a value. -/
def fault0 (cause : Nat) : SlotRes := .fault cause 0
/-- A fault whose value is an address. -/
def faultVa (cause va : Nat) : SlotRes := .fault cause (BitVec.ofNat 64 va)
/-- A fault to whose XVA the manual gives no value: it is free (log 2). -/
def faultFree (p : State) (cause : Nat) : SlotRes := .fault cause (Config.freeWord p.free)
/-- A commit that changes the state. -/
def okAct (f : State → State) : SlotRes := .ok { act := f }
/-- A commit that changes the seat alone. -/
def okSeat (e : Env) (f : Seat → Seat) (fl : Flags := 0) : SlotRes := .ok { act := fun s => s.modSeat e.seat f, fl := fl }
/-- A commit that writes one register (R56). -/
def okReg (e : Env) (a : Reg) (v : W64) (fl : Flags := 0) : SlotRes := okSeat e (fun x => x.setReg a v) fl

/-- A register of the issuing seat. -/
def State.sreg (s : State) (e : Env) (r : Reg) : W64 := (s.seat e.seat).reg r

/-- A producer whose latency is not named and whose value is known: it arrives later (R87, R88). -/
def okLater (e : Env) (a : Reg) (v : W64) (fl : Flags) : SlotRes :=
  .ok { act := fun s =>
    let (id, s) := s.freshId
    s.modSeat e.seat fun x => x.addItem id a false 0 (some v) fl }

/-! ## Translation of scalar and Y-slot accesses -/

/-- What the translation of an access answers. -/
inductive AccTr where
  | ok (locs : List PLoc)
  | bad (r : SlotRes)

/-- Translates one address for an issue; a wait asks for the walk or notes the page on the host (R354, R355). -/
def trOne (s : State) (e : Env) (k : Right) (va : Nat) : AccTr :=
  let ctx := (s.seat e.seat).ctx
  match s.seatTrans e.seat e.quad k va with
  | .ok p => .ok [p]
  | .walk page _ => .bad (.wait fun s => s.askWalk ctx e.quad page)
  | .hold => .bad (.wait fun s => s.seatHold e.seat va)
  | .fault c => .bad (faultVa c va)

/-- Translates each of `n` bytes, lowest first (R174). -/
def trBytes (s : State) (e : Env) (k : Right) (va : Nat) : Nat → AccTr
  | 0 => .ok []
  | n + 1 =>
    match trOne s e k (va % 2 ^ 48) with
    | .bad r => .bad r
    | .ok l =>
      match trBytes s e k (va + 1) n with
      | .bad r => .bad r
      | .ok l' => .ok (l ++ l')

/-- Translates an access of `n` bytes: one place when it is aligned, one for each byte when it is not. -/
def trAcc (s : State) (e : Env) (k : Right) (va n : Nat) : AccTr :=
  if va % n = 0 then trOne s e k va else trBytes s e k va n

/-- Translates a range page by page for an issue (R157, R164, R207). -/
def trSpan (s : State) (e : Env) (k : Right) (va n : Nat) : TrRange :=
  transPages (s.seatTrans e.seat e.quad k) (pagesOf va n)

/-- What a failed translation of a range does to its slot. -/
def spanBad (s : State) (e : Env) (r : TrRange) : SlotRes :=
  let ctx := (s.seat e.seat).ctx
  match r with
  | .walk page => .wait fun s => s.askWalk ctx e.quad page
  | .hold va => .wait fun s => s.seatHold e.seat va
  | .fault c va => faultVa c va
  | .ok _ => waits

/-! ## Ranges of an access -/

/-- The byte ranges of an access, by the locations of copy A. -/
def Acc.ranges (a : Acc) : List (Nat × Nat) :=
  match a.locs with
  | [p] => [(p.key, a.n)]
  | l => l.map fun p => (p.key, 1)

/-- The range of locations that places cover. -/
def locRanges (locs : List PLoc) (n : Nat) : List (Nat × Nat) :=
  match locs with
  | [p] => [(p.key, n)]
  | l => l.map fun p => (p.key, 1)

/-! ## Exposed latencies (R94) -/

/-- The exposed words of a core that ranges of locations touch: none, some before their cycle, or some that
are late. -/
inductive Expo where
  | clear | early | late
  deriving DecidableEq, Repr

/-- How a read of the core at its current cycle meets the exposed words. -/
def State.expo (s : State) (core cyc : Nat) (r : List (Nat × Nat)) : Expo :=
  let hit := (s.core core).exposed.filter fun x => rangesMeet r x.words
  if hit.isEmpty then .clear else if hit.any fun x => decide (x.due ≤ cyc) then .late else .early

/-- The physical 8-byte words that ranges of bytes touch, as ranges (R94). -/
def wordsOf (r : List (Nat × Nat)) : List (Nat × Nat) :=
  (r.filter fun x => isSpad x.1 && x.2 != 0).map fun x => (x.1 / 8 * 8, (x.1 + x.2 + 7) / 8 * 8 - x.1 / 8 * 8)

/-- Records the exposed words of an engine command. -/
def State.expose (s : State) (core id due : Nat) (r : List (Nat × Nat)) : State :=
  if (wordsOf r).isEmpty then s
  else s.modCore core fun c => { c with exposed := c.exposed ++ [⟨id, due, wordsOf r⟩] }

/-- An engine write may be performed now: the exposed latency of the command has passed in its core, so that no
read there returns the new value early, and no access of the core to the words is under way (R94). -/
def State.mayWrite (s : State) (core id : Nat) : Bool :=
  match (s.core core).exposed.find? fun x => x.id == id with
  | none => true
  | some x => decide (x.due ≤ s.cycle core)
      && !(s.accs.any fun a => coreOf a.seat == core && a.carr != 0 && a.k == .atomic && rangesMeet a.ranges x.words)

/-! ## Order -/

/-- Kinds that are applied only after every earlier event of the carriage (R188, R190, and the releases of the
chapters on barriers, queues and launches). -/
def relKind (k : AKind) : Bool :=
  match k with
  | .strel | .pub | .barinit | .arrival | .ctrset | .ctradd | .arm | .qcommit | .qrelease | .launch | .trig | .pdone => true
  | _ => false

/-- The place of a kind in the order of one issue: what reads comes before what writes, so that no slot sees the write of
another slot of its issue (R56, log 81). -/
def AKind.rank : AKind → Nat
  | .load | .ldacq | .bartest | .fld => 0
  | .atomic | .fatom | .qres | .qtake => 1
  | _ => 2

/-- The kinds of access whose value a save may bind before its data returns (R93, R178). -/
def bindKind (k : AKind) : Bool :=
  match k with
  | .load | .ldacq | .bartest => true
  | _ => false

/-- Access `b` comes before access `a` in the order of a seat: it is of an earlier issue, or of the same and reads first,
or stands in an earlier slot (R56, R57, R175). -/
def Acc.precedes (b a : Acc) : Bool :=
  decide (b.iss < a.iss ∨ (b.iss = a.iss ∧ (b.k.rank < a.k.rank ∨ (b.k.rank = a.k.rank ∧ b.id < a.id))))

/-- The accesses of the same carriage that an access comes after. -/
def State.before (s : State) (a : Acc) : List Acc := s.accs.filter fun b => b.ctx == a.ctx && b.carr == a.carr && a.carr != 0 && b.precedes a

/-- The queue whose state an access reads or writes: one location for the order of a seat (R175, R332, log 53). -/
def Acc.queue? (a : Acc) : Option Nat :=
  match a.k with
  | .qres | .qcommit | .qrelease | .launch => some a.op
  | .qtake => if a.flag then none else some a.op
  | _ => none

/-- Two accesses touch one location. -/
def Acc.meets (a b : Acc) : Bool := rangesMeet a.ranges b.ranges || (a.queue?.isSome && a.queue? == b.queue?)

/-- The ranges that an HCWLD reads. -/
def HcwPend.ranges (w : HcwPend) : List (Nat × Nat) :=
  (nats w.cnt).filterMap fun i => (heldPlace w.refs (w.va.toNat + 32 * i)).map fun p => (p.key, 32)

/-- An access may be performed: what it has to come after has been (R175, R179, R188). -/
def State.accReady (s : State) (a : Acc) : Bool :=
  let ps := (s.pushesOf a.ctx a.carr).filter fun p => decide (p.id < a.id)
  let hs := if a.carr = 0 then [] else (s.hcwldOf a.ctx a.carr).filter fun w => decide (w.id < a.id)
  if a.ranges.any fun r => s.lentAt r.1 then false
  else if relKind a.k then (s.before a).isEmpty && ps.isEmpty && hs.isEmpty
  else !((s.before a).any a.meets)
    && !(ps.any fun p => p.bytes.any fun b => rangesMeet a.ranges [(b.1.key, 1)])
    && !(hs.any fun w => rangesMeet a.ranges w.ranges)

/-- The access with a number, if it is of one of the kinds and may be performed. -/
def State.accOf (s : State) (id : Nat) (ks : List AKind) : Option Acc :=
  match s.accs.find? fun a => a.id == id with
  | some a => if ks.contains a.k && s.accReady a && s.turnOf a then some a else none
  | none => none

/-- Removes an access that is applied, with its place in the order of its home (R379). -/
def State.dropAcc (s : State) (id : Nat) : State :=
  let s := match s.accs.find? fun a => a.id == id with
    | some a => s.logOrder a
    | none => s
  { s with accs := s.accs.filter fun a => a.id != id }

/-- An access that an issue makes, with the number it is given. -/
def State.addAcc (s : State) (f : Nat → Acc) : State :=
  let (id, s) := s.freshId
  { s with accs := s.accs ++ [f id] }

/-- An access of the issuing carriage with no operands. -/
def accOf0 (s : State) (e : Env) (k : AKind) (id : Nat) : Acc :=
  let x := s.seat e.seat
  { id, iss := e.iss, k, carr := x.carr, ctx := x.ctx, seat := e.seat, op := 0, n := 0, sgn := false, va := 0, locs := [], v := 0, x := 0,
    flag := false, rcd := [], rref := [] }

/-- An issue that accesses memory waits for an LDACQ, or another acquire (R317, R318, R337, R347), and for a FENCE (R187, R189). -/
def State.memWaits (s : State) (seat : Nat) : Bool :=
  let x := s.seat seat
  let mine := s.accs.filter fun a => a.ctx == x.ctx && a.carr == x.carr
  let old (f : Option Nat) (fab : Bool) : Bool :=
    match f with
    | none => false
    | some n => mine.any (fun a => decide (a.id < n) && (fab || !(a.k == .fst || a.k == .fatom)))
        || (x.streams.any fun q => q.2.pushed.any fun p => decide (p.id < n))
        || ((s.hcwldOf x.ctx x.carr).any fun w => decide (w.id < n))
  mine.any (fun a => a.k == .ldacq || a.k == .bartest || a.k == .qtake || a.k == .svc) || old x.fence false || old x.fenceSys true

/-! ## Performing -/

/-- The bytes of an access, read at the fronts of its places. -/
def State.accBytes (s : State) (a : Acc) : List Byte :=
  match a.locs with
  | [p] => s.rdBytes (s.front a.ctx p) a.n
  | l => l.map fun p => s.rdByte (s.front a.ctx p)

/-- An access has read what it names: each publishable buffer that holds a byte of it keeps the number of the youngest read of
the carriage (R181). -/
def State.noteRead (s : State) (a : Acc) : State :=
  a.locs.foldl (fun s p => match p.pb with
    | none => s
    | some (i, _) => s.modCtx a.ctx fun c => { c with pbs := c.pbs.map fun b =>
        if b.1 = i then (b.1, { b.2 with reads := SMap.set 0 b.2.reads a.carr (Nat.max (a.id + 1) (SMap.get 0 b.2.reads a.carr)) }) else b }) s

/-- The address of the first line in error that an access meets. -/
def State.accBad (s : State) (a : Acc) : Option Nat :=
  match a.locs with
  | [p] => if (s.badIn (s.front a.ctx p) a.n).isSome then some (a.va.toNat / 64 * 64) else none
  | l => ((nats l.length).zip l).findSome? fun e =>
      if s.bad (s.front a.ctx e.2 / 64) then some ((a.va.toNat + e.1) % 2 ^ 48 / 64 * 64) else none

/-- A value of `n` bytes, extended as the form states (R114, R184). -/
def extendTo (n : Nat) (sgn : Bool) (v : Nat) : W64 :=
  if sgn then BitVec.ofInt 64 (sextNat (8 * n) v) else BitVec.ofNat 64 (v % 2 ^ (8 * n))

/-- Writes bytes at the places of an access: all at one place, or one at each (R174, R180). -/
def State.accWrite (s : State) (a : Acc) (l : List Byte) : State :=
  match a.locs with
  | [p] => s.apply (s.front a.ctx p) l
  | ps => (ps.zip l).foldl (fun s e => s.apply (s.front a.ctx e.1) [e.2]) s

end Sys2Proof.Machine
end

