-- ==== Sys2Proof/Machine/Operands.lean ====
section
/-!
DEFINITION. The operands of every syllable: the registers it reads, with their trap bits (R55), the register
it writes, the control register it writes (R57), the items it adds (R92), and whether its issue accesses
memory (R187); the sticky class of the M and X forms (R65); and the reading of operands by width (R111, R114).
-/

namespace Sys2Proof.Machine

/-- What an issue has to know of a syllable before it evaluates it. -/
structure Info where
  srcs  : List (Reg × Bool) := []
  dests : List Reg := []
  ctrl  : Option Nat := none
  /-- Items added (R92), and landing buffer entries among them (R91). -/
  items : Nat := 0
  lands : Nat := 0
  mem   : Bool := false

/-- A scalar form: its sources and its destination. -/
def infoR (srcs : List (Reg × Bool)) (a : Reg) : Info := { srcs, dests := [a] }
/-- A producer whose latency is not named (R87). -/
def infoP (srcs : List (Reg × Bool)) (a : Reg) : Info := { srcs, dests := [a], items := 1 }
/-- A form that reads registers and writes none. -/
def infoS (srcs : List (Reg × Bool)) : Info := { srcs }
/-- A memory form with a destination: a landing when its arrival field is not zero (R90). -/
def infoL (srcs : List (Reg × Bool)) (a : Reg) (arr : Nat) : Info :=
  { srcs, dests := [a], items := 1, lands := if arr = 0 then 0 else 1, mem := true }
/-- A memory form with no destination. -/
def infoM (srcs : List (Reg × Bool)) : Info := { srcs, mem := true }
/-- A memory form that returns a value whose latency is not named. -/
def infoA (srcs : List (Reg × Bool)) (a : Reg) : Info := { srcs, dests := [a], items := 1, mem := true }
/-- Registers that always block (R55). -/
def blocks (l : List Reg) : List (Reg × Bool) := l.map fun r => (r, false)

/-- The registers of a transfer command: four, and the completion word when there is one (R156). -/
def xferSrcs (l : List Reg) (x : Xfer) : List (Reg × Bool) := blocks (if x.cmode = 0#2 then l else l ++ [x.cw])

/-- The operands of every syllable. -/
def infoOf : Instr → Info
  | .jr b p | .ret b p => infoS [(b, p)]
  | .jlr a b p => infoR [(b, p)] a
  | .bl a _ => infoR [] a
  | .beq b c p q _ | .bne b c p q _ | .blt b c p q _ | .bge b c p q _ | .bltu b c p q _ | .bgeu b c p q _ => infoS [(b, p), (c, q)]
  | .loop b p _ => infoS [(b, p)]
  | .add _ a b c p q | .sub _ a b c p q | .mul _ a b c p q | .mulh _ a b c p q | .mulhu _ a b c p q
  | .and _ a b c p q | .or _ a b c p q | .xor _ a b c p q | .shl _ a b c p q | .shr _ a b c p q | .sar _ a b c p q
  | .min _ a b c p q | .max _ a b c p q | .minu _ a b c p q | .maxu _ a b c p q
  | .seq _ a b c p q | .slt _ a b c p q | .sltu _ a b c p q => infoR [(b, p), (c, q)] a
  | .div _ a b c p q | .divu _ a b c p q | .rem _ a b c p q | .remu _ a b c p q => infoP [(b, p), (c, q)] a
  | .shli _ a b _ p | .shri _ a b _ p | .sari _ a b _ p | .clz _ a b p | .ctz _ a b p | .popc _ a b p => infoR [(b, p)] a
  | .fadd a b c p q _ _ | .fsub a b c p q _ _ | .fmul a b c p q _ _ => infoR [(b, p), (c, q)] a
  | .fdiv a b c p q _ _ => infoP [(b, p), (c, q)] a
  | .fsqrt a b p _ _ => infoP [(b, p)] a
  | .fmin a b c p q | .fmax a b c p q | .fcmp a b c p q _ => infoR [(b, p), (c, q)] a
  | .fcvt a b _ _ p _ _ => infoR [(b, p)] a
  | .rdc a _ => infoR [] a
  | .wrc num c q => { srcs := [(c, q)], ctrl := some num.toNat }
  | .stow _ b p vec => if vec then {} else infoS [(b, p)]
  | .unstow a _ vec => if vec then {} else infoP [] a
  | .li _ a _ => infoR [] a
  | .lih a p _ => infoR [(a, p)] a
  | .lea a b p _ => infoR [(b, p)] a
  | .addi _ a b p _ | .andi _ a b p _ | .ori _ a b p _ | .xori _ a b p _ => infoR [(b, p)] a
  | .ldb a b p arr _ | .ldbu a b p arr _ | .ldh a b p arr _ | .ldhu a b p arr _ | .ldw a b p arr _ | .ldwu a b p arr _
  | .ldd a b p arr _ => infoL [(b, p)] a arr.toNat
  | .stb b c p q _ | .sth b c p q _ | .stw b c p q _ | .std b c p q _ => infoM [(b, p), (c, q)]
  | .sel _ a b c p q x r => infoR [(b, p), (c, q), (x, r)] a
  | .ffma a b c p q _ _ x r => infoR [(b, p), (c, q), (x, r)] a
  | .pmrd a _ _ => infoP [] a
  | .pmwr _ _ c => infoS (blocks [c])
  | .mma _ _ _ _ _ => { mem := true }
  | .mmas _ _ _ _ _ _ _ => { mem := true }
  | .cmpr dsl sl _ _ _ _ => { mem := selStream dsl || selStream sl }
  | .flu _ _ b _ | .fchol _ _ b | .fqr _ _ _ b | .ftrs _ _ _ b _ _ _ | .fperm _ _ b _ _ => infoS (blocks [b])
  | .hld _ _ b c _ sx _ => infoM (blocks [b, c, sx])
  | .drain _ _ b c _ _ _ sx _ _ _ _ => infoM (blocks [b, c, sx])
  | .mdld _ b _ | .mdst _ b _ => infoM (blocks [b])
  | .sstart _ => { mem := true }
  | .spos a _ c wr => { srcs := if wr then blocks [c] else [], dests := [a] }
  | .tilearm b c => infoM (blocks [b, c])
  | .tiledis c => infoM (blocks [c])
  | .cqpush _ c => infoS (blocks [c])
  | .scfg _ b _ | .shape _ b _ => infoM (blocks [b])
  | .gld a b c f x | .sct a b c f x => { srcs := xferSrcs [a, b, c, f] x, mem := true }
  | .copy a b c _ x | .copyh a b c _ _ x | .mcast a b c _ x => { srcs := xferSrcs [a, b, c] x, mem := true }
  | .hcwld b _ _ => infoM (blocks [b])
  | .aadd _ a b c p q | .amin _ a b c p q | .amax _ a b c p q | .aminu _ a b c p q | .amaxu _ a b c p q | .aand _ a b c p q
  | .aor _ a b c p q | .axor _ a b c p q | .aswp _ a b c p q => infoA [(b, p), (c, q)] a
  | .afadd a b c p q => infoA [(b, p), (c, q)] a
  | .radd _ b c p q | .rmin _ b c p q | .rmax _ b c p q | .rand _ b c p q | .ror _ b c p q | .rfadd b c p q => infoM [(b, p), (c, q)]
  | .ldacq _ a b p => infoA [(b, p)] a
  | .strel _ b c p q => infoM [(b, p), (c, q)]
  | .pub b p => infoM [(b, p)]
  | .acas _ a b c p q x r => infoA [(b, p), (c, q), (x, r)] a
  | .barinit b c p q _ => infoM [(b, p), (c, q)]
  | .bararr a b p => infoA [(b, p)] a
  | .barwait a b c p q => { srcs := [(b, p), (c, q)], dests := if a = 0#6 then [] else [a], mem := true }
  | .bartest a b p => infoA [(b, p)] a
  | .ctrset b c p q | .ctradd b c p q => infoM [(b, p), (c, q)]
  | .ctrwait a b c p q => { srcs := [(b, p), (c, q)], dests := if a = 0#6 then [] else [a], mem := true }
  | .tsend b c p q x r | .tcopy b c p q x r => infoM [(b, p), (c, q), (x, r)]
  | .qres a c q => infoA [(c, q)] a
  | .qcommit b c p q _ => infoM [(b, p), (c, q)]
  | .qtake a c q _ => infoA [(c, q)] a
  | .launch b c p q => infoM [(b, p), (c, q)]
  | .fld _ a b c p q arr _ => infoL [(b, p), (c, q)] a arr.toNat
  | .fst _ b c p q x r => infoM [(b, p), (c, q), (x, r)]
  | .fatom _ a b c p q arr op x r =>
    infoL ([(b, p), (c, q), (x, r)] ++ if op = 11#4 then [(x + 1, r)] else []) a arr.toNat
  | .nwr b p => infoM [(b, p)]
  | .svcPing | .svcQstat | .svcLstat | .svcTime | .svcLog =>
    { srcs := [(9#6, false), (10#6, false), (11#6, false)], dests := [8#6], items := 1 }
  | _ => {}

/-! ## Sticky classes (R64, R65) -/

/-- What a re-issue of an M or X form does. -/
inductive Sticky where
  | step | same | once | clears
  deriving DecidableEq, Repr

/-- The sticky class of the M and X forms (R71, R72). -/
def stickyOf : Instr → Sticky
  | .mNop | .xNop | .vNop => .clears
  | .mzero _ _ | .mtrans _ _ | .cqpush _ _ => .same
  | .mma _ _ _ _ _ | .mmas _ _ _ _ _ _ _ | .cmpr _ _ _ _ _ _ | .hld _ _ _ _ _ _ _ | .drain _ _ _ _ _ _ _ _ _ _ _ _
  | .mdld _ _ _ | .mdst _ _ _ | .shape _ _ _ | .gld _ _ _ _ _ | .sct _ _ _ _ _ | .copy _ _ _ _ _ | .copyh _ _ _ _ _ _
  | .mcast _ _ _ _ _ => .step
  | _ => .once

/-- The forms that may suspend the seat (R93, R106, R248). -/
def suspends : Instr → Bool
  | .yield | .suspend | .barwait _ _ _ _ _ | .ctrwait _ _ _ _ _ => true
  | .qtake _ _ _ wait => wait
  | _ => false

/-! ## Operands by width (R111) -/

/-- The width in bits. -/
def wBits : Wd → Nat
  | .d64 => 64
  | .w32 => 32

/-- The width in bytes. -/
def wBytes : Wd → Nat
  | .d64 => 8
  | .w32 => 4

/-- s(): an operand read as signed. -/
def sRd (w : Wd) (v : W64) : Int :=
  match w with
  | .d64 => v.toInt
  | .w32 => (v.setWidth 32 : W32).toInt

/-- u(): an operand read as unsigned. -/
def uRd (w : Wd) (v : W64) : Nat :=
  match w with
  | .d64 => v.toNat
  | .w32 => (v.setWidth 32 : W32).toNat

/-- What the destination receives: the value, or the sign extension of its low 32 bits. -/
def putW (w : Wd) (v : W64) : W64 :=
  match w with
  | .d64 => v
  | .w32 => (v.setWidth 32 : W32).signExtend 64

/-- The address of a memory operand (R114): relocation, base and offset modulo 2^48. -/
def memEa (s : State) (e : Env) (b : Reg) (m : MemOp) : Nat :=
  ((if m.re then s.relocOf e.seat m.rl.toNat else 0) + s.sreg e b + m.off.signExtend 64).toNat % 2 ^ 48

/-- A base register with a signed offset of 16 bits and the sticky offset Δ (R157). -/
def baseOff (s : State) (e : Env) (b : Reg) (off : BitVec 16) : Nat :=
  ((s.sreg e b + off.signExtend 64).toNat + e.delta.toNat) % 2 ^ 48

/-- An address register with Δ. -/
def baseAt (s : State) (e : Env) (b : Reg) : Nat := ((s.sreg e b).toNat + e.delta.toNat) % 2 ^ 48

end Sys2Proof.Machine
end

