-- ==== Sys2Proof/Machine/Flags.lean ====
section
/-!
DEFINITION. The float forms of the scalar side with the flags that they raise (R38, R116, R117): each reads
the low 32 bits of its sources as binary32 and gives the value of the destination with its flags.
-/

namespace Sys2Proof.Machine

/-- The low 32 bits of a register, as a lane value. -/
def lo32 (v : W64) : W32 := v.setWidth 32

/-- A binary32 result: SA[63:32] is zero (R116). -/
def out64 (r : W32 × Flags) : W64 × Flags := (r.1.setWidth 64, r.2)

/-- FADD. -/
def flFadd (rm : BitVec 2) (sat : Bool) (x y : W64) : W64 × Flags := out64 (fadd32 (rmOf rm) sat (lo32 x) (lo32 y))
/-- FSUB. -/
def flFsub (rm : BitVec 2) (sat : Bool) (x y : W64) : W64 × Flags := out64 (fsub32 (rmOf rm) sat (lo32 x) (lo32 y))
/-- FMUL. -/
def flFmul (rm : BitVec 2) (sat : Bool) (x y : W64) : W64 × Flags := out64 (fmul32 (rmOf rm) sat (lo32 x) (lo32 y))
/-- FDIV. -/
def flFdiv (rm : BitVec 2) (sat : Bool) (x y : W64) : W64 × Flags := out64 (fdiv32 (rmOf rm) sat (lo32 x) (lo32 y))
/-- FSQRT. -/
def flFsqrt (rm : BitVec 2) (sat : Bool) (x : W64) : W64 × Flags := out64 (fsqrt32 (rmOf rm) sat (lo32 x))
/-- FFMA. -/
def flFfma (rm : BitVec 2) (sat : Bool) (x y z : W64) : W64 × Flags := out64 (ffma32 (rmOf rm) sat (lo32 x) (lo32 y) (lo32 z))
/-- FMIN; it raises no flag (R37). -/
def flFmin (x y : W64) : W64 × Flags := out64 (fmin32 (lo32 x) (lo32 y), 0)
/-- FMAX; it raises no flag (R37). -/
def flFmax (x y : W64) : W64 × Flags := out64 (fmax32 (lo32 x) (lo32 y), 0)
/-- FCMP: 1 if the condition holds (R37). -/
def flFcmp (cond : BitVec 2) (x y : W64) : W64 × Flags :=
  let r := fcmp32 cond.toNat (lo32 x) (lo32 y)
  (if r.1 then 1 else 0, r.2)
/-- FCVT (R117). -/
def flFcvt (tgt src : BitVec 3) (rm : BitVec 2) (sat : Bool) (x : W64) : W64 × Flags := cvtScalar tgt.toNat src.toNat (rmOf rm) sat x

end Sys2Proof.Machine
end

