-- ==== Sys2Proof/Machine/Issue.lean ====
section
/-!
DEFINITION. The issue of a bundle (R56 to R67): the fetch of its words (R52), its active slots (R56, R64), what
blocks it (R59), the clash of two writes (R57), its faults (R58), its commit, the sticky state that it leaves
(R65, R66), and the next bundle (R63, R97, R98).
-/

namespace Sys2Proof.Machine

/-! ## Fetch -/

/-- Why a word of a bundle cannot be had: the fetch waits, or faults with a cause at an address (R52). -/
inductive FetchErr where
  | wait (f : State → State)
  | fault (cause va : Nat)

/-- The word at an address, fetched by a seat (R52, R357). -/
def State.fetchWord (s : State) (seat va : Nat) : Except FetchErr W32 :=
  let ctx := (s.seat seat).ctx
  let va := va % 2 ^ 48
  match s.seatTrans seat (quadOf seat) .fetch va with
  | .ok p =>
    let k := s.front ctx p
    if s.bad (k / 64) then .error (.fault 0x70 va) else .ok (BitVec.ofNat 32 (s.rdNat k 4))
  | .walk page _ => .error (.wait fun s => s.askWalk ctx (quadOf seat) page)
  | .hold => .error (.wait fun s => s.seatHold seat va)
  | .fault c => .error (.fault c va)

/-- The bundle at an address, or why its first issue does not take place (R51, R52): a misaligned address,
a fault of the fetch, or an illegal bundle. -/
def State.fetchBundle (s : State) (seat : Nat) (pc : Addr) : Except FetchErr Bundle :=
  if pc.toNat % 4 ≠ 0 then .error (.fault 0x08 pc.toNat)
  else
    match s.fetchWord seat pc.toNat with
    | .error e => .error e
    | .ok h =>
      if headerBad h then .error (.fault 0x01 0)
      else
        match readBundle (fun i => s.fetchWord seat (pc.toNat + 4 * i)) h with
        | .error e => .error e
        | .ok b => if b.pad then .error (.fault 0x01 0) else .ok b

/-! ## Active slots -/

/-- An active slot: its bit in XMASK, the instruction it holds (none when its word is not assigned), whether
the bundle mentions it, and what its evaluation is given. -/
structure SlotIn where
  pos   : Nat
  instr : Option Instr
  named : Bool
  env   : Env

/-- The instruction of a slot, if its word is assigned and its fields are in range (R54). -/
def slotInstr (pos : Nat) (w e : W32) : Option Instr :=
  match decodeSlot pos w e with
  | some i => if fieldsOk i then some i else none
  | none => none

/-- The BASE of a V syllable. -/
def baseOf (w : W32) : BitVec 3 := w.setWidth 3

/-- The bits of the slots in PRESENT order, C first. -/
def slotOrder : List Nat := [13, 12, 11, 10, 9, 8, 7, 6, 5, 4, 3, 2, 1, 0]

/-- The control frame before an issue: CLR clears the sticky slots before the first one (R66). -/
def frameBefore (f : Frame) (clr : Bool) (rep : BitVec 5) : Frame :=
  if clr && rep == 0#5 then { Frame.clear with loop := f.loop } else f

/-- The active slots of issue `rep` of a bundle (R56, R64, R65), in PRESENT order. -/
def activeSlots (x : Seat) (seat start iss : Nat) (pc next : Addr) (rep : BitVec 5) (b : Bundle) : List SlotIn :=
  let f := frameBefore x.frame b.clr rep
  let mk (pos : Nat) (named : Bool) (w e : W32) (delta : Addr) (base : BitVec 3) : SlotIn :=
    { pos, instr := slotInstr pos w e, named,
      env := { seat, pos, start, cyc := start, iss, pc, next, rep, syl := w, ext := e, delta, base } }
  slotOrder.filterMap fun pos =>
    match (if rep = 0#5 then b.slots.find? fun y => y.1 == pos else none) with
    | some y => some (mk pos true y.2.1 y.2.2 0 (baseOf y.2.1))
    | none =>
      if pos = 10 then f.m.map fun o => mk pos false o.syl o.ext (reDelta .slotM o x.stepm) 0
      else if pos = 9 then f.x.map fun o => mk pos false o.syl o.ext (reDelta .slotX o x.stepx) 0
      else if pos ≤ 7 then
        (SMap.find f.v (7 - pos)).map fun o => mk pos false (o.1.setWidth 32) 0 0 (o.2 + x.vstep)
      else none
where
  /-- The offset Δ of a re-issue: the step class of the slot's map adds the step register (R65). -/
  reDelta (c : SlotClass) (o : Stored) (step : W32) : Addr :=
    match decodeWord c o.syl o.ext with
    | some i => if stickyOf i == .step then o.delta + step.signExtend 48 else o.delta
    | none => o.delta

/-- The sticky state after an issue (R64 to R66). -/
def frameAfter (f : Frame) (l : List SlotIn) : Frame :=
  l.foldl (fun f y =>
    let kept : Option Stored := match y.instr with
      | some i => if stickyOf i == .step || stickyOf i == .same then some ⟨y.env.syl, y.env.ext, y.env.delta⟩ else none
      | none => none
    if y.pos = 10 then { f with m := kept }
    else if y.pos = 9 then { f with x := kept }
    else if y.pos ≤ 7 then
      let v : BitVec 16 × BitVec 3 := if y.instr = some .vNop then vNone else (y.env.syl.setWidth 16, y.env.base)
      { f with v := SMap.set vNone f.v (7 - y.pos) v }
    else f) f

/-! ## What blocks an issue, and what clashes in it -/

/-- What an active slot asks of its issue. -/
def SlotIn.info (y : SlotIn) : Info :=
  match y.instr with
  | some i => infoOf i
  | none => {}

/-- The issue blocks before any slot is evaluated: on an empty source, a destination that is empty or has a
landing pending, an acquire or a FENCE, the limit of 64 items, or the landing buffer (R59, R88 to R92, R187). -/
def State.blocked (s : State) (seat : Nat) (l : List SlotIn) : Bool :=
  let x := s.seat seat
  let n := l.foldl (fun n y => n + y.info.items) 0
  let m := l.foldl (fun n y => n + y.info.lands) 0
  l.any (fun y => y.info.srcs.any (fun r => !r.2 && x.isEmpty r.1) || y.info.dests.any x.destBlocked)
    || (l.any (fun y => y.info.mem) && s.memWaits seat)
    || (n != 0 && decide (64 < x.items.length + n)) || (m != 0 && decide (s.landFree (coreOf seat) < m))

/-- The bits of the slots that write the same register other than S0, or the same control register (R57). -/
def clashes (l : List SlotIn) : List Nat :=
  (l.filter fun y => l.any fun z => y.pos != z.pos &&
    (y.info.dests.any (fun r => r != 0#6 && z.info.dests.contains r)
      || (y.info.ctrl.isSome && y.info.ctrl == z.info.ctrl))).map (·.pos)

/-- A mask of slots. -/
def maskOf (l : List Nat) : BitVec 14 := BitVec.ofNat 14 (l.foldl (fun n p => n ||| 2 ^ p) 0)

/-! ## The evaluation of an issue -/

/-- What the slots of an issue answer together. -/
structure Run where
  wait   : Option (State → State) := none
  freeze : Bool := false
  hold   : Option (State → State) := none
  faults : List (Nat × Nat × W64) := []
  done   : List Commit := []
  a      : State

/-- A form whose own checks come before it reads its source (R105). -/
def readsLast : Instr → Bool
  | .loop _ _ _ => true
  | _ => false

/-- An empty source with its trap bit is a fault of the slot (R55, R88), after the checks of LOOP (R105). -/
def emptyFault (ev : Instr → Eval) (p : State) (r : Run) (y : SlotIn) (i : Instr) (t : Reg) : Run :=
  let f : Nat × Nat × W64 := match readsLast i, ev i p r.a y.env with
    | true, .fault 0x02 va => (y.pos, 0x02, va)
    | _, _ => (y.pos, 0x30, BitVec.ofNat 64 (2 ^ 63 + t.toNat))
  { r with faults := r.faults ++ [f] }

/-- Evaluates one slot after the others before it. What two slots of an issue write to one vector register or park slot
stands as the later of them in PRESENT order leaves it; the manual rules only on scalar and control registers
(R57; DESIGN CHOICE, log 82). -/
def runSlot (ev : Instr → Eval) (p : State) (r : Run) (y : SlotIn) : Run :=
  if r.wait.isSome then r
  else
    match y.instr with
    | none => { r with faults := r.faults ++ [(y.pos, 0x02, 0)] }
    | some i =>
      match y.info.srcs.find? fun t => t.2 && (p.seat y.env.seat).isEmpty t.1 with
      | some t => emptyFault ev p r y i t.1
      | none =>
        match ev i p r.a y.env with
        | .ok c => { r with done := r.done ++ [c], a := c.act r.a }
        | .wait f => { r with wait := some f }
        | .freeze => { r with freeze := true }
        | .fault cause va => { r with faults := r.faults ++ [(y.pos, cause, va)] }
        | .hold f => { r with hold := some f }

/-- What an issue comes to. `held`: only WAIT or the spacing of issues holds it. `flt`: it takes a precise trap. -/
inductive IssueRes where
  | held
  | wait (f : State → State)
  | freeze
  | flt (s : State)
  | go (s : State)

/-! ## The commit -/

/-- The back-edge rule (R97): the address of the next bundle and the loop stack. -/
def backEdge (pc next : Addr) : List LoopEnt → Addr × List LoopEnt
  | [] => (next, [])
  | t :: l =>
    if t.stop = pc then
      if 1 < t.count.toNat then (t.start, { t with count := t.count - 1 } :: l) else backEdge pc next l
    else (next, t :: l)

/-- A taken transfer pops entries down to the first that contains its target (R98). -/
def popTo (t : Addr) (l : List LoopEnt) : List LoopEnt :=
  l.dropWhile fun e => decide (t.toNat < e.start.toNat ∨ e.stop.toNat < t.toNat)

/-- Landings that wait for the first issue after a resumption have their due cycles now (R93). -/
def Seat.startDue (x : Seat) (cyc : Nat) : Seat :=
  if x.relDue then { x with relDue := false, items := x.items.map fun i => if i.landing then { i with due := cyc + i.due } else i } else x

/-- Where the seat goes after an issue: the next issue of the bundle, a transfer, or the back-edge rule. A seat that an
XRET resumes at an index above REP counts the index on, past 31 to 0, up to REP: the manual does not say what issues
follow (R58, R109; DESIGN CHOICE, log 83). -/
def Seat.advance (x : Seat) (pc next : Addr) (rep last : BitVec 5) (npc : Option Addr) (pops : Bool) : Seat :=
  if rep ≠ last then { x with rep := rep + 1 }
  else
    match npc with
    | some t => { x with pc := t, rep := 0, frame := if pops then { x.frame with loop := popTo t x.frame.loop } else x.frame }
    | none =>
      let r := backEdge pc next x.frame.loop
      { x with pc := r.1, rep := 0, frame := { x.frame with loop := r.2 } }

/-- A core on which a seat's issue has committed: the seat runs, and nothing is held for that issue any more. -/
def Core.issued (c : Core) (seat : Nat) : Core :=
  { c with running := some seat, held := SMap.erase c.held seat, chks := c.chks.filter fun k => k.seat != seat }

/-- The commit of an issue whose slots have all been evaluated (R56): their writes, the flags (R96), the sticky
state, the next bundle, and what comes after it (R108 to R110). Of two slots that both leave the seat, trap or return,
the first in PRESENT order does so and the other does nothing more; a suspension beside a taken transfer saves the
target as its PC (R63; DESIGN CHOICE, log 84). VSPLITS counts a split issue at its commit, and none that takes a precise
trap (R15; DESIGN CHOICE, log 85). -/
def commitIssue (seat : Nat) (start : Nat) (b : Bundle) (l : List SlotIn) (r : Run) (pc next : Addr) (rep : BitVec 5)
    (cyc : Nat) : State :=
  let fl := r.done.foldl (fun f c => f ||| c.fl) 0
  let npc := r.done.findSome? fun c => c.npc
  let pops := r.done.any fun c => c.npc.isSome && c.pops
  let s := r.a.modSeat seat fun x =>
    let f := frameAfter (frameBefore x.frame b.clr rep) l
    let x := (x.startDue start).advance pc next rep b.rep npc pops
    { x with fflags := x.fflags ||| fl, frame := { f with loop := x.frame.loop }
             lastIssue := cyc, lastFirst := if rep = 0#5 ∨ x.lastFirst = none then some start else x.lastFirst, fact := none }
  let s := s.modCore (coreOf seat) fun c =>
    { c.issued seat with vsplits := if cyc = start then c.vsplits else c.vsplits + 1
                         busy := if cyc = start then c.busy else cyc + 1 }
  match r.done.findSome? fun c => c.post with
  | some f => f s
  | none => s

/-- Fetched elements from the first that met a fault on are discarded, and fetched again on replay (R152, R358). -/
def Stream.refetch (q : Stream) : Stream :=
  { q with fetched := q.fetched.takeWhile (fun f => f.fault.isNone), resting := q.resting || q.fetched.any fun f => f.fault.isSome }

/-- An issue waits for the landings of its seat: it would write a register that one fills, needs room among the items or
in the landing buffer (R90 to R92), or suspends the seat (R93). -/
def State.waitsLanding (s : State) (seat : Nat) (l : List SlotIn) : Bool :=
  let x := s.seat seat
  let n := l.foldl (fun n y => n + y.info.items) 0
  let m := l.foldl (fun n y => n + y.info.lands) 0
  l.any (fun y => y.info.dests.any x.landingOn || (y.instr.map suspends).getD false)
    || (n != 0 && decide (64 < x.items.length + n)) || (m != 0 && decide (s.landFree (coreOf seat) < m))

/-- A blocked issue: the landings of a resumed seat begin to count at its first attempt if it waits for one of them, since
it could not issue before they land; else at its first issue (R93; DEDUCED, log 86). -/
def State.blockedOn (s : State) (seat start : Nat) (l : List SlotIn) (f : State → State) : State → State := fun t =>
  f (if s.waitsLanding seat l then t.modSeat seat fun x => x.startDue start else t)

/-- A precise trap of an issue: nothing of it commits (R56, R58). -/
def State.faultIssue (s : State) (seat cause : Nat) (va : W64) (mask : BitVec 14) : State :=
  let s := s.modSeat seat fun x => { x with streams := x.streams.map fun q => (q.1, q.2.refetch) }
  let s := s.modCore (coreOf seat) fun c => { c with running := some seat }
  let x := s.seat seat
  { (s.trapEntry seat cause va mask x.pc x.rep) with free := s.free + 1 }

/-- CLR clears the sticky slots before the first issue, so that a trap of it saves them cleared (R66, R67). -/
def State.clearFirst (s : State) (seat : Nat) (b : Bundle) : State :=
  if b.clr then s.modSeat seat fun x => { x with frame := frameBefore x.frame b.clr x.rep } else s

/-- The state before an issue that a factorisation has held: the seat as it then stood, and the leaves by which its slots
translated (R228). -/
def State.withHeld (s : State) (seat : Nat) (h : HeldIss) : State :=
  (s.modSeat seat fun x => { h.seat with fact := x.fact }).modCtx (s.seat seat).ctx fun c => { c with small := h.small, large := h.large }

/-- The issue of a factorisation is held as it stands (R228). -/
def State.holdIssue (s : State) (seat : Nat) (b : Bundle) : State :=
  let c := s.ctx (s.seat seat).ctx
  s.modCore (coreOf seat) fun k => { k with held := SMap.insert k.held seat ⟨s.seat seat, b, c.small, c.large⟩ }

/-- The issue of active slots (R56 to R59), with the meanings `ev` of their instructions, on the state `p` before it.
`spaced`: WAIT or the spacing of issues still holds it (R60, R61). The copies that land in the second cycle of a split issue
come before its commit (R15, R139). -/
def issueSlots (ev : Instr → Eval) (p s : State) (seat start : Nat) (b : Bundle) (l : List SlotIn) (cyc : Nat) (spaced : Bool) : IssueRes :=
  let x := s.seat seat
  let next : Addr := x.pc + BitVec.ofNat 48 (4 * b.words)
  if p.blocked seat l then .wait (p.blockedOn seat start l id)
  else
    let r := l.foldl (runSlot ev p) { a := if cyc = start then s else s.landXclsAt (coreOf seat) cyc }
    match r.wait with
    | some f => .wait (p.blockedOn seat start l f)
    | none =>
      if spaced then .held
      else if r.freeze then .freeze
      else
        let cl := clashes l
        if !cl.isEmpty then .flt ((s.clearFirst seat b).faultIssue seat 0x01 0 (maskOf cl))
        else
          match r.faults with
          | f :: _ => .flt ((s.clearFirst seat b).faultIssue seat f.2.1 f.2.2 (maskOf (r.faults.map Prod.fst)))
          | [] =>
            match r.hold with
            | some f => .wait fun s => f (s.holdIssue seat b)
            | none => .go (commitIssue seat start b l r x.pc next x.rep cyc)

/-- The cycle at which an issue commits: one later when seven datapaths split it (R15). -/
def State.commitCycle (s : State) (core : Nat) (l : List Nat) : Nat :=
  if (s.core core).seven ∧ 8 ≤ (l.filter fun p => decide (p ≤ 7)).length then s.cycle core + 1 else s.cycle core

/-- The next issue may not start yet: issues of a seat are at least a cycle apart, and a bundle starts WAIT cycles
after the first issue of the one before it (R60, R61), which for a bundle that a return or a seating resumes at a later
issue is the first since then (DEDUCED, log 87). -/
def Seat.spaced (x : Seat) (now wait : Nat) : Bool :=
  x.lastFirst.isSome && decide (now ≤ x.lastIssue ∨ (x.rep = 0#5 ∧ now < x.lastFirst.getD 0 + wait))

/-- The issue that a factorisation of a seat holds (R228). -/
def State.heldOf (s : State) (seat : Nat) : Option HeldIss :=
  if (s.seat seat).fact.isSome then SMap.find (s.core (coreOf seat)).held seat else none

/-- The issue of a bundle at which a seat stands, on the state `p` before it (R56, R61). -/
def State.issueOf (s : State) (ev : Instr → Eval) (p : State) (seat : Nat) (b : Bundle) : IssueRes :=
  let x := p.seat seat
  let core := coreOf seat
  let now := s.cycle core
  let next : Addr := x.pc + BitVec.ofNat 48 (4 * b.words)
  let l := activeSlots x seat now s.nextId x.pc next x.rep b
  let cyc := s.commitCycle core (l.map (·.pos))
  issueSlots ev p s seat now b (l.map fun y => { y with env := { y.env with cyc := cyc } }) cyc (x.spaced now b.wait.toNat)

/-- The next issue of an occupied seat (R52, R56, R61). -/
def State.tryIssue (ev : Instr → Eval) (s : State) (seat : Nat) : IssueRes :=
  let x := s.seat seat
  let core := coreOf seat
  let now := s.cycle core
  match s.heldOf seat with
  | some h => s.issueOf ev (s.withHeld seat h) seat h.bundle
  | none =>
    match s.fetchBundle seat x.pc with
    | .error (.wait f) => .wait f
    | .error (.fault c va) => if x.spaced now 0 then .held else .flt (s.faultIssue seat c (BitVec.ofNat 64 va) 0)
    | .ok b => s.issueOf ev s seat b

/-! ## A syllable on its own -/

/-- The bit of the slot in which a syllable on its own issues: S0 for the S slot, V0 for a V slot. -/
def soloPos : SlotClass → Nat
  | .slotC => 13
  | .slotS => 12
  | .slotM => 10
  | .slotX => 9
  | .slotY => 8
  | .slotV => 7
  | .micro => 0

/-- The bundle that holds one syllable and no attribute; its last issue is the one at which the seat stands. -/
def soloBundle (c : SlotClass) (w e : W32) (rep : BitVec 5) : Bundle :=
  ⟨false, rep, 0, [(soloPos c, w, e)], if c = .slotV then 2 else if w.getLsbD 31 then 3 else 2, false⟩

/-- What an issue's outcome does to the state: a freeze counts a frozen cycle of the core (R90). -/
def IssueRes.apply (r : IssueRes) (s : State) (core : Nat) : State :=
  match r with
  | .held => s
  | .wait f => f s
  | .freeze => s.modCore core fun c => { c with frozen := c.frozen + 1 }
  | .flt t => t
  | .go t => t

/-- What the evaluation of a syllable on its own is given: the seat `cur`, and the bundle that holds the syllable alone. -/
def State.soloEnv (s : State) (c : SlotClass) (w e : W32) : Env :=
  let x := s.seat s.cur
  { seat := s.cur, pos := soloPos c, start := s.cycle (coreOf s.cur), cyc := s.cycle (coreOf s.cur), iss := s.nextId, pc := x.pc
    next := x.pc + BitVec.ofNat 48 (4 * (soloBundle c w e x.rep).words)
    rep := x.rep, syl := w, ext := e, delta := 0, base := baseOf w }

/-- The one active slot of that bundle. -/
def State.soloSlot (s : State) (i : Instr) (c : SlotClass) (w e : W32) : SlotIn :=
  ⟨soloPos c, if fieldsOk i then some i else none, true, s.soloEnv c w e⟩

/-- The issue of a syllable on its own by the seat `cur`: the one slot of its bundle, with no re-issue of a
sticky slot beside it (log 5). A seat that is not OCCUPIED issues nothing (R249). -/
def issueSolo (i : Instr) (ev : Eval) (s : State) : State :=
  match encode i with
  | none => s
  | some (c, w, e) =>
    if (s.seat s.cur).st = .occupied then
      let now := s.cycle (coreOf s.cur)
      (issueSlots (fun _ => ev) s s s.cur now (soloBundle c w e (s.seat s.cur).rep) [s.soloSlot i c w e] now false).apply s (coreOf s.cur)
    else s

/-- An issue of one syllable as the outcome of a step. -/
def solo (i : Instr) (ev : Eval) (s : State) : Host.Outcome State Fault Refusal := .next (issueSolo i ev s)

end Sys2Proof.Machine
end

