-- ==== Sys2Proof/Machine/Words.lean ====
section
/-!
DEFINITION. The checks of a barrier or counter word (R314, R460), and how a carriage leaves its seat: by a
voluntary suspension (R106, R245, R248), and by END (R107, R268).
-/

namespace Sys2Proof.Machine

/-! ## The word of a wait (R314) -/

/-- What the check of a word address answers. -/
inductive WordTr where
  | ok (p : PLoc)
  | bad (r : SlotRes)

/-- Steps 4 to 6 of R314: alignment, translation and protection (outside the context's windows on the die, a
right, or a tile's descriptor), and the pending bits of R94. -/
def wordTr (s : State) (e : Env) (k : Right) (va : Nat) : WordTr :=
  if va % 8 ≠ 0 then .bad (faultVa 0x08 va)
  else
    match trOne s e k va with
    | .bad r => .bad r
    | .ok l =>
      match l with
      | [p] =>
        if !isSpad p.key then .bad (faultVa 0x21 va)
        else if k == .atom && (s.ctx (s.seat e.seat).ctx).onTile va 8 then .bad (faultVa 0x21 va)
        else
          match s.expo e.core e.start [(p.key, 8)] with
          | .clear => .ok p
          | .late => .bad .freeze
          | .early => if (s.ctx (s.seat e.seat).ctx).dbg then .bad (faultVa 0x30 va) else .ok p
      | _ => .bad waits

/-- Accesses, pushes and posted work of the carriage on a seat are still to be performed (R178, R305). -/
def State.unperformed (s : State) (seat : Nat) : Bool :=
  let x := s.seat seat
  (s.accs.any fun a => a.ctx == x.ctx && a.carr == x.carr) || !(s.pushesOf x.ctx x.carr).isEmpty
    || !(s.hcwldOf x.ctx x.carr).isEmpty

/-- A voluntary suspension waits: for landings and results (R93), for transfers that will interrupt and for
pending interrupts (R155). -/
def State.suspendWaits (s : State) (seat : Nat) : Bool :=
  let x := s.seat seat
  !x.items.isEmpty || !x.uis.isEmpty || (s.transOf x.ctx x.carr).any fun t => t.2.cmode == 3#2

/-- The preconditions of a voluntary suspension: an empty loop stack, no handler active (R99), and no open
reduction (R202). -/
def State.suspendBad (s : State) (seat : Nat) : Bool :=
  let x := s.seat seat
  !x.frame.loop.isEmpty || x.uiActive || (s.arr (quadOf seat)).openPlane x.cid

/-! ## Leaving the seat -/

/-- Word 0 of a carriage that leaves its seat: PIN and PQ when a lease state other than IDLE goes with it (R246). -/
def leaveWord0 (w : W64) (pc : Addr) (full : Bool) (pin : Option Nat) (st : CarrSt) : W64 :=
  BitVec.ofNat 64 ((if full then 2 ^ 63 else 0) + fld w 62 58 * 2 ^ 58
    + (match pin with
       | some q => 2 ^ 57 + q % 28 * 2 ^ 52
       | none => 0)
    + carrCode st * 2 ^ 49 + pc.toNat)

/-- The lease of a carriage off its seat (R199). -/
def Lease.off (l : Lease) : Lease :=
  if l.st = .idle then Lease.none else { Lease.none with st := .requested, masks := l.masks, granted := l.granted, freeing := l.freeing }

/-- A voluntary suspension (R106): words 0 to 7 are written, and the seat is freed when the writes are
performed (R249). The owned-word table is emptied (R311). The waits of R93 are over before the issue; a landing or a result that
another slot of the same issue has just asked for is discarded with the rest of the seat (DESIGN CHOICE, log 89). -/
def State.leave (s : State) (seat : Nat) (w3 : W64) (st : CarrSt) : State :=
  let s := s.endRun (quadOf seat) (s.seat seat).cid
  let x := s.seat seat
  let pin := if x.lease.st = .idle then none else some (quadOf seat)
  let s := s.setCarrWord x.ctx x.carr 0 (leaveWord0 (s.carrWord x.ctx x.carr 0) x.pc false pin st)
  let s := s.setCarrWord x.ctx x.carr 1 x.wid
  let s := s.setCarrWord x.ctx x.carr 2 x.frameReg
  let s := s.setCarrWord x.ctx x.carr 3 w3
  let s := (nats 4).foldl (fun s i => s.setCarrWord x.ctx x.carr (4 + i) (SMap.get 0 x.sregs (60 + i))) s
  let s := s.modRec x.ctx x.carr fun r => { r with st := st, pin := pin, lease := x.lease.off, since := s.dieCycle }
  let s := s.modCore (coreOf seat) fun c => { c with running := if c.running = some seat then none else c.running }
  s.setSeat seat { x with st := .writing, owned := [], lease := Lease.none }

/-- A suspension that registers a wait (R248, R317, R337). -/
def State.suspendOn (s : State) (seat kind : Nat) (aux : BitVec 12) (addr : Addr) (key at_ : Nat) : State :=
  let x := s.seat seat
  let w3 := BitVec.ofNat 64 (kind * 2 ^ 60 + aux.toNat * 2 ^ 48 + addr.toNat)
  let s := s.leave seat w3 .waiting
  { s with waits := s.waits ++ [⟨x.carr, x.ctx, kind, aux, addr, key, at_⟩] }

/-- END (R107): fetch stops; landings and results are discarded, and the buffer entries of landings whose data
has not returned stay taken until it has (R93); pending interrupts are discarded (R155); the seat drains. -/
def State.endSeat (s : State) (seat : Nat) : State :=
  let x := s.seat seat
  let late := (x.items.filter fun i => i.landing && i.data.isNone).map (·.id)
  let s := s.modCore (coreOf seat) fun c =>
    { c with running := if c.running = some seat then none else c.running, ghosts := c.ghosts ++ late
             xcls := c.xcls.filter fun e => e.seat != seat }
  s.setSeat seat { x with st := .draining, items := [], uis := [] }

end Sys2Proof.Machine
end

