-- ==== Sys2Proof/Machine/Streams.lean ====
section
/-!
DEFINITION. Streams (R143 to R152, R157 to R161): the walk, the checks of a start, the fetch and the pop of
elements, pushes and their writes, and the X forms that act on stream registers.
-/

namespace Sys2Proof.Machine

/-! ## The checks of a start (R146) -/

/-- The format checks that come first; `zero` where a row count of 0 is allowed (R150). -/
def Stream.fmtBad (q : Stream) (zero : Bool) : Bool :=
  !fmtOk q.fmt.toNat || decide (2 ≤ q.dir.toNat)
    || (!zero && (q.de0 == 0#16 || q.de1 == 0#16 || q.de2 == 0#16 || q.de3 == 0#16)) || q.cols == 0#16 || q.cols.toNat * q.eb % 8 != 0

/-- The first failing check of a start, as its cause and value. -/
def Stream.startBad (q : Stream) (zero : Bool) : Option (Nat × Nat) :=
  if q.fmtBad zero then some (0x40, 0)
  else if q.sstride ≠ 0 ∧ (q.fmt.toNat ≤ 2 ∨ q.dir = 1#2 ∨ q.cols.toNat % 16 ≠ 0) then some (0x40, 0)
  else if 2 ^ 48 ≤ q.total ∨ q.total < q.pos.toNat then some (0x40, 0)
  else if q.dir = 1#2 ∧ q.swz ≠ 0 ∧ (windowOf q.base.toNat).isNone then some (0x40, 0)
  else
    match (nats q.nrows).find? fun j =>
        decide (q.rowStart j < (q.base.toNat : Int)) || decide ((q.base.toNat : Int) + q.bound.toNat < q.rowStart j + q.rb) with
    | some j => some (0x45, q.rowVa j)
    | none => none

/-! ## Places of elements -/

/-- The translation that a transfer unit makes of a byte of a stream, whose element is `t`: windows of other dies are out of
its reach (R170). -/
def State.lookNear (s : State) (ctx quad : Nat) (k : Right) (va : Nat) (t : QTok) : Tr :=
  match windowOf va with
  | some (q, _) => if q / 28 = quad / 28 then s.unitTrans ctx quad k va t else .fault 0x21
  | none => s.unitTrans ctx quad k va t

/-- The tag of the sector of a location (R151). -/
def State.tagOf (s : State) (key : Nat) : Nat := if isSpad key then SMap.get 0 s.tags (key / 256) else 0

/-- The first failure among the bytes of an element, or the locations of the bytes. -/
inductive Span where
  | ok (keys : List Nat)
  | wait (va : Nat)
  | fault (cause va : Nat)

/-- The locations of `n` bytes read by a stream with a swizzle, each with its checks (R152, R358, R366). -/
def State.spanRead (s : State) (ctx quad swz va : Nat) (check : Bool) (t : QTok) : Nat → Span
  | 0 => .ok []
  | n + 1 =>
    let v := va % 2 ^ 48
    match s.lookNear ctx quad .rd (swzAddr swz v) t with
    | .fault c => .fault c v
    | .walk _ _ => .wait v
    | .hold => .wait v
    | .ok p =>
      let k := s.front ctx p
      if check && s.tagOf k != swz then .fault 0x44 (v / 256 * 256)
      else if s.bad (k / 64) then .fault 0x70 (v / 64 * 64)
      else
        match s.spanRead ctx quad swz (va + 1) check t n with
        | .ok l => .ok (k :: l)
        | r => r

/-- What a fetch of one element answers. -/
inductive FetchRes where
  | wait (va : Nat)
  | got (f : FElem)

/-- The fetch of element `n` of a stream (R145, R148). -/
def State.fetchElem (s : State) (ctx quad : Nat) (q : Stream) (n : Nat) (t : QTok) : FetchRes :=
  let sp := q.elemSpan n
  match s.spanRead ctx quad q.swz.toNat sp.1 true t sp.2.1 with
  | .wait va => .wait va
  | .fault c va => .got ⟨0, 0, some (c, BitVec.ofNat 48 va)⟩
  | .ok ks =>
    let code := bitsAt (ofBytesLE (ks.map s.rdByte)) sp.2.2 q.eb
    if q.sstride = 0 then
      let r := elemToLane q.fmt.toNat q.raw none code
      .got ⟨r.1, r.2, none⟩
    else
      match s.spanRead ctx quad 0 (q.scaleVa n) false t 1 with
      | .wait va => .wait va
      | .fault c va => .got ⟨0, 0, some (c, BitVec.ofNat 48 va)⟩
      | .ok sk =>
        let r := elemToLane q.fmt.toNat q.raw (some (ofBytesLE (sk.map s.rdByte))) code
        .got ⟨r.1, r.2, none⟩

/-- The byte ranges of element `n` and of its scale byte, as locations of copy A, for the waits of a fetch. -/
def State.elemRanges (s : State) (ctx quad : Nat) (q : Stream) (n : Nat) (t : QTok) : List (Nat × Nat) :=
  let sp := q.elemSpan n
  let place (va : Nat) : Option (Nat × Nat) :=
    match s.lookNear ctx quad .rd va t with
    | .ok p => some (p.key, 1)
    | _ => none
  ((natsFrom sp.1 sp.2.1).map (fun va => swzAddr q.swz.toNat (va % 2 ^ 48)) ++ if q.sstride = 0 then [] else [q.scaleVa n % 2 ^ 48]).filterMap place

/-- A fetch has to wait for a store of the seat before the start, or for an engine write whose exposed latency
began before it (R148). -/
def State.fetchHeld (s : State) (seat : Nat) (q : Stream) (n : Nat) (t : QTok) : Bool :=
  let x := s.seat seat
  let rs := s.elemRanges x.ctx (quadOf seat) q n t
  (s.accs.any fun a => a.ctx == x.ctx && a.carr == x.carr && decide (a.id < q.since) && rangesMeet rs a.ranges)
    || ((s.pushesOf x.ctx x.carr).any fun p => decide (p.id < q.since) && p.bytes.any fun b => rangesMeet rs [(b.1.key, 1)])
    || (s.core (coreOf seat)).exposed.any fun z => decide (z.id < q.since) && rangesMeet rs z.words

/-- STREAM_ELEMENT_FETCH: the next element of an in stream is read (R148); a fault is kept with it, and in
FCAUSE and FVA (R358). -/
def execStreamElementFetch (seat sq : Nat) (s : State) : Host.Outcome State Fault Refusal :=
  .next (
    let x := s.seat seat
    let q := x.sq sq
    let n := q.pos.toNat + q.fetched.length
    let t : QTok := .elem x.carr sq n
    if x.st = .occupied ∧ q.st = .active ∧ q.dir = 0#2 ∧ n < q.total ∧ q.resting = false ∧ (q.fetched.all fun f => f.fault.isNone) = true
        ∧ s.fetchHeld seat q n t = false then
      match s.fetchElem x.ctx (quadOf seat) q n t with
      | .wait va => s.unitHold x.ctx (quadOf seat) va t
      | .got f => s.modSq seat sq fun q =>
        match f.fault with
        | none => { q with fetched := q.fetched ++ [f] }
        | some (c, va) => { q with fetched := q.fetched ++ [f], fcause := BitVec.ofNat 8 c, fva := va }
    else s)

/-! ## Pops and pushes -/

/-- What a pop or a push answers. -/
inductive Pop where
  | ok (lanes : List W32) (fl : Flags) (s : State)
  | wait (f : State → State)
  | fault (cause : Nat) (va : W64)

/-- The fault of a pop or push by the state of its stream (R147, R159). An EXHAUSTED stream that is used in the wrong direction
meets both rules: the direction comes first (DESIGN CHOICE, log 99). -/
def Stream.idleFault (s : State) (q : Stream) (dir : BitVec 2) : Option (Nat × W64) :=
  match q.st with
  | .idle | .cancelled => some (0x40, 0)
  | .exhausted => if q.dir = dir then some (0x45, Config.freeWord s.free) else some (0x40, 0)
  | .active => if q.dir = dir then none else some (0x40, 0)

/-- A stream as a pop or push of an issue sees it: in its state before the issue, moved by the slots before it. -/
def Stream.seen (q before : Stream) : Stream :=
  { q with st := (if before.st = .active then (if q.st = .idle then .active else q.st) else before.st) }

/-- A stream after a pop or push; an SSTOP of the same issue leaves it IDLE. -/
def Stream.after (q : Stream) : Stream := { q.moved with st := (if q.st = .idle then .idle else q.moved.st) }

/-- A pop of one vector (R128, R148, R152); `p` is the state before the issue. -/
def State.pop (s p : State) (seat sq : Nat) : Pop :=
  let q := ((s.seat seat).sq sq).seen ((p.seat seat).sq sq)
  match q.idleFault s 0#2 with
  | some (c, va) => .fault c va
  | none =>
    let m := q.step
    let l := q.fetched.take m
    match l.findSome? fun f => f.fault with
    | some (c, va) => .fault c (va.setWidth 64)
    | none =>
      if l.length < m then .wait fun s => s.modSq seat sq fun q => { q with resting := false }
      else
        let fl := l.foldl (fun a f => a ||| f.flags) 0
        .ok ((nats 16).map fun i => match l[i]? with
              | some f => f.lane
              | none => 0) fl
          (s.modSq seat sq fun q => { q.after with fetched := q.fetched.drop m })

/-- One byte that a push writes: its place with the swizzle, with the checks of R152, R165 and R358; the second
component is the sector whose tag it sets. -/
inductive PByte where
  | ok (p : PLoc) (sec : Option Nat)
  | bad (r : SlotRes)

/-- The place of a byte of a push. -/
def State.pushByte (s : State) (e : Env) (q : Stream) (va : Nat) : PByte :=
  let swz := q.swz.toNat
  match trOne s e .wr (swzAddr swz va) with
  | .bad r => .bad r
  | .ok l =>
    match l with
    | [p] =>
      if (s.ctx (s.seat e.seat).ctx).onTile va 1 then .bad (faultVa 0x21 va)
      else if isSpad p.key then
        if s.tagOf p.key = swz ∨ q.coversSec (va / 256 * 256) = true then .ok p (some (p.key / 256))
        else .bad (faultVa 0x44 (va / 256 * 256))
      else if swz ≠ 0 then .bad (faultVa 0x44 (va / 256 * 256))
      else .ok p none
    | _ => .bad (.wait id)

/-- The places of the bytes of a push, or the first failure. -/
def State.pushBytes (s : State) (e : Env) (q : Stream) : List (Nat × Byte × Byte) → List (PLoc × Byte × Byte) → List (Nat × Nat) →
    Except SlotRes (List (PLoc × Byte × Byte) × List (Nat × Nat))
  | [], bs, ss => .ok (bs.reverse, ss)
  | (va, m, v) :: l, bs, ss =>
    match s.pushByte e q va with
    | .bad r => .error r
    | .ok p sec =>
      let ss := match sec with
        | some k => if ss.any fun t => t.1 == k then ss else (k, q.swz.toNat) :: ss
        | none => ss
      s.pushBytes e q l ((p, m, v) :: bs) ss

/-- A push of one vector (R145, R149): its elements enter the buffer, unless that is full, with an exposed latency of 32 cycles. The
manual gives no size of the buffer: it is a constant of Config, no less than the vectors of one issue (log 98). -/
def State.push (s p : State) (e : Env) (sq : Nat) (lanes : List W32) : Pop :=
  let q := ((s.seat e.seat).sq sq).seen ((p.seat e.seat).sq sq)
  match q.idleFault s 1#2 with
  | some (c, va) => .fault c va
  | none =>
    if Config.outDepth ≤ ((s.seat e.seat).sq sq).pushed.length then .wait id
    else
    let els := (nats q.step).map fun i =>
      let r := laneToElem q.fmt.toNat q.raw (rmOf q.rmode) q.sat (nth 0 lanes i)
      let sp := q.elemSpan (q.pos.toNat + i)
      (elemBytes sp.1 sp.2.1 sp.2.2 q.eb r.1, r.2)
    match p.pushBytes e q (els.flatMap Prod.fst) [] [] with
    | .error (.wait f) => .wait f
    | .error (.fault c va) => .fault c va
    | .error _ => .wait id
    | .ok (bs, ss) =>
      let (id, s) := s.freshId
      let s := s.expose e.core id (e.cyc + 32) (bs.map fun b => (b.1.key, 1))
      let fl := els.foldl (fun a x => a ||| x.2) 0
      .ok [] 0 (s.modSq e.seat sq fun q => { q.after with pushed := q.pushed ++ [⟨id, bs, ss, e.cyc + 32, fl⟩] })

/-- Writes the masked bits of a byte at its home port. -/
def State.applyMasked (s : State) (ctx : Nat) (b : PLoc × Byte × Byte) : State :=
  let k := s.front ctx b.1
  s.apply k [(s.rdByte k &&& ~~~b.2.1) ||| (b.2.2 &&& b.2.1)]

/-- A push comes after the accesses of the seat before it that touch its bytes (R149, R175). -/
def State.pushReady (s : State) (seat : Nat) (p : Pushed) : Bool :=
  let x := s.seat seat
  let rs := p.bytes.map fun b => (b.1.key, 1)
  s.mayWrite (coreOf seat) p.id
    && !(s.accs.any fun a => a.ctx == x.ctx && a.carr == x.carr && decide (a.id < p.id) && rangesMeet rs a.ranges)
    && !(x.streams.any fun q => q.2.pushed.any fun z => decide (z.id < p.id) && z.bytes.any fun b => rangesMeet rs [(b.1.key, 1)])

/-- STREAM_ELEMENT_WRITE: the oldest pushed vector of an out stream is written, with its sector tags and the
flags of its conversion (R39, R149, R152). -/
def execStreamElementWrite (seat sq : Nat) (s : State) : Host.Outcome State Fault Refusal :=
  .next (
    let x := s.seat seat
    match (x.sq sq).pushed with
    | [] => s
    | p :: l =>
      if s.pushReady seat p then
        let s := p.bytes.foldl (fun s b => s.applyMasked x.ctx b) s
        let s := { s with tags := p.secs.foldl (fun (m : SMap Nat) (t : Nat × Nat) => SMap.set 0 m t.1 t.2) s.tags }
        let s := s.unexpose p.id
        s.modSeat seat fun x => { (x.setSq sq { x.sq sq with pushed := l }) with fflags := x.fflags ||| p.flags }
      else s)

/-! ## Reads that an issue makes before its commit (R157, R158, R166, R321) -/

/-- What an early read answers: the bytes, or what the issue does instead. -/
inductive Early where
  | ok (l : List Byte)
  | bad (r : SlotRes)

/-- Reads `n` bytes of one page at an address before the commit: it waits for the seat's own earlier writes to
them, and a failure has the value `xva`. `y`: a Y-slot access, which in debug mode traps on a pending word (R94). -/
def earlyRead (p : State) (e : Env) (va n xva : Nat) (y : Bool := false) : Early :=
  let x := p.seat e.seat
  match trOne p e .rd va with
  | .bad (.fault c _) => .bad (faultVa c xva)
  | .bad r => .bad r
  | .ok l =>
    match l with
    | [pl] =>
      let rs := [(pl.key, n)]
      let pend : Option Nat := if y && (p.ctx x.ctx).dbg && p.expo e.core e.start rs == .early then
        (nats (cdiv n 8)).find? fun i => p.expo e.core e.start [(pl.key + 8 * i, 8)] != .clear else none
      if pend.isSome then .bad (faultVa 0x30 (va + 8 * pend.getD 0))
      else if (p.accs.any fun a => a.ctx == x.ctx && a.carr == x.carr && rangesMeet rs a.ranges)
          || (p.pushesOf x.ctx x.carr).any fun z => z.bytes.any fun b => rangesMeet rs [(b.1.key, 1)] then .bad waits
      else if p.expo e.core e.start rs = .late then .bad .freeze
      else
        let k := p.front x.ctx pl
        if (p.badIn k n).isSome then .bad (faultVa 0x70 xva) else .ok (p.rdBytes k n)
    | _ => .bad waits

/-! ## The X forms on streams -/

/-- SBIND: binds a stream to V48 to V63, or clears the binding of the register (R159). -/
def evalSbind (a sq : BitVec 4) (unbind : Bool) : Eval := fun _ _ e =>
  okSeat e fun x =>
    let unbound (q : Stream) : Stream := if q.be && q.breg == a then { q with be := false, breg := 0 } else q
    let x := (nats 16).foldl (fun (x : Seat) i => x.setSq i (unbound (x.sq i))) x
    if unbind then x else x.setSq sq.toNat { x.sq sq.toNat with be := true, breg := a }
/-- SBIND issued on its own. -/
def execSbind (a sq : BitVec 4) (unbind : Bool) (s : State) : Host.Outcome State Fault Refusal := solo (.sbind a sq unbind) (evalSbind a sq unbind) s

/-- What a start leaves: the stream ACTIVE, or EXHAUSTED when nothing is left to walk. -/
def Stream.started (q : Stream) (id : Nat) : Stream :=
  { q with st := (if q.pos.toNat = q.total then .exhausted else .active), since := id, resting := false, fetched := [] }

/-- SSTART: an IDLE stream that passes the checks of R146 (R147, R160). -/
def evalSstart (sq : BitVec 4) : Eval := fun p _ e =>
  let q := (p.seat e.seat).sq sq.toNat
  if q.st ≠ .idle then fault0 0x02
  else
    match q.startBad false with
    | some (c, va) => faultVa c va
    | none => okAct fun s =>
      let (id, s) := s.freshId
      s.modSq e.seat sq.toNat fun q => q.started id
/-- SSTART issued on its own. -/
def execSstart (sq : BitVec 4) (s : State) : Host.Outcome State Fault Refusal := solo (.sstart sq) (evalSstart sq) s

/-- SSTOP: ACTIVE or EXHAUSTED to IDLE; fetched data is discarded with the next start, and pushed elements are
still written (R147). -/
def evalSstop (sq : BitVec 4) : Eval := fun p _ e =>
  let q := (p.seat e.seat).sq sq.toNat
  if q.st = .active ∨ q.st = .exhausted then
    okSeat e fun x => x.setSq sq.toNat { x.sq sq.toNat with st := .idle }
  else fault0 0x02
/-- SSTOP issued on its own. -/
def execSstop (sq : BitVec 4) (s : State) : Host.Outcome State Fault Refusal := solo (.sstop sq) (evalSstop sq) s

/-- SDRAIN: waits until every pushed element is written and no array command of the seat still reads or writes the stream
(R147, R149, R160, R219). -/
def evalSdrain (sq : BitVec 4) : Eval := fun p _ e =>
  let x := p.seat e.seat
  let q := x.sq sq.toNat
  if q.st = .cancelled then fault0 0x02
  else if q.pushed.isEmpty && !((p.arr e.quad).cmds.any fun c => c.ctx == x.ctx && c.carr == x.carr && c.k.names sq.toNat) then .ok {} else waits
/-- SDRAIN issued on its own. -/
def execSdrain (sq : BitVec 4) (s : State) : Host.Outcome State Fault Refusal := solo (.sdrain sq) (evalSdrain sq) s

/-- SPOS: reads POS; the write form needs an IDLE stream (R161). -/
def evalSpos (a : Reg) (sq : BitVec 4) (c : Reg) (wr : Bool) : Eval := fun p _ e =>
  let q := (p.seat e.seat).sq sq.toNat
  if wr && q.st != .idle then fault0 0x02
  else okSeat e fun x =>
    let x := x.setReg a (q.pos.setWidth 64)
    if wr then x.setSq sq.toNat { x.sq sq.toNat with pos := addrOf (p.sreg e c) } else x
/-- SPOS issued on its own. -/
def execSpos (a : Reg) (sq : BitVec 4) (c : Reg) (wr : Bool) (s : State) : Host.Outcome State Fault Refusal :=
  solo (.spos a sq c wr) (evalSpos a sq c wr) s

/-- What SCFG loads: words 1 to 7 of the image, but for STATE; BE and BREG are kept (R147, R158). -/
def Stream.config (q : Stream) (img : Nat) : Stream :=
  { streamOf img with st := .idle, be := q.be, breg := q.breg, fcause := 0, fva := 0, since := q.since, fetched := [], pushed := q.pushed }

/-- SCFG (R157, R158). -/
def evalScfg (sq : BitVec 4) (b : Reg) (off : BitVec 16) : Eval := fun p _ e =>
  let q := (p.seat e.seat).sq sq.toNat
  let ea := baseOff p e b off
  if q.st = .active then fault0 0x02
  else if ea % 64 ≠ 0 then faultVa 0x08 ea
  else
    match earlyRead p e ea 64 ea with
    | .bad r => r
    | .ok l => okSeat e fun x => x.setSq sq.toNat ((x.sq sq.toNat).config (ofBytesLE l))
/-- SCFG issued on its own. -/
def execScfg (sq : BitVec 4) (b : Reg) (off : BitVec 16) (s : State) : Host.Outcome State Fault Refusal := solo (.scfg sq b off) (evalScfg sq b off) s

/-- SHAPE: a row count from memory shapes and starts the stream (R150). -/
def evalShape (sq : BitVec 4) (b : Reg) (off : BitVec 16) : Eval := fun p _ e =>
  let q := (p.seat e.seat).sq sq.toNat
  let ea := baseOff p e b off
  if q.st ≠ .idle ∧ q.st ≠ .exhausted then fault0 0x02
  else if ea % 8 ≠ 0 then faultVa 0x08 ea
  else
    match earlyRead p e ea 8 ea with
    | .bad r => r
    | .ok l =>
      let w := ofBytesLE l
      let n := w % 2 ^ 32
      if w / 2 ^ 32 ≠ 0 then fault0 0x40
      else if q.fmtBad true then fault0 0x40
      else if 65535 < n ∨ q.bound.toNat < n * q.rb then faultVa 0x45 ea
      else
        let q' : Stream := { q with de0 := BitVec.ofNat 16 n, de1 := 1, de2 := 1, de3 := 1, pos := 0 }
        match q'.startBad true with
        | some (c, va) => faultVa c va
        | none => okAct fun s =>
          let (id, s) := s.freshId
          s.modSq e.seat sq.toNat fun q =>
            Stream.started { q with de0 := BitVec.ofNat 16 n, de1 := 1, de2 := 1, de3 := 1, pos := 0 } id
/-- SHAPE issued on its own. -/
def execShape (sq : BitVec 4) (b : Reg) (off : BitVec 16) (s : State) : Host.Outcome State Fault Refusal := solo (.shape sq b off) (evalShape sq b off) s

end Sys2Proof.Machine
end

