-- ==== Sys2Proof/Machine/Clusters.lean ====
section
/-!
DEFINITION. The V slots: the issue of an HCW (R75 to R78, R121 to R141), cross-cluster copies (R138, R139), and
the loading of the HCW table (R164, R252).
-/

namespace Sys2Proof.Machine

/-! ## Operands -/

/-- The stream to which V`r` of a seat is bound. -/
def Seat.boundTo (x : Seat) (r : Nat) : Option Nat :=
  if r < 48 then none else (nats 16).find? fun i => (x.sq i).be && (x.sq i).breg.toNat == r - 48

/-- The lanes of V`r` of cluster `c`. -/
def Seat.vreg (x : Seat) (c r : Nat) : List W32 := (nats 16).map fun i => SMap.get 0 x.vregs (64 * 16 * c + 16 * r + i)

/-- Writes the enabled bits of K`k` of cluster `c`. -/
def Seat.setKreg (x : Seat) (c k : Nat) (en v : BitVec 16) : Seat :=
  { x with kregs := SMap.set 0 x.kregs (8 * c + k) ((x.kreg c k &&& ~~~en) ||| (v &&& en)) }

/-- The lanes of an operand selector (R77); `pops` lists the vectors popped for this slot. -/
def Seat.opnd (x : Seat) (h : BitVec 256) (c base : Nat) (pops : List (Nat × List W32)) (sel : Nat) : List W32 :=
  if sel < 0x40 then
    let r := adjReg base sel
    match x.boundTo r with
    | some sq => ((pops.find? fun y => y.1 == sq).map Prod.snd).getD []
    | none => x.vreg c r
  else if sel < 0x48 then List.replicate 16 ((x.reg (BitVec.ofNat 6 (sel - 0x40 + 8))).setWidth 32)
  else if sel = 0x48 then List.replicate 16 (hcwLimm h)
  else if sel = 0x49 then List.replicate 16 (hcwBimm h)
  else if sel = 0x4A then (nats 16).map (BitVec.ofNat 32)
  else if sel = 0x4B then List.replicate 16 (BitVec.ofNat 32 c)
  else List.replicate 16 0

/-- The operand selectors of an HCW. -/
def hcwSels (h : BitVec 256) : List Nat := [hcwFA h, hcwB h 0, hcwB h 1, hcwB h 2]

/-- The destinations of an HCW that have a source: their number, their register and the source. -/
def hcwDests (h : BitVec 256) (base : Nat) : List (Nat × Nat × Nat) :=
  [1, 2].filterMap fun d => if hcwDS h d = 0 then none else some (d, adjReg base (hcwD h d), hcwDS h d)

/-- The streams that the operands pop, each once (R128). -/
def hcwPops (x : Seat) (h : BitVec 256) (base : Nat) : List Nat :=
  (hcwSels h).foldl (fun l sel =>
    if sel < 0x40 then
      match x.boundTo (adjReg base sel) with
      | some q => if l.contains q then l else l ++ [q]
      | none => l
    else l) []

/-- Pops one vector from each of the listed streams. -/
def popAll (p : State) (seat : Nat) : List Nat → State → List (Nat × List W32) → Flags →
    Except SlotRes (List (Nat × List W32) × Flags × State)
  | [], s, acc, fl => .ok (acc, fl, s)
  | q :: l, s, acc, fl =>
    match s.pop p seat q with
    | .wait f => .error (.wait f)
    | .fault c va => .error (.fault c va)
    | .ok v f s => popAll p seat l s (acc ++ [(q, v)]) (fl ||| f)

/-- Pushes one vector to each of the listed streams. -/
def pushAll (p : State) (e : Env) : List (Nat × List W32) → State → Except SlotRes State
  | [], s => .ok s
  | (q, v) :: l, s =>
    match s.push p e q v with
    | .wait f => .error (.wait f)
    | .fault c va => .error (.fault c va)
    | .ok _ _ s => pushAll p e l s

/-! ## The issue of an HCW -/

/-- An HCWLD of the seat should have written the entry by a cycle and has not (R94, R140). -/
def State.hcwLate (s : State) (seat idx cyc : Nat) : Bool :=
  (s.core (coreOf seat)).hcwp.any fun w => w.seat == seat && decide (w.due ≤ cyc ∧ w.first ≤ idx ∧ idx < w.first + w.cnt)

/-- The enable mask of a V syllable (R126). -/
def Seat.enable (x : Seat) (c k : Nat) (inv : Bool) : BitVec 16 := if inv then ~~~(x.kreg c k) else x.kreg c k

/-- The copy of an xcl on its way (R138). -/
def xclOf (h : BitVec 256) (e : Env) (reg : Nat) (en : BitVec 16) (v : List W32) : Xcl :=
  ⟨e.seat, e.cyc + 4, 7 - e.pos, BitVec.ofNat 8 (hcwX h), BitVec.ofNat 6 reg, en, v⟩

/-- What the results of an HCW write: registers, a predicate, and the copy of an xcl (R123). -/
def hcwWrite (h : BitVec 256) (e : Env) (en : BitVec 16) (o : HcwOut) (regs : List (Nat × Nat × Nat)) (s : State) : State :=
  let c := 7 - e.pos
  let s := regs.foldl (fun s d =>
    if hcwOp h 2 = 0x50 ∧ d.1 = 1 then s.modCore e.core fun k => { k with xcls := k.xcls ++ [xclOf h e d.2.1 en (o.src d.2.2)] }
    else s.modSeat e.seat fun x => x.setVreg c d.2.1 en (o.src d.2.2)) s
  if 8 ≤ hcwPD h then
    s.modSeat e.seat fun x => x.setKreg c (hcwPD h % 8) en (BitVec.ofNat 16 ((nats 16).foldl (fun n i => if nth false o.cf i then n + 2 ^ i else n) 0))
  else s

/-- One issue of an HCW (R123): operands against the state before the issue, pops and pushes after those of the
slots before it. -/
def evalHcw (idx : BitVec 9) (k : BitVec 3) (inv : Bool) : Eval := fun p a e =>
  let x := p.seat e.seat
  let i := idx.toNat
  let base := e.base.toNat
  let c := 7 - e.pos
  let h := SMap.get 0 x.hcw i
  if p.hcwLate e.seat i e.start then .freeze
  else
    match SMap.find x.hcwErr i with
    | some va => .fault 0x70 va
    | none =>
      if !hcwLegal h base (fun r => (x.boundTo r).isSome) then .fault 0x03 (BitVec.ofNat 64 i)
      else if (hcwSels h).any fun sel => decide (0x40 ≤ sel ∧ sel < 0x48) && x.isEmpty (BitVec.ofNat 6 (sel - 0x40 + 8)) then waits
      else
        let ds := hcwDests h base
        let isPush (d : Nat × Nat × Nat) : Bool := (x.boundTo d.2.1).isSome
        if ds.any isPush && p.memWaits e.seat then waits
        else
          match popAll p e.seat (hcwPops x h base) a [] 0 with
          | .error r => r
          | .ok (pops, fl, a) =>
            let en := x.enable c k.toNat inv
            let opnd := x.opnd h c base pops
            let o := hcwRun h en opnd
            let out (v : List W32) : List W32 := (nats 16).map fun j => if en.getLsbD j then nth 0 v j else nth 0 (opnd (hcwFA h)) j
            match pushAll p e (ds.filterMap fun d => (x.boundTo d.2.1).map fun q => (q, out (o.src d.2.2))) a with
            | .error r => r
            | .ok a => .ok { act := fun _ => hcwWrite h e en o (ds.filter fun d => !isPush d) a, fl := fl ||| o.fl }
/-- A V syllable issued on its own, in slot V0. -/
def execHcw (idx : BitVec 9) (k : BitVec 3) (inv : Bool) (base : BitVec 3) (s : State) : Host.Outcome State Fault Refusal :=
  solo (.hcw idx k inv base) (evalHcw idx k inv) s

/-- V NOP: the no-op index 511 does nothing and clears its sticky slot (R66). -/
def evalVNop : Eval := fun _ _ _ => .ok {}
/-- V NOP issued on its own. -/
def execVNop (s : State) : Host.Outcome State Fault Refusal := solo .vNop evalVNop s

/-- XCL_COPY_LANDING: the copies of a core that are due are written (R138). -/
def State.landXcls (s : State) (core : Nat) : State := s.landXclsAt core (s.cycle core)
/-- XCL_COPY_LANDING as a step. -/
def execXclCopyLanding (core : Nat) (s : State) : Host.Outcome State Fault Refusal := .next (s.landXcls core)

/-! ## Loading the HCW table (R164) -/

/-- The exposed latency of an HCWLD: 16 + count, or 4 where its whole source lies in the image of the kernel that
the seat's tag names (R252). -/
def hcwldLatency (p : State) (seat ea cnt : Nat) : Nat :=
  let inTag : Bool := match (p.seat seat).tag with
    | some (c, m, g) =>
      let sl := SMap.get MSlot.empty (p.ctx c).slots m
      c == (p.seat seat).ctx && sl.full && sl.gen.toNat == g && decide (sl.base.toNat ≤ ea ∧ ea + 32 * cnt ≤ sl.base.toNat + sl.len)
    | none => false
  if inTag then 4 else 16 + cnt

/-- HCWLD: `cnt` is the number of entries less 1. -/
def evalHcwld (b : Reg) (first cnt : BitVec 9) : Eval := fun p _ e =>
  let ea := (addrOf (p.sreg e b)).toNat
  let n := cnt.toNat + 1
  if 512 < first.toNat + n then fault0 0x02
  else if ea % 32 ≠ 0 then faultVa 0x08 ea
  else
    match trSpan p e .rd ea (32 * n) with
    | .ok h => okAct fun s =>
        let (id, s) := s.freshId
        let w : HcwPend := ⟨id, e.seat, e.cyc + hcwldLatency p e.seat ea n, first.toNat, n, BitVec.ofNat 48 ea, h⟩
        s.modCore e.core fun k => { k with hcwp := k.hcwp ++ [w] }
    | r => spanBad p e r
/-- HCWLD issued on its own. -/
def execHcwld (b : Reg) (first cnt : BitVec 9) (s : State) : Host.Outcome State Fault Refusal := solo (.hcwld b first cnt) (evalHcwld b first cnt) s

/-- An HCWLD may read: its latency has passed, and every earlier event of its seat is performed (R179). -/
def State.hcwldReady (s : State) (w : HcwPend) : Bool :=
  let x := s.seat w.seat
  decide (w.due ≤ s.cycle (coreOf w.seat))
    && !(s.accs.any fun a => a.ctx == x.ctx && a.carr == x.carr && decide (a.id < w.id))
    && !((s.pushesOf x.ctx x.carr).any fun p => decide (p.id < w.id))

/-- One entry of an HCWLD is written, or noted as read from a line in error. -/
def State.hcwldEntry (s : State) (w : HcwPend) (i : Nat) : State :=
  let ctx := (s.seat w.seat).ctx
  let va := w.va.toNat + 32 * i
  let loc := s.heldKey ctx w.refs
  let k := loc (va % 2 ^ 48)
  let j := w.first + i
  if (s.badIn k 32).isSome then s.modSeat w.seat fun x => { x with hcwErr := SMap.set 0 x.hcwErr j (BitVec.ofNat 64 (va % 2 ^ 48)) }
  else s.modSeat w.seat fun x => { x with hcw := SMap.set 0 x.hcw j (BitVec.ofNat 256 (s.rdNat k 32)), hcwErr := SMap.erase x.hcwErr j }

/-- An HCWLD reads its source and writes its entries. -/
def State.hcwldDo (s : State) (w : HcwPend) : State :=
  ((nats w.cnt).foldl (fun s i => s.hcwldEntry w i) s).modCore (coreOf w.seat) fun k => { k with hcwp := k.hcwp.filter fun y => y.id != w.id }

/-- HCWLD_WRITE: the HCWLDs of a seat whose latency has passed write their entries, in the order of their cycles (R140,
R164). -/
def State.hcwldWrite (s : State) (seat : Nat) : State :=
  (sortBy (fun a b : HcwPend => decide (a.due ≤ b.due)) ((s.core (coreOf seat)).hcwp.filter fun w => w.seat == seat)).foldl
    (fun s w => if s.hcwldReady w then s.hcwldDo w else s) s
/-- HCWLD_WRITE as a step. -/
def execHcwldWrite (seat : Nat) (s : State) : Host.Outcome State Fault Refusal := .next (s.hcwldWrite seat)

end Sys2Proof.Machine
end

