-- ==== Sys2Proof/Machine/Transfers.lean ====
section
/-!
DEFINITION. The transfer commands (R153, R154, R162, R163): their checks at issue, their sectors and what a
sector reads and writes (R359), their fault records (R360), and their completion signals.
-/

namespace Sys2Proof.Machine

/-! ## The checks at issue (R153) -/

/-- The first address of `n` bytes that lies in the host window, or outside it. -/
def firstIn (inside : Bool) (va n : Nat) : Option Nat :=
  let lo := 0x800000000000
  let hi := 0xC00000000000
  if n = 0 then none
  else if inside then (if va < hi ∧ lo < va + n then some (Nat.max va lo) else none)
  else if va < lo ∨ hi ≤ va then some va else if hi < va + n then some hi else none

/-- The check of a completion word, with the translations held for it. -/
inductive WordChk where
  | ok (h : Held)
  | bad (r : SlotRes)

/-- The translation of a completion word, which may lie in the windows of any die. -/
def transWord (p : State) (e : Env) (k : Right) (va n : Nat) : TrRange :=
  let ctx := (p.seat e.seat).ctx
  transPages (fun a => if paged a then p.seatTrans e.seat e.quad k a else p.look ctx k a) (pagesOf va n)

/-- The completion word of a transfer command: alignment, translation and rights by CMODE, and the descriptor of a
tile, of which only COUNT may be added to (R153, R154, R165). Under CMODE 0b11 W names no word, and none is checked
(DEDUCED, log 96). -/
def wordChk (p : State) (e : Env) (cmode : BitVec 2) (w : Nat) : WordChk :=
  let c := p.ctx (p.seat e.seat).ctx
  if cmode = 0#2 ∨ cmode = 3#2 then .ok []
  else if w % 8 ≠ 0 then .bad (faultVa 0x08 w)
  else if cmode = 1#2 then
    match transWord p e .red w 8 with
    | .ok h => if c.onTile w 8 && !c.onCount w then .bad (faultVa 0x21 w) else .ok h
    | r => .bad (spanBad p e r)
  else
    match transWord p e .atom w 16 with
    | .ok h => if c.onTile w 16 then .bad (faultVa 0x21 w) else .ok h
    | r => .bad (spanBad p e r)

/-- The check of the regions of a copy (R153). -/
def regionFault (p : State) (t : Trans) : Option (Nat × W64) :=
  let src := t.src.toNat
  let dst := t.dst.toNat
  let bad (c : Nat) (a : Option Nat) : Option (Nat × W64) := a.map fun va => (c, BitVec.ofNat 64 va)
  match t.k with
  | .copy => bad 0x21 ((firstIn true src t.len).or (firstIn true dst t.len))
  | .copyh false => bad 0x21 ((firstIn false src t.len).or (firstIn true dst t.len))
  | .copyh true => bad 0x21 ((firstIn true src t.len).or (firstIn false dst t.len))
  | .mcast m =>
    let o := dst - windowBase t.home
    let fits (q : Nat) : Bool := decide (o + t.len ≤ (p.ctx t.ctx).spLen q)
    if dst < windowBase t.home ∨ 0x400000 < o + t.len ∨ (targetsOf t.home m).all fits = false then some (0x45, BitVec.ofNat 64 dst) else none
  | _ => none

/-- The wait of an engine command for the check of the tags of its `n` scratchpad source sectors: one cycle for each 64 of them
(R152), counted from the first attempt at which the checks before it pass. The rule does not say what a last part of 64 costs: it
costs nothing (DESIGN CHOICE, log 94). -/
def tagWait (p : State) (e : Env) (n : Nat) : Option SlotRes :=
  let x := p.seat e.seat
  if n / 64 = 0 then none
  else
    match (p.core e.core).chks.find? fun c => c.seat == e.seat && c.pos == e.pos && c.pc == x.pc && c.rep == x.rep with
    | some c => if c.till ≤ e.start then none else some waits
    | none => some (.wait fun s => s.modCore e.core fun k =>
        { k with chks := ⟨e.seat, e.pos, x.pc, x.rep, e.start + n / 64⟩ :: k.chks.filter fun c => !(c.seat == e.seat && c.pos == e.pos) })

/-- A transfer command enters the queue of its quad. -/
def State.enqueue (s : State) (t : Trans) : State := s.modQuad t.home fun q => { q with trans := q.trans ++ [t] }

/-- The rest of the issue of a transfer command, after its index list: the checks of R153 in their order. -/
def transferRes (p : State) (e : Env) (k : TKind) (src dst len rb : Nat) (idx : List Nat) (ssw dsw : BitVec 3) (x : Xfer) : SlotRes :=
  let st := p.seat e.seat
  let w := p.sreg e x.cw
  match wordChk p e x.cmode (addrOf w).toNat with
  | .bad r => r
  | .ok h =>
    let t := newTrans p.nextId st.carr st.ctx e.seat e.quad e.syl e.ext k src dst len rb idx ssw dsw x.cmode w h false
    match regionFault p t with
    | some (c, va) => .fault c va
    | none =>
      match tagWait p e (p.srcSecs t), p.tagFault t with
      | some r, _ => r
      | none, some a => faultVa 0x44 a
      | none, none =>
        if 32 ≤ (p.quad e.quad).trans.length then waits
        else okAct fun s =>
          let (id, s) := s.freshId
          s.enqueue { t with id := id }

/-- The checks that come first: UIVEC for an interrupt, and the length (R153). -/
def firstChk (p : State) (e : Env) (rows : Bool) (n : Nat) (x : Xfer) : Option SlotRes :=
  if x.cmode = 3#2 ∧ fld (p.seat e.seat).uivec 47 2 = 0 then some (fault0 0x02)
  else if 2 ^ 40 ≤ n ∨ (rows = true ∧ n = 0 ∧ x.cmode = 0#2) then some (faultFree p 0x45)
  else none

/-- COPY, COPYH and MCAST. -/
def copyRes (k : TKind) (a b c : Reg) (ssw : BitVec 3) (x : Xfer) : Eval := fun p _ e =>
  let n := (p.sreg e a).toNat
  match firstChk p e false n x with
  | some r => r
  | none => transferRes p e k (baseAt p e c) (baseAt p e b) n 0 [] ssw x.swz x

/-- What the read of an index list answers. -/
inductive IdxRead where
  | ok (l : List Nat)
  | bad (r : SlotRes)

/-- Reads an index list of `n` entries at issue (R162): it lies in scratchpad, and the read comes after every
earlier event of the seat (R175). -/
def readIdx (p : State) (e : Env) (va n : Nat) : IdxRead :=
  let st := p.seat e.seat
  let ctx := st.ctx
  if n = 0 then .ok []
  else if 2 ^ 27 < n then .bad (faultVa 0x21 va)
  else
    match (natsFrom va (4 * n)).find? fun a => !p.padVa ctx (a % 2 ^ 48) with
    | some a => .bad (faultVa 0x21 (a % 2 ^ 48))
    | none =>
      let loc (a : Nat) : Nat := match windowOf (a % 2 ^ 48) with
        | some (q, o) => spKey ctx q o
        | none => 0
      let rs := (nats n).map fun k => (loc (va + 4 * k), 4)
      if (p.accs.any fun a => a.ctx == ctx && a.carr == st.carr) || !(p.pushesOf ctx st.carr).isEmpty
          || !(p.hcwldOf ctx st.carr).isEmpty then .bad waits
      else if p.expo e.core e.start rs = .late then .bad .freeze
      else
        match p.gatherBad loc va (4 * n) with
        | some a => .bad (faultVa 0x70 a)
        | none => .ok ((nats n).map fun k => ofBytesLE (p.gather loc (va + 4 * k) 4))

/-- GLD and SCT: `table` is the register of the table base, `rows` of the dense rows. -/
def gatherRes (k : TKind) (a c table rows : Reg) (x : Xfer) : Eval := fun p _ e =>
  let n := (p.sreg e a).toNat
  match firstChk p e true n x with
  | some r => r
  | none =>
    match readIdx p e (baseAt p e c) n with
    | .bad r => r
    | .ok idx =>
      let tb := (addrOf (p.sreg e table)).toNat
      let rw := baseAt p e rows
      match k with
      | .gld => transferRes p e .gld tb rw n x.form.toNat idx 0 x.swz x
      | _ => transferRes p e .sct rw tb n x.form.toNat idx x.swz 0 x

/-- COPY: within device memory. -/
def evalCopy (a b c : Reg) (ssw : BitVec 3) (x : Xfer) : Eval := copyRes .copy a b c ssw x
/-- COPY issued on its own. -/
def execCopy (a b c : Reg) (ssw : BitVec 3) (x : Xfer) (s : State) : Host.Outcome State Fault Refusal :=
  solo (.copy a b c ssw x) (evalCopy a b c ssw x) s

/-- COPYH: between host memory and device memory. -/
def evalCopyh (a b c : Reg) (out : Bool) (ssw : BitVec 3) (x : Xfer) : Eval := copyRes (.copyh out) a b c ssw x
/-- COPYH issued on its own. -/
def execCopyh (a b c : Reg) (out : Bool) (ssw : BitVec 3) (x : Xfer) (s : State) : Host.Outcome State Fault Refusal :=
  solo (.copyh a b c out ssw x) (evalCopyh a b c out ssw x) s

/-- MCAST: to the scratchpads of the quads that QMASK names. -/
def evalMcast (a b c : Reg) (ssw : BitVec 3) (x : Xfer) : Eval := copyRes (.mcast (x.form.setWidth 15)) a b c ssw x
/-- MCAST issued on its own. -/
def execMcast (a b c : Reg) (ssw : BitVec 3) (x : Xfer) (s : State) : Host.Outcome State Fault Refusal :=
  solo (.mcast a b c ssw x) (evalMcast a b c ssw x) s

/-- GLD: gathers rows of a table. -/
def evalGld (a b c f : Reg) (x : Xfer) : Eval := gatherRes .gld a c f b x
/-- GLD issued on its own. -/
def execGld (a b c f : Reg) (x : Xfer) (s : State) : Host.Outcome State Fault Refusal := solo (.gld a b c f x) (evalGld a b c f x) s

/-- SCT: scatters rows into a table. -/
def evalSct (a b c f : Reg) (x : Xfer) : Eval := gatherRes .sct a c b f x
/-- SCT issued on its own. -/
def execSct (a b c f : Reg) (x : Xfer) (s : State) : Host.Outcome State Fault Refusal := solo (.sct a b c f x) (evalSct a b c f x) s

/-! ## Sectors -/

/-- The place of a byte for an engine, or why the sector cannot be moved now. -/
inductive EByte where
  | ok (p : PLoc)
  | wait (va : Nat)
  | fault (cause side va : Nat)

/-- A byte that a command reads. -/
def State.srcByte (s : State) (t : Trans) (sec va : Nat) : EByte :=
  let a := swzAddr t.ssw.toNat va
  match s.unitTrans t.ctx t.home .rd a (.sector t.id sec) with
  | .fault c => .fault c 0 (va / 2 ^ 16 * 2 ^ 16)
  | .walk _ _ => .wait va
  | .hold => .wait va
  | .ok p => if s.bad (s.front t.ctx p / 64) then .fault 0x70 0 (a / 64 * 64) else .ok p

/-- A byte that a command writes; it may not lie in a tile's descriptor (R165). -/
def State.dstByte (s : State) (t : Trans) (sec va : Nat) : EByte :=
  match s.unitTrans t.ctx t.home .wr (swzAddr t.dsw.toNat va) (.sector t.id sec) with
  | .fault c => .fault c 1 (va / 2 ^ 16 * 2 ^ 16)
  | .walk _ _ => .wait va
  | .hold => .wait va
  | .ok p => if (s.ctx t.ctx).onTile va 1 then .fault 0x21 1 (va / 2 ^ 16 * 2 ^ 16) else .ok p

/-- What a sector comes to: the bytes it reads and the places it writes; a wait; or its first failure. -/
inductive SecRes where
  | ok (data : List Byte)
  | wait (va : Nat)
  | fault (cause side va : Nat)

/-- Reads the bytes of a sector. -/
def State.secRead (s : State) (t : Trans) (sec : Nat) : List Nat → List Byte → SecRes
  | [], l => .ok l.reverse
  | o :: os, l =>
    match t.srcVa o with
    | none => s.secRead t sec os (0 :: l)
    | some va =>
      match s.srcByte t sec va with
      | .ok p => s.secRead t sec os (s.rdByte (s.front t.ctx p) :: l)
      | .wait va => .wait va
      | .fault c d va => .fault c d va

/-- Checks the places that a sector writes. -/
def State.secCheck (s : State) (t : Trans) (sec i : Nat) (data : List Byte) : List Nat → SecRes
  | [] => .ok data
  | o :: os =>
    match t.dstVa i o with
    | none => s.secCheck t sec i data os
    | some va =>
      match s.dstByte t sec va with
      | .ok _ => s.secCheck t sec i data os
      | .wait va => .wait va
      | .fault c d va => .fault c d va

/-- What a sector comes to: the source side is checked first (R359). -/
def State.secTry (s : State) (t : Trans) (sec : Nat) : SecRes :=
  let (i, os) := t.secBytes sec
  match s.secRead t sec os [] with
  | .ok l => s.secCheck t sec i l os
  | r => r

/-- The location that a byte of a command is written to: the shadow copy of a publishable buffer (R180). -/
def State.engineLoc (s : State) (t : Trans) (va : Nat) : Nat :=
  match s.look t.ctx .wr (swzAddr t.dsw.toNat va) with
  | .ok p => s.shadow t.ctx p
  | _ => 0

/-- Runs of consecutive addresses in a list of bytes. -/
def runsOf : List (Nat × Byte) → List (Nat × List Byte)
  | [] => []
  | (va, b) :: l =>
    match runsOf l with
    | (va', bs) :: rs => if va' = va + 1 then (va, b :: bs) :: rs else (va, [b]) :: (va', bs) :: rs
    | [] => [(va, [b])]

/-- Sets the tags of the scratchpad sectors that a command writes with its swizzle and covers (R151, R152). -/
def State.secTags (s : State) (t : Trans) (i : Nat) (vas : List Nat) : State :=
  ((vas.map fun va => va / 256 * 256).eraseDups).foldl (fun s a =>
    if s.padVa t.ctx a && t.covers i a then { s with tags := SMap.set 0 s.tags (s.engineLoc t a / 256) t.dsw.toNat } else s) s

/-- The bytes that COPYH.in reads are logged in record mode, and compared in a replay (R379). -/
def State.logSector (s : State) (t : Trans) (sec : Nat) (l : List Byte) : State :=
  if t.k = .copyh false then s.hostLog t.ctx 3 (BitVec.ofNat 64 ((t.src.toNat + 256 * sec) % 2 ^ 48)) (BitVec.ofNat 64 l.length) (digestWords l) else s

/-- The bytes of a sector that have a place: their offset, their address and their value. -/
def Trans.placed (t : Trans) (sec : Nat) (data : List Byte) : List (Nat × Nat × Byte) :=
  ((t.secBytes sec).2.zip data).filterMap fun x => (t.dstVa (t.secBytes sec).1 x.1).map fun va => (x.1, va, x.2)

/-- The bytes that the write of a sector leaves in memory, by address: of the entries of a SCT that name one row, those of the
highest (R162). -/
def State.secKept (s : State) (t : Trans) (sec : Nat) (data : List Byte) : List (Nat × Byte) :=
  let stands (o : Nat) : Bool := !((t.twins o true).any fun o' => s.secDone t (o' / 256) || o' / 256 == sec)
  ((t.placed sec data).filter fun x => stands x.1).map Prod.snd

/-- Writes a sector (R359). -/
def State.secWrite (s : State) (t : Trans) (sec : Nat) (data : List Byte) : State :=
  let kept := s.secKept t sec data
  let s := s.secTags t (t.secBytes sec).1 (kept.map Prod.fst)
  let s := (runsOf kept).foldl (fun s r => s.applyPieces (pieces (s.engineLoc t) r.1 r.2)) s
  s.modQuad t.home fun q => { q with trans := q.trans.map fun y =>
    if y.id = t.id then { y with todo := dropSec sec y.todo, written := y.written + (t.placed sec data).length } else y }

/-- A record of the command for the same page and side, with room for one more sector (R359). -/
def recFits (t : Trans) (cause side va : Nat) (k : Nat) (f : FRec) : Bool :=
  f.src == 1 && f.tid == t.id && f.cause == cause && f.side == side && f.va.toNat == va && !f.sent
    && decide (Nat.max k (f.secs.foldl (fun m x => Nat.max m (x % t.nsec)) 0) < Nat.min k f.first + 256)

/-- A faulting sector goes into a record of the die's fault queue, or waits while the queue is full (R359). -/
def State.secFault (s : State) (t : Trans) (sec cause side va : Nat) : State :=
  let d := t.home / 28
  let k := sec % t.nsec
  let gone (s : State) : State := s.modQuad t.home fun q =>
    { q with trans := q.trans.map fun y => if y.id = t.id then { y with todo := dropSec sec y.todo, stopped := false } else y }
  match (s.die d).faults.find? (recFits t cause side va k) with
  | some r =>
    gone (s.modDie d fun x => { x with faults := x.faults.map fun f =>
      if f.rid = r.rid then { f with secs := f.secs ++ [sec], first := Nat.min k f.first } else f })
  | none =>
    if 1024 ≤ (s.die d).faults.length then s
    else gone (s.addFault d
      { rid := 0, ctx := t.ctx, cause := cause, src := 1, side := side, hold := false, va := BitVec.ofNat 48 va,
        carr := BitVec.ofNat 48 t.carr, chip := 0, first := k, secs := [sec], tid := t.id, sent := false })

/-- A transfer command by its number. -/
def State.trans? (s : State) (id : Nat) : Option Trans := s.quads.findSome? fun q => q.2.trans.find? fun t => t.id == id

/-- A transfer command may move bytes: every earlier event of its seat is performed (R179). -/
def State.transReady (s : State) (t : Trans) : Bool :=
  t.fired ||
    (!(s.accs.any fun a => a.ctx == t.ctx && a.carr == t.carr && decide (a.id < t.id))
      && !((s.pushesOf t.ctx t.carr).any fun p => decide (p.id < t.id))
      && !((s.hcwldOf t.ctx t.carr).any fun w => decide (w.id < t.id)))

/-- A sector of a SCT comes after the sectors of earlier entries that name one of its rows (R162). -/
def Trans.inOrder (t : Trans) (sec : Nat) : Bool :=
  (t.secBytes sec).2.all fun o => (t.twins o false).all fun o' => o' / 256 == sec || !t.isTodo (o' / 256)

/-- TRANSFER_SECTOR_WRITE (R359). -/
def execTransferSectorWrite (id sector : Nat) (s : State) : Host.Outcome State Fault Refusal :=
  .next (match s.trans? id with
    | some t =>
      if t.isTodo sector && s.transReady t && t.inOrder sector then
        match s.secTry t sector with
        | .ok l => (s.logSector t sector l).secWrite t sector l
        | .wait va => s.unitHold t.ctx t.home va (.sector t.id sector)
        | .fault c side va => s.secFault t sector c side va
      else s
    | none => s)

/-! ## Completion (R154, R155) -/

/-- A user-level interrupt signal for the carriage of a command; none while it has to wait (R155). -/
def State.signalUi (s : State) (t : Trans) (cause : Nat) : Option State :=
  match s.seatOf t.ctx t.carr with
  | none => if (s.recOf t.ctx t.carr).isSome then none else some s
  | some i =>
    let x := s.seat i
    if x.st = .draining then some s
    else if x.st ≠ .occupied ∨ 16 ≤ x.uis.length then none
    else some (s.setSeat i { x with uis := x.uis ++ [⟨BitVec.ofNat 8 cause, t.w, BitVec.ofNat 48 t.written⟩] })

/-- Changes a transfer command. -/
def State.modTrans (s : State) (t : Trans) (f : Trans → Trans) : State :=
  s.modQuad t.home fun q => { q with trans := q.trans.map fun y => if y.id = t.id then f y else y }

/-- The bytes written since the last instalment are added to the counter word (R154). -/
def State.addPart (s : State) (t : Trans) : State :=
  match s.wordOf t 0 with
  | some k => if t.written = t.counted ∧ t.written ≠ 0 then s
    else ((s.keyLog t.ctx k (agentQuad t.home)).addCount k (t.written - t.counted)).modTrans t fun y => { y with counted := t.written }
  | none => s

/-- The report word of a barrier completion (R154). -/
def State.putReport (s : State) (t : Trans) (fault : Bool) : State :=
  match s.wordOf t 8 with
  | some k => s.applyWord k (BitVec.ofNat 64 ((if fault then 2 ^ 63 else 0) + t.written % 2 ^ 48))
  | none => s

/-- The signal of a command to its word may be applied now: in a replay, it is the turn of its quad's engine (R380). -/
def State.signalTurn (s : State) (t : Trans) : Bool :=
  match s.wordOf t 0 with
  | some k => s.keyTurn t.ctx k (agentQuad t.home)
  | none => true

/-- The signal of a fault-stop; none while it has to wait. -/
def State.stopSignal (s : State) (t : Trans) : Option State :=
  if t.cmode = 1#2 then (if s.signalTurn t then some (s.addPart t) else none)
  else if t.cmode = 2#2 then some (s.putReport t true)
  else if t.cmode = 3#2 then s.signalUi t 2
  else some s

/-- TRANSFER_FAULT_STOP: every sector that has not faulted is written, and some have faulted (R154). -/
def execTransferFaultStop (id : Nat) (s : State) : Host.Outcome State Fault Refusal :=
  .next (match s.trans? id with
    | some t =>
      if t.todo.isEmpty && !(s.recsOf t).isEmpty && !t.stopped then
        match s.stopSignal t with
        | some s => s.modTrans t fun y => { y with stopped := true }
        | none => s
      else s
    | none => s)

/-- The signal of a completion, or of a command that RESOLVE has abandoned in part (R361); none while it waits. -/
def State.endSignal (s : State) (t : Trans) : Option State :=
  match t.aband with
  | some c => if t.cmode = 3#2 then s.signalUi t 2 else some (s.releaseTrans t c 2)
  | none =>
    if t.cmode = 1#2 ∨ t.cmode = 2#2 then
      if !s.signalTurn t then none
      else if t.cmode = 1#2 then some (s.addPart t)
      else
      let s := s.putReport t false
      match s.wordOf t 0 with
      | some k => some ((s.keyLog t.ctx k (agentQuad t.home)).arriveCompletion k)
      | none => some s
    else if t.cmode = 3#2 then s.signalUi t 1
    else some s

/-- TRANSFER_COMPLETION: no sector is left, neither to be tried nor in a record (R154). -/
def execTransferCompletion (id : Nat) (s : State) : Host.Outcome State Fault Refusal :=
  .next (match s.trans? id with
    | some t =>
      if t.todo.isEmpty && (s.recsOf t).isEmpty && s.transReady t then
        match s.endSignal t with
        | some s => s.modQuad t.home fun q => { q with trans := q.trans.filter fun y => y.id != t.id }
        | none => s
      else s
    | none => s)

end Sys2Proof.Machine
end

