-- ==== Sys2Proof/Machine/Matrix.lean ====
section
/-!
DEFINITION. The M forms of the leases and the matrix array (R191 to R223): their checks at issue, the lease and its
arbitration, and the execution of commands in the array.
-/

namespace Sys2Proof.Machine

/-! ## The start of every M form (R199, R207) -/

/-- Steps 1 to 3 of R207: `ill` is what makes the syllable illegal; the lease; the resources that are not allocated. -/
def mStart (p : State) (e : Env) (ill : Bool) (rs : List Nat) : Option SlotRes :=
  let x := p.seat e.seat
  if ill || x.lease.st == .idle then some (fault0 0x02)
  else if x.lease.st == .requested then some waits
  else
    match rs.find? fun r => !(p.arr e.quad).has x.cid r with
    | some r => some (.fault 0x21 (BitVec.ofNat 64 (2 ^ 62 + r)))
    | none => none

/-- The codes of hoops, planes and metadata registers (R197). -/
def resPlane (z : Nat) : Nat := 0x10 + z
/-- The code of a metadata register. -/
def resMd (m : Nat) : Nat := 0x20 + m
/-- The code of a permutation register. -/
def resPm (m : Nat) : Nat := 0x30 + m

/-- A command enters the queue of an array; one that waits for no data begins at once if it is alone there (R204). -/
def State.mEnqueue (s : State) (quad : Nat) (c : MCmd) : State :=
  let now := s.arrCycle quad
  s.modArr quad fun a =>
    if a.q.isEmpty ∧ c.k.awaits = false then { a with q := [{ c with begun := true }], busyTo := now + c.k.cycles } else { a with q := a.q ++ [c] }

/-- An M command has been issued by a seat that holds a run: its idle limit counts anew (R199). -/
def Lease.issued (l : Lease) (cyc : Nat) : Lease := if l.st = .held ∨ l.st = .expiring then { l with lastCmd := cyc } else l

/-- The commit of an accepted command: `tags` is what it does to the tags at once, `s1` what it does beside
(R198, R199, R204). It waits while the queue is full. -/
def mCommit (p : State) (e : Env) (k : MKind) (refs : Held) (tags : Arr → Arr) (s1 : Nat → State → State) : SlotRes :=
  let x := p.seat e.seat
  if 16 ≤ (p.arr e.quad).q.length then waits
  else okAct fun s =>
    let (id, s) := s.freshId
    let s := (s1 id s).modArr e.quad tags
    (s.mEnqueue e.quad ⟨id, x.carr, x.ctx, e.seat, e.syl, e.ext, k, refs, false⟩).countCmd e.seat e.cyc

/-- Nothing beside the tags. -/
def noMore (_ : Nat) (s : State) : State := s

/-! ## Operands in memory (R207) -/

/-- What the checks of ranges answer: the translations held for them, or why the issue does not commit. -/
inductive Rng where
  | ok (h : Held)
  | bad (r : SlotRes)

/-- The first byte of a range that lies in a tile's descriptor (R165). -/
def tileFirst (p : State) (e : Env) (va n : Nat) : Option Nat :=
  let c := p.ctx (p.seat e.seat).ctx
  if n = 0 then none else (va :: secsOf va n).find? fun a => decide (va ≤ a) && c.onTile a 1

/-- Translates a range that a command reads or writes; nothing but COUNT of a tile's descriptor is an engine's to write (R165). -/
def opSpan (p : State) (e : Env) (wr : Bool) (va n : Nat) : Rng :=
  match (if wr then tileFirst p e va n else none) with
  | none =>
    match trSpan p e (if wr then .wr else .rd) va n with
    | .ok h => .ok h
    | r => .bad (spanBad p e r)
  | some a =>
    match trSpan p e .wr va (a - va) with
    | .ok _ => .bad (faultVa 0x21 a)
    | r => .bad (spanBad p e r)

/-- Translates ranges in order, each with its length. -/
def opSpans (p : State) (e : Env) (wr : Bool) : List (Nat × Nat) → Rng
  | [] => .ok []
  | (va, n) :: l =>
    match opSpan p e wr va n with
    | .ok h =>
      match opSpans p e wr l with
      | .ok h' => .ok (h ++ h'.filter fun x => !h.any fun y => y.1 == x.1)
      | r => r
    | r => r

/-- An operand of a command in memory: whether it is written, its swizzle unless its sectors are not checked, its ranges, and
whether it has to lie in scratchpad or HBM (R152, R207, R221). -/
structure MOp where
  wr    : Bool
  swz   : Option Nat
  spans : List (Nat × Nat)
  dev   : Bool := false
  deriving DecidableEq, Repr

/-- The first page of a translated range that lies in host memory. -/
def hostPage (h : Held) : Option Nat := (h.find? fun x => !isSpad x.2.key && decide (hostBase ≤ x.2.key)).map Prod.fst

/-- Translates an operand. -/
def MOp.held (p : State) (e : Env) (o : MOp) : Rng :=
  match opSpans p e o.wr o.spans with
  | .bad r => .bad r
  | .ok h =>
    match (if o.dev then hostPage h else none) with
    | some g => .bad (faultVa 0x21 (Nat.max (g * 65536) ((o.spans.map Prod.fst).headD 0)))
    | none => .ok h

/-- The lowest sector of an operand with a wrong swizzle tag (R152). -/
def MOp.mismatch (p : State) (ctx : Nat) (o : MOp) : Option Nat :=
  match o.swz with
  | none => none
  | some z =>
    if o.wr then p.writeMismatch ctx z o.spans else least (o.spans.filterMap fun r => p.readMismatch ctx z r.1 r.2)

/-- The scratchpad source sectors of an operand whose tags are checked. -/
def MOp.srcSecs (p : State) (ctx : Nat) (o : MOp) : Nat :=
  if o.wr || o.swz.isNone then 0 else o.spans.foldl (fun n r => n + p.padSecs ctx r.1 r.2) 0

/-- What the checks of operands answer: the translations of each, or why the issue does not commit. -/
inductive MemChk where
  | ok (l : List Held)
  | bad (r : SlotRes)

/-- Translates operands in order. -/
def opsHeld (p : State) (e : Env) : List MOp → MemChk
  | [] => .ok []
  | o :: l =>
    match o.held p e with
    | .bad r => .bad r
    | .ok h =>
      match opsHeld p e l with
      | .ok hs => .ok (h :: hs)
      | r => r

/-- Step 6 of R207: every operand is translated, then the swizzle tags of all are checked, the lowest sector first. -/
def memChk (p : State) (e : Env) (ops : List MOp) : MemChk :=
  let ctx := (p.seat e.seat).ctx
  match opsHeld p e ops with
  | .bad r => .bad r
  | .ok hs =>
    match tagWait p e (ops.foldl (fun n o => n + o.srcSecs p ctx) 0), least (ops.filterMap (MOp.mismatch p ctx)) with
    | some r, _ => .bad r
    | none, some a => .bad (faultVa 0x44 a)
    | none, none => .ok hs

/-! ## Tiles from streams (R194) -/

/-- The stream of a tile at issue. -/
def tileStream (p : State) (e : Env) (sq : Nat) : Stream := { (p.seat e.seat).sq sq with fetched := [], pushed := [] }

/-- The checks of a stream that a command takes a tile from, or gives one to, but for the number of its elements. -/
def tileFmtBad (q : Stream) (dir : BitVec 2) (cols : Nat) : Bool :=
  q.be || q.st == .idle || q.st == .cancelled || q.dir != dir || q.rows == 0#16 || decide (128 < q.rows.toNat) || q.cols.toNat != cols

/-- Too few elements remain. -/
def tileShort (q : Stream) : Bool := decide (q.total < q.pos.toNat + q.rows.toNat * q.cols.toNat)

/-- The operands that a tile that is read stands for: its elements, and its scale bytes, `n` for each row, as placed. -/
def tileOps (q : Stream) (n : Nat) : List MOp :=
  let t : Tile := ⟨q, [], 0⟩
  [⟨false, some q.swz.toNat, t.allSpans, false⟩,
   ⟨false, none, if q.sstride = 0 then [] else (nats t.rows).map fun r => (t.scaleAt r, n), false⟩]

/-- The stream advances past the tile at the commit (R194). -/
def Stream.pastTile (q : Stream) : Stream :=
  let n := q.pos.toNat + q.rows.toNat * q.cols.toNat
  { q with pos := BitVec.ofNat 48 n, st := (if n = q.total then .exhausted else q.st), fetched := q.fetched.drop (q.rows.toNat * q.cols.toNat) }

/-- Advances the listed streams of the seat. -/
def passTiles (e : Env) (l : List Nat) (_ : Nat) (s : State) : State := l.foldl (fun s i => s.modSq e.seat i Stream.pastTile) s

/-! ## Source selectors (R193) -/

/-- An A operand. -/
inductive Sel where
  | hoop (h : Nat)
  | stream (sq : Nat)
  | plane (z : Nat)
  deriving DecidableEq, Repr

/-- The operand that a selector names. -/
def selOf (sel : BitVec 6) : Sel :=
  if selStream sel then .stream (sel.toNat % 16) else if selPlane sel then .plane (sel.toNat % 4) else .hoop (sel.toNat % 4)

/-- The resources that an operand needs. -/
def Sel.res : Sel → List Nat
  | .hoop h => [h]
  | .stream _ => []
  | .plane z => [resPlane z]

/-- The stepped K-step (R206, R215). -/
def stepK (e : Env) (c : BitVec 6) : Nat := (c.toNat + e.delta.toNat) % 2 ^ 48

/-- The segment of a metadata register, stepped (R217, R219). -/
def stepSeg (e : Env) (seg : BitVec 2) (g8 : Bool) : Nat := (seg.toNat + e.delta.toNat) % (if g8 then 2 else 4)

/-! ## MMA and MMAS (R215 to R218) -/

/-- What an A operand is: its format, whether it is scaled, and the checks of steps 4 and 5 that it fails. -/
structure AInfo where
  fmt    : Nat
  scaled : Bool
  bad4   : Bool
  bad5   : Bool

/-- The A operand of a product whose streams have `cols` columns. -/
def aInfo (p : State) (e : Env) (a : Sel) (c fc cols : Nat) : AInfo :=
  let ar := p.arr e.quad
  match a with
  | .hoop h =>
    let f := SMap.get 0 ar.hf h
    ⟨f, SMap.get false ar.hs h, false, decide (hoopSteps f ≤ c)⟩
  | .stream sq =>
    let q := tileStream p e sq
    ⟨q.fmt.toNat, q.sstride != 0, tileFmtBad q 0#2 cols, tileShort q⟩
  | .plane _ => ⟨fc, false, false, decide (8 ≤ c)⟩

/-- The operands in memory of the A operand. -/
def Sel.ops (p : State) (e : Env) (a : Sel) (scn : Nat) : List MOp :=
  match a with
  | .stream sq => tileOps (tileStream p e sq) scn
  | _ => []

/-- The A operand of the command; the type of a plane is its tag at issue (R198). -/
def aSrc (p : State) (e : Env) (a : Sel) (h : Held) : MSrc :=
  match a with
  | .hoop n => .hoop n
  | .plane z => .plane z (SMap.get false (p.arr e.quad).zt z)
  | .stream sq => .tile ⟨tileStream p e sq, h, sq⟩

/-- The streams of a product. -/
def Sel.streams (a : Sel) : List Nat :=
  match a with
  | .stream sq => [sq]
  | _ => []

/-- A product: MMA, or MMAS with its metadata. `mk` makes the command of A, its scaling, B and the type. -/
def productRes (p : State) (e : Env) (zd sb : Nat) (a : Sel) (c fc colsA colsB scn : Nat) (rs : List Nat)
    (mk : MSrc → Nat → Bool → Tile → Bool → MKind) : SlotRes :=
  match mStart p e false ([resPlane zd] ++ a.res ++ rs) with
  | some r => r
  | none =>
    let ai := aInfo p e a c fc colsA
    let qb := tileStream p e sb
    let int := fmtInt ai.fmt && fmtInt qb.fmt.toNat && !ai.scaled && qb.sstride == 0
    if ai.bad4 || tileFmtBad qb 0#2 colsB || a.streams.contains sb || SMap.get false (p.arr e.quad).zt zd != int then fault0 0x40
    else if ai.bad5 || tileShort qb then faultFree p 0x45
    else
      match memChk p e (a.ops p e scn ++ tileOps qb scn) with
      | .bad r => r
      | .ok hs =>
        let k := (a.ops p e scn).length
        let ha := (hs.take k).flatten
        let hb := (hs.drop k).flatten
        mCommit p e (mk (aSrc p e a ha) ai.fmt ai.scaled ⟨qb, hb, sb⟩ int) hs.flatten (fun x => x.opens zd) (passTiles e (a.streams ++ [sb]))

/-- MMA: one K-step of 16 into plane Zd. -/
def evalMma (zd : BitVec 2) (sb : BitVec 4) (sel : BitVec 6) (c : BitVec 6) (fc : BitVec 4) : Eval := fun p _ e =>
  let a := selOf sel
  let k := stepK e c
  productRes p e zd.toNat sb.toNat a k fc.toNat 16 16 1 [] fun m fa sa bt int => .mma zd.toNat m k fa sa bt int (a == .plane zd.toNat)
/-- MMA issued on its own. -/
def execMma (zd : BitVec 2) (sb : BitVec 4) (sel : BitVec 6) (c : BitVec 6) (fc : BitVec 4) (s : State) : Host.Outcome State Fault Refusal :=
  solo (.mma zd sb sel c fc) (evalMma zd sb sel c fc) s

/-- MMAS: 32 dense positions into plane Zd, A compressed. -/
def evalMmas (zd : BitVec 2) (sb : BitVec 4) (sel : BitVec 6) (c : BitVec 6) (md : BitVec 3) (seg : BitVec 2) (g8 : Bool) : Eval := fun p _ e =>
  let k := stepK e c
  productRes p e zd.toNat sb.toNat (selOf sel) k 0 16 32 2 [resMd md.toNat] fun m fa sa bt int =>
    .mmas zd.toNat m k fa sa bt int md.toNat (stepSeg e seg g8) g8
/-- MMAS issued on its own. -/
def execMmas (zd : BitVec 2) (sb : BitVec 4) (sel : BitVec 6) (c : BitVec 6) (md : BitVec 3) (seg : BitVec 2) (g8 : Bool) (s : State) :
    Host.Outcome State Fault Refusal := solo (.mmas zd sb sel c md seg g8) (evalMmas zd sb sel c md seg g8) s

/-! ## CMPR (R219) -/

/-- The operand in memory of an out stream that a tile is written to. -/
def Sel.outOps (p : State) (e : Env) (d : Sel) : List MOp :=
  match d with
  | .stream sq =>
    let q := tileStream p e sq
    [⟨true, some q.swz.toNat, Tile.allSpans ⟨q, [], sq⟩, false⟩]
  | _ => []

/-- The tags of the destination hoop of a CMPR. -/
def cmprTags (d : Sel) (fmt : Nat) (sc : Bool) (x : Arr) : Arr :=
  match d with
  | .hoop h => { x with hf := SMap.set 0 x.hf h fmt, hs := SMap.set false x.hs h sc }
  | _ => x

/-- CMPR. -/
def evalCmpr (dsel sel : BitVec 6) (c : BitVec 6) (md : BitVec 3) (seg : BitVec 2) (g8 : Bool) : Eval := fun p _ e =>
  let d := selOf dsel
  let a := selOf sel
  let k := stepK e c
  match mStart p e false (d.res ++ a.res ++ [resMd md.toNat]) with
  | some r => r
  | none =>
    let ai : AInfo := match a with
      | .hoop h =>
        let f := SMap.get 0 (p.arr e.quad).hf h
        ⟨f, SMap.get false (p.arr e.quad).hs h, false, decide (hoopSteps f ≤ 2 * k + 1)⟩
      | _ => aInfo p e a 0 0 32
    let dBad4 : Bool := match d with
      | .stream sq =>
        let q := tileStream p e sq
        tileFmtBad q 1#2 16 || q.fmt.toNat != ai.fmt || ai.scaled || a.streams.contains sq
      | _ => false
    let dBad5 : Bool := match d with
      | .stream sq => tileShort (tileStream p e sq)
      | _ => decide (hoopSteps ai.fmt ≤ k)
    if ai.bad4 || dBad4 then fault0 0x40
    else if ai.bad5 || dBad5 then faultFree p 0x45
    else
      match memChk p e (a.ops p e 2 ++ d.outOps p e) with
      | .bad r => r
      | .ok hs =>
        let n := (a.ops p e 2).length
        mCommit p e (.cmpr (aSrc p e d (hs.drop n).flatten) (aSrc p e a (hs.take n).flatten) k ai.fmt ai.scaled md.toNat (stepSeg e seg g8) g8)
          hs.flatten (cmprTags d ai.fmt ai.scaled) (passTiles e (a.streams ++ d.streams))
/-- CMPR issued on its own. -/
def execCmpr (dsel sel : BitVec 6) (c : BitVec 6) (md : BitVec 3) (seg : BitVec 2) (g8 : Bool) (s : State) : Host.Outcome State Fault Refusal :=
  solo (.cmpr dsel sel c md seg g8) (evalCmpr dsel sel c md seg g8) s

/-! ## Planes and hoops (R211 to R214) -/

/-- MZERO (R211). -/
def evalMzero (z : BitVec 2) (i32 : Bool) : Eval := fun p _ e =>
  match mStart p e false [resPlane z.toNat] with
  | some r => r
  | none => mCommit p e (.mzero z.toNat) [] (fun x => { (x.close z.toNat) with zt := SMap.set false x.zt z.toNat i32 }) noMore
/-- MZERO issued on its own. -/
def execMzero (z : BitVec 2) (i32 : Bool) (s : State) : Host.Outcome State Fault Refusal := solo (.mzero z i32) (evalMzero z i32) s

/-- MTRANS (R212). -/
def evalMtrans (zd zs : BitVec 2) : Eval := fun p _ e =>
  match mStart p e false [resPlane zd.toNat, resPlane zs.toNat] with
  | some r => r
  | none =>
    let ar := p.arr e.quad
    if SMap.get false ar.zopen zs.toNat then fault0 0x02
    else mCommit p e (.mtrans zd.toNat zs.toNat) []
      (fun x => { (x.close zd.toNat) with zt := SMap.set false x.zt zd.toNat (SMap.get false ar.zt zs.toNat) }) noMore
/-- MTRANS issued on its own. -/
def execMtrans (zd zs : BitVec 2) (s : State) : Host.Outcome State Fault Refusal := solo (.mtrans zd zs) (evalMtrans zd zs) s

/-- The tags of a hoop that is loaded. -/
def hoopTags (h fmt : Nat) (sc : Bool) (x : Arr) : Arr := { x with hf := SMap.set 0 x.hf h fmt, hs := SMap.set false x.hs h sc }

/-- HLDC (R214). -/
def evalHldc (fmt : BitVec 4) (h : BitVec 2) (n : BitVec 2) : Eval := fun p _ e =>
  match mStart p e false [h.toNat] with
  | some r => r
  | none =>
    if !fmtOk fmt.toNat || fmt.toNat == 9 || fmt.toNat == 11 then fault0 0x40
    else mCommit p e (.hldc h.toNat fmt.toNat (16 * 2 ^ n.toNat)) [] (hoopTags h.toNat fmt.toNat false) noMore
/-- HLDC issued on its own. -/
def execHldc (fmt : BitVec 4) (h : BitVec 2) (n : BitVec 2) (s : State) : Host.Outcome State Fault Refusal := solo (.hldc fmt h n) (evalHldc fmt h n) s

/-- HLD (R213). -/
def evalHld (fmt : BitVec 4) (h : BitVec 2) (b c : Reg) (swz : BitVec 3) (sx : Reg) (off : BitVec 16) : Eval := fun p _ e =>
  match mStart p e false [h.toNat] with
  | some r => r
  | none =>
    let va := baseOff p e b off
    let pitch := (p.sreg e c).toNat
    let sv := addrOf (p.sreg e sx)
    let rows := (nats 128).map fun r => ((va + r * pitch) % 2 ^ 48, 256)
    if !fmtOk fmt.toNat || (sx != 0#6 && decide (fmt.toNat ≤ 2)) then fault0 0x40
    else if va % 16 ≠ 0 ∨ pitch % 16 ≠ 0 then faultVa 0x08 va
    else
      match memChk p e [⟨false, some swz.toNat, rows, false⟩, ⟨false, none, if sx = 0#6 then [] else [(sv.toNat, 8192)], false⟩] with
      | .bad r => r
      | .ok hs =>
        mCommit p e (.hld h.toNat fmt.toNat (BitVec.ofNat 48 va) (BitVec.ofNat 48 pitch) swz.toNat (if sx = 0#6 then none else some sv))
          hs.flatten (hoopTags h.toNat fmt.toNat (sx != 0#6)) noMore
/-- HLD issued on its own. -/
def execHld (fmt : BitVec 4) (h : BitVec 2) (b c : Reg) (swz : BitVec 3) (sx : Reg) (off : BitVec 16) (s : State) : Host.Outcome State Fault Refusal :=
  solo (.hld fmt h b c swz sx off) (evalHld fmt h b c swz sx off) s

/-- MDLD (R220). -/
def evalMdld (md : BitVec 3) (b : Reg) (off : BitVec 16) : Eval := fun p _ e =>
  match mStart p e false [resMd md.toNat] with
  | some r => r
  | none =>
    let va := baseOff p e b off
    if va % 64 ≠ 0 then faultVa 0x08 va
    else
      match memChk p e [⟨false, some 0, [(va, 2048)], false⟩] with
      | .bad r => r
      | .ok hs => mCommit p e (.mdld md.toNat (BitVec.ofNat 48 va)) hs.flatten id noMore
/-- MDLD issued on its own. -/
def execMdld (md : BitVec 3) (b : Reg) (off : BitVec 16) (s : State) : Host.Outcome State Fault Refusal := solo (.mdld md b off) (evalMdld md b off) s

/-- The locations that an engine write of `n` bytes covers, as ranges; `f` gives the location of an address. -/
def writtenWords (f : Nat → Nat) (va n : Nat) : List (Nat × Nat) := (pieces f va (List.replicate n 0)).map fun x => (x.1, x.2.length)

/-- MDST (R220, R205). -/
def evalMdst (md : BitVec 3) (b : Reg) (off : BitVec 16) : Eval := fun p _ e =>
  match mStart p e false [resMd md.toNat] with
  | some r => r
  | none =>
    let va := baseOff p e b off
    if va % 64 ≠ 0 then faultVa 0x08 va
    else
      match memChk p e [⟨true, some 0, [(va, 2048)], false⟩] with
      | .bad r => r
      | .ok hs => mCommit p e (.mdst md.toNat (BitVec.ofNat 48 va)) hs.flatten id fun id s =>
          s.expose e.core id (e.cyc + 48) (writtenWords (p.readLoc (p.seat e.seat).ctx hs.flatten 0) va 2048)
/-- MDST issued on its own. -/
def execMdst (md : BitVec 3) (b : Reg) (off : BitVec 16) (s : State) : Host.Outcome State Fault Refusal := solo (.mdst md b off) (evalMdst md b off) s

/-! ## DRAIN (R221 to R223) -/

/-- The region of a DRAIN: first row, rows − 1, first column, columns − 1, and whether a reserved bit is set. -/
def regionOf (c : Reg) (w : W64) : Nat × Nat × Nat × Nat × Bool :=
  if c = 0#6 then (0, 127, 0, 127, false)
  else (fld w 6 0, fld w 14 8, fld w 22 16, fld w 30 24, fld w 63 31 != 0 || bit w 23 || bit w 15 || bit w 7)

/-- The operands in memory of a DRAIN: its region, and the scales if it makes any. -/
def drainOps (swz va sv rows bytes scales : Nat) (sc : Bool) : List MOp :=
  ⟨true, some swz, [(va, rows * bytes)], true⟩ :: (if sc then [⟨true, some 0, [(sv, rows * scales)], false⟩] else [])

/-- The physical words that a DRAIN writes, through the translations of its region and of its scales (R205). -/
def drainWords (p : State) (ctx swz va sv n m : Nat) (hs : List Held) (sc : Bool) : List (Nat × Nat) :=
  writtenWords (fun a => p.heldShadow ctx (nth [] hs 0) (swzAddr swz a)) va n
    ++ (if sc then writtenWords (p.heldShadow ctx (nth [] hs 1)) sv m else [])

/-- DRAIN. -/
def evalDrain (z : BitVec 2) (fmt : BitVec 4) (b c : Reg) (rtz sc : Bool) (swz : BitVec 3) (sx : Reg) (hsize : BitVec 2) (had : Bool)
    (sh : BitVec 7) (off : BitVec 16) : Eval := fun p _ e =>
  let (fr, nr, c0, nc, ill) := regionOf c (p.sreg e c)
  match mStart p e (ill || (sx != 0#6) != sc) [resPlane z.toNat] with
  | some r => r
  | none =>
    let f := fmt.toNat
    let int := SMap.get false (p.arr e.quad).zt z.toNat
    let rows := nr + 1
    let cols := nc + 1
    let bits := cols * fmtBits f
    let ctx := (p.seat e.seat).ctx
    let va := baseOff p e b off
    let sv := (addrOf (p.sreg e sx)).toNat
    let hd : Option Nat := if had then some (16 * 2 ^ hsize.toNat) else none
    if int && f == 0 && !mulOne hd sh.toInt then fault0 0x02
    else if !fmtOk f || bits % 8 != 0 || (sc && (c0 % 16 != 0 || cols % 16 != 0 || decide (f ≤ 2))) then fault0 0x40
    else if 128 < fr + rows ∨ 128 < c0 + cols then faultFree p 0x45
    else if va % 16 ≠ 0 then faultVa 0x08 va
    else
      match memChk p e (drainOps swz.toNat va sv rows (bits / 8) (cols / 16) sc) with
      | .bad r => r
      | .ok hs =>
        mCommit p e (.drain z.toNat f (BitVec.ofNat 48 va) fr nr c0 nc rtz sc swz.toNat (BitVec.ofNat 48 sv) hd sh.toInt int) hs.flatten
          (fun x => x.close z.toNat)
          fun id s => s.expose e.core id (e.cyc + 40 + 2 * rows) (drainWords p ctx swz.toNat va sv (rows * (bits / 8)) (rows * (cols / 16)) hs sc)
/-- DRAIN issued on its own. -/
def execDrain (z : BitVec 2) (fmt : BitVec 4) (b c : Reg) (rtz sc : Bool) (swz : BitVec 3) (sx : Reg) (hsize : BitVec 2) (had : Bool)
    (sh : BitVec 7) (off : BitVec 16) (s : State) : Host.Outcome State Fault Refusal :=
  solo (.drain z fmt b c rtz sc swz sx hsize had sh off) (evalDrain z fmt b c rtz sc swz sx hsize had sh off) s

/-! ## The lease (R199, R200, R208 to R210) -/

/-- LEASE (R208): the masks in the places of the syllable's bits. -/
def evalLease (pm md h z : BitVec 4) : Eval := fun p _ e =>
  let m : BitVec 24 := BitVec.ofNat 24 (pm.toNat * 2 ^ 20 + md.toNat * 2 ^ 14 + h.toNat * 2 ^ 6 + z.toNat)
  if m = 0 ∨ (p.seat e.seat).lease.st ≠ .idle then fault0 0x02
  else okAct fun s =>
    s.modSeat e.seat fun x =>
      { x with lease := { Lease.none with st := .requested, masks := m, freeing := x.lease.freeing, from_ := s.arrCycle e.quad + 2 } }
/-- LEASE issued on its own. -/
def execLease (pm md h z : BitVec 4) (s : State) : Host.Outcome State Fault Refusal := solo (.lease pm md h z) (evalLease pm md h z) s

/-- What MREL and END do to the lease of a seat (R199, R209). -/
def State.releaseLease (s : State) (seat : Nat) : State :=
  let q := quadOf seat
  let x := s.seat seat
  let s := s.endRun q x.cid
  let s := s.modArr q fun a => a.closePlanes x.cid
  let s := s.modSeat seat fun x => { x with lease := { Lease.none with freeing := some s.nextId } }
  (s.unpin x.ctx x.carr).settleFree q x.ctx x.carr

/-- MREL (R209). -/
def evalMrel : Eval := fun p _ e => if (p.seat e.seat).lease.st = .idle then fault0 0x02 else okAct fun s => s.releaseLease e.seat
/-- MREL issued on its own. -/
def execMrel (s : State) : Host.Outcome State Fault Refusal := solo .mrel evalMrel s

/-- MSYNC (R210). -/
def evalMsync : Eval := fun p _ e =>
  let x := p.seat e.seat
  if (p.queued e.quad x.ctx x.carr).isEmpty then okSeat e fun x => { x with lease := x.lease.issued e.cyc } else waits
/-- MSYNC issued on its own. -/
def execMsync (s : State) : Host.Outcome State Fault Refusal := solo .msync evalMsync s

/-- M NOP: does nothing but count anew the idle limit of a run, and clears its sticky slot (R66, R199). -/
def evalMNop : Eval := fun _ _ e => okSeat e fun x => { x with lease := x.lease.issued e.cyc }
/-- M NOP issued on its own. -/
def execMNop (s : State) : Host.Outcome State Fault Refusal := solo .mNop evalMNop s

/-- A seat that arbitration may choose (R200). -/
def State.mayGrant (s : State) (quad k : Nat) : Bool :=
  let x := s.seat (16 * quad + k)
  x.st == .occupied && x.lease.st == .requested && decide (x.lease.from_ ≤ s.arrCycle quad)
    && (maskRes x.lease.masks).all fun r => SMap.get 0 (s.arr quad).alloc r == 0 || (s.arr quad).has x.cid r

/-- The seat that arbitration chooses: lowest class, then the first after the last holder (R200). -/
def State.arbitrate (s : State) (quad : Nat) : Option Nat :=
  let cls (k : Nat) : Nat := let x := s.seat (16 * quad + k); s.effClass (quad / 28) x.ctx x.lid
  let order := (nats 16).map fun i => ((s.arr quad).last + 1 + i) % 16
  (order.filter (s.mayGrant quad)).foldl (fun (b : Option Nat) k =>
    match b with
    | none => some k
    | some j => if cls k < cls j then some k else some j) none

/-- The resources that a grant allocates: those of the masks at the first after a LEASE (R197). -/
def Lease.toAlloc (l : Lease) : List Nat := if l.granted then [] else maskRes l.masks

/-- A grant takes effect: the seat is HELD with its resources (R199). -/
def State.grant (s : State) (quad k : Nat) : State :=
  let x := s.seat (16 * quad + k)
  let s := s.modArr quad fun a =>
    { (a.allocate x.ctx x.cid x.lease.toAlloc) with holder := some x.cid, last := k, run := 0, pick := none }
  s.modSeat (16 * quad + k) fun x =>
    { x with lease := { x.lease with st := .held, granted := true, lastCmd := s.cycle (4 * quad + k / 4), openAt := none } }

/-- LEASE_GRANT: arbitration chooses a seat in the second array cycle after the array became free, or after its LEASE; the grant
takes effect then, or once the resources of other contexts are set to zero (R192, R199, R200). -/
def execLeaseGrant (quad : Nat) (s : State) : Host.Outcome State Fault Refusal :=
  .next (
    let a := s.arr quad
    let now := s.arrCycle quad
    if a.holder.isSome ∨ now < a.freeAt ∨ (s.quad quad).gatedNow = true then s
    else
      match a.pick with
      | some (k, t) =>
        if s.mayGrant quad k = false then s.modArr quad fun a => { a with pick := none }
        else if now < t then s
        else s.grant quad k
      | none =>
        match s.arbitrate quad with
        | none => s
        | some k =>
          let n := a.toZero (s.seat (16 * quad + k)).ctx (s.seat (16 * quad + k)).lease.toAlloc
          if n = 0 then s.grant quad k else s.modArr quad fun a => { a with pick := some (k, now + 16 * n) })

/-- LEASE_IDLE_EXPIRY: 256 core cycles with no open reduction and no M command end a run (R199); not while a
factorisation executes (R230). -/
def execLeaseIdleExpiry (seat : Nat) (s : State) : Host.Outcome State Fault Refusal :=
  .next (
    let x := s.seat seat
    let started : Bool := match x.fact with
      | some f => f.started
      | none => false
    if x.lease.st = .held ∧ (s.arr (quadOf seat)).openPlane x.cid = false ∧ x.lease.lastCmd + 256 ≤ s.cycle (coreOf seat) ∧ started = false then
      s.endRunSeat seat
    else s)

/-! ## Execution (R204) -/

/-- The command meets an uncorrectable error in what it reads. -/
def State.mError (s : State) (quad : Nat) (c : MCmd) : Bool :=
  match s.runM quad c with
  | .err _ => true
  | .ok _ _ => false

/-- The head of the queue may begin: its data has arrived, and the answer of a PMRD comes after every earlier command of its
seat (R204, R241). -/
def State.mMayBegin (s : State) (quad : Nat) (c : MCmd) : Bool :=
  s.mReady c && match c.k with
    | .pmrd .. => !(s.arr quad).outs.any fun o => o.cmd.ctx == c.ctx && o.cmd.carr == c.carr
    | _ => true

/-- A command leaves the queue. -/
def State.mLeave (s : State) (quad : Nat) (c : MCmd) : State :=
  let now := s.arrCycle quad
  s.modArr quad fun a => Arr.headBegins { a with q := a.q.filter fun y => y.id != c.id } now

/-- A command has completed: its flags, and the resources that waited for it. -/
def State.mDone (s : State) (quad : Nat) (c : MCmd) (fl : Flags) : State :=
  ((s.unexpose c.id).orFlags c.ctx c.carr fl).settleFree quad c.ctx c.carr

/-- What the head of the queue does when its time is over: a DRAIN or an MDST leaves the array with what it has to write, a PMRD
answers, and the others take effect. -/
def State.mFinish (s : State) (quad : Nat) (c : MCmd) : State :=
  match c.k with
  | .pmrd _ w pm =>
    let v := (SMap.get 0 (s.arr quad).pm pm).toNat
    ((s.deliver c.id (BitVec.ofNat 64 (bitsAt v (64 * w) 64)) 0).mLeave quad c).mDone quad c 0
  | _ =>
    match (s.arr quad).leaves c with
    | some o => (s.modArr quad fun a => { a with outs := a.outs ++ [o] }).mLeave quad c
    | none =>
      match s.runM quad c with
      | .ok s fl => (s.mLeave quad c).mDone quad c fl
      | .err l => s.containCarr c.ctx c.carr 0x70 l

/-- ARRAY_COMMAND_EXECUTE: the command at the head of the queue of an array begins once its data has arrived, and takes effect
when its time is over (R204); one that meets an uncorrectable error contains its seat when it begins (R207). When data arrives
is a free choice. -/
def execArrayCommandExecute (quad : Nat) (s : State) : Host.Outcome State Fault Refusal :=
  .next (match (s.arr quad).q with
    | [] => s
    | c :: _ =>
      if (s.quad quad).gatedNow then s
      else if c.begun then (if s.arrCycle quad < (s.arr quad).busyTo then s else s.mFinish quad c)
      else if !s.mMayBegin quad c then s
      else if s.mError quad c then s.mFinish quad c
      else
        let now := s.arrCycle quad
        s.modArr quad fun a => a.begins now)

/-- DRAIN_RETIRE: what the oldest DRAIN or MDST that has left the array has to write is written (R223); not before its exposed
latency (R94). -/
def execDrainRetire (quad : Nat) (s : State) : Host.Outcome State Fault Refusal :=
  .next (match (s.arr quad).outs with
    | [] => s
    | o :: l =>
      if s.mReady o.cmd && s.mayWrite (coreOf o.cmd.seat) o.cmd.id then
        ((s.writeOut o).modArr quad fun a => { a with outs := l }).mDone quad o.cmd o.fl
      else s)

end Sys2Proof.Machine
end

