-- ==== Sys2Proof/Machine/Factor.lean ====
section
/-!
DEFINITION. The tile factorisations (R224 to R243): the permutation registers, PMRD and PMWR, the issue of a
factorisation, and its steps in the array.
-/

namespace Sys2Proof.Machine

/-! ## The permutation register (R224) -/

/-- Bits of a PM from `lo`, `n` of them. -/
def pmGet (v : BitVec 1024) (lo n : Nat) : Nat := bitsAt v.toNat lo n
/-- Replaces bits of a PM. -/
def pmSet (v : BitVec 1024) (lo n x : Nat) : BitVec 1024 :=
  BitVec.ofNat 1024 (v.toNat - bitsAt v.toNat lo n * 2 ^ lo + x % 2 ^ n * 2 ^ lo)
/-- STATUS. -/
def pmStatus (v : BitVec 1024) : Nat := pmGet v 924 4
/-- PROG. -/
def pmProg (v : BitVec 1024) : Nat := pmGet v 928 8
/-- SING. -/
def pmSing (v : BitVec 1024) : Nat := pmGet v 936 8
/-- The signature: OPK to AUX. -/
def pmSig (v : BitVec 1024) : Nat := pmGet v 897 27
/-- The entries. -/
def pmEnt (v : BitVec 1024) : List Nat := (nats 128).map fun i => pmGet v (7 * i) 7
/-- Writes the entries. -/
def pmSetEnt (v : BitVec 1024) (l : List Nat) : BitVec 1024 := ((nats 128).zip l).foldl (fun v e => pmSet v (7 * e.1) 7 e.2) v

/-- A PM of an array. -/
def State.pmOf (s : State) (quad k : Nat) : BitVec 1024 := SMap.get 0 (s.arr quad).pm k
/-- Writes a PM. -/
def State.setPm (s : State) (quad k : Nat) (v : BitVec 1024) : State := s.modArr quad fun a => { a with pm := SMap.set 0 a.pm k v }

/-- PMRD (R241). It is not counted in the run (R199). -/
def evalPmrd (a : Reg) (word : BitVec 4) (pm : BitVec 2) : Eval := fun p _ e =>
  match mStart p e false [resPm pm.toNat] with
  | some r => r
  | none =>
    let x := p.seat e.seat
    if 16 ≤ (p.arr e.quad).q.length then waits
    else okAct fun s =>
      let (id, s) := s.freshId
      let s := s.modSeat e.seat fun y =>
        { (y.addItem id a false 0 none 0) with lease := y.lease.issued e.cyc }
      s.mEnqueue e.quad ⟨id, x.carr, x.ctx, e.seat, e.syl, e.ext, .pmrd a word.toNat pm.toNat, [], false⟩
/-- PMRD issued on its own. -/
def execPmrd (a : Reg) (word : BitVec 4) (pm : BitVec 2) (s : State) : Host.Outcome State Fault Refusal := solo (.pmrd a word pm) (evalPmrd a word pm) s

/-- PMWR (R242). -/
def evalPmwr (word : BitVec 4) (pm : BitVec 2) (c : Reg) : Eval := fun p _ e =>
  match mStart p e false [resPm pm.toNat] with
  | some r => r
  | none => mCommit p e (.pmwr word.toNat pm.toNat (p.sreg e c)) [] id noMore
/-- PMWR issued on its own. -/
def execPmwr (word : BitVec 4) (pm : BitVec 2) (c : Reg) (s : State) : Host.Outcome State Fault Refusal := solo (.pmwr word pm c) (evalPmwr word pm c) s

/-! ## The forms (R226, R235) -/

/-- What a factorisation names: OPK (5 for FPERM), planes, PM, N, M or TC, and FL. -/
structure FForm where
  opk : Nat
  zd  : Nat
  zs  : Nat
  pm  : Nat
  n   : Nat
  m   : Nat
  tc  : Nat
  fl  : Nat
  deriving DecidableEq, Repr

/-- The form of a factorisation with its parameter register. -/
def formOf (i : Instr) (sb : W64) : Option FForm :=
  let n := fld sb 7 0
  let m := fld sb 15 8
  let tc := fld sb 23 16
  let b (x : Bool) (v : Nat) : Nat := if x then v else 0
  match i with
  | .flu zd pm _ nf => some ⟨1, zd.toNat, 0, pm.toNat, n, m, tc, b nf 1⟩
  | .fchol zd pm _ => some ⟨2, zd.toNat, 0, pm.toNat, n, m, tc, 0⟩
  | .fqr zd pm zs _ => some ⟨3, zd.toNat, zs.toNat, pm.toNat, n, m, tc, 0⟩
  | .ftrs zd pm zs _ nf upper unit => some ⟨4, zd.toNat, zs.toNat, pm.toNat, n, m, tc, b nf 4 + b upper 2 + b unit 1⟩
  | .fperm zd pm _ cols inv => some ⟨5, zd.toNat, 0, pm.toNat, n, m, tc, b cols 2 + b inv 1⟩
  | _ => none

/-- The parameter register holds no admitted value (R226, R239). -/
def FForm.badParam (f : FForm) (sb : W64) : Bool :=
  fld sb 63 24 != 0 || f.n == 0 || decide (128 < f.n)
    || (if f.opk = 3 then decide (127 < f.tc) else f.tc != 0)
    || (if f.opk = 4 then f.m == 0 || decide (128 < f.m) else f.m != 0)
    || (f.opk == 4 && f.zs == f.zd && decide (128 < f.n + f.m))

/-- The signature that a form records (R224). -/
def FForm.sig (f : FForm) : Nat :=
  f.opk * 2 ^ 24 + f.zd * 2 ^ 22 + f.zs * 2 ^ 20 + (f.n - 1) * 2 ^ 13 + f.fl * 2 ^ 7 + (if f.opk = 4 then f.m - 1 else f.tc)

/-- Array cycles of the start (R230). -/
def FForm.startTime (f : FForm) : Nat := if f.opk = 5 then 4 + 2 * f.n else 4

/-- Array cycles of step `s` (R230). -/
def FForm.stepTime (f : FForm) (s : Nat) : Nat :=
  let m := f.n - 1 - s
  match f.opk with
  | 1 => 8 + cdiv (m * m) 4096
  | 2 => 8 + cdiv (m * (m + 1)) 8192
  | 3 => 12 + 2 * cdiv (m * (m + 1)) 4096
  | 4 => 4 + cdiv (m * f.m) 4096
  | _ => 0

/-- The planes of a form are of type INT32 somewhere (R227). -/
def FForm.intPlane (f : FForm) (a : Arr) : Bool :=
  SMap.get false a.zt f.zd || ((f.opk == 3 || f.opk == 4) && SMap.get false a.zt f.zs)

/-- The resources of a form (R228). -/
def FForm.res (f : FForm) : List Nat :=
  [resPlane f.zd] ++ (if f.opk = 3 ∨ f.opk = 4 then [resPlane f.zs] else []) ++ [resPm f.pm]

/-! ## The start (R229) -/

/-- The region of a plane, row by row. -/
def regionOfPlane (p : Pl) (n : Nat) : List W32 := (nats n).flatMap fun i => (nats n).map fun k => p.at i k

/-- The PM at a fresh start. -/
def State.pmFresh (s : State) (quad : Nat) (f : FForm) (v : BitVec 1024) : BitVec 1024 :=
  let v := pmSet (pmSet (pmSet v 928 8 0) 936 8 0xFF) 897 27 f.sig
  if f.opk = 1 then
    let v := pmSetEnt v (nats 128)
    pmSet (pmSet v 992 32 (maxAbs (regionOfPlane ((s.arr quad).plane f.zd) f.n)).toNat) 960 32 0x3F800000
  else v

/-- The array begins to execute a form: a signature that does not match, or entries that are no permutation, is a
precise fault; else the PM is prepared and the time of the first step begins (R229, R240). -/
def State.factBegin (s : State) (seat : Nat) (i : Instr) (sb : W64) (f : FForm) : State :=
  let quad := quadOf seat
  let v := s.pmOf quad f.pm
  let st := pmStatus v
  let resume := st == 1 || st == 4 || st == 5
  if f.opk = 5 then
    match permBad (pmEnt v) f.n with
    | some j => s.faultIssue seat 0x45 (BitVec.ofNat 64 j) 0x0400
    | none => (s.modSeat seat fun x => { x with fact := some ⟨i, sb, true, false, s.cycle (coreOf seat)⟩ }).modArr quad fun a => { a with busyTo := s.arrCycle quad + f.startTime }
  else if resume && pmSig v != f.sig then s.faultIssue seat 0x02 0 0x0400
  else
    let v := if resume then v else s.pmFresh quad f v
    let v := pmSet v 924 4 1
    let s := (s.setPm quad f.pm v).modSeat seat fun x => { x with fact := some ⟨i, sb, true, false, s.cycle (coreOf seat)⟩ }
    s.modArr quad fun a => { a with busyTo := s.arrCycle quad + f.startTime + f.stepTime (pmProg v) }

/-- The issue of a factorisation (R228): its checks; it holds its issue until the array has ended it. -/
def factRes (i : Instr) (b : Reg) : Eval := fun p _ e =>
  let x := p.seat e.seat
  match x.fact with
  | some f => if f.ended then .ok {} else waits
  | none =>
    let sb := p.sreg e b
    match formOf i sb with
    | none => fault0 0x02
    | some f =>
      match mStart p e ((p.arr e.quad).openPlane x.cid) f.res with
      | some r => r
      | none =>
        if f.intPlane (p.arr e.quad) then fault0 0x40
        else if f.badParam sb then .fault 0x45 sb
        else if !(p.arr e.quad).cmds.isEmpty then waits
        else .hold fun s => s.factBegin e.seat i sb f

/-- FLU (R236). -/
def evalFlu (zd pm : BitVec 2) (b : Reg) (nf : Bool) : Eval := factRes (.flu zd pm b nf) b
/-- FLU issued on its own. -/
def execFlu (zd pm : BitVec 2) (b : Reg) (nf : Bool) (s : State) : Host.Outcome State Fault Refusal := solo (.flu zd pm b nf) (evalFlu zd pm b nf) s

/-- FCHOL (R237). -/
def evalFchol (zd pm : BitVec 2) (b : Reg) : Eval := factRes (.fchol zd pm b) b
/-- FCHOL issued on its own. -/
def execFchol (zd pm : BitVec 2) (b : Reg) (s : State) : Host.Outcome State Fault Refusal := solo (.fchol zd pm b) (evalFchol zd pm b) s

/-- FQR (R238). -/
def evalFqr (zd pm zs : BitVec 2) (b : Reg) : Eval := factRes (.fqr zd pm zs b) b
/-- FQR issued on its own. -/
def execFqr (zd pm zs : BitVec 2) (b : Reg) (s : State) : Host.Outcome State Fault Refusal := solo (.fqr zd pm zs b) (evalFqr zd pm zs b) s

/-- FTRS (R239). -/
def evalFtrs (zd pm zs : BitVec 2) (b : Reg) (nf upper unit : Bool) : Eval := factRes (.ftrs zd pm zs b nf upper unit) b
/-- FTRS issued on its own. -/
def execFtrs (zd pm zs : BitVec 2) (b : Reg) (nf upper unit : Bool) (s : State) : Host.Outcome State Fault Refusal :=
  solo (.ftrs zd pm zs b nf upper unit) (evalFtrs zd pm zs b nf upper unit) s

/-- FPERM (R240). -/
def evalFperm (zd pm : BitVec 2) (b : Reg) (cols inv : Bool) : Eval := factRes (.fperm zd pm b cols inv) b
/-- FPERM issued on its own. -/
def execFperm (zd pm : BitVec 2) (b : Reg) (cols inv : Bool) (s : State) : Host.Outcome State Fault Refusal :=
  solo (.fperm zd pm b cols inv) (evalFperm zd pm b cols inv) s

/-! ## Steps (R229 to R234) -/

/-- One step of a form on what the array and the PM hold. -/
def FForm.run (f : FForm) (st : Nat) (x : FactSt) : FactRes :=
  match f.opk with
  | 1 => stepFlu x f.n st (f.fl % 2 == 1)
  | 2 => stepFchol x f.n st
  | 3 => stepFqr x f.n st f.tc
  | _ => stepFtrs x f.n f.m st (f.fl / 4 % 2 == 1) (f.fl / 2 % 2 == 1) (f.fl % 2 == 1) (f.zs == f.zd)

/-- What a step works on. -/
def State.factSt (s : State) (quad : Nat) (f : FForm) (v : BitVec 1024) : FactSt :=
  let a := s.arr quad
  ⟨a.plane f.zd, a.plane f.zs, pmSing v, BitVec.ofNat 32 (pmGet v 960 32), BitVec.ofNat 32 (pmGet v 992 32), pmEnt v, 0⟩

/-- The PM after a step: a FLU keeps its entries and its growth there, and every form its SING and PROG. -/
def FForm.pmAfter (f : FForm) (v : BitVec 1024) (x : FactSt) (prog : Nat) : BitVec 1024 :=
  let v := pmSet (pmSet v 936 8 x.sing) 928 8 prog
  if f.opk = 1 then pmSet (pmSetEnt v x.ent) 960 32 x.growth.toNat else v

/-- The idle limit of the run does not advance by the cycles since the array last counted a step (R230). -/
def State.factPause (s : State) (seat : Nat) : State :=
  let now := s.cycle (coreOf seat)
  s.modSeat seat fun x => match x.fact with
    | some f => { x with lease := { x.lease with lastCmd := x.lease.lastCmd + (now - f.since) }, fact := some { f with since := now } }
    | none => x

/-- A step counts as one command of the run (R230). -/
def State.factCount (s : State) (seat : Nat) : State :=
  let now := s.cycle (coreOf seat)
  (s.countCmd seat now).modSeat seat fun x => { x with fact := x.fact.map fun f => { f with since := now } }

/-- The form is complete: STATUS, and the issue may commit (R230, R236). -/
def State.factDone (s : State) (seat : Nat) (f : FForm) : State :=
  let quad := quadOf seat
  let v := s.pmOf quad f.pm
  let s := if f.opk = 5 then s else s.setPm quad f.pm (pmSet v 924 4 (if (f.opk = 1 ∨ f.opk = 4) ∧ pmSing v ≠ 0xFF then 3 else 2))
  (s.factPause seat).modSeat seat fun x => { x with fact := x.fact.map fun y => { y with ended := true } }

/-- The watchdog interval of a seat has elapsed (R266); a context has WDINT from 10 to 40. -/
def State.wdDue (s : State) (seat : Nat) : Bool :=
  let c := s.ctx (s.seat seat).ctx
  c.wdint != 0 && decide (2 ^ c.wdint ≤ (s.seat seat).wdcnt)

/-- A stop at a step boundary: the run has ended, the seat is marked to leave, or the watchdog is due (R231). -/
def State.factStops (s : State) (seat : Nat) : Bool :=
  let x := s.seat seat
  x.lease.st != .held || x.mark != .none || s.wdDue seat

/-- One completed step: planes, PM, flags, the count of the run, and what comes next. -/
def State.factNext (s : State) (seat : Nat) (f : FForm) (x : FactSt) (st : Nat) : State :=
  let quad := quadOf seat
  let s := s.modArr quad fun a =>
    let a := a.setPlane f.zd x.pl
    if (f.opk = 3 ∨ f.opk = 4) ∧ f.zs ≠ f.zd then a.setPlane f.zs x.zs else a
  let s := s.setPm quad f.pm (f.pmAfter (s.pmOf quad f.pm) x (st + 1))
  let s := s.modSeat seat fun y => { y with fflags := y.fflags ||| x.fl }
  let s := s.factCount seat
  if st + 1 = f.n then s.factDone seat f
  else if s.factStops seat then s.modSeat seat fun y => { y with fact := none }
  else s.modArr quad fun a => { a with busyTo := s.arrCycle quad + f.stepTime (st + 1) }

/-- The seat of a quad whose factorisation the array executes. -/
def State.factSeat (s : State) (quad : Nat) : Option (Nat × Fact) :=
  (nats 16).findSome? fun k =>
    match (s.seat (16 * quad + k)).fact with
    | some f => if f.started && !f.ended then some (16 * quad + k, f) else none
    | none => none

/-- A form reads element (i, k) of a plane (R226, R237 to R240). -/
def FForm.reads (f : FForm) (z i k : Nat) : Bool :=
  let here := z == f.zd
  let sq := decide (i < f.n ∧ k < f.n)
  match f.opk with
  | 2 => here && sq && decide (k ≤ i)
  | 4 =>
    (here && sq && (if f.fl / 2 % 2 = 1 then decide (i ≤ k) else decide (k ≤ i)) && !(f.fl % 2 == 1 && i == k))
      || (if f.zs = f.zd then here && decide (i < f.n ∧ f.n ≤ k ∧ k < f.n + f.m) else z == f.zs && decide (i < f.n ∧ k < f.m))
  | 5 => here && (if f.fl / 2 = 1 then decide (k < f.n) else decide (i < f.n))
  | _ => here && sq

/-- An element that a form reads lies in a line with an uncorrectable error (R231). -/
def FForm.meets (f : FForm) (a : Arr) : Bool :=
  a.zbad.any fun l => (nats 16).any fun d => f.reads (l / 1024) (l % 1024 / 8) (l % 8 * 16 + d)

/-- FACTORISATION_STEP: one step of the factorisation that the array of a quad executes; a pivot that stops it is a
precise fault of the issue (R232). -/
def execFactorisationStep (quad : Nat) (s : State) : Host.Outcome State Fault Refusal :=
  .next (match s.factSeat quad with
    | none => s
    | some (seat, y) =>
      match formOf y.instr y.sb with
      | none => s
      | some f =>
        if s.arrCycle quad < (s.arr quad).busyTo ∨ (s.quad quad).gatedNow = true then s
        else if f.meets (s.arr quad) then s.containCarr (s.seat seat).ctx (s.seat seat).carr 0x70 0
        else
          let v := s.pmOf quad f.pm
          if f.opk = 5 then
            let p := permPl ((s.arr quad).plane f.zd) (pmEnt v) f.n (f.fl / 2 == 1) (f.fl % 2 == 1)
            ((s.modArr quad fun a => a.setPlane f.zd p).factCount seat).factDone seat f
          else
            let st := pmProg v
            if f.n ≤ st then s.factDone seat f
            else
              match f.run st (s.factSt quad f v) with
              | .ok x => s.factNext seat f x st
              | .stop status col =>
                ((s.setPm quad f.pm (pmSet (pmSet v 928 8 st) 924 4 status)).factPause seat).faultIssue seat 0x50 (BitVec.ofNat 64 col) 0x0400)

end Sys2Proof.Machine
end

