-- ==== Sys2Proof/Machine/Curds.lean ====
section
/-!
DEFINITION. The X forms on tiles and count queues (R165, R166, R306), and the injection of the record of a set curd
(R168, R461).
-/

namespace Sys2Proof.Machine

/-- The first location of the descriptor of a tile that SC names, or why the form does not issue (R165). -/
def tileOf (p : State) (e : Env) (c : Reg) : Except SlotRes Nat :=
  let i := (p.sreg e c).toNat
  let ctx := (p.seat e.seat).ctx
  if 256 ≤ i then .error (faultFree p 0x45)
  else if (p.ctx ctx).spLen e.quad = 0 then .error (faultVa 0x21 (windowBase e.quad))
  else .ok (p.tileKey ctx e.quad i)

/-- The seat has an access to the descriptor of a tile in flight. -/
def State.tileBusy (p : State) (e : Env) (key : Nat) : Bool :=
  let x := p.seat e.seat
  p.accs.any fun a => a.ctx == x.ctx && a.carr == x.carr && rangesMeet [(key, 32)] a.ranges

/-- A tile that TILEARM admits (R166): its threshold, its alignment, and its place below the tile table. -/
def tileFits (p : State) (e : Env) (w0 w3 : W64) : Bool :=
  let base := fld w3 63 16
  let size := (fld w3 15 8 + 1) * 256
  let lo := windowBase e.quad
  let n := (p.ctx (p.seat e.seat).ctx).spLen e.quad
  fld w0 31 0 != 0 && base % 256 == 0 && decide (lo ≤ base ∧ base + size ≤ lo + (n - 8192))

/-- TILEARM (R166). -/
def evalTilearm (b c : Reg) : Eval := fun p _ e =>
  match tileOf p e c with
  | .error r => r
  | .ok key =>
    let ea := (addrOf (p.sreg e b)).toNat
    if ea % 32 ≠ 0 then faultVa 0x08 ea
    else if p.tileBusy e key then waits
    else
      match earlyRead p e ea 32 ea with
      | .bad r => r
      | .ok l =>
        let w (i : Nat) : W64 := BitVec.ofNat 64 (ofBytesLE ((l.drop (8 * i)).take 8))
        if !tileFits p e (w 0) (w 3) then faultFree p 0x45
        else okAct fun s =>
          let gen := (fld (s.rdWord key) 63 40 + 1) % 2 ^ 24
          let s := s.applyWord key (BitVec.ofNat 64 (gen * 2 ^ 40 + fld (w 0) 31 0))
          let s := s.applyWord (key + 8) (BitVec.ofNat 64 (fld (w 1) 63 4 * 16))
          let s := s.applyWord (key + 16) 0
          let s := s.applyWord (key + 24) (BitVec.ofNat 64 (fld (w 3) 63 8 * 256 + 1))
          s.dropCurd (s.seat e.seat).ctx e.quad (p.sreg e c).toNat
/-- TILEARM issued on its own. -/
def execTilearm (b c : Reg) (s : State) : Host.Outcome State Fault Refusal := solo (.tilearm b c) (evalTilearm b c) s

/-- TILEDIS (R166). -/
def evalTiledis (c : Reg) : Eval := fun p _ e =>
  match tileOf p e c with
  | .error r => r
  | .ok key =>
    if p.tileBusy e key then waits
    else okAct fun s => (s.setTState key 0).dropCurd (s.seat e.seat).ctx e.quad (p.sreg e c).toNat
/-- TILEDIS issued on its own. -/
def execTiledis (c : Reg) (s : State) : Host.Outcome State Fault Refusal := solo (.tiledis c) (evalTiledis c) s

/-- The protection fault of a count queue that holds entries of another context (R300). -/
def State.cqForeign (s : State) (quad ctx : Nat) : Bool :=
  (s.quad quad).cqs.any (fun q => !q.2.isEmpty) && (s.quad quad).cqCtx != ctx

/-- The value of the protection fault of a count queue (R300). -/
def cqFault (n : Nat) : SlotRes := .fault 0x21 (BitVec.ofNat 64 (2 ^ 62 + 0x40 + n))

/-- An entry enters a count queue: pushes of one cycle enter with those of the pipelines first (R300, R306). -/
def State.cqAdd (s : State) (quad ctx n : Nat) (pipe : Bool) (v : W32) : State :=
  let t := 2 * s.dieCycle + (if pipe then 0 else 1)
  s.modQuad quad fun q =>
    let l := SMap.get [] q.cqs n
    { q with cqs := SMap.set [] q.cqs n ((l.filter fun e => decide (e.1 ≤ t)) ++ (t, v) :: l.filter fun e => decide (t < e.1)), cqCtx := ctx }

/-- CQPUSH (R306). -/
def evalCqpush (n : BitVec 3) (c : Reg) : Eval := fun p _ e =>
  let ctx := (p.seat e.seat).ctx
  if p.cqForeign e.quad ctx then cqFault n.toNat
  else if 64 ≤ (SMap.get [] (p.quad e.quad).cqs n.toNat).length then waits
  else okAct fun s => s.cqAdd e.quad ctx n.toNat false ((p.sreg e c).setWidth 32)
/-- CQPUSH issued on its own. -/
def execCqpush (n : BitVec 3) (c : Reg) (s : State) : Host.Outcome State Fault Refusal := solo (.cqpush n c) (evalCqpush n c) s

/-- X NOP: does nothing and clears its sticky slot (R66). -/
def evalXNop : Eval := fun _ _ _ => .ok {}
/-- X NOP issued on its own. -/
def execXNop (s : State) : Host.Outcome State Fault Refusal := solo .xNop evalXNop s

/-! ## Injection (R168, R461) -/

/-- The places of 64 bytes that the device reads for a context, or why it cannot. -/
inductive DevRead where
  | ok (l : List Byte)
  | hold (va : Nat)
  | fault (cause : Nat)

/-- Reads `n` bytes at an address for a context, as an engine does. -/
def State.devRead (s : State) (ctx va : Nat) : Nat → DevRead
  | 0 => .ok []
  | n + 1 =>
    match s.look ctx .rd (va % 2 ^ 48) with
    | .fault c => .fault c
    | .walk _ _ => .hold (va % 2 ^ 48)
    | .hold => .hold (va % 2 ^ 48)
    | .ok p =>
      let k := s.front ctx p
      if s.bad (k / 64) then .fault 0x70
      else
        match s.devRead ctx (va + 1) n with
        | .ok l => .ok (s.rdByte k :: l)
        | r => r

/-- The fault record of an injection (R360, R461). -/
def State.curdFault (s : State) (ctx quad tile cause va : Nat) : State :=
  let d := quad / 28
  if 1024 ≤ (s.die d).faults.length then s
  else
    let rid := (s.die d).nextRid
    let desc := windowBase quad + (s.ctx ctx).spLen quad - 8192 + 32 * tile
    let s := s.addFault d { rid := 0, ctx, cause, src := 4, side := 0, hold := false, va := BitVec.ofNat 48 va,
                            carr := BitVec.ofNat 48 desc, chip := 0, first := 0, secs := [], tid := 0, sent := false }
    { s with curds := s.curds.map fun c => if c = (ctx, quad, tile, none) then (ctx, quad, tile, some rid) else c
             curdTry := s.curdTry.filter fun c => c.1 != (ctx, quad, tile) }

/-- The queue of a tile's injection. -/
def State.curdQueue (s : State) (ctx quad tile : Nat) : Nat := fld (s.rdWord (s.tileKey ctx quad tile + 8)) 15 4

/-- The bytes that an injection read when it was first tried. -/
def State.curdBytes (s : State) (ctx quad tile : Nat) : Option (List Byte) :=
  (s.curdTry.find? fun c => c.1 == (ctx, quad, tile)).map Prod.snd

/-- The entry of an injection is published, if its queue is resident and has room: the tile is INJECTED (R168). -/
def State.injectPut (s : State) (ctx quad tile : Nat) (l : List Byte) : State :=
  let h := s.curdQueue ctx quad tile
  let q := s.queue ctx h
  match s.qPut ctx h (agentFirmware (quad / 28)) l with
  | none => s.qMiss ctx h
  | some t =>
    let t := (t.modQueue ctx h fun y => { y with inj := SMap.set false y.inj (q.idx q.t) true }).setTState (s.tileKey ctx quad tile) 4
    { t with curds := t.curds.filter fun c => c != (ctx, quad, tile, none)
             curdTry := t.curdTry.filter fun c => c.1 != (ctx, quad, tile) }

/-- One try of an injection: the first makes the check of the queue, reads the bytes and keeps them; the others only publish
(R461). A queue that is destroyed meanwhile fails the check (DESIGN CHOICE, log 97). -/
def State.inject (s : State) (ctx quad tile : Nat) : State :=
  let h := s.curdQueue ctx quad tile
  if (s.queue ctx h).st = qFree then s.curdFault ctx quad tile 0x21 h
  else
    let s := s.qTouch ctx h
    match s.curdBytes ctx quad tile with
    | some l => s.injectPut ctx quad tile l
    | none =>
      if (s.queue ctx h).nodev then s.curdFault ctx quad tile 0x21 h
      else
        let lrec := fld (s.rdWord (s.tileKey ctx quad tile + 8)) 63 16
        match s.devRead ctx lrec 64 with
        | .hold va => s.noteHold (quad / 28) ctx va
        | .fault c => s.curdFault ctx quad tile c lrec
        | .ok l => { s with curdTry := ((ctx, quad, tile), l) :: s.curdTry }.injectPut ctx quad tile l

/-- CURD_INJECTION: the pending injection of a SET tile is tried, while its context is RUNNABLE (R375). -/
def execCurdInjection (ctx quad tile : Nat) (s : State) : Host.Outcome State Fault Refusal :=
  .next (if s.curds.contains (ctx, quad, tile, none) && (s.ctx ctx).st == .runnable then s.inject ctx quad tile else s)

end Sys2Proof.Machine
end

