-- ==== Sys2Proof/Machine/Memory.lean ====
section
/-!
DEFINITION. Loads and stores of the S slot (R94, R114, R174), and the return of their data and the application
of their writes (R88, R90, R115, R172).
-/

namespace Sys2Proof.Machine

/-! ## Loads -/

/-- The address of the first 8-byte word of an access that is exposed (R94). -/
def firstExposed (s : State) (e : Env) (va n : Nat) (locs : List PLoc) : Nat :=
  match locs with
  | [_] => va / 8 * 8
  | _ => (((nats n).zip locs).findSome? fun x =>
      if s.expo e.core e.start [(x.2.key, 1)] = .clear then none else some ((va + x.1) % 2 ^ 48 / 8 * 8)).getD (va / 8 * 8)

/-- A read whose bytes are exposed early takes them as they stand now (R94): the access with its value, or the
line in error that it met. -/
def captured (p : State) (a : Acc) : Acc :=
  match p.accBad a with
  | some l => { a with flag := true, x := 1, v := BitVec.ofNat 64 l }
  | none => { a with flag := true, v := extendTo a.n a.sgn (ofBytesLE (p.accBytes a)) }

/-- A read that an issue names and that is made after its commit: an item for its destination, and the access.
`mk` makes the access of its number. -/
def readLater (p : State) (e : Env) (a : Reg) (arr va n : Nat) (locs : List PLoc) (mk : Nat → Acc) : SlotRes :=
  let rs := locRanges locs n
  let x := p.seat e.seat
  let go (cap : Bool) : SlotRes := .ok { act := fun s =>
    let (id, s) := s.freshId
    let ac := if cap then captured p (mk id) else mk id
    let s := s.modSeat e.seat fun x => x.addItem id a (arr != 0) (e.start + arr) none 0
    { s with accs := s.accs ++ [ac] } }
  match p.expo e.core e.start rs with
  | .clear => go false
  | .late => .freeze
  | .early =>
    if (p.ctx x.ctx).dbg then faultVa 0x30 (firstExposed p e va n locs)
    else if p.accs.any fun b => b.ctx == x.ctx && b.carr == x.carr && rangesMeet rs b.ranges then waits
    else go true

/-- A load of `n` bytes. -/
def loadRes (n : Nat) (sgn : Bool) (a b : Reg) (arr : BitVec 12) (m : MemOp) : Eval := fun p _ e =>
  let va := memEa p e b m
  match trAcc p e .rd va n with
  | .bad r => r
  | .ok locs =>
    readLater p e a arr.toNat va n locs fun id =>
      { accOf0 p e .load id with op := if arr = 0#12 then 0 else 1, n := n, sgn := sgn, va := BitVec.ofNat 48 va, locs := locs }

/-! ## Stores -/

/-- The first byte of a write that lies in a tile descriptor (R165). -/
def tileByte (p : State) (e : Env) (va n : Nat) : Option Nat :=
  let c := p.ctx (p.seat e.seat).ctx
  if c.onTile va n then
    (if va % n = 0 then some va else (natsFrom va n).find? fun a => c.onTile (a % 2 ^ 48) 1)
  else none

/-- The translation and the checks of a store: the lowest byte that fails, in either, names the fault (R165, R174). -/
def trStore (p : State) (e : Env) (va n : Nat) : AccTr :=
  match tileByte p e va n with
  | none => trAcc p e .wr va n
  | some t =>
    match (if va % n = 0 then trOne p e .wr va else trBytes p e .wr va (t - va)) with
    | .bad r => .bad r
    | .ok _ => .bad (faultVa 0x21 (t % 2 ^ 48))

/-- A store of the `n` low bytes of SC: one access, or one for each byte of a misaligned one (R174). -/
def storeRes (n : Nat) (b c : Reg) (m : MemOp) : Eval := fun p _ e =>
  let va := memEa p e b m
  match trStore p e va n with
  | .bad r => r
  | .ok locs =>
    let v := p.sreg e c
    let mk (va n : Nat) (l : List PLoc) (v : W64) (id : Nat) : Acc :=
      { accOf0 p e .store id with n := n, va := BitVec.ofNat 48 va, locs := l, v := v }
    .ok { act := fun s =>
      match locs with
      | [l] => s.addAcc (mk va n [l] v)
      | ls => ((nats n).zip ls).foldl (fun s x => s.addAcc (mk (va + x.1) 1 [x.2] (v >>> (8 * x.1)))) s }

/-- LD.b. -/
def evalLdb (a b : Reg) (arr : BitVec 12) (m : MemOp) : Eval := loadRes 1 true a b arr m
/-- LD.b issued on its own. -/
def execLdb (a b : Reg) (p : Bool) (arr : BitVec 12) (m : MemOp) (s : State) : Host.Outcome State Fault Refusal :=
  solo (.ldb a b p arr m) (evalLdb a b arr m) s

/-- LD.bu. -/
def evalLdbu (a b : Reg) (arr : BitVec 12) (m : MemOp) : Eval := loadRes 1 false a b arr m
/-- LD.bu issued on its own. -/
def execLdbu (a b : Reg) (p : Bool) (arr : BitVec 12) (m : MemOp) (s : State) : Host.Outcome State Fault Refusal :=
  solo (.ldbu a b p arr m) (evalLdbu a b arr m) s

/-- LD.h. -/
def evalLdh (a b : Reg) (arr : BitVec 12) (m : MemOp) : Eval := loadRes 2 true a b arr m
/-- LD.h issued on its own. -/
def execLdh (a b : Reg) (p : Bool) (arr : BitVec 12) (m : MemOp) (s : State) : Host.Outcome State Fault Refusal :=
  solo (.ldh a b p arr m) (evalLdh a b arr m) s

/-- LD.hu. -/
def evalLdhu (a b : Reg) (arr : BitVec 12) (m : MemOp) : Eval := loadRes 2 false a b arr m
/-- LD.hu issued on its own. -/
def execLdhu (a b : Reg) (p : Bool) (arr : BitVec 12) (m : MemOp) (s : State) : Host.Outcome State Fault Refusal :=
  solo (.ldhu a b p arr m) (evalLdhu a b arr m) s

/-- LD.w. -/
def evalLdw (a b : Reg) (arr : BitVec 12) (m : MemOp) : Eval := loadRes 4 true a b arr m
/-- LD.w issued on its own. -/
def execLdw (a b : Reg) (p : Bool) (arr : BitVec 12) (m : MemOp) (s : State) : Host.Outcome State Fault Refusal :=
  solo (.ldw a b p arr m) (evalLdw a b arr m) s

/-- LD.wu. -/
def evalLdwu (a b : Reg) (arr : BitVec 12) (m : MemOp) : Eval := loadRes 4 false a b arr m
/-- LD.wu issued on its own. -/
def execLdwu (a b : Reg) (p : Bool) (arr : BitVec 12) (m : MemOp) (s : State) : Host.Outcome State Fault Refusal :=
  solo (.ldwu a b p arr m) (evalLdwu a b arr m) s

/-- LD.d. -/
def evalLdd (a b : Reg) (arr : BitVec 12) (m : MemOp) : Eval := loadRes 8 false a b arr m
/-- LD.d issued on its own. -/
def execLdd (a b : Reg) (p : Bool) (arr : BitVec 12) (m : MemOp) (s : State) : Host.Outcome State Fault Refusal :=
  solo (.ldd a b p arr m) (evalLdd a b arr m) s

/-- ST.b. -/
def evalStb (b c : Reg) (m : MemOp) : Eval := storeRes 1 b c m
/-- ST.b issued on its own. -/
def execStb (b c : Reg) (p q : Bool) (m : MemOp) (s : State) : Host.Outcome State Fault Refusal := solo (.stb b c p q m) (evalStb b c m) s

/-- ST.h. -/
def evalSth (b c : Reg) (m : MemOp) : Eval := storeRes 2 b c m
/-- ST.h issued on its own. -/
def execSth (b c : Reg) (p q : Bool) (m : MemOp) (s : State) : Host.Outcome State Fault Refusal := solo (.sth b c p q m) (evalSth b c m) s

/-- ST.w. -/
def evalStw (b c : Reg) (m : MemOp) : Eval := storeRes 4 b c m
/-- ST.w issued on its own. -/
def execStw (b c : Reg) (p q : Bool) (m : MemOp) (s : State) : Host.Outcome State Fault Refusal := solo (.stw b c p q m) (evalStw b c m) s

/-- ST.d. -/
def evalStd (b c : Reg) (m : MemOp) : Eval := storeRes 8 b c m
/-- ST.d issued on its own. -/
def execStd (b c : Reg) (p q : Bool) (m : MemOp) (s : State) : Host.Outcome State Fault Refusal := solo (.std b c p q m) (evalStd b c m) s

/-! ## What comes of them -/

/-- Where an access that has read its value puts it: at once, or with its item. -/
def State.finishRead (s : State) (a : Acc) (er : Bool) (v : W64) : State :=
  let s := if a.flag then s.dropAcc a.id else (s.dropAcc a.id).noteRead a
  if er then s.setResult a.id v 0 true else s.deliver a.id v 0

/-- The data of a read of host memory is logged in record mode, and compared in a replay (R379). -/
def State.logHost (s : State) (ctx va : Nat) (l : List Byte) : State :=
  if inHost va then s.hostLog ctx 3 (BitVec.ofNat 64 va) (BitVec.ofNat 64 l.length) (digestWords l) else s

/-- A read is performed: a whole access at one moment, or one byte of an emulated one (R173, R174). -/
def State.performRead (s : State) (a : Acc) : State :=
  if a.flag then s.finishRead a (a.x == 1) a.v
  else
    match a.locs with
    | [_] =>
      match s.accBad a with
      | some l => s.finishRead a true (BitVec.ofNat 64 l)
      | none => (s.logHost a.ctx a.va.toNat (s.accBytes a)).finishRead a false (extendTo a.n a.sgn (ofBytesLE (s.accBytes a)))
    | ps =>
      let i := a.rcd.length
      match ps[i]? with
      | none => s.finishRead a false (extendTo a.n a.sgn (ofBytesLE a.rcd))
      | some p =>
        let k := s.front a.ctx p
        if s.bad (k / 64) then s.finishRead a true (BitVec.ofNat 64 ((a.va.toNat + i) % 2 ^ 48 / 64 * 64))
        else
          let l := a.rcd ++ [s.rdByte k]
          if l.length = ps.length then (s.logHost a.ctx a.va.toNat l).finishRead a false (extendTo a.n a.sgn (ofBytesLE l))
          else { s.noteRead a with accs := s.accs.map fun b => if b.id = a.id then { b with rcd := l } else b }

/-- LANDING_DATA_RETURN: the data of a load with a landing slot comes to the landing buffer (R90). -/
def execLandingDataReturn (id : Nat) (s : State) : Host.Outcome State Fault Refusal :=
  .next (match s.accOf id [.load] with
    | some a => if a.op = 1 then s.performRead a else s
    | none => s)

/-- PRODUCER_RESULT_ARRIVAL: the result of a producer whose latency is not named arrives (R88): a read is made,
or a result that is known is written. -/
def execProducerResultArrival (id : Nat) (s : State) : Host.Outcome State Fault Refusal :=
  .next (match s.accOf id [.load, .ldacq, .bartest] with
    | some a => if a.op = 0 then s.performRead a else s
    | none =>
      match s.itemSeat id with
      | some (_, i) =>
        match i.data with
        | some v => if i.landing || i.er then s else s.deliver id v 0
        | none => s
      | none => s)

/-- HOME_PORT_WRITE_APPLY: a posted store is applied at its home port (R172, R182). -/
def execHomePortWriteApply (id : Nat) (s : State) : Host.Outcome State Fault Refusal :=
  .next (match s.accOf id [.store] with
    | some a => (s.dropAcc id).accWrite a (bytesLE a.n a.v.toNat)
    | none => s)

end Sys2Proof.Machine
end

