-- ==== Sys2Proof/Machine/Atomics.lean ====
section
/-!
DEFINITION. The Y-slot accesses of the chapter on memory and ordering (R183 to R190): atomics, reductions,
LDACQ, STREL, FENCE and PUB, and their application at the home port.
-/

namespace Sys2Proof.Machine

/-- The checks of R183 for an access of `n` bytes with a right; `count` where the form may change COUNT of a
tile (R165), `reads` where it reads, for the pending bits of R94. -/
def yCheck (p : State) (e : Env) (k : Right) (va n : Nat) (count reads : Bool) : AccTr :=
  if va % n ≠ 0 then .bad (faultVa 0x08 va)
  else
    match trOne p e k va with
    | .bad r => .bad r
    | .ok locs =>
      let c := p.ctx (p.seat e.seat).ctx
      if k != .rd && c.onTile va n && !(count && c.onCount va) then .bad (faultVa 0x21 va)
      else if reads then
        match p.expo e.core e.start (locRanges locs n) with
        | .late => .bad .freeze
        | .early => if c.dbg then .bad (faultVa 0x30 (va / 8 * 8)) else .ok locs
        | .clear => .ok locs
      else .ok locs

/-- Operations of the atomics and reductions, by their codes in R184; 11 is the exchange of ACAS. -/
def atomicNew (op : Nat) (w : Wd) (old v cmp : W64) : W64 × Flags :=
  match op with
  | 1 => (old + v, 0)
  | 2 => (if sRd w v < sRd w old then v else old, 0)
  | 3 => (if sRd w old < sRd w v then v else old, 0)
  | 4 => (if uRd w v < uRd w old then v else old, 0)
  | 5 => (if uRd w old < uRd w v then v else old, 0)
  | 6 => (old &&& v, 0)
  | 7 => (old ||| v, 0)
  | 8 => (old ^^^ v, 0)
  | 9 => (v, 0)
  | 10 => out64 (fadd32 .rne false (lo32 old) (lo32 v))
  | _ => (if uRd w old = uRd w cmp then v else old, 0)

/-- A returning atomic: SA is empty until its result arrives (R184, R185). `x` is the compare value of ACAS. -/
def atomicRes (op : Nat) (w : Wd) (a b c : Reg) (x : Option Reg) : Eval := fun p _ e =>
  let va := (addrOf (p.sreg e b)).toNat
  match yCheck p e .atom va (wBytes w) (op == 1 && w == .d64) true with
  | .bad r => r
  | .ok locs =>
    -- ACAS: SC is the compare value and the third source the new value
    let v := match x with
      | some r => p.sreg e r
      | none => p.sreg e c
    .ok { act := fun s =>
      let (id, s) := s.freshId
      let s := s.modSeat e.seat fun y => y.addItem id a false 0 none 0
      let ac : Acc := { accOf0 p e .atomic id with
        op := op, n := wBytes w, sgn := w == .w32, va := BitVec.ofNat 48 va, locs := locs, v := v, x := p.sreg e c }
      { s with accs := s.accs ++ [ac] } }

/-- A reduction: posted at the commit, it returns nothing (R186). -/
def reduceRes (op : Nat) (w : Wd) (b c : Reg) : Eval := fun p _ e =>
  let va := (addrOf (p.sreg e b)).toNat
  match yCheck p e .red va (wBytes w) (op == 1 && w == .d64) false with
  | .bad r => r
  | .ok locs =>
    .ok { act := fun s => s.addAcc fun id =>
      { accOf0 p e .reduction id with op := op, n := wBytes w, sgn := w == .w32, va := BitVec.ofNat 48 va, locs := locs, v := p.sreg e c } }

/-- AADD: addition (R184). -/
def evalAadd (w : Wd) (a b c : Reg) : Eval := atomicRes 1 w a b c none
/-- AADD issued on its own. -/
def execAadd (w : Wd) (a b c : Reg) (p q : Bool) (s : State) : Host.Outcome State Fault Refusal := solo (.aadd w a b c p q) (evalAadd w a b c) s

/-- AMIN: signed minimum (R184). -/
def evalAmin (w : Wd) (a b c : Reg) : Eval := atomicRes 2 w a b c none
/-- AMIN issued on its own. -/
def execAmin (w : Wd) (a b c : Reg) (p q : Bool) (s : State) : Host.Outcome State Fault Refusal := solo (.amin w a b c p q) (evalAmin w a b c) s

/-- AMAX: signed maximum (R184). -/
def evalAmax (w : Wd) (a b c : Reg) : Eval := atomicRes 3 w a b c none
/-- AMAX issued on its own. -/
def execAmax (w : Wd) (a b c : Reg) (p q : Bool) (s : State) : Host.Outcome State Fault Refusal := solo (.amax w a b c p q) (evalAmax w a b c) s

/-- AMINU: unsigned minimum (R184). -/
def evalAminu (w : Wd) (a b c : Reg) : Eval := atomicRes 4 w a b c none
/-- AMINU issued on its own. -/
def execAminu (w : Wd) (a b c : Reg) (p q : Bool) (s : State) : Host.Outcome State Fault Refusal := solo (.aminu w a b c p q) (evalAminu w a b c) s

/-- AMAXU: unsigned maximum (R184). -/
def evalAmaxu (w : Wd) (a b c : Reg) : Eval := atomicRes 5 w a b c none
/-- AMAXU issued on its own. -/
def execAmaxu (w : Wd) (a b c : Reg) (p q : Bool) (s : State) : Host.Outcome State Fault Refusal := solo (.amaxu w a b c p q) (evalAmaxu w a b c) s

/-- AAND: bitwise and (R184). -/
def evalAand (w : Wd) (a b c : Reg) : Eval := atomicRes 6 w a b c none
/-- AAND issued on its own. -/
def execAand (w : Wd) (a b c : Reg) (p q : Bool) (s : State) : Host.Outcome State Fault Refusal := solo (.aand w a b c p q) (evalAand w a b c) s

/-- AOR: bitwise or (R184). -/
def evalAor (w : Wd) (a b c : Reg) : Eval := atomicRes 7 w a b c none
/-- AOR issued on its own. -/
def execAor (w : Wd) (a b c : Reg) (p q : Bool) (s : State) : Host.Outcome State Fault Refusal := solo (.aor w a b c p q) (evalAor w a b c) s

/-- AXOR: bitwise exclusive or (R184). -/
def evalAxor (w : Wd) (a b c : Reg) : Eval := atomicRes 8 w a b c none
/-- AXOR issued on its own. -/
def execAxor (w : Wd) (a b c : Reg) (p q : Bool) (s : State) : Host.Outcome State Fault Refusal := solo (.axor w a b c p q) (evalAxor w a b c) s

/-- ASWP: exchange (R184). -/
def evalAswp (w : Wd) (a b c : Reg) : Eval := atomicRes 9 w a b c none
/-- ASWP issued on its own. -/
def execAswp (w : Wd) (a b c : Reg) (p q : Bool) (s : State) : Host.Outcome State Fault Refusal := solo (.aswp w a b c p q) (evalAswp w a b c) s

/-- AFADD: binary32 addition, rounded to nearest even; its flags come with the result (R184). -/
def evalAfadd (a b c : Reg) : Eval := atomicRes 10 .w32 a b c none
/-- AFADD issued on its own. -/
def execAfadd (a b c : Reg) (p q : Bool) (s : State) : Host.Outcome State Fault Refusal := solo (.afadd a b c p q) (evalAfadd a b c) s

/-- ACAS: writes the third source where the location holds SC (R185). -/
def evalAcas (w : Wd) (a b c x : Reg) : Eval := atomicRes 11 w a b c (some x)
/-- ACAS issued on its own. -/
def execAcas (w : Wd) (a b c : Reg) (p q : Bool) (x : Reg) (r : Bool) (s : State) : Host.Outcome State Fault Refusal :=
  solo (.acas w a b c p q x r) (evalAcas w a b c x) s

/-- RADD: addition (R186). -/
def evalRadd (w : Wd) (b c : Reg) : Eval := reduceRes 1 w b c
/-- RADD issued on its own. -/
def execRadd (w : Wd) (b c : Reg) (p q : Bool) (s : State) : Host.Outcome State Fault Refusal := solo (.radd w b c p q) (evalRadd w b c) s

/-- RMIN: signed minimum (R186). -/
def evalRmin (w : Wd) (b c : Reg) : Eval := reduceRes 2 w b c
/-- RMIN issued on its own. -/
def execRmin (w : Wd) (b c : Reg) (p q : Bool) (s : State) : Host.Outcome State Fault Refusal := solo (.rmin w b c p q) (evalRmin w b c) s

/-- RMAX: signed maximum (R186). -/
def evalRmax (w : Wd) (b c : Reg) : Eval := reduceRes 3 w b c
/-- RMAX issued on its own. -/
def execRmax (w : Wd) (b c : Reg) (p q : Bool) (s : State) : Host.Outcome State Fault Refusal := solo (.rmax w b c p q) (evalRmax w b c) s

/-- RAND: bitwise and (R186). -/
def evalRand (w : Wd) (b c : Reg) : Eval := reduceRes 6 w b c
/-- RAND issued on its own. -/
def execRand (w : Wd) (b c : Reg) (p q : Bool) (s : State) : Host.Outcome State Fault Refusal := solo (.rand w b c p q) (evalRand w b c) s

/-- ROR: bitwise or (R186). -/
def evalRor (w : Wd) (b c : Reg) : Eval := reduceRes 7 w b c
/-- ROR issued on its own. -/
def execRor (w : Wd) (b c : Reg) (p q : Bool) (s : State) : Host.Outcome State Fault Refusal := solo (.ror w b c p q) (evalRor w b c) s

/-- RFADD: as AFADD; its flags are discarded (R186). -/
def evalRfadd (b c : Reg) : Eval := reduceRes 10 .w32 b c
/-- RFADD issued on its own. -/
def execRfadd (b c : Reg) (p q : Bool) (s : State) : Host.Outcome State Fault Refusal := solo (.rfadd b c p q) (evalRfadd b c) s

/-- LDACQ: an acquire read; SA is empty until the value arrives (R187). -/
def evalLdacq (w : Wd) (a b : Reg) : Eval := fun p _ e =>
  let n := wBytes w
  let va := (addrOf (p.sreg e b)).toNat
  match yCheck p e .rd va n false true with
  | .bad r => r
  | .ok locs =>
    readLater p e a 0 va n locs fun id =>
      { accOf0 p e .ldacq id with n := n, sgn := w == .w32, va := BitVec.ofNat 48 va, locs := locs }
/-- LDACQ issued on its own. -/
def execLdacq (w : Wd) (a b : Reg) (p : Bool) (s : State) : Host.Outcome State Fault Refusal := solo (.ldacq w a b p) (evalLdacq w a b) s

/-- STREL: posted at the commit, applied after every earlier event of the seat (R188). -/
def evalStrel (w : Wd) (b c : Reg) : Eval := fun p _ e =>
  let n := wBytes w
  let va := (addrOf (p.sreg e b)).toNat
  match yCheck p e .wr va n false false with
  | .bad r => r
  | .ok locs =>
    .ok { act := fun s => s.addAcc fun id =>
      { accOf0 p e .strel id with n := n, va := BitVec.ofNat 48 va, locs := locs, v := p.sreg e c } }
/-- STREL issued on its own. -/
def execStrel (w : Wd) (b c : Reg) (p q : Bool) (s : State) : Host.Outcome State Fault Refusal := solo (.strel w b c p q) (evalStrel w b c) s

/-- FENCE: commits at once; later issues that access memory wait for every earlier event (R189). -/
def evalFence (scope : BitVec 3) : Eval := fun _ _ e =>
  .ok { act := fun s =>
    let (id, s) := s.freshId
    s.modSeat e.seat fun x => { x with fence := some id, fenceSys := if scope = 4#3 then some id else x.fenceSys } }
/-- FENCE issued on its own. -/
def execFence (scope : BitVec 3) (s : State) : Host.Outcome State Fault Refusal := solo (.fence scope) (evalFence scope) s

/-- PUB: posted at the commit; an address that is not the base of a publishable buffer raises 0x21 (R190). The swap is an
event of every location of the buffer (R181), so a later access of the seat to the buffer comes after it (R175). -/
def evalPub (b : Reg) : Eval := fun p _ e =>
  let va := addrOf (p.sreg e b)
  match (p.ctx (p.seat e.seat).ctx).pbs.find? fun x => x.2.va == va with
  | none => faultVa 0x21 va.toNat
  | some x =>
    .ok { act := fun s => s.addAcc fun id =>
      { accOf0 p e .pub id with op := x.1, n := x.2.pages * 65536, va := va, locs := [⟨x.2.frameA.toNat * 65536, none⟩] } }
/-- PUB issued on its own. -/
def execPub (b : Reg) (p : Bool) (s : State) : Host.Outcome State Fault Refusal := solo (.pub b p) (evalPub b) s

/-! ## At the home port -/

/-- The width of an access of the Y slot. -/
def accWd (a : Acc) : Wd := if a.n = 8 then .d64 else .w32

/-- The value of an access before it, and what its operation makes of it. -/
def State.accOp (s : State) (a : Acc) : W64 × W64 × Flags :=
  let old := BitVec.ofNat 64 (ofBytesLE (s.accBytes a))
  let r := atomicNew a.op (accWd a) old a.v a.x
  (old, r.1, r.2)

/-- The new value is applied, with the test of a tile whose COUNT it is (R167). A failed ACAS writes nothing (R185). -/
def State.accApply (s : State) (a : Acc) (v : W64) : State :=
  match a.locs with
  | [p] =>
    let s := s.accWrite a (bytesLE a.n v.toNat)
    if a.op = 1 ∧ a.n = 8 then s.tileTest p.key else s
  | _ => s

/-- ATOMIC_APPLY: the operation at the home port, whose old value is the result (R184, R185); an uncorrectable
error applies nothing (R115). -/
def execAtomicApply (id : Nat) (s : State) : Host.Outcome State Fault Refusal :=
  .next (match s.accOf id [.atomic] with
    | some a =>
      let t := s.dropAcc id
      match s.accBad a with
      | some l => t.setResult id (BitVec.ofNat 64 l) 0 true
      | none =>
        let r := s.accOp a
        let t := t.noteRead a
        let t := if a.op = 11 ∧ uRd (accWd a) r.1 ≠ uRd (accWd a) a.x then t else t.accApply a r.2.1
        t.setResult id (extendTo a.n a.sgn r.1.toNat) r.2.2 false
    | none => s)

/-- REDUCTION_APPLY: the operation at the home port (R186); an uncorrectable error contains the carriage (R183). -/
def execReductionApply (id : Nat) (s : State) : Host.Outcome State Fault Refusal :=
  .next (match s.accOf id [.reduction] with
    | some a =>
      let t := s.dropAcc id
      match s.accBad a with
      | some l => t.containCarr a.ctx a.carr 0x70 l
      | none => t.accApply a (s.accOp a).2.1
    | none => s)

/-- STREL_APPLY: the write of a STREL, after every earlier event of its seat (R188). -/
def execStrelApply (id : Nat) (s : State) : Host.Outcome State Fault Refusal :=
  .next (match s.accOf id [.strel] with
    | some a => (s.dropAcc id).accWrite a (bytesLE a.n a.v.toNat)
    | none => s)

/-- The extent of the destination of a transfer command (R190): first address and length. -/
def Trans.extent (t : Trans) : Nat × Nat :=
  match t.k with
  | .gld => (t.dst.toNat, t.len * t.rb)
  | .sct =>
    let l := t.idx.filter fun i => i != 0xFFFFFFFF
    match l with
    | [] => (t.dst.toNat, 0)
    | i :: _ =>
      let a := l.foldl Nat.min i
      (t.dst.toNat + a * t.rb, (l.foldl Nat.max i - a + 1) * t.rb)
  | .copyh true => (t.dst.toNat, 0)
  | _ => (t.dst.toNat, t.len)

/-- The extents of a DRAIN: its rows and its scale bytes (R190). -/
def MCmd.extents (c : MCmd) : List (Nat × Nat) :=
  match c.k with
  | .drain _ fmt va _ nr _ nc _ sc _ scl _ _ _ =>
    (va.toNat, ((nr + 1) * (nc + 1) * fmtBits fmt + 7) / 8)
      :: (if sc then [(scl.toNat, (nr + 1) * ((nc + 1) / 16))] else [])
  | _ => []

/-- A PUB waits for the transfers and DRAINs of the carriage that were issued before it and write into its
buffer (R190). -/
def State.pubWaits (s : State) (a : Acc) : Bool :=
  let b := (s.ctx a.ctx).pb a.op
  let buf := [(b.va.toNat, b.pages * 65536)]
  ((s.transOf a.ctx a.carr).any fun t => decide (t.2.id < a.id) && rangesMeet buf [t.2.extent])
    || s.quads.any fun q => q.2.arr.cmds.any fun c =>
        c.ctx == a.ctx && c.carr == a.carr && decide (c.id < a.id) && rangesMeet buf c.extents

/-- A carriage has a read of a buffer to make that comes before one it has made: the swap falls at one point among the reads
of each agent, so that it comes after that read (R181). -/
def State.pubSplits (s : State) (a : Acc) : Bool :=
  let young := ((s.ctx a.ctx).pb a.op).reads
  s.accs.any fun b => b.ctx == a.ctx && !b.flag && (bindKind b.k || b.k == .atomic) && decide (b.id < SMap.get 0 young b.carr)
    && b.locs.any fun p => (p.pb.map Prod.fst) == some a.op

/-- PUB_SWAP: front and shadow change roles, on all dies at once (R181, R190). -/
def execPubSwap (id : Nat) (s : State) : Host.Outcome State Fault Refusal :=
  .next (match s.accOf id [.pub] with
    | some a =>
      if s.pubWaits a || s.pubSplits a then s
      else (s.dropAcc id).modCtx a.ctx fun c =>
        { c with pbs := c.pbs.map fun b => if b.1 = a.op then (b.1, { b.2 with sel := !b.2.sel, reads := [] }) else b }
    | none => s)

end Sys2Proof.Machine
end

