-- ==== Sys2Proof/Machine/Control.lean ====
section
/-!
DEFINITION. The C slot (R63, R97 to R110, R248): branches, calls and jumps, the loops, voluntary suspension,
END, TRAP and the returns.
-/

namespace Sys2Proof.Machine

/-- The target of a word offset from the address of the bundle (R68). -/
def relTarget (e : Env) (off : W32) : Addr := e.pc + 4 * off.signExtend 48
/-- A taken transfer. -/
def goTo (t : Addr) (pops : Bool) : SlotRes := .ok { npc := some t, pops := pops }
/-- A transfer that writes a link (R102, R103). -/
def goLink (e : Env) (a : Reg) (t : Addr) : SlotRes :=
  .ok { act := fun s => s.modSeat e.seat fun x => x.setReg a (e.next.setWidth 64), npc := some t }
/-- A conditional branch (R102). -/
def takeIf (e : Env) (taken : Bool) (off : W32) : SlotRes := if taken then goTo (relTarget e off) true else .ok {}

/-- B (R102). -/
def evalBra (off : W32) : Eval := fun _ _ e => goTo (relTarget e off) true
/-- B issued on its own. -/
def execBra (off : W32) (s : State) : Host.Outcome State Fault Refusal := solo (.bra off) (evalBra off) s

/-- BL: the link, and nothing is popped (R98, R102). -/
def evalBl (a : Reg) (off : W32) : Eval := fun _ _ e => goLink e a (relTarget e off)
/-- BL issued on its own. -/
def execBl (a : Reg) (off : W32) (s : State) : Host.Outcome State Fault Refusal := solo (.bl a off) (evalBl a off) s

/-- BEQ (R102). -/
def evalBeq (b c : Reg) (off : W32) : Eval := fun p _ e => takeIf e (p.sreg e b == p.sreg e c) off
/-- BEQ issued on its own. -/
def execBeq (b c : Reg) (p q : Bool) (off : W32) (s : State) : Host.Outcome State Fault Refusal := solo (.beq b c p q off) (evalBeq b c off) s

/-- BNE (R102). -/
def evalBne (b c : Reg) (off : W32) : Eval := fun p _ e => takeIf e (p.sreg e b != p.sreg e c) off
/-- BNE issued on its own. -/
def execBne (b c : Reg) (p q : Bool) (off : W32) (s : State) : Host.Outcome State Fault Refusal := solo (.bne b c p q off) (evalBne b c off) s

/-- BLT: signed (R102). -/
def evalBlt (b c : Reg) (off : W32) : Eval := fun p _ e => takeIf e (decide ((p.sreg e b).toInt < (p.sreg e c).toInt)) off
/-- BLT issued on its own. -/
def execBlt (b c : Reg) (p q : Bool) (off : W32) (s : State) : Host.Outcome State Fault Refusal := solo (.blt b c p q off) (evalBlt b c off) s

/-- BGE: signed (R102). -/
def evalBge (b c : Reg) (off : W32) : Eval := fun p _ e => takeIf e (decide ((p.sreg e c).toInt ≤ (p.sreg e b).toInt)) off
/-- BGE issued on its own. -/
def execBge (b c : Reg) (p q : Bool) (off : W32) (s : State) : Host.Outcome State Fault Refusal := solo (.bge b c p q off) (evalBge b c off) s

/-- BLTU: unsigned (R102). -/
def evalBltu (b c : Reg) (off : W32) : Eval := fun p _ e => takeIf e (decide ((p.sreg e b).toNat < (p.sreg e c).toNat)) off
/-- BLTU issued on its own. -/
def execBltu (b c : Reg) (p q : Bool) (off : W32) (s : State) : Host.Outcome State Fault Refusal := solo (.bltu b c p q off) (evalBltu b c off) s

/-- BGEU: unsigned (R102). -/
def evalBgeu (b c : Reg) (off : W32) : Eval := fun p _ e => takeIf e (decide ((p.sreg e c).toNat ≤ (p.sreg e b).toNat)) off
/-- BGEU issued on its own. -/
def execBgeu (b c : Reg) (p q : Bool) (off : W32) (s : State) : Host.Outcome State Fault Refusal := solo (.bgeu b c p q off) (evalBgeu b c off) s

/-- JR: to SB[47:0] (R103). -/
def evalJr (b : Reg) : Eval := fun p _ e => goTo (addrOf (p.sreg e b)) true
/-- JR issued on its own. -/
def execJr (b : Reg) (p : Bool) (s : State) : Host.Outcome State Fault Refusal := solo (.jr b p) (evalJr b) s

/-- JLR: the link, and nothing is popped (R103). -/
def evalJlr (a b : Reg) : Eval := fun p _ e => goLink e a (addrOf (p.sreg e b))
/-- JLR issued on its own. -/
def execJlr (a b : Reg) (p : Bool) (s : State) : Host.Outcome State Fault Refusal := solo (.jlr a b p) (evalJlr a b) s

/-- RET: as JR (R103). -/
def evalRet (b : Reg) : Eval := fun p _ e => goTo (addrOf (p.sreg e b)) true
/-- RET issued on its own. -/
def execRet (b : Reg) (p : Bool) (s : State) : Host.Outcome State Fault Refusal := solo (.ret b p) (evalRet b) s


/-- BKANY: taken when any lane of K`k` is 1 in a cluster that the mask names (R104). -/
def evalBkany (k : BitVec 3) (mask : BitVec 8) (off : BitVec 24) : Eval := fun p _ e =>
  takeIf e ((nats 8).any fun c => mask.getLsbD c && (p.seat e.seat).kreg c k.toNat != 0) (off.signExtend 32)
/-- BKANY issued on its own. -/
def execBkany (k : BitVec 3) (mask : BitVec 8) (off : BitVec 24) (s : State) : Host.Outcome State Fault Refusal :=
  solo (.bkany k mask off) (evalBkany k mask off) s

/-! ## Loops (R97, R100, R105) -/

/-- The address of the bundle that follows the one at `stop`, or the fault that its fetch raises (R105). -/
def afterBundle (s : State) (e : Env) (stop : Addr) : Except FetchErr Addr :=
  match s.fetchWord e.seat stop.toNat with
  | .error x => .error x
  | .ok h =>
    match bundleWords (fun i => s.fetchWord e.seat (stop.toNat + 4 * i)) h with
    | .error x => .error x
    | .ok n => .ok (stop + BitVec.ofNat 48 (4 * n))

/-- The end bundle of a loop comes before the next bundle, or the stack has no room (R105). -/
def loopBad (p : State) (e : Env) (off : W32) : Bool :=
  decide ((relTarget e off).toNat < e.next.toNat ∨ (p.seat e.seat).frame.loop.length = 4)

/-- LOOP and LOOPQ with their trip count: a count of zero goes past the end bundle. `pop` takes the count from its
queue. -/
def loopRes (p : State) (e : Env) (off : W32) (n : W64) (pop : State → State) : SlotRes :=
  let stop := relTarget e off
  if loopBad p e off then fault0 0x02
  else if n = 0 then
    match afterBundle p e stop with
    | .error (.wait f) => .wait f
    | .error (.fault c _) => faultVa c stop.toNat
    | .ok t => .ok { act := pop, npc := some t }
  else
    .ok { act := fun s => (pop s).modSeat e.seat fun x => { x with frame := { x.frame with loop := ⟨e.next, stop, n⟩ :: x.frame.loop } }
          npc := some e.next }

/-- LOOP: the trip count is in SB. -/
def evalLoop (b : Reg) (off : W32) : Eval := fun p _ e => loopRes p e off (p.sreg e b) id
/-- LOOP issued on its own. -/
def execLoop (b : Reg) (p : Bool) (off : W32) (s : State) : Host.Outcome State Fault Refusal := solo (.loop b p off) (evalLoop b off) s

/-- LOOPQ: the trip count is the oldest entry of CQ`n` that was pushed in an earlier cycle; with none it waits. -/
def evalLoopq (n : BitVec 3) (off : W32) : Eval := fun p _ e =>
  if loopBad p e off then fault0 0x02
  else if p.cqForeign e.quad (p.seat e.seat).ctx then cqFault n.toNat
  else
    match SMap.get [] (p.quad e.quad).cqs n.toNat with
    | [] => waits
    | (t, v) :: l =>
      if p.dieCycle ≤ t / 2 then waits
      else loopRes p e off (v.setWidth 64) fun s => s.modQuad e.quad fun q => { q with cqs := SMap.set [] q.cqs n.toNat l }
/-- LOOPQ issued on its own. -/
def execLoopq (n : BitVec 3) (off : W32) (s : State) : Host.Outcome State Fault Refusal := solo (.loopq n off) (evalLoopq n off) s

/-! ## Suspension (R106, R248) -/

/-- YIELD: the carriage is at once runnable again. -/
def evalYield : Eval := fun p _ e =>
  if p.suspendWaits e.seat then waits
  else if p.suspendBad e.seat then fault0 0x02
  else .ok { post := some fun s => s.leave e.seat 0 .runnable }
/-- YIELD issued on its own. -/
def execYield (s : State) : Host.Outcome State Fault Refusal := solo .yield evalYield s

/-- The wait descriptor has a reserved WK, or a nonzero bit that its kind reserves (R248). -/
def waitdBad (w : W64) : Bool :=
  let aux := fld w 59 48
  match fld w 63 60 with
  | 0 => aux != 0 || fld w 47 0 != 0
  | 1 => decide (2048 ≤ aux)
  | 2 => decide (32 ≤ aux)
  | 3 => !aux.testBit 10 || aux.testBit 11 || aux % 256 != 0 || fld w 47 12 != 0
  | 4 => aux != 0 || fld w 47 32 != 0
  | _ => true

/-- The first line in error that a read of a word at a place meets, as an address (R460). -/
def State.wordBad (s : State) (ctx : Nat) (p : PLoc) (va : Nat) : Option Nat :=
  if (s.badIn (s.front ctx p) 8).isSome then some (va / 64 * 64) else none

/-- SUSPEND on a barrier or counter word (R248): the word is read at its home port; when the condition holds
the carriage is runnable at once, with the word delivered if AUX asks for it; else the wait is registered. -/
def suspendWord (p : State) (e : Env) (w : W64) : SlotRes :=
  let x := p.seat e.seat
  let va := fld w 47 0
  if p.unperformed e.seat then waits
  else
    match wordTr p e .rd va with
    | .bad r => r
    | .ok pl =>
      match p.wordBad x.ctx pl va with
      | some l => faultVa 0x70 l
      | none =>
        let k := p.front x.ctx pl
        let aux : BitVec 12 := BitVec.ofNat 12 (fld w 59 48)
        let wt : Wait := ⟨x.carr, x.ctx, fld w 63 60, aux, addrOf w, k, 0⟩
        .ok { post := some fun s =>
          let v := s.rdWord k
          let s := s.suspendOn e.seat wt.kind aux (addrOf w) k 0
          if s.waitCond wt v then s.satisfy [wt] v else s }

/-- The checks of a queue handle (R334): a bound, then a queue that is FREE or of the wrong kind. -/
def handleBad (p : State) (ctx : Nat) (h : W64) (wrong : Queue → Bool) : Option SlotRes :=
  if 4096 ≤ h.toNat then some (.fault 0x45 h)
  else
    let q := p.queue ctx h.toNat
    if q.st = qFree ∨ wrong q = true then some (.fault 0x21 h) else none

/-- The wait for a queue that is not resident, or that others wait for (R330). -/
def queueWait (p : State) (e : Env) (h : W64) : Option SlotRes :=
  let x := p.seat e.seat
  if (p.queue x.ctx h.toNat).st = qResident ∧ p.qMay x.ctx h.toNat x.tok = true then none
  else some (.wait fun s => s.qHold x.ctx h.toNat x.tok)

/-- The issue of a seat comes to its queue. -/
def State.queuePass (s : State) (e : Env) (h : W64) : State :=
  let x := s.seat e.seat
  s.qEnter x.ctx h.toNat x.tok

/-- The number of takes registered on the queues of a die (R337). -/
def State.takesOn (s : State) (die : Nat) : Nat := (s.waits.filter fun w => w.kind == 3 && (s.queue w.ctx w.addr.toNat).home == die).length

/-- Registers a take (R337): a suspension with the descriptor, and the queue serves it at once if it can. -/
def State.takeOn (s : State) (seat ctx h : Nat) (aux : BitVec 12) : State :=
  ((s.queueLog ctx h (placeOf seat)).suspendOn seat 3 aux (BitVec.ofNat 48 h) 0 0).qServe ctx h

/-- SUSPEND on a queue (R248, R337). -/
def suspendQueue (p : State) (e : Env) (w : W64) : SlotRes :=
  let x := p.seat e.seat
  let h := BitVec.ofNat 64 (fld w 11 0)
  if p.unperformed e.seat then waits
  else
  match handleBad p x.ctx h (fun q => q.cons != 1) with
  | some r => r
  | none =>
    match queueWait p e h with
    | some r => r
    | none =>
    if 4096 ≤ p.takesOn (p.queue x.ctx h.toNat).home || !p.queueTurn x.ctx h.toNat (placeOf e.seat) then waits
    else .ok { post := some fun s => (s.queuePass e h).takeOn e.seat x.ctx h.toNat (BitVec.ofNat 12 (fld w 59 48)) }

/-- SUSPEND: waits on the descriptor in WAITD. -/
def evalSuspend : Eval := fun p _ e =>
  let w := (p.seat e.seat).waitd
  if p.suspendWaits e.seat then waits
  else if p.suspendBad e.seat || waitdBad w then fault0 0x02
  else
    match fld w 63 60 with
    | 0 => .ok { post := some fun s => s.leave e.seat w .runnable }
    | 3 => suspendQueue p e w
    | 4 => .ok { post := some fun s => s.suspendOn e.seat 4 0 (addrOf w) 0 (s.dieCycle + fld w 31 0) }
    | _ => suspendWord p e w
/-- SUSPEND issued on its own. -/
def execSuspend (s : State) : Host.Outcome State Fault Refusal := solo .suspend evalSuspend s

/-- END (R107). -/
def evalEndC : Eval := fun _ _ e => .ok { post := some fun s => s.endSeat e.seat }
/-- END issued on its own. -/
def execEndC (s : State) : Host.Outcome State Fault Refusal := solo .endC evalEndC s

/-! ## Traps and returns (R108 to R110) -/

/-- TRAP: after the commit and the back-edge rule, the next trap level, with the immediate as its value; XPC is
where the bundle continues. -/
def evalTrap (imm : BitVec 12) : Eval := fun _ _ e =>
  .ok { post := some fun s => s.trapEntry e.seat 0x04 (imm.setWidth 64) 0x2000 (s.seat e.seat).pc 0 }
/-- TRAP issued on its own. -/
def execTrap (imm : BitVec 12) (s : State) : Host.Outcome State Fault Refusal := solo (.trap imm) (evalTrap imm) s

/-- XRET: one trap level back; at level 0 it raises 0x02. -/
def evalXret : Eval := fun p _ e =>
  if (p.seat e.seat).lvl = 0 then fault0 0x02 else .ok { post := some fun s => s.modSeat e.seat Seat.xret }
/-- XRET issued on its own. -/
def execXret (s : State) : Host.Outcome State Fault Refusal := solo .xret evalXret s

/-- UIRET: back from the user-level interrupt handler; with none active it raises 0x02. -/
def evalUiret : Eval := fun p _ e =>
  if (p.seat e.seat).uiActive then .ok { post := some fun s => s.modSeat e.seat Seat.uiret } else fault0 0x02
/-- UIRET issued on its own. -/
def execUiret (s : State) : Host.Outcome State Fault Refusal := solo .uiret evalUiret s

end Sys2Proof.Machine
end

