-- ==== Sys2Proof/Machine/Barriers.lean ====
section
/-!
DEFINITION. Barriers and counters (R307 to R320, R460): the Y forms, and their application at the home port; waits
that are satisfied or expire (R248, R317).
-/

namespace Sys2Proof.Machine

/-! ## Posted forms -/

/-- A form that posts an operation on a word at its commit (R188): its value check, then steps 4 to 6 of R314. -/
def postWord (p : State) (e : Env) (k : AKind) (b : Reg) (bad : Option W64) (v x : W64) (s1 : Seat → Seat) : SlotRes :=
  let va := (addrOf (p.sreg e b)).toNat
  match bad with
  | some w => .fault 0x45 w
  | none =>
    match wordTr p e .atom va with
    | .bad r => r
    | .ok pl => okAct fun s => (s.modSeat e.seat s1).addAcc fun id =>
        { accOf0 p e k id with n := 8, va := BitVec.ofNat 48 va, locs := [pl], v := v, x := x }

/-- A value with bit 63 set is out of range (R314). -/
def signBad (w : W64) : Option W64 := if bit w 63 then some w else none

/-- The seat's table after BARINIT.own enters an address (R311). -/
def Seat.own (x : Seat) (a : Addr) : Seat := if x.owned.contains a then x else { x with owned := x.owned ++ [a] }

/-- BARINIT (R315). -/
def evalBarinit (b c : Reg) (own : Bool) : Eval := fun p _ e =>
  let n := p.sreg e c
  let x := p.seat e.seat
  let a := addrOf (p.sreg e b)
  let bad : Option W64 :=
    if n = 0 ∨ fld n 63 16 ≠ 0 then some n
    else if own ∧ x.owned.contains a = false ∧ 4 ≤ x.owned.length then some (a.setWidth 64)
    else none
  postWord p e .barinit b bad n (BitVec.ofNat 64 (if own then ownerOf e.seat else 0)) fun x => if own then x.own a else x
/-- BARINIT issued on its own. -/
def execBarinit (b c : Reg) (p q own : Bool) (s : State) : Host.Outcome State Fault Refusal := solo (.barinit b c p q own) (evalBarinit b c own) s

/-- CTRSET (R319). -/
def evalCtrset (b c : Reg) : Eval := fun p _ e => let v := p.sreg e c; postWord p e .ctrset b (signBad v) v 0 id
/-- CTRSET issued on its own. -/
def execCtrset (b c : Reg) (p q : Bool) (s : State) : Host.Outcome State Fault Refusal := solo (.ctrset b c p q) (evalCtrset b c) s

/-- CTRADD (R319). -/
def evalCtradd (b c : Reg) : Eval := fun p _ e => let v := p.sreg e c; postWord p e .ctradd b (signBad v) v 0 id
/-- CTRADD issued on its own. -/
def execCtradd (b c : Reg) (p q : Bool) (s : State) : Host.Outcome State Fault Refusal := solo (.ctradd b c p q) (evalCtradd b c) s

/-- BARARR (R316): an arrival, whose result is the whole word. -/
def evalBararr (a b : Reg) : Eval := fun p _ e =>
  let va := (addrOf (p.sreg e b)).toNat
  match wordTr p e .atom va with
  | .bad r => r
  | .ok pl => okAct fun s =>
    let (id, s) := s.freshId
    let s := s.modSeat e.seat fun x => x.addItem id a false 0 none 0
    let ac : Acc := { accOf0 p e .arrival id with n := 8, va := BitVec.ofNat 48 va, locs := [pl] }
    { s with accs := s.accs ++ [ac] }
/-- BARARR issued on its own. -/
def execBararr (a b : Reg) (p : Bool) (s : State) : Host.Outcome State Fault Refusal := solo (.bararr a b p) (evalBararr a b) s

/-- BARTEST (R318): an acquire read of the word. -/
def evalBartest (a b : Reg) : Eval := fun p _ e =>
  let va := (addrOf (p.sreg e b)).toNat
  match wordTr p e .rd va with
  | .bad r => r
  | .ok pl =>
    match p.wordBad (p.seat e.seat).ctx pl va with
    | some l => faultVa 0x70 l
    | none => readLater p e a 0 va 8 [pl] fun id => { accOf0 p e .bartest id with n := 8, va := BitVec.ofNat 48 va, locs := [pl] }
/-- BARTEST issued on its own. -/
def execBartest (a b : Reg) (p : Bool) (s : State) : Host.Outcome State Fault Refusal := solo (.bartest a b p) (evalBartest a b) s

/-! ## Waits (R317) -/

/-- A wait on a word: preconditions, range, the waits of R93, R155 and R178, the checks of the word; then it takes
the word, or suspends with a registered wait. -/
def waitRes (p : State) (e : Env) (kind : Nat) (a b : Reg) (aux : BitVec 12) (bad : Option W64) (cond : W64 → Bool) : SlotRes :=
  let x := p.seat e.seat
  let va := (addrOf (p.sreg e b)).toNat
  if p.suspendBad e.seat then fault0 0x02
  else
    match bad with
    | some w => .fault 0x45 w
    | none =>
      match wordTr p e .rd va with
      | .bad r => r
      | .ok pl =>
        if p.suspendWaits e.seat || p.unperformed e.seat then waits
        else
          match p.wordBad x.ctx pl va with
          | some l => faultVa 0x70 l
          | none =>
            let k := p.front x.ctx pl
            let w := p.rdWord k
            if cond w then okReg e a w
            else .ok { post := some fun s => s.suspendOn e.seat kind aux (BitVec.ofNat 48 va) k 0 }

/-- The AUX field of a BARWAIT. -/
def barAux (a : Reg) (gen : Nat) : BitVec 12 := BitVec.ofNat 12 ((if a = 0#6 then 0 else 1024 + (a.toNat - 60) * 256) + gen)
/-- The AUX field of a CTRWAIT. -/
def ctrAux (a c : Reg) : BitVec 12 := BitVec.ofNat 12 ((if a = 0#6 then 0 else 16 + (a.toNat - 60) * 4) + (c.toNat - 60))

/-- BARWAIT. -/
def evalBarwait (a b c : Reg) : Eval := fun p _ e =>
  let gen := fld (p.sreg e c) 31 24
  waitRes p e 1 a b (barAux a gen) none (barCond gen)
/-- BARWAIT issued on its own. -/
def execBarwait (a b c : Reg) (p q : Bool) (s : State) : Host.Outcome State Fault Refusal := solo (.barwait a b c p q) (evalBarwait a b c) s

/-- CTRWAIT. -/
def evalCtrwait (a b c : Reg) : Eval := fun p _ e =>
  let thr := p.sreg e c
  waitRes p e 2 a b (ctrAux a c) (signBad thr) (ctrCond thr)
/-- CTRWAIT issued on its own. -/
def execCtrwait (a b c : Reg) (p q : Bool) (s : State) : Host.Outcome State Fault Refusal := solo (.ctrwait a b c p q) (evalCtrwait a b c) s

/-! ## At the home port -/

/-- The location of an access to one word. -/
def State.accKey (s : State) (a : Acc) : Nat :=
  match a.locs with
  | [p] => s.front a.ctx p
  | _ => 0

/-- An operation that has to read a word whose line is in error contains the carriage (R183, R460). -/
def State.accContain (s : State) (a : Acc) : State := s.containCarr a.ctx a.carr 0x70 (a.va.toNat / 64 * 64)

/-- BARINIT_APPLY: the word is initialised (R310, R315). Every earlier entry of it in an owned-word table is freed, but for
those of seats that own it anew: by this BARINIT, or by one that is still to be applied (R311). -/
def execBarinitApply (id : Nat) (s : State) : Host.Outcome State Fault Refusal :=
  .next (match s.accOf id [.barinit] with
    | some a =>
      let t := s.dropAcc id
      let k := s.accKey a
      if (s.badIn k 8).isSome then t.accContain a
      else
        let w := t.rdWord k
        let own := a.x.toNat
        let anew (seat : Nat) : Bool := (decide (32768 ≤ own) && seat == seatOfOwner own)
          || t.accs.any fun b => b.k == .barinit && b.x != 0 && b.seat == seat && t.accKey b == k
        let t := freeListed t k anew
        t.applyWord k (bInit w a.v.toNat own)
    | none => s)

/-- BARRIER_ARRIVAL_APPLY: the arrival of a BARARR, whose result is the word after it (R310, R316). -/
def execBarrierArrivalApply (id : Nat) (s : State) : Host.Outcome State Fault Refusal :=
  .next (match s.accOf id [.arrival] with
    | some a =>
      let t := s.dropAcc id
      let k := s.accKey a
      if (s.badIn k 8).isSome then t.setResult id (BitVec.ofNat 64 (a.va.toNat / 64 * 64)) 0 true
      else
        let (w, t) := t.arrive k
        t.deliver id w 0
    | none => s)

/-- CTRSET_APPLY: the word is written, even into a line in error (R319, R460). -/
def execCtrsetApply (id : Nat) (s : State) : Host.Outcome State Fault Refusal :=
  .next (match s.accOf id [.ctrset] with
    | some a => (s.dropAcc id).applyWord (s.accKey a) a.v
    | none => s)

/-- CTRADD_APPLY: the amount is added (R312, R319). -/
def execCtraddApply (id : Nat) (s : State) : Host.Outcome State Fault Refusal :=
  .next (match s.accOf id [.ctradd] with
    | some a =>
      let t := s.dropAcc id
      let k := s.accKey a
      if (s.badIn k 8).isSome then t.accContain a else t.applyWord k (t.rdWord k + a.v)
    | none => s)

/-- The word of a registered wait is there: its window is not saved away by a quiesce (R327). -/
def State.waitLive (s : State) (w : Wait) : Bool :=
  match windowOf w.addr.toNat with
  | some (q, o) => decide (o < (s.ctx w.ctx).spLen q)
  | none => false

/-- WAIT_SATISFIED: the registered wait of a carriage on a word whose condition holds (R317). -/
def execWaitSatisfied (carr : Nat) (s : State) : Host.Outcome State Fault Refusal :=
  .next (match s.waits.find? fun w => w.carr == carr && s.waitLive w && s.waitCond w (s.rdWord w.key) with
    | some w => s.satisfy [w] (s.rdWord w.key)
    | none => s)

/-- DELAY_WAIT_EXPIRY: the delay of a SUSPEND has passed (R248). -/
def execDelayWaitExpiry (carr : Nat) (s : State) : Host.Outcome State Fault Refusal :=
  .next (match s.waits.find? fun w => w.carr == carr && w.kind == 4 && decide (w.at_ ≤ s.dieCycle) with
    | some w => { (s.wake w.ctx w.carr none) with waits := s.waits.filter fun y => y != w }
    | none => s)

end Sys2Proof.Machine
end

