-- ==== Sys2Proof/Machine/Queues.lean ====
section
/-!
DEFINITION. The queue forms QRES, QCOMMIT and QTAKE (R334 to R337) and their application at the home.
-/

namespace Sys2Proof.Machine

/-- Steps 2 and 3 of R334, and the wait for a queue that is not resident (R330). -/
def queueChk (p : State) (e : Env) (h : W64) (wrong : Queue → Bool) : Option SlotRes :=
  let ctx := (p.seat e.seat).ctx
  match handleBad p ctx h wrong with
  | some r => some r
  | none => queueWait p e h

/-- A form whose result comes from the home of a queue. -/
def queueAsk (p : State) (e : Env) (k : AKind) (a : Reg) (h : W64) : SlotRes := okAct fun s =>
  let s := s.queuePass e h
  let (id, s) := s.freshId
  let s := s.modSeat e.seat fun x => x.addItem id a false 0 none 0
  { s with accs := s.accs ++ [{ accOf0 p e k id with op := h.toNat }] }

/-- QRES (R335). -/
def evalQres (a c : Reg) : Eval := fun p _ e =>
  let h := p.sreg e c
  match queueChk p e h Queue.nodev with
  | some r => r
  | none => queueAsk p e .qres a h
/-- QRES issued on its own. -/
def execQres (a c : Reg) (q : Bool) (s : State) : Host.Outcome State Fault Refusal := solo (.qres a c q) (evalQres a c) s

/-- QCOMMIT and QCOMMIT.rel (R336). -/
def evalQcommit (b c : Reg) (rel : Bool) : Eval := fun p _ e =>
  let h := p.sreg e c
  match queueChk p e h (fun q => if rel then q.cons != 1 else q.nodev) with
  | some r => r
  | none => okAct fun s => (s.queuePass e h).addAcc fun id =>
      { accOf0 p e (if rel then .qrelease else .qcommit) id with op := h.toNat, v := p.sreg e b }
/-- QCOMMIT issued on its own. -/
def execQcommit (b c : Reg) (p q rel : Bool) (s : State) : Host.Outcome State Fault Refusal := solo (.qcommit b c p q rel) (evalQcommit b c rel) s

/-- QTAKE.wait (R337): at the home, in one step, it takes a published entry, whose ticket is then on its way to SA, or
registers the wait. -/
def takeWait (p : State) (e : Env) (a : Reg) (h : W64) : SlotRes :=
  let ctx := (p.seat e.seat).ctx
  let q := p.queue ctx h.toNat
  if p.suspendWaits e.seat || p.unperformed e.seat || !p.queueTurn ctx h.toNat (placeOf e.seat) then waits
  else if q.h ≠ q.p then okAct fun s =>
    let (v, s) := ((s.queuePass e h).queueLog ctx h.toNat (placeOf e.seat)).qTake ctx h.toNat
    let (id, s) := s.freshId
    let s := s.modSeat e.seat fun x => x.addItem id a false 0 none 0
    { s with accs := s.accs ++ [{ accOf0 p e .qtake id with op := h.toNat, flag := true, v }] }
  else if 4096 ≤ p.takesOn q.home then waits
  else .ok { post := some fun s => (s.queuePass e h).takeOn e.seat ctx h.toNat (BitVec.ofNat 12 (1024 + (a.toNat - 60) * 256)) }

/-- QTAKE. -/
def evalQtake (a c : Reg) (wait : Bool) : Eval := fun p _ e =>
  let h := p.sreg e c
  if wait && p.suspendBad e.seat then fault0 0x02
  else
    match queueChk p e h (fun q => q.cons != 1) with
    | some r => r
    | none => if wait then takeWait p e a h else queueAsk p e .qtake a h
/-- QTAKE issued on its own. -/
def execQtake (a c : Reg) (q wait : Bool) (s : State) : Host.Outcome State Fault Refusal := solo (.qtake a c q wait) (evalQtake a c wait) s

/-! ## At the home -/

/-- What an operation that comes to its queue finds. -/
inductive AtHome where
  | here
  | away (s : State)
  | gone

/-- The queue of an access: resident; not, or with accesses that arrived before, so that it waits (R330); or destroyed
meanwhile. -/
def State.atHome (s : State) (a : Acc) : AtHome :=
  let st := (s.queue a.ctx a.op).st
  if st = qFree then .gone
  else if st = qResident ∧ s.qMay a.ctx a.op (.acc a.id) = true then .here
  else .away (s.qHold a.ctx a.op (.acc a.id))

/-- The result of a form on a queue that was destroyed before it came there: the manual gives none (log 2). -/
def State.lostResult (s : State) (a : Acc) : State :=
  let (v, s) := s.freshWord
  (s.dropAcc a.id).deliver a.id v 0

/-- QRES_APPLY (R335). -/
def execQresApply (id : Nat) (s : State) : Host.Outcome State Fault Refusal :=
  .next (match s.accOf id [.qres] with
    | some a =>
      match s.atHome a with
      | .here =>
        let (v, t) := ((s.dropAcc id).qEnter a.ctx a.op (.acc id)).qRes a.ctx a.op a.carr
        t.deliver id v 0
      | .away t => t
      | .gone => s.lostResult a
    | none => s)

/-- QCOMMIT_APPLY (R336). -/
def execQcommitApply (id : Nat) (s : State) : Host.Outcome State Fault Refusal :=
  .next (match s.accOf id [.qcommit, .qrelease] with
    | some a =>
      match s.atHome a with
      | .here =>
        let k : BitVec 32 := a.v.setWidth 32
        let t := (s.dropAcc id).qEnter a.ctx a.op (.acc id)
        if a.k = .qrelease then t.qRelease a.ctx a.op k else t.qCommit a.ctx a.op k
      | .away t => t
      | .gone => s.dropAcc id
    | none => s)

/-- QTAKE_APPLY (R337). -/
def execQtakeApply (id : Nat) (s : State) : Host.Outcome State Fault Refusal :=
  .next (match s.accOf id [.qtake] with
    | some a =>
      if a.flag then (s.dropAcc id).deliver id a.v 0
      else
      match s.atHome a with
      | .here =>
        let (v, t) := ((s.dropAcc id).qEnter a.ctx a.op (.acc id)).qTake a.ctx a.op
        t.deliver id v 0
      | .away t => t
      | .gone => s.lostResult a
    | none => s)

end Sys2Proof.Machine
end

