-- ==== Sys2Proof/Machine/Fabric.lean ====
section
/-!
DEFINITION. The source side of the fabric: what the network engine of a die sends and when (R422, R427, R429,
R433), the Y forms FLD, FST, FATOM and NWR (R426 to R432), and the work requests (R433, R437, R438).
-/

namespace Sys2Proof.Machine

/-! ## Fabric forms in flight (R427, R429) -/

/-- KIND of the request of a fabric form. -/
def fabKind (k : AKind) : Nat :=
  match k with
  | .fld => 4
  | .fst => 6
  | _ => 7

/-- The access is a fabric form. -/
def Acc.isFab (a : Acc) : Bool := a.k == .fld || a.k == .fst || a.k == .fatom

/-- The value of S`x + 1` that a cas writes. -/
def Acc.fabNew (a : Acc) : W64 := BitVec.ofNat 64 (ofBytesLE (a.rcd.take 8))
/-- The address at the target: BASE + o. -/
def Acc.fabVa (a : Acc) : Nat := ofBytesLE (a.rcd.drop 8)
/-- The chip, the context and the 64-byte line that a fabric form touches. -/
def Acc.fabLine (a : Acc) : Nat × Nat × Nat := (ptrChip a.x, ptrTag a.x, a.fabVa / 64)

/-- What an operation at the target makes of the old value: FLD leaves it, FST puts the data in its place, FATOM is
as in R184; `none` where nothing is written. -/
def fabNewOf (kind op n : Nat) (old v new : W64) : Option W64 :=
  let w : Wd := if n = 8 then .d64 else .w32
  if kind = 4 then none
  else if kind = 6 then some v
  else if op = 11 then (if uRd w old = uRd w v then some new else none)
  else some (atomicNew op w old v 0).1

/-- The flags that the result of a FATOM raises (R184). -/
def fabFlags (op n : Nat) (old v : W64) : Flags := if op = 11 then 0 else (atomicNew op (if n = 8 then .d64 else .w32) old v 0).2

/-- The payload of the request of a fabric form; the manual gives none (log 23): the width, for FATOM the op, and
the operands. -/
def Acc.fabData (a : Acc) : List Byte :=
  match a.k with
  | .fld => [BitVec.ofNat 8 a.n]
  | .fst => [BitVec.ofNat 8 a.n] ++ bytesLE a.n a.v.toNat
  | _ => [BitVec.ofNat 8 a.n, BitVec.ofNat 8 a.op] ++ bytesLE 8 a.v.toNat ++ bytesLE 8 a.fabNew.toNat

/-- The answer to a fabric form comes to it: FLD and FATOM have their result (R427). -/
def State.fabDone (s : State) (a : Acc) (old : W64) : State :=
  let s := s.dropAcc a.id
  if a.k = .fst then s
  else s.deliver a.id (extendTo a.n a.sgn old.toNat) (if a.k = .fatom then fabFlags a.op a.n old a.v else 0)

/-- The die whose engine holds a line on loan, with the line (R430). -/
def State.loanOf (s : State) (l : Nat × Nat × Nat) : Option (Nat × Lent) :=
  (nats 4).findSome? fun d =>
    ((s.die d).lentIn.find? fun x => x.chip.toNat == l.1 && x.ctag.toNat == l.2.1 && x.line == l.2.2).map fun x => (d, x)

/-- A fabric form on a line that is on loan is applied to it here (R430). -/
def State.fabLocal (s : State) (a : Acc) (d : Nat) (l : Lent) : State :=
  let o := a.fabVa % 64
  let old := BitVec.ofNat 64 (ofBytesLE ((l.bytes.drop o).take a.n))
  let s := match fabNewOf (fabKind a.k) a.op a.n old a.v a.fabNew with
    | some v =>
      let bs := l.bytes.take o ++ bytesLE a.n v.toNat ++ l.bytes.drop (o + a.n)
      s.modDie d fun x => { x with lentIn := x.lentIn.map fun y => if y = l then { y with bytes := bs } else y }
    | none => s
  s.fabDone a old

/-- An earlier fabric form of the seat on the same line of the same chip has not been answered (R429). -/
def State.fabWaits (s : State) (a : Acc) : Bool := (s.before a).any fun b => b.isFab && b.fabLine == a.fabLine

/-- Sends one fabric form, or applies it to a line on loan, if it is its turn. -/
def State.fabSend (s : State) (d id : Nat) : State :=
  match s.accs.find? fun a => a.id == id with
  | none => s
  | some a =>
    if a.flag || s.fabWaits a then s
    else
      match s.loanOf a.fabLine with
      | some (e, l) => s.fabLocal a e l
      | none =>
        let cid := connId (ptrChip a.x) (ptrTag a.x)
        let s := s.openConn d true cid 0
        match s.conn d true cid with
        | none => s
        | some c =>
          if s.maySend d c (fabKind a.k) then
            let (m, s) := s.newMsg d c
            let h : Skf := { plainSkf (ptrChip a.x) (ptrTag a.x) (fabKind a.k) false c.gen with
              cls := BitVec.ofNat 2 (s.effClass d a.ctx ((s.recOf a.ctx a.carr).map (·.lid) |>.getD 0))
              msgid := m, rkey := a.x.setWidth 32, offset := a.va.setWidth 40 }
            let s := { s with accs := s.accs.map fun (b : Acc) => if b.id = id then { b with flag := true } else b }
            s.sendOn d a.ctx c ⟨h, a.fabData⟩ id
          else s

/-! ## Messages of work requests (R433) -/

/-- The connection on which a request sends. -/
def WReq.connId (w : WReq) : W32 := Machine.connId (ptrChip w.ptr) (ptrTag w.ptr)
/-- It sends as the source of the connection; the answer to a READ goes the other way. -/
def WReq.out (w : WReq) : Bool := w.kind != 6
/-- Its number of packets. -/
def WReq.count (w : WReq) : Nat := if w.kind = 1 ∨ w.kind = 6 then cdiv w.len 4096 else 1
/-- KIND of its packets. -/
def WReq.pktKind (w : WReq) : Nat := if w.kind = 1 then 1 else if w.kind = 2 then 2 else if w.kind = 3 then 9 else 3

/-- The die that has a work request, by a test, with the request; `d` is looked at first. -/
def State.wreqWhere (s : State) (d : Nat) (f : WReq → Bool) : Option (Nat × WReq) :=
  (d :: nats 4).findSome? fun k => ((s.die k).wreqs.find? f).map fun w => (k, w)

/-- Changes a work request of the package. -/
def State.modWreq (s : State) (d id : Nat) (f : WReq → WReq) : State :=
  s.modDie (((s.wreqWhere d fun w => w.id == id).map Prod.fst).getD d) fun x => { x with wreqs := x.wreqs.map fun w => if w.id = id then f w else w }

/-- The work requests of a context rest while it is QUIESCED, and once the die has saved it (R327, R375). -/
def State.wrHeld (s : State) (d ctx : Nat) : Bool :=
  let c := s.ctx ctx
  c.st == .quiesced || (c.st == .quiescing && c.saving.contains d)

/-- The bytes that a request reads at its source, a wait for a page, or the cause and address of its failure. -/
inductive WBytes where
  | ok (l : List Byte)
  | wait (va : Nat)
  | bad (cause va : Nat)

/-- Reads `n` bytes at an address for the engine. -/
def State.wRead (s : State) (ctx va n : Nat) : WBytes :=
  match transPages (fun a => s.look ctx .rd a) (pagesOf va n) with
  | .walk page => .wait (page * 2 ^ 16)
  | .hold a => .wait a
  | .fault c a => .bad c a
  | .ok h =>
    match s.gatherBad (s.heldKey ctx h) va n with
    | some a => .bad 0x70 a
    | none => .ok (s.gather (s.heldKey ctx h) va n)

/-- The payload of a NACK; the manual gives none (log 23): cause, reason, address. -/
def nackData (cause reason va : Nat) : List Byte := [BitVec.ofNat 8 cause, BitVec.ofNat 8 reason] ++ bytesBE 8 va

/-- The answer to a READ meets an error in what it reads: nothing more of it is sent, its source has a NACK (R428), and the
message is forgotten, so that a request sent again is looked at anew. -/
def State.nackRead (s : State) (d : Nat) (w : WReq) (cause va : Nat) : State :=
  let id := connId (ptrChip w.ptr) (ptrTag w.ptr)
  let gen := match s.conn d false id with
    | some c => c.gen
    | none => 0
  let s := (s.modDie d fun x => { x with wreqs := x.wreqs.filter fun y => y.id != w.id }).dropSent fun p => p.wr == w.id
  let s := s.modConn d false id fun c => { c with msgs := SMap.erase c.msgs w.msgid.toNat }
  let h : Skf := { plainSkf (ptrChip w.ptr) (ptrTag w.ptr) 0x12 true gen with
    cls := BitVec.ofNat 2 w.cls, msgid := w.msgid, ts := w.ts, rkey := w.ptr.setWidth 32 }
  s.emit d w.ctx ⟨h, nackData cause 0 va⟩

/-- A work request fails for a cause met at its source: as a NACK of R439 (log 69). -/
def State.failWreq (s : State) (d : Nat) (w : WReq) (cause va : Nat) : State :=
  if w.kind = 6 then s.nackRead d w cause va
  else if w.fired then
    let s := s.cancelWreq d w cause
    if w.lctr = 0 then s else s.errReleaseVa w.ctx .counter w.lctr.toNat cause 3
  else s.containCarr w.ctx w.carr cause va

/-- Sends the next packet of a started work request, if it may go, and answers whether another may follow; none when
it may not. -/
def State.wrNext (s : State) (d id : Nat) : Option (Bool × State) :=
  match (s.die d).wreqs.find? fun w => w.id == id with
  | none => none
  | some w =>
    match s.conn d w.out w.connId with
    | none => none
    | some c =>
      let unacked := (c.sent.filter fun p => p.wr == id).length
      if !w.started || w.done || decide (w.count ≤ w.next) || decide (256 ≤ unacked) || !s.maySend d c w.pktKind || s.wrHeld d w.ctx then none
      else
        let i := w.next
        let n := if w.kind = 1 ∨ w.kind = 6 then Nat.min 4096 (w.len - 4096 * i) else w.len
        let data := if w.kind = 2 then WBytes.ok (bytesBE 8 w.len) else s.wRead w.ctx (w.laddr.toNat + 4096 * i) n
        match data with
        | .wait va => some (false, s.noteHold d w.ctx va)
        | .bad cause va => some (false, s.failWreq d w cause va)
        | .ok l =>
          let h : Skf := { plainSkf (ptrChip w.ptr) (ptrTag w.ptr) w.pktKind (w.kind == 6) c.gen with
            cls := BitVec.ofNat 2 w.cls, msgid := w.msgid, ts := w.ts, rkey := w.ptr.setWidth 32
            offset := BitVec.ofNat 40 ((if w.kind = 6 then 0 else w.roff) + 4096 * i), pidx := BitVec.ofNat 16 i }
          some (true, (s.modWreq d id fun w => { w with next := i + 1 }).sendOn d w.ctx c ⟨h, l⟩ id)

/-- Sends packets of a request while it may. -/
def wrGo : Nat → State → Nat → Nat → State
  | 0, s, _, _ => s
  | fuel + 1, s, d, id =>
    match s.wrNext d id with
    | some (true, s) => wrGo fuel s d id
    | some (false, s) => s
    | none => s

/-- The engine of a die sends a RECALL for each lent line that an access waits for (R430). -/
def State.recallGo (s : State) (d : Nat) : State :=
  (s.die d).lentOut.foldl (fun s l =>
    let ask := l.wanted == 1 || (s.accs.any fun a => a.ranges.any fun r => r.1 / 64 == l.key)
    if l.wanted = 2 ∨ ask = false then s
    else
      let s := s.modDie d fun x => { x with lentOut := x.lentOut.map fun y => if y = l then { y with wanted := 2 } else y }
      match s.conn d false (connId l.chip.toNat l.ctag.toNat) with
      | some c => s.sendOn d l.ctag.toNat c ⟨plainSkf l.chip.toNat l.ctag.toNat 0x17 false c.gen, bytesBE 8 (64 * l.line)⟩ 0
      | none => s) s

/-- The network engine of a die sends what it may: fabric forms in their order, the packets of the work requests
that have started, and recalls. -/
def State.pump (s : State) (d : Nat) : State :=
  let s := (s.accs.filter fun a => a.isFab && !a.flag && dieOf a.seat == d).foldl (fun s a => s.fabSend d a.id) s
  let s := (s.die d).wreqs.foldl (fun s w => wrGo 257 s d w.id) s
  s.recallGo d

/-! ## FLD, FST and FATOM (R426, R427) -/

/-- The checks 2 to 4 of R427, then the access: `mk` makes it of its number, given BASE + o. -/
def fabRes (p : State) (e : Env) (ptr o : W64) (n kind : Nat) (go : Nat → SlotRes) : SlotRes :=
  if fld ptr 47 44 ≠ 0 ∨ 8192 ≤ ptrChip ptr then .fault 0x45 ptr
  else if 2 ^ 40 ≤ o.toNat then .fault 0x45 o
  else if o.toNat % n ≠ 0 then .fault 0x08 o
  else
    match p.keyCheck e.die ptr o.toNat n kind with
    | .wait => .wait fun s => s.askKey e.die (p.seat e.seat).ctx ptr
    | .bad r => .fault 0x22 (keyXva ptr r o.toNat)
    | .ok base => go ((base + o.toNat) % 2 ^ 48)

/-- An access of a fabric form. -/
def fabAcc (p : State) (e : Env) (k : AKind) (w : Wd) (ptr o v new : W64) (op va id : Nat) : Acc :=
  { accOf0 p e k id with op := op, n := wBytes w, sgn := w == .w32, va := addrOf o, v := v, x := ptr,
                         rcd := bytesLE 8 new.toNat ++ bytesLE 8 va }

/-- A fabric form with a result: a landing slot, or full/empty (R427). -/
def fabRead (p : State) (e : Env) (k : AKind) (w : Wd) (a : Reg) (arr : BitVec 16) (ptr o v new : W64) (op : Nat) : SlotRes :=
  fabRes p e ptr o (wBytes w) (fabKind k) fun va => okAct fun s =>
    let (id, s) := s.freshId
    let s := s.modSeat e.seat fun x => x.addItem id a (arr != 0) (e.start + arr.toNat) none 0
    { s with accs := s.accs ++ [fabAcc p e k w ptr o v new op va id] }.pump e.die

/-- FLD. -/
def evalFld (w : Wd) (a b c : Reg) (arr off : BitVec 16) : Eval := fun p _ e =>
  fabRead p e .fld w a arr (p.sreg e b) (p.sreg e c + off.signExtend 64) 0 0 0
/-- FLD issued on its own. -/
def execFld (w : Wd) (a b c : Reg) (p q : Bool) (arr off : BitVec 16) (s : State) : Host.Outcome State Fault Refusal :=
  solo (.fld w a b c p q arr off) (evalFld w a b c arr off) s

/-- FST: posted at its commit. -/
def evalFst (w : Wd) (b c x : Reg) : Eval := fun p _ e =>
  let ptr := p.sreg e b
  let o := p.sreg e c
  fabRes p e ptr o (wBytes w) 6 fun va => okAct fun s =>
    (s.addAcc fun id => fabAcc p e .fst w ptr o (p.sreg e x) 0 0 va id).pump e.die
/-- FST issued on its own. -/
def execFst (w : Wd) (b c : Reg) (p q : Bool) (x : Reg) (r : Bool) (s : State) : Host.Outcome State Fault Refusal :=
  solo (.fst w b c p q x r) (evalFst w b c x) s

/-- FATOM: its operand is S`x`, and for cas the new value S`x + 1`. -/
def evalFatom (w : Wd) (a b c : Reg) (arr : BitVec 16) (op : BitVec 4) (x : Reg) : Eval := fun p _ e =>
  fabRead p e .fatom w a arr (p.sreg e b) (p.sreg e c) (p.sreg e x) (p.sreg e (x + 1)) op.toNat
/-- FATOM issued on its own. -/
def execFatom (w : Wd) (a b c : Reg) (p q : Bool) (arr : BitVec 16) (op : BitVec 4) (x : Reg) (r : Bool) (s : State) :
    Host.Outcome State Fault Refusal :=
  solo (.fatom w a b c p q arr op x r) (evalFatom w a b c arr op x) s

/-! ## NWR (R431, R432) -/

/-- The bits that a work-request record names, for an OP (R431). -/
def wrNamed (op : Nat) : List W64 :=
  [0xFFC0FFFFFFFFFFFF, (if op = 4 ∨ op = 5 then 0xFFFF0000 else 0xFFFF0FFFFFFFFFFF), 0x0000FFFFFFFFFFFF, 0x000000FFFFFFFFFF,
   0x0000FFFFFFFFFFFF, 0xFFFF000000000007, 0x0000FFFFFFFFFFFF, 0]

/-- Step 3 of R432: OP, and the unnamed bits. -/
def wrIllegal (l : List Byte) : Bool :=
  let op := fld (recWord l 0) 63 56
  decide (op = 0 ∨ 5 < op) || (nats 8).any fun i => recWord l i &&& ~~~(nth 0 (wrNamed op) i) != 0

/-- The region of R349 that an address lies in. -/
def capRegion (va : Nat) : Nat :=
  if va < 0x800000000000 then 0 else if va < 0xC00000000000 then 1 else if va < 0xFF0000000000 then 2
  else if va < 0xFF0020000000 then 3 else 4

/-- Step 4 of R432: lengths, offsets, the index and the range of a key. -/
def wrBounds (nrk : Nat) (l : List Byte) : Bool :=
  let op := fld (recWord l 0) 63 56
  let roff := fld (recWord l 2) 47 0
  let len := fld (recWord l 3) 39 0
  let lenBad := if op ≤ 2 then decide (len = 0 ∨ 2 ^ 32 < len) else if op = 3 then decide (len = 0 ∨ 4096 < len)
    else op == 4 && len == 0
  lenBad || (decide (op ≤ 3) && decide (2 ^ 40 < roff + len)) || (decide (4 ≤ op) && decide (nrk ≤ fld (recWord l 1) 31 16))
    || (op == 4 && (capRegion roff != capRegion (roff + len - 1) || decide (2 ^ 48 < roff + len)))

/-- LADDR, the number of its bytes, and whether they are written; none for KEYDEL. -/
def wrLocal (l : List Byte) : Option (Nat × Nat × Bool) :=
  let a := fld (recWord l 0) 47 0
  let len := fld (recWord l 3) 39 0
  match fld (recWord l 0) 63 56 with
  | 1 | 3 => some (a, len, false)
  | 2 => some (a, len, true)
  | 4 => some (a, 8, true)
  | _ => none

/-- Steps 3 to 5 of R432 on a captured record at an address; none when it passes them. -/
def wrCheck (p : State) (e : Env) (ra : Nat) (l : List Byte) : Option SlotRes :=
  let c := p.ctx (p.seat e.seat).ctx
  let lctr := fld (recWord l 4) 47 0
  let kctr := fld (recWord l 6) 47 0
  if wrIllegal l then some (fault0 0x02)
  else if wrBounds c.nrk l then some (faultVa 0x45 ra)
  else if lctr % 8 ≠ 0 then some (faultVa 0x08 lctr)
  else if kctr % 8 ≠ 0 then some (faultVa 0x08 kctr)
  else
    let onDie := match windowOf lctr with
      | some (q, o) => q / 28 == e.die && decide (o < c.spLen q)
      | none => false
    if lctr ≠ 0 ∧ (onDie = false ∨ (c.onTile lctr 8 = true ∧ c.onCount lctr = false)) then some (faultVa 0x21 lctr)
    else
      match wrLocal l with
      | none => none
      | some (a, n, wr) =>
        match transWord p e (if wr then .wr else .rd) a n with
        | .ok _ => none
        | r => some (spanBad p e r)

/-- A work request of a record. -/
def wrOf (id ctx carr die : Nat) (l : List Byte) (fired : Bool) (syl : W32) : WReq :=
  { id, ctx, carr, die, kind := fld (recWord l 0) 63 56, cls := fld (recWord l 0) 55 54, laddr := addrOf (recWord l 0),
    ptr := recWord l 1, roff := fld (recWord l 2) 47 0, len := fld (recWord l 3) 39 0, lctr := addrOf (recWord l 4),
    src := BitVec.ofNat 16 (fld (recWord l 5) 63 48), rgt := BitVec.ofNat 3 (fld (recWord l 5) 2 0), kctr := addrOf (recWord l 6),
    started := false, next := 0, acked := 0, counted := 0, done := false, fired, msgid := 0, syl, ts := 0 }

/-- Step 6 of R432 on a record: none when it passes, or names no key. -/
def wrKey (p : State) (d : Nat) (l : List Byte) : Option KeyRes :=
  let op := fld (recWord l 0) 63 56
  if op ≤ 2 then
    match p.keyCheck d (recWord l 1) (fld (recWord l 2) 47 0) (fld (recWord l 3) 39 0) op with
    | .ok _ => none
    | r => some r
  else none

/-- NWR. -/
def evalNwr (b : Reg) : Eval := fun p _ e =>
  let x := p.seat e.seat
  let ra := (addrOf (p.sreg e b)).toNat
  if ra % 64 ≠ 0 then faultVa 0x08 ra
  else
    match earlyRead p e ra 64 ra true with
    | .bad r => r
    | .ok l =>
      match wrCheck p e ra l with
      | some r => r
      | none =>
        match wrKey p e.die l with
        | some (.bad r) => .fault 0x22 (keyXva (recWord l 1) r (fld (recWord l 2) 47 0))
        | some _ => .wait fun s => s.askKey e.die x.ctx (recWord l 1)
        | none =>
          if 4096 ≤ ((p.die e.die).wreqs.filter fun w => w.kind != 6).length then waits
          else okAct fun s =>
            let (id, s) := s.freshId
            s.modDie e.die fun d => { d with wreqs := d.wreqs ++ [wrOf id x.ctx x.carr e.die l false e.syl] }
/-- NWR issued on its own. -/
def execNwr (b : Reg) (p : Bool) (s : State) : Host.Outcome State Fault Refusal := solo (.nwr b p) (evalNwr b) s

/-! ## The start and the end of a work request -/

/-- Posted work of a carriage with a number may take effect (R302, R432): every earlier event of the seat is
performed, and every earlier transfer command, DRAIN, MDST, out-stream push and CMPR to a stream has completed. -/
def State.postReady (s : State) (ctx carr id : Nat) : Bool :=
  !(s.accs.any fun a => a.ctx == ctx && a.carr == carr && decide (a.id < id))
    && !((s.pushesOf ctx carr).any fun p => decide (p.id < id))
    && !((s.hcwldOf ctx carr).any fun w => decide (w.id < id))
    && !((s.transOf ctx carr).any fun t => decide (t.2.id < id))
    && !(s.quads.any fun q => q.2.arr.cmds.any fun c => c.ctx == ctx && c.carr == carr && decide (c.id < id) && c.k.stores)

/-- A work request of a kind that may start now, with its die. -/
def State.wrReady (s : State) (id kind : Nat) : Option (Nat × WReq) :=
  (nats 4).findSome? fun d =>
    ((s.die d).wreqs.find? fun w => w.id == id && w.kind == kind && !w.started && !s.wrHeld d w.ctx && (w.fired || s.postReady w.ctx w.carr w.id)).map
      fun w => (d, w)

/-- A message starts: it takes its id on the connection, which it opens, and sends what it may. -/
def State.wrStart (s : State) (d : Nat) (w : WReq) : State :=
  let s := s.openConn d true w.connId 0
  match s.conn d true w.connId with
  | none => s
  | some c =>
    let (m, s) := s.newMsg d c
    (s.modWreq d w.id fun w => { w with started := true, msgid := m }).pump d

/-- WR_WRITE (R433). -/
def execWrWrite (id : Nat) (s : State) : Host.Outcome State Fault Refusal :=
  .next (match s.wrReady id 1 with
    | some (d, w) => s.wrStart d w
    | none => s)
/-- WR_READ (R433). -/
def execWrRead (id : Nat) (s : State) : Host.Outcome State Fault Refusal :=
  .next (match s.wrReady id 2 with
    | some (d, w) => s.wrStart d w
    | none => s)
/-- WR_VAT (R433). -/
def execWrVat (id : Nat) (s : State) : Host.Outcome State Fault Refusal :=
  .next (match s.wrReady id 3 with
    | some (d, w) => s.wrStart d w
    | none => s)

/-- An addition to a counter word that a work request names; nothing where it names none. -/
def State.addLctr (s : State) (d ctx va n : Nat) : State :=
  if va = 0 then s
  else
    match s.wordKey ctx .red va with
    | some k => (s.keyLog ctx k (agentNet d)).addCount k n
    | none => s

/-- The addition may be made now: in a replay, it is the network engine's turn (R380). -/
def State.lctrTurn (s : State) (d ctx va : Nat) : Bool :=
  va == 0 || (match s.wordKey ctx .red va with
    | some k => s.keyTurn ctx k (agentNet d)
    | none => true)

/-- The entry of a key as KEYSET leaves it (R438). -/
def newKey (w : WReq) (kgen : Nat) : BitVec 256 :=
  BitVec.ofNat 256 (kgen % 65536 * 2 ^ 224 + w.kctr.toNat * 2 ^ 128 + w.src.toNat * 2 ^ 112 + w.len % 2 ^ 40 * 2 ^ 64
    + 2 ^ 63 + w.rgt.toNat * 2 ^ 60 + w.roff % 2 ^ 48)

/-- The engines of this chip forget the entry that they have cached of a key of this chip (R438). -/
def State.forgetKey (s : State) (ctx i : Nat) : State :=
  (nats 4).foldl (fun s d => s.modDie d fun x =>
    { x with keys := x.keys.filter fun k => !(k.chip.toNat == s.chip && k.ctag.toNat == ctx && k.index.toNat == i) }) s

/-- A key operation has been performed: its 8 bytes are to be counted, which completes it. -/
def State.keyDone (s : State) (d : Nat) (w : WReq) : State :=
  (s.forgetKey w.ctx (fld w.ptr 31 16)).modWreq d w.id fun w => { w with started := true, acked := 8, done := true }

/-- WR_KEYSET: the entry is written, then the key at LADDR (R438). -/
def execWrKeyset (id : Nat) (s : State) : Host.Outcome State Fault Refusal :=
  .next (match s.wrReady id 4 with
    | some (d, w) =>
      let i := fld w.ptr 31 16
      match s.keyLoc w.ctx i, transPages (fun a => s.look w.ctx .wr a) (pagesOf w.laddr.toNat 8) with
      | some k, .ok h =>
        let g := (kGen (BitVec.ofNat 256 (s.rdNat k 32)) + 1) % 65536
        let t := s.wrNat k 32 (newKey w g).toNat
        (t.applyPieces (pieces (t.heldKey w.ctx h) w.laddr.toNat (bytesLE 8 (i * 65536 + g)))).keyDone d w
      | some _, .hold a => s.noteHold d w.ctx a
      | some _, .fault c a => s.failWreq d w c a
      | _, _ => s
    | none => s)

/-- WR_KEYDEL (R438). -/
def execWrKeydel (id : Nat) (s : State) : Host.Outcome State Fault Refusal :=
  .next (match s.wrReady id 5 with
    | some (d, w) =>
      match s.keyLoc w.ctx (fld w.ptr 31 16) with
      | some k =>
        let e := s.rdNat k 32
        let g := (kGen (BitVec.ofNat 256 e) + 1) % 65536
        let e := e - bitsAt e 224 16 * 2 ^ 224 + g * 2 ^ 224 - (if e.testBit 63 then 2 ^ 63 else 0)
        (s.wrNat k 32 e).keyDone d w
      | none => s
    | none => s)

/-- A work request leaves the network engine. -/
def State.dropWreq (s : State) (d id : Nat) : State := s.modDie d fun x => { x with wreqs := x.wreqs.filter fun y => y.id != id }

/-- WORK_REQUEST_COMPLETE: every packet is acknowledged; LCTR has what it has not yet been given (R437). -/
def execWorkRequestComplete (id : Nat) (s : State) : Host.Outcome State Fault Refusal :=
  .next (match (nats 4).findSome? fun d => ((s.die d).wreqs.find? fun w => w.id == id && w.done && !s.wrHeld d w.ctx).map fun w => (d, w) with
    | some (d, w) =>
      if w.kind = 6 ∨ w.acked = w.counted then s.dropWreq d id
      else if s.lctrTurn d w.ctx w.lctr.toNat then (s.addLctr d w.ctx w.lctr.toNat (w.acked - w.counted)).dropWreq d id
      else s
    | none => s)

end Sys2Proof.Machine
end

