-- ==== Sys2Proof/Machine/Kernels.lean ====
section
/-!
DEFINITION. The forms LAUNCH, TRIG and PDONE (R301 to R305) with what they do when they take effect, and the packets
and notices between the dies (R281, R287 to R289, R295, R298).
-/

namespace Sys2Proof.Machine

/-! ## The forms -/

/-- LAUNCH (R302). -/
def evalLaunch (b c : Reg) : Eval := fun p _ e =>
  let ctx := (p.seat e.seat).ctx
  let h := p.sreg e c
  let va := (addrOf (p.sreg e b)).toNat
  if 4096 ≤ h.toNat then .fault 0x45 h
  else if va % 64 ≠ 0 then faultVa 0x08 va
  else
    match trSpan p e .rd va 64 with
    | .ok refs =>
      let q := p.queue ctx h.toNat
      if q.st = qFree ∨ q.nodev = true then .fault 0x21 h
      else match queueWait p e h with
      | some r => r
      | none =>
      if q.n ≤ (q.t - q.f).toNat then .wait fun s => s.queuePass e h
      else okAct fun s => (s.queuePass e h).addAcc fun id =>
        { accOf0 p e .launch id with op := h.toNat, va := BitVec.ofNat 48 va, x := e.syl.setWidth 64, rref := refs }
    | r => spanBad p e r
/-- LAUNCH issued on its own. -/
def execLaunch (b c : Reg) (p q : Bool) (s : State) : Host.Outcome State Fault Refusal := solo (.launch b c p q) (evalLaunch b c) s

/-- TRIG (R303). -/
def evalTrig : Eval := fun p _ e => okAct fun s => s.addAcc fun id => accOf0 p e .trig id
/-- TRIG issued on its own. -/
def execTrig (s : State) : Host.Outcome State Fault Refusal := solo .trig evalTrig s

/-- The launch of the carriage on a seat. -/
def State.launchOf (s : State) (seat : Nat) : Option LEnt := s.lent (dieOf seat) (s.seat seat).ctx (s.seat seat).lid

/-- PDONE (R304). -/
def evalPdone : Eval := fun p _ e =>
  match p.launchOf e.seat with
  | some l => if l.p.isFront then okAct fun s => s.addAcc fun id => accOf0 p e .pdone id else fault0 0x02
  | none => fault0 0x02
/-- PDONE issued on its own. -/
def execPdone (s : State) : Host.Outcome State Fault Refusal := solo .pdone evalPdone s

/-! ## Taking effect -/

/-- Posted work of a kind that may take effect now. -/
def State.postOf (s : State) (id : Nat) (k : AKind) : Option Acc :=
  (s.accs.find? fun a => a.id == id && a.k == k).filter fun a => s.postReady a.ctx a.carr a.id

/-- LAUNCH_TAKES_EFFECT (R302). -/
def execLaunchTakesEffect (id : Nat) (s : State) : Host.Outcome State Fault Refusal :=
  .next (match s.postOf id .launch with
    | some a =>
      let t := s.dropAcc id
      let q := s.queue a.ctx a.op
      let syl := some a.x.toNat
      if q.st = qFree ∨ q.nodev = true then t.contain a.seat 0x21 a.op syl
      else
        match s.gatherBad (s.heldKey a.ctx a.rref) a.va.toNat 64 with
        | some l => t.contain a.seat 0x70 l syl
        | none =>
          if q.st ≠ qResident ∨ s.qMay a.ctx a.op (.acc id) = false then s.qHold a.ctx a.op (.acc id)
          else (t.qPut a.ctx a.op a.agent (s.gather (s.heldKey a.ctx a.rref) a.va.toNat 64)).getD s |>.qEnter a.ctx a.op (.acc id)
    | none => s)

/-- The triggers of a launch satisfy its dependents on every die. -/
def State.satisfiedAll (s : State) (ctx lid : Nat) : Bool :=
  (nats 4).all fun d => match s.lent d ctx lid with
    | some e => decide (e.need ≤ e.known)
    | none => false

/-- TRIG_TAKES_EFFECT: the die's count rises, and the other dies are told until the launch is satisfied everywhere
(R289, R303). -/
def execTrigTakesEffect (id : Nat) (s : State) : Host.Outcome State Fault Refusal :=
  .next (match s.postOf id .trig with
    | some a =>
      let d := dieOf a.seat
      let lid := (s.seat a.seat).lid
      let s := s.dropAcc id
      match s.lent d a.ctx lid with
      | none => s
      | some e =>
        if e.p.tcnt = 0 then s
        else
          let told := s.satisfiedAll a.ctx lid
          let s := s.modLent d a.ctx lid fun e => { e with trigs := e.trigs + 1 }
          let s := match s.lent d a.ctx lid with
            | some e => if told then s else s.notify d e false
            | none => s
          s.settle d
    | none => s)

/-- PDONE_TAKES_EFFECT: the point of the carriage completes (R297). -/
def execPdoneTakesEffect (id : Nat) (s : State) : Host.Outcome State Fault Refusal :=
  .next (match s.postOf id .pdone with
    | some a =>
      let d := dieOf a.seat
      ((s.dropAcc id).pointDone d a.ctx (s.seat a.seat).lid a.carr).settle d
    | none => s)

/-! ## Device requests (R347) -/

/-- SVC with a number: S9 to S11 are read, and the request goes to the firmware of the die; S8 has its answer later. -/
def evalSvc (n : Nat) : Eval := fun p _ e => okAct fun s =>
  let (id, s) := s.freshId
  let s := s.modSeat e.seat fun x => x.addItem id 8 false 0 none 0
  let a : Acc := { accOf0 p e .svc id with op := n, v := p.sreg e 9, x := p.sreg e 10, rcd := bytesLE 8 (p.sreg e 11).toNat }
  { s with accs := s.accs ++ [a] }.modDie e.die fun d => { d with svcs := d.svcs ++ [id] }

/-- SVC 0x000, PING. -/
def evalSvcPing : Eval := evalSvc 0
/-- SVC PING issued on its own. -/
def execSvcPing (s : State) : Host.Outcome State Fault Refusal := solo .svcPing evalSvcPing s

/-- SVC 0x001, QSTAT. -/
def evalSvcQstat : Eval := evalSvc 1
/-- SVC QSTAT issued on its own. -/
def execSvcQstat (s : State) : Host.Outcome State Fault Refusal := solo .svcQstat evalSvcQstat s

/-- SVC 0x002, LSTAT. -/
def evalSvcLstat : Eval := evalSvc 2
/-- SVC LSTAT issued on its own. -/
def execSvcLstat (s : State) : Host.Outcome State Fault Refusal := solo .svcLstat evalSvcLstat s

/-- SVC 0x003, TIME. -/
def evalSvcTime : Eval := evalSvc 3
/-- SVC TIME issued on its own. -/
def execSvcTime (s : State) : Host.Outcome State Fault Refusal := solo .svcTime evalSvcTime s

/-- SVC 0x004, LOG. -/
def evalSvcLog : Eval := evalSvc 4
/-- SVC LOG issued on its own. -/
def execSvcLog (s : State) : Host.Outcome State Fault Refusal := solo .svcLog evalSvcLog s

/-! ## Packets and notices -/

/-- The launch table with room for one more entry: the oldest COMPLETE entry is retired when it is full (R287). -/
def roomFor (l : List LEnt) : List LEnt :=
  if l.length < 1024 then l
  else
    match l.find? fun e => e.st == .complete with
    | some v => l.filter fun e => !(e.p.ctx == v.p.ctx && e.lid == v.lid)
    | none => l

/-- LAUNCH_PACKET_RECEIVED: an entry is made for the packet (R287). -/
def execLaunchPacketReceived (die : Nat) (s : State) : Host.Outcome State Fault Refusal :=
  .next (match (s.die die).inbox with
    | [] => s
    | p :: ps =>
      let e : LEnt :=
        { p, lid := p.lid, st := .waiting, eff := p.cls, next := 0, live := 0, trigs := 0, seen := [], dones := [], err := false,
          told := false, waiters := [], swapAt := none, lastGang := 0 }
      (s.modDie die fun x => { x with inbox := ps, launches := roomFor x.launches ++ [e] }).settle die)

/-- What a notice does to the entry of its launch (R289). -/
def LEnt.hear (e : LEnt) (n : Notice) : LEnt :=
  { e with seen := SMap.set 0 e.seen n.die (Nat.max n.cnt (SMap.get 0 e.seen n.die)), err := e.err || n.err
           dones := if n.fin && !e.dones.contains n.die then e.dones ++ [n.die] else e.dones }

/-- COMPLETION_NOTICE: the first notice whose launch the die knows is applied; one whose packet has not been received
waits, and one of a launch that is gone is dropped (R287, R289). -/
def execCompletionNotice (die : Nat) (s : State) : Host.Outcome State Fault Refusal :=
  .next (
    let x := s.die die
    let later (n : Notice) : Bool := x.inbox.any fun p => p.ctx == n.ctx && p.lid == n.lid
    match x.notices.find? fun n => !later n with
    | none => s
    | some n =>
      let s := s.modDie die fun x => { x with notices := x.notices.erase n }
      (s.modLent die n.ctx n.lid fun e => e.hear n).settle die)

/-- RIND_NOTICE: the first notice of a count whose rind the die has is applied to the mirror, in the rind or in its
save area (R295, R298); one of a launch that is not yet active waits. -/
def execRindNotice (die : Nat) (s : State) : Host.Outcome State Fault Refusal :=
  .next (
    let x := s.die die
    let later (n : Nat × Nat × Nat × Nat) : Bool :=
      (x.inbox.any fun p => p.ctx == n.1 && p.lid == n.2.1)
        || (match s.lent die n.1 n.2.1 with
            | some e => e.st == .waiting
            | none => false)
    match x.rnotices.find? fun n => !later n with
    | none => s
    | some n =>
      let s := s.modDie die fun x => { x with rnotices := x.rnotices.erase n }
      (s.setCount die n.1 n.2.1 n.2.2.1 n.2.2.2).settle die)

/-- The counts of a save area. -/
def State.rindRead (s : State) (p : LPacket) (d : Nat) (r : Rind) : SMap Nat :=
  splice 0 [] 0 p.lines fun l =>
    match s.rindKey p d (64 + 2 * l) with
    | some k => s.rdNat k 2
    | none => SMap.get 0 r.f l

/-- The restore clears the valid bit of a save area (R299, R448). -/
def State.rindReopen (s : State) (p : LPacket) (d : Nat) : State :=
  match s.rindKey p d 24 with
  | some k => s.rindPut p d 24 8 (s.rdNat k 8 % 2 ^ 63)
  | none => s

/-- RIND_RESTORE: while the die holds fewer than two rinds, the saved or waiting one of the best effective class and
lowest LID takes its place; a saved one reads F back, and its save area is no longer valid (R298, R448). -/
def execRindRestore (die : Nat) (s : State) : Host.Outcome State Fault Refusal :=
  .next (
    let live (r : Rind) : Bool := !r.held && (s.ctx r.ctx).st == .runnable
    let le (a b : Rind) : Bool :=
      decide (s.effClass die a.ctx a.lid < s.effClass die b.ctx b.lid
        ∨ (s.effClass die a.ctx a.lid = s.effClass die b.ctx b.lid ∧ a.lid ≤ b.lid))
    if 2 ≤ s.heldRinds die then s
    else
      match sortBy le ((s.die die).rinds.filter live) with
      | [] => s
      | r :: _ =>
        match s.lent die r.ctx r.lid with
        | none => s
        | some e =>
          let f := if r.saved then s.rindRead e.p die r else r.f
          let s := if r.saved then s.rindReopen e.p die else s
          (s.modRind die r.ctx r.lid fun r => { r with f := f, held := true, saved := false }).fireAll die r.ctx r.lid)

end Sys2Proof.Machine
end

