-- ==== Sys2Proof/Machine/Scalar.lean ====
section
/-!
DEFINITION. The S slot without its memory forms: integer, shift, float, conversion, select, control and park
forms (R101, R111 to R113, R116 to R120). `eval<Form>` is what the slot does in an issue; `exec<Form>` is the
issue of that syllable on its own.
-/

namespace Sys2Proof.Machine

/-- An integer form of two sources (R111). -/
def int2 (w : Wd) (a b c : Reg) (f : W64 → W64 → W64) : Eval := fun p _ e => okReg e a (putW w (f (p.sreg e b) (p.sreg e c)))
/-- An integer form of one source. -/
def int1 (w : Wd) (a b : Reg) (f : W64 → W64) : Eval := fun p _ e => okReg e a (putW w (f (p.sreg e b)))
/-- A form of two sources whose latency is not named and that traps on a zero divisor (R87, R111). -/
def intDiv (w : Wd) (a b c : Reg) (f : W64 → W64 → W64) : Eval := fun p _ e =>
  if uRd w (p.sreg e c) = 0 then fault0 0x10 else okLater e a (putW w (f (p.sreg e b) (p.sreg e c))) 0
/-- A float form of two sources (R116). -/
def flt2 (a b c : Reg) (f : W64 → W64 → W64 × Flags) : Eval := fun p _ e =>
  let r := f (p.sreg e b) (p.sreg e c)
  okReg e a r.1 r.2
/-- A float form of one source. -/
def flt1 (a b : Reg) (f : W64 → W64 × Flags) : Eval := fun p _ e =>
  let r := f (p.sreg e b)
  okReg e a r.1 r.2

/-- The shift amount: the operand modulo the width. -/
def shAmt (w : Wd) (y : W64) : Nat := y.toNat % wBits w
/-- The number of leading zeros of an `n`-bit number. -/
def clzN (n x : Nat) : Nat := n - bitLen x
/-- The number of trailing zeros of an `n`-bit number; `n` for zero. -/
def ctzN (n x : Nat) : Nat := ((nats n).find? fun i => x.testBit i).getD n
/-- The number of ones of an `n`-bit number. -/
def popcN (n x : Nat) : Nat := ((nats n).filter fun i => x.testBit i).length
/-- A truth value in a register. -/
def truth (b : Bool) : W64 := if b then 1 else 0

/-- ADD (R111). -/
def evalAdd (w : Wd) (a b c : Reg) : Eval := int2 w a b c fun x y => x + y
/-- ADD issued on its own. -/
def execAdd (w : Wd) (a b c : Reg) (p q : Bool) (s : State) : Host.Outcome State Fault Refusal := solo (.add w a b c p q) (evalAdd w a b c) s

/-- SUB (R111). -/
def evalSub (w : Wd) (a b c : Reg) : Eval := int2 w a b c fun x y => x - y
/-- SUB issued on its own. -/
def execSub (w : Wd) (a b c : Reg) (p q : Bool) (s : State) : Host.Outcome State Fault Refusal := solo (.sub w a b c p q) (evalSub w a b c) s

/-- MUL: the low bits of the product (R111). -/
def evalMul (w : Wd) (a b c : Reg) : Eval := int2 w a b c fun x y => x * y
/-- MUL issued on its own. -/
def execMul (w : Wd) (a b c : Reg) (p q : Bool) (s : State) : Host.Outcome State Fault Refusal := solo (.mul w a b c p q) (evalMul w a b c) s

/-- MULH: the high half of the signed product (R111). -/
def evalMulh (w : Wd) (a b c : Reg) : Eval := int2 w a b c fun x y => BitVec.ofInt 64 (sRd w x * sRd w y / 2 ^ (wBits w))
/-- MULH issued on its own. -/
def execMulh (w : Wd) (a b c : Reg) (p q : Bool) (s : State) : Host.Outcome State Fault Refusal := solo (.mulh w a b c p q) (evalMulh w a b c) s

/-- MULHU: the high half of the unsigned product (R111). -/
def evalMulhu (w : Wd) (a b c : Reg) : Eval := int2 w a b c fun x y => BitVec.ofNat 64 (uRd w x * uRd w y / 2 ^ (wBits w))
/-- MULHU issued on its own. -/
def execMulhu (w : Wd) (a b c : Reg) (p q : Bool) (s : State) : Host.Outcome State Fault Refusal := solo (.mulhu w a b c p q) (evalMulhu w a b c) s

/-- DIV: the signed quotient, truncated (R111). -/
def evalDiv (w : Wd) (a b c : Reg) : Eval := intDiv w a b c fun x y => BitVec.ofInt 64 ((sRd w x).tdiv (sRd w y))
/-- DIV issued on its own. -/
def execDiv (w : Wd) (a b c : Reg) (p q : Bool) (s : State) : Host.Outcome State Fault Refusal := solo (.div w a b c p q) (evalDiv w a b c) s

/-- DIVU (R111). -/
def evalDivu (w : Wd) (a b c : Reg) : Eval := intDiv w a b c fun x y => BitVec.ofNat 64 (uRd w x / uRd w y)
/-- DIVU issued on its own. -/
def execDivu (w : Wd) (a b c : Reg) (p q : Bool) (s : State) : Host.Outcome State Fault Refusal := solo (.divu w a b c p q) (evalDivu w a b c) s

/-- REM: the remainder of the truncated quotient (R111). -/
def evalRem (w : Wd) (a b c : Reg) : Eval := intDiv w a b c fun x y => BitVec.ofInt 64 (sRd w x - sRd w y * (sRd w x).tdiv (sRd w y))
/-- REM issued on its own. -/
def execRem (w : Wd) (a b c : Reg) (p q : Bool) (s : State) : Host.Outcome State Fault Refusal := solo (.rem w a b c p q) (evalRem w a b c) s

/-- REMU (R111). -/
def evalRemu (w : Wd) (a b c : Reg) : Eval := intDiv w a b c fun x y => BitVec.ofNat 64 (uRd w x % uRd w y)
/-- REMU issued on its own. -/
def execRemu (w : Wd) (a b c : Reg) (p q : Bool) (s : State) : Host.Outcome State Fault Refusal := solo (.remu w a b c p q) (evalRemu w a b c) s

/-- AND (R111). -/
def evalAnd (w : Wd) (a b c : Reg) : Eval := int2 w a b c fun x y => x &&& y
/-- AND issued on its own. -/
def execAnd (w : Wd) (a b c : Reg) (p q : Bool) (s : State) : Host.Outcome State Fault Refusal := solo (.and w a b c p q) (evalAnd w a b c) s

/-- OR (R111). -/
def evalOr (w : Wd) (a b c : Reg) : Eval := int2 w a b c fun x y => x ||| y
/-- OR issued on its own. -/
def execOr (w : Wd) (a b c : Reg) (p q : Bool) (s : State) : Host.Outcome State Fault Refusal := solo (.or w a b c p q) (evalOr w a b c) s

/-- XOR (R111). -/
def evalXor (w : Wd) (a b c : Reg) : Eval := int2 w a b c fun x y => x ^^^ y
/-- XOR issued on its own. -/
def execXor (w : Wd) (a b c : Reg) (p q : Bool) (s : State) : Host.Outcome State Fault Refusal := solo (.xor w a b c p q) (evalXor w a b c) s

/-- SHL: by the second source modulo the width (R111). -/
def evalShl (w : Wd) (a b c : Reg) : Eval := int2 w a b c fun x y => x <<< shAmt w y
/-- SHL issued on its own. -/
def execShl (w : Wd) (a b c : Reg) (p q : Bool) (s : State) : Host.Outcome State Fault Refusal := solo (.shl w a b c p q) (evalShl w a b c) s

/-- SHR (R111). -/
def evalShr (w : Wd) (a b c : Reg) : Eval := int2 w a b c fun x y => BitVec.ofNat 64 (uRd w x >>> shAmt w y)
/-- SHR issued on its own. -/
def execShr (w : Wd) (a b c : Reg) (p q : Bool) (s : State) : Host.Outcome State Fault Refusal := solo (.shr w a b c p q) (evalShr w a b c) s

/-- SAR (R111). -/
def evalSar (w : Wd) (a b c : Reg) : Eval := int2 w a b c fun x y => BitVec.ofInt 64 (sRd w x / 2 ^ shAmt w y)
/-- SAR issued on its own. -/
def execSar (w : Wd) (a b c : Reg) (p q : Bool) (s : State) : Host.Outcome State Fault Refusal := solo (.sar w a b c p q) (evalSar w a b c) s

/-- MIN: signed (R111). -/
def evalMin (w : Wd) (a b c : Reg) : Eval := int2 w a b c fun x y => if sRd w y < sRd w x then y else x
/-- MIN issued on its own. -/
def execMin (w : Wd) (a b c : Reg) (p q : Bool) (s : State) : Host.Outcome State Fault Refusal := solo (.min w a b c p q) (evalMin w a b c) s

/-- MAX: signed (R111). -/
def evalMax (w : Wd) (a b c : Reg) : Eval := int2 w a b c fun x y => if sRd w x < sRd w y then y else x
/-- MAX issued on its own. -/
def execMax (w : Wd) (a b c : Reg) (p q : Bool) (s : State) : Host.Outcome State Fault Refusal := solo (.max w a b c p q) (evalMax w a b c) s

/-- MINU (R111). -/
def evalMinu (w : Wd) (a b c : Reg) : Eval := int2 w a b c fun x y => if uRd w y < uRd w x then y else x
/-- MINU issued on its own. -/
def execMinu (w : Wd) (a b c : Reg) (p q : Bool) (s : State) : Host.Outcome State Fault Refusal := solo (.minu w a b c p q) (evalMinu w a b c) s

/-- MAXU (R111). -/
def evalMaxu (w : Wd) (a b c : Reg) : Eval := int2 w a b c fun x y => if uRd w x < uRd w y then y else x
/-- MAXU issued on its own. -/
def execMaxu (w : Wd) (a b c : Reg) (p q : Bool) (s : State) : Host.Outcome State Fault Refusal := solo (.maxu w a b c p q) (evalMaxu w a b c) s

/-- SEQ (R111). -/
def evalSeq (w : Wd) (a b c : Reg) : Eval := int2 w a b c fun x y => truth (uRd w x == uRd w y)
/-- SEQ issued on its own. -/
def execSeq (w : Wd) (a b c : Reg) (p q : Bool) (s : State) : Host.Outcome State Fault Refusal := solo (.seq w a b c p q) (evalSeq w a b c) s

/-- SLT (R111). -/
def evalSlt (w : Wd) (a b c : Reg) : Eval := int2 w a b c fun x y => truth (decide (sRd w x < sRd w y))
/-- SLT issued on its own. -/
def execSlt (w : Wd) (a b c : Reg) (p q : Bool) (s : State) : Host.Outcome State Fault Refusal := solo (.slt w a b c p q) (evalSlt w a b c) s

/-- SLTU (R111). -/
def evalSltu (w : Wd) (a b c : Reg) : Eval := int2 w a b c fun x y => truth (decide (uRd w x < uRd w y))
/-- SLTU issued on its own. -/
def execSltu (w : Wd) (a b c : Reg) (p q : Bool) (s : State) : Host.Outcome State Fault Refusal := solo (.sltu w a b c p q) (evalSltu w a b c) s

/-- SHLI: SHL by the C field (R112). -/
def evalShli (w : Wd) (a b : Reg) (n : BitVec 6) : Eval := int1 w a b fun x => x <<< n.toNat
/-- SHLI issued on its own. -/
def execShli (w : Wd) (a b : Reg) (n : BitVec 6) (p : Bool) (s : State) : Host.Outcome State Fault Refusal :=
  solo (.shli w a b n p) (evalShli w a b n) s

/-- SHRI: SHR by the C field (R112). -/
def evalShri (w : Wd) (a b : Reg) (n : BitVec 6) : Eval := int1 w a b fun x => BitVec.ofNat 64 (uRd w x >>> n.toNat)
/-- SHRI issued on its own. -/
def execShri (w : Wd) (a b : Reg) (n : BitVec 6) (p : Bool) (s : State) : Host.Outcome State Fault Refusal :=
  solo (.shri w a b n p) (evalShri w a b n) s

/-- SARI: SAR by the C field (R112). -/
def evalSari (w : Wd) (a b : Reg) (n : BitVec 6) : Eval := int1 w a b fun x => BitVec.ofInt 64 (sRd w x / 2 ^ n.toNat)
/-- SARI issued on its own. -/
def execSari (w : Wd) (a b : Reg) (n : BitVec 6) (p : Bool) (s : State) : Host.Outcome State Fault Refusal :=
  solo (.sari w a b n p) (evalSari w a b n) s

/-- CLZ: leading zeros, the width for a zero operand (R111). -/
def evalClz (w : Wd) (a b : Reg) : Eval := int1 w a b fun x => BitVec.ofNat 64 (clzN (wBits w) (uRd w x))
/-- CLZ issued on its own. -/
def execClz (w : Wd) (a b : Reg) (p : Bool) (s : State) : Host.Outcome State Fault Refusal := solo (.clz w a b p) (evalClz w a b) s

/-- CTZ: trailing zeros, the width for a zero operand (R111). -/
def evalCtz (w : Wd) (a b : Reg) : Eval := int1 w a b fun x => BitVec.ofNat 64 (ctzN (wBits w) (uRd w x))
/-- CTZ issued on its own. -/
def execCtz (w : Wd) (a b : Reg) (p : Bool) (s : State) : Host.Outcome State Fault Refusal := solo (.ctz w a b p) (evalCtz w a b) s

/-- POPC: the number of ones (R111). -/
def evalPopc (w : Wd) (a b : Reg) : Eval := int1 w a b fun x => BitVec.ofNat 64 (popcN (wBits w) (uRd w x))
/-- POPC issued on its own. -/
def execPopc (w : Wd) (a b : Reg) (p : Bool) (s : State) : Host.Outcome State Fault Refusal := solo (.popc w a b p) (evalPopc w a b) s

/-- FADD (R116). -/
def evalFadd (a b c : Reg) (rm : BitVec 2) (sat : Bool) : Eval := flt2 a b c (flFadd rm sat)
/-- FADD issued on its own. -/
def execFadd (a b c : Reg) (p q : Bool) (rm : BitVec 2) (sat : Bool) (s : State) : Host.Outcome State Fault Refusal :=
  solo (.fadd a b c p q rm sat) (evalFadd a b c rm sat) s

/-- FSUB (R116). -/
def evalFsub (a b c : Reg) (rm : BitVec 2) (sat : Bool) : Eval := flt2 a b c (flFsub rm sat)
/-- FSUB issued on its own. -/
def execFsub (a b c : Reg) (p q : Bool) (rm : BitVec 2) (sat : Bool) (s : State) : Host.Outcome State Fault Refusal :=
  solo (.fsub a b c p q rm sat) (evalFsub a b c rm sat) s

/-- FMUL (R116). -/
def evalFmul (a b c : Reg) (rm : BitVec 2) (sat : Bool) : Eval := flt2 a b c (flFmul rm sat)
/-- FMUL issued on its own. -/
def execFmul (a b c : Reg) (p q : Bool) (rm : BitVec 2) (sat : Bool) (s : State) : Host.Outcome State Fault Refusal :=
  solo (.fmul a b c p q rm sat) (evalFmul a b c rm sat) s

/-- FDIV: latency not named, flags at its arrival (R116, R88). -/
def evalFdiv (a b c : Reg) (rm : BitVec 2) (sat : Bool) : Eval := fun p _ e =>
  let r := flFdiv rm sat (p.sreg e b) (p.sreg e c)
  okLater e a r.1 r.2
/-- FDIV issued on its own. -/
def execFdiv (a b c : Reg) (p q : Bool) (rm : BitVec 2) (sat : Bool) (s : State) : Host.Outcome State Fault Refusal :=
  solo (.fdiv a b c p q rm sat) (evalFdiv a b c rm sat) s

/-- FSQRT: latency not named, flags at its arrival (R116, R88). -/
def evalFsqrt (a b : Reg) (rm : BitVec 2) (sat : Bool) : Eval := fun p _ e =>
  let r := flFsqrt rm sat (p.sreg e b)
  okLater e a r.1 r.2
/-- FSQRT issued on its own. -/
def execFsqrt (a b : Reg) (p : Bool) (rm : BitVec 2) (sat : Bool) (s : State) : Host.Outcome State Fault Refusal :=
  solo (.fsqrt a b p rm sat) (evalFsqrt a b rm sat) s

/-- FMIN (R37, R116). -/
def evalFmin (a b c : Reg) : Eval := flt2 a b c flFmin
/-- FMIN issued on its own. -/
def execFmin (a b c : Reg) (p q : Bool) (s : State) : Host.Outcome State Fault Refusal := solo (.fmin a b c p q) (evalFmin a b c) s

/-- FMAX (R37, R116). -/
def evalFmax (a b c : Reg) : Eval := flt2 a b c flFmax
/-- FMAX issued on its own. -/
def execFmax (a b c : Reg) (p q : Bool) (s : State) : Host.Outcome State Fault Refusal := solo (.fmax a b c p q) (evalFmax a b c) s

/-- FCMP: 1 if the condition holds, else 0 (R37, R116). -/
def evalFcmp (a b c : Reg) (cond : BitVec 2) : Eval := flt2 a b c (flFcmp cond)
/-- FCMP issued on its own. -/
def execFcmp (a b c : Reg) (p q : Bool) (cond : BitVec 2) (s : State) : Host.Outcome State Fault Refusal :=
  solo (.fcmp a b c p q cond) (evalFcmp a b c cond) s

/-- FCVT (R117). -/
def evalFcvt (a b : Reg) (tgt src : BitVec 3) (rm : BitVec 2) (sat : Bool) : Eval := flt1 a b (flFcvt tgt src rm sat)
/-- FCVT issued on its own. -/
def execFcvt (a b : Reg) (tgt src : BitVec 3) (p : Bool) (rm : BitVec 2) (sat : Bool) (s : State) : Host.Outcome State Fault Refusal :=
  solo (.fcvt a b tgt src p rm sat) (evalFcvt a b tgt src rm sat) s

/-- FFMA: one rounding (R116). -/
def evalFfma (a b c : Reg) (rm : BitVec 2) (sat : Bool) (x : Reg) : Eval := fun p _ e =>
  let r := flFfma rm sat (p.sreg e b) (p.sreg e c) (p.sreg e x)
  okReg e a r.1 r.2
/-- FFMA issued on its own. -/
def execFfma (a b c : Reg) (p q : Bool) (rm : BitVec 2) (sat : Bool) (x : Reg) (r : Bool) (s : State) : Host.Outcome State Fault Refusal :=
  solo (.ffma a b c p q rm sat x r) (evalFfma a b c rm sat x) s

/-- SEL: the second source where the third is zero in the width of the form (R118). -/
def evalSel (w : Wd) (a b c x : Reg) : Eval := fun p _ e =>
  okReg e a (putW w (if uRd w (p.sreg e x) ≠ 0 then p.sreg e b else p.sreg e c))
/-- SEL issued on its own. -/
def execSel (w : Wd) (a b c : Reg) (p q : Bool) (x : Reg) (r : Bool) (s : State) : Host.Outcome State Fault Refusal :=
  solo (.sel w a b c p q x r) (evalSel w a b c x) s

/-! ## Immediate forms (R113) -/

/-- LI: `.d` sign-extends the immediate, `.w` zero-extends it. -/
def evalLi (w : Wd) (a : Reg) (imm : W32) : Eval := fun _ _ e =>
  okReg e a (match w with
    | .d64 => imm.signExtend 64
    | .w32 => imm.setWidth 64)
/-- LI issued on its own. -/
def execLi (w : Wd) (a : Reg) (imm : W32) (s : State) : Host.Outcome State Fault Refusal := solo (.li w a imm) (evalLi w a imm) s

/-- LIH: the immediate above the low half of SA. -/
def evalLih (a : Reg) (imm : W32) : Eval := fun p _ e => okReg e a (imm ++ lo32 (p.sreg e a))
/-- LIH issued on its own. -/
def execLih (a : Reg) (p : Bool) (imm : W32) (s : State) : Host.Outcome State Fault Refusal := solo (.lih a p imm) (evalLih a imm) s

/-- ADDI: ADD with the sign-extended immediate. -/
def evalAddi (w : Wd) (a b : Reg) (imm : W32) : Eval := int1 w a b fun x => x + imm.signExtend 64
/-- ADDI issued on its own. -/
def execAddi (w : Wd) (a b : Reg) (p : Bool) (imm : W32) (s : State) : Host.Outcome State Fault Refusal :=
  solo (.addi w a b p imm) (evalAddi w a b imm) s

/-- ANDI: AND with the sign-extended immediate. -/
def evalAndi (w : Wd) (a b : Reg) (imm : W32) : Eval := int1 w a b fun x => x &&& imm.signExtend 64
/-- ANDI issued on its own. -/
def execAndi (w : Wd) (a b : Reg) (p : Bool) (imm : W32) (s : State) : Host.Outcome State Fault Refusal :=
  solo (.andi w a b p imm) (evalAndi w a b imm) s

/-- ORI: OR with the sign-extended immediate. -/
def evalOri (w : Wd) (a b : Reg) (imm : W32) : Eval := int1 w a b fun x => x ||| imm.signExtend 64
/-- ORI issued on its own. -/
def execOri (w : Wd) (a b : Reg) (p : Bool) (imm : W32) (s : State) : Host.Outcome State Fault Refusal :=
  solo (.ori w a b p imm) (evalOri w a b imm) s

/-- XORI: XOR with the sign-extended immediate. -/
def evalXori (w : Wd) (a b : Reg) (imm : W32) : Eval := int1 w a b fun x => x ^^^ imm.signExtend 64
/-- XORI issued on its own. -/
def execXori (w : Wd) (a b : Reg) (p : Bool) (imm : W32) (s : State) : Host.Outcome State Fault Refusal :=
  solo (.xori w a b p imm) (evalXori w a b imm) s

/-! ## Control registers and park slots (R95, R96, R101, R119, R120) -/

/-- RDC: the register as it stands before the issue; an unlisted number raises 0x02. -/
def evalRdc (a : Reg) (num : BitVec 12) : Eval := fun p _ e =>
  match p.ctrl e.seat num.toNat with
  | some v => okReg e a v
  | none => fault0 0x02
/-- RDC issued on its own. -/
def execRdc (a : Reg) (num : BitVec 12) (s : State) : Host.Outcome State Fault Refusal := solo (.rdc a num) (evalRdc a num) s

/-- WRC: takes effect at its commit; an unlisted number or an RO register raises 0x02. -/
def evalWrc (num : BitVec 12) (c : Reg) : Eval := fun p _ e =>
  if ctrlRW.contains num.toNat then okSeat e fun x => x.setCtrl num.toNat (p.sreg e c) else fault0 0x02
/-- WRC issued on its own. -/
def execWrc (num : BitVec 12) (c : Reg) (q : Bool) (s : State) : Host.Outcome State Fault Refusal := solo (.wrc num c q) (evalWrc num c) s

/-- Lane `i` of V`v` of cluster `c` in the register file. -/
def vKey (c v i : Nat) : Nat := (64 * c + v) * 16 + i

/-- STOW: a scalar register, or a vector register of all eight clusters, into a park slot. -/
def evalStow (j b : Reg) (vec : Bool) : Eval := fun p _ e =>
  if vec then
    let x := p.seat e.seat
    okSeat e fun y =>
      { y with vpark := splice 0 y.vpark (128 * j.toNat) 128 fun i => SMap.get 0 x.vregs (vKey (i / 16) b.toNat (i % 16))
               vparkmap := y.vparkmap ||| (1#16 <<< j.toNat) }
  else
    okSeat e fun y => { y with park := SMap.set 0 y.park j.toNat (p.sreg e b), parkmap := putBit y.parkmap j.toNat true }
/-- STOW issued on its own. -/
def execStow (j b : Reg) (p vec : Bool) (s : State) : Host.Outcome State Fault Refusal := solo (.stow j b p vec) (evalStow j b vec) s

/-- UNSTOW: a vacant slot raises 0x02; a scalar comes through full/empty, and a vector is written at the commit. -/
def evalUnstow (a j : Reg) (vec : Bool) : Eval := fun p _ e =>
  let x := p.seat e.seat
  if vec then
    if x.vparkmap.getLsbD j.toNat then
      okSeat e fun y => { y with vregs := (nats 8).foldl (fun m c =>
        splice 0 m (vKey c a.toNat 0) 16 fun i => SMap.get 0 x.vpark (128 * j.toNat + 16 * c + i)) y.vregs }
    else fault0 0x02
  else if x.parkmap.getLsbD j.toNat then okLater e a (SMap.get 0 x.park j.toNat) 0
  else fault0 0x02
/-- UNSTOW issued on its own. -/
def execUnstow (a j : Reg) (vec : Bool) (s : State) : Host.Outcome State Fault Refusal := solo (.unstow a j vec) (evalUnstow a j vec) s

/-- LEA: the address, with no access and no translation (R114). -/
def evalLea (a b : Reg) (m : MemOp) : Eval := fun p _ e => okReg e a (BitVec.ofNat 64 (memEa p e b m))
/-- LEA issued on its own. -/
def execLea (a b : Reg) (p : Bool) (m : MemOp) (s : State) : Host.Outcome State Fault Refusal := solo (.lea a b p m) (evalLea a b m) s

end Sys2Proof.Machine
end

