-- ==== Sys2Proof/Machine/Triggers.lean ====
section
/-!
DEFINITION. Triggered operations (R321 to R324): TSEND and TCOPY, the arm at the counter's home port, and the fired
operations of a die.
-/

namespace Sys2Proof.Machine

/-! ## The forms (R321) -/

/-- The bits that a TCOPY record names. -/
def tcNamed : List W64 := [0x0000FFFFFFFFFFFF, 0x0000FFFFFFFFFFFF, 0xFFFFFFFFFFFFFFFF, 0xFF, 0x0000FFFFFFFFFFFF, 0, 0, 0]

/-- A TCOPY record has a nonzero unnamed bit, CMODE 0b11, or a W that is not 0 exactly when CMODE is 0b00. -/
def tcIllegal (l : List Byte) : Bool :=
  ((nats 8).any fun i => recWord l i &&& ~~~(nth 0 tcNamed i) != 0) || tcMode l == 3#2 || (recWord l 4 == 0) != (tcMode l == 0#2)

/-- The checks of a TCOPY record: its table, and those of R153 that do not depend on sector tags. -/
def tcCheck (p : State) (e : Env) (l : List Byte) : Option SlotRes :=
  if tcIllegal l then some (fault0 0x02)
  else if 2 ^ 40 ≤ (recWord l 2).toNat then some (faultFree p 0x45)
  else
    match wordChk p e (tcMode l) (fld (recWord l 4) 47 0) with
    | .bad r => some r
    | .ok _ =>
      match regionFault p (tcTrans 0 (p.seat e.seat).ctx 0 e.seat e.quad l []) with
      | some (c, va) => some (.fault c va)
      | none => none

/-- The entries of a die's trigger table that are taken: armed, or with their arm on its way. -/
def State.trigsTaken (s : State) (d : Nat) : Nat := (s.die d).trigs.length + (s.accs.filter fun a => a.k == .arm && dieOf a.seat == d).length

/-- TSEND and TCOPY: the checks of R314 on the counter, then those of the record, which is captured. -/
def armRes (kind : Nat) (b c x : Reg) : Eval := fun p _ e =>
  let st := p.seat e.seat
  let thr := p.sreg e c
  let va := (addrOf (p.sreg e b)).toNat
  match signBad thr with
  | some w => .fault 0x45 w
  | none =>
    match wordTr p e .atom va with
    | .bad r => r
    | .ok pl =>
      let ra := (addrOf (p.sreg e x)).toNat
      if ra % 64 ≠ 0 then faultVa 0x08 ra
      else
        match earlyRead p e ra 64 ra true with
        | .bad r => r
        | .ok l =>
          match (if kind = 1 then wrCheck p e ra l else tcCheck p e l) with
          | some r => r
          | none =>
            if 1024 ≤ p.trigsTaken (quadOf e.seat / 28) then waits
            else okAct fun s => s.addAcc fun id =>
              { id, iss := e.iss, k := .arm, carr := st.carr, ctx := st.ctx, seat := e.seat, op := kind, n := 8, sgn := false,
                va := BitVec.ofNat 48 va, locs := [pl], v := thr, x := 0, flag := false, rcd := l, rref := [] }

/-- TSEND. -/
def evalTsend (b c x : Reg) : Eval := armRes 1 b c x
/-- TSEND issued on its own. -/
def execTsend (b c : Reg) (p q : Bool) (x : Reg) (r : Bool) (s : State) : Host.Outcome State Fault Refusal :=
  solo (.tsend b c p q x r) (evalTsend b c x) s

/-- TCOPY. -/
def evalTcopy (b c x : Reg) : Eval := armRes 2 b c x
/-- TCOPY issued on its own. -/
def execTcopy (b c : Reg) (p q : Bool) (x : Reg) (r : Bool) (s : State) : Host.Outcome State Fault Refusal :=
  solo (.tcopy b c p q x r) (evalTcopy b c x) s

/-! ## The arm (R322) -/

/-- TRIGGER_ARM_APPLY: it fires, is cancelled, or waits armed; a line in error cancels it (R460). -/
def execTriggerArmApply (id : Nat) (s : State) : Host.Outcome State Fault Refusal :=
  .next (match s.accOf id [.arm] with
    | some a =>
      let d := dieOf a.seat
      let k := s.accKey a
      let t : Trig := { id, ctx := a.ctx, carr := a.carr, kind := a.op, va := a.va, key := k, thr := a.v, rcd := a.rcd, held := none }
      let s := s.dropAcc id
      if (s.badIn k 8).isSome then s.cancelTrig t 0x70 else s.armTrig d t
    | none => s)

/-! ## Fired operations (R323, R324) -/

/-- Removes a fired operation from the list of its die. -/
def State.dropFired (s : State) (d : Nat) (t : Trig) : State :=
  s.modDie d fun x => { x with fired := x.fired.filter fun y => y != t }

/-- A fired TCOPY proceeds: it enters the queue; none while that is full. One whose word's page was away when it fired is
translated when the page is there, and cancelled when it cannot be. -/
def State.fireCopy (s : State) (d : Nat) (t : Trig) : Option State :=
  match t.held, s.firedWord t with
  | some h, _ =>
    if 32 ≤ (s.quad t.quad).trans.length then none
    else some ((s.dropFired d t).enqueue (tcTrans t.id t.ctx t.carr (16 * t.quad) t.quad t.rcd h))
  | none, .fault _ _ => some (s.dropFired d t)
  | none, .ok h => some (s.modDie d fun x => { x with fired := x.fired.map fun y => if y = t then { t with held := some h } else y })
  | none, _ => none

/-- The address at which LADDR of a fired TSEND fails to translate, with the cause. -/
def State.sendBad (s : State) (t : Trig) : Option Nat :=
  match wrLocal t.rcd with
  | none => none
  | some (a, n, wr) =>
    match transPages (fun x => s.look t.ctx (if wr then .wr else .rd) x) (pagesOf a n) with
    | .fault c _ => some c
    | _ => none

/-- A fired TSEND becomes a work request, with the key check of R432; none while the table is full. -/
def State.fireSend (s : State) (d : Nat) (t : Trig) : Option State :=
  match wrKey s d t.rcd with
  | some (.bad _) => some ((s.dropFired d t).cancelTrig t 0x22)
  | some _ => none
  | none =>
    match s.sendBad t with
    | some c => some ((s.dropFired d t).cancelTrig t c)
    | none =>
      if 4096 ≤ ((s.die d).wreqs.filter fun w => w.kind != 6).length then none
      else some ((s.dropFired d t).modDie d fun x => { x with wreqs := x.wreqs ++ [wrOf t.id t.ctx t.carr d t.rcd true 0] })

/-- What a fired operation that cannot proceed asks for: a page on the host, or a key. -/
def State.firedAsk (s : State) (d : Nat) (t : Trig) : State :=
  if t.kind = 2 then
    match t.held, s.firedWord t with
    | none, .hold va => s.noteHold d t.ctx va
    | _, _ => s
  else
    match wrKey s d t.rcd with
    | some .wait => s.askKey d t.ctx (recWord t.rcd 1)
    | _ => s

/-- The fired operations that may proceed: of the TCOPYs for one queue, the first (R323). -/
def firstsOf : List Trig → List Nat → List Trig
  | [], _ => []
  | t :: l, qs => if t.kind = 2 then (if qs.contains t.quad then firstsOf l qs else t :: firstsOf l (t.quad :: qs)) else t :: firstsOf l qs

/-- FIRED_TCOPY_ENQUEUE: the first fired operation of the die that can proceed does; those for one queue go in the
order in which they fired. A fired TSEND is handed to the network engine here. -/
def execFiredTcopyEnqueue (die : Nat) (s : State) : Host.Outcome State Fault Refusal :=
  .next (match (firstsOf (s.die die).fired []).findSome? fun t => if t.kind = 2 then s.fireCopy die t else s.fireSend die t with
    | some t => t
    | none => (s.die die).fired.foldl (fun s t => s.firedAsk die t) s)

end Sys2Proof.Machine
end

