-- ==== Sys2Proof/Machine/Bundle.lean ====
section
/-!
DEFINITION. The turn of a core: the meanings of the syllables as the slots of a bundle evaluate them, the landings
that are due (R90, R91), the causes that are taken at a boundary (R115, R155, R201, R266, R272), and the
selector that gives the issue width to a seat (R253).
-/

namespace Sys2Proof.Machine

/-! ## The meaning of a syllable -/

/-- What a slot does for the instruction that it holds. What is not a syllable of a bundle is never in a slot. -/
def evalOf : Instr → Eval
  | .jr b _ => evalJr b
  | .jlr a b _ => evalJlr a b
  | .ret b _ => evalRet b
  | .trap imm => evalTrap imm
  | .bra off => evalBra off
  | .bl a off => evalBl a off
  | .beq b c _ _ off => evalBeq b c off
  | .bne b c _ _ off => evalBne b c off
  | .blt b c _ _ off => evalBlt b c off
  | .bge b c _ _ off => evalBge b c off
  | .bltu b c _ _ off => evalBltu b c off
  | .bgeu b c _ _ off => evalBgeu b c off
  | .bkany k mask off => evalBkany k mask off
  | .loop b _ off => evalLoop b off
  | .loopq n off => evalLoopq n off
  | .add w a b c _ _ => evalAdd w a b c
  | .sub w a b c _ _ => evalSub w a b c
  | .mul w a b c _ _ => evalMul w a b c
  | .mulh w a b c _ _ => evalMulh w a b c
  | .mulhu w a b c _ _ => evalMulhu w a b c
  | .div w a b c _ _ => evalDiv w a b c
  | .divu w a b c _ _ => evalDivu w a b c
  | .rem w a b c _ _ => evalRem w a b c
  | .remu w a b c _ _ => evalRemu w a b c
  | .and w a b c _ _ => evalAnd w a b c
  | .or w a b c _ _ => evalOr w a b c
  | .xor w a b c _ _ => evalXor w a b c
  | .shl w a b c _ _ => evalShl w a b c
  | .shr w a b c _ _ => evalShr w a b c
  | .sar w a b c _ _ => evalSar w a b c
  | .shli w a b n _ => evalShli w a b n
  | .shri w a b n _ => evalShri w a b n
  | .sari w a b n _ => evalSari w a b n
  | .clz w a b _ => evalClz w a b
  | .ctz w a b _ => evalCtz w a b
  | .popc w a b _ => evalPopc w a b
  | .min w a b c _ _ => evalMin w a b c
  | .max w a b c _ _ => evalMax w a b c
  | .minu w a b c _ _ => evalMinu w a b c
  | .maxu w a b c _ _ => evalMaxu w a b c
  | .seq w a b c _ _ => evalSeq w a b c
  | .slt w a b c _ _ => evalSlt w a b c
  | .sltu w a b c _ _ => evalSltu w a b c
  | .fadd a b c _ _ rm sat => evalFadd a b c rm sat
  | .fsub a b c _ _ rm sat => evalFsub a b c rm sat
  | .fmul a b c _ _ rm sat => evalFmul a b c rm sat
  | .fdiv a b c _ _ rm sat => evalFdiv a b c rm sat
  | .fsqrt a b _ rm sat => evalFsqrt a b rm sat
  | .fmin a b c _ _ => evalFmin a b c
  | .fmax a b c _ _ => evalFmax a b c
  | .fcmp a b c _ _ cond => evalFcmp a b c cond
  | .fcvt a b tgt src _ rm sat => evalFcvt a b tgt src rm sat
  | .rdc a num => evalRdc a num
  | .wrc num c _ => evalWrc num c
  | .stow j b _ vec => evalStow j b vec
  | .unstow a j vec => evalUnstow a j vec
  | .li w a imm => evalLi w a imm
  | .lih a _ imm => evalLih a imm
  | .lea a b _ m => evalLea a b m
  | .addi w a b _ imm => evalAddi w a b imm
  | .andi w a b _ imm => evalAndi w a b imm
  | .ori w a b _ imm => evalOri w a b imm
  | .xori w a b _ imm => evalXori w a b imm
  | .ldb a b _ arr m => evalLdb a b arr m
  | .ldbu a b _ arr m => evalLdbu a b arr m
  | .ldh a b _ arr m => evalLdh a b arr m
  | .ldhu a b _ arr m => evalLdhu a b arr m
  | .ldw a b _ arr m => evalLdw a b arr m
  | .ldwu a b _ arr m => evalLdwu a b arr m
  | .ldd a b _ arr m => evalLdd a b arr m
  | .stb b c _ _ m => evalStb b c m
  | .sth b c _ _ m => evalSth b c m
  | .stw b c _ _ m => evalStw b c m
  | .std b c _ _ m => evalStd b c m
  | .sel w a b c _ _ x _ => evalSel w a b c x
  | .ffma a b c _ _ rm sat x _ => evalFfma a b c rm sat x
  | .hcw idx k inv _ => evalHcw idx k inv
  | .lease pm md h z => evalLease pm md h z
  | .mzero z i32 => evalMzero z i32
  | .pmrd a word pm => evalPmrd a word pm
  | .pmwr word pm c => evalPmwr word pm c
  | .hldc fmt h n => evalHldc fmt h n
  | .mma zd sb sel c fc => evalMma zd sb sel c fc
  | .mmas zd sb sel c md seg g8 => evalMmas zd sb sel c md seg g8
  | .cmpr dsel sel c md seg g8 => evalCmpr dsel sel c md seg g8
  | .mtrans zd zs => evalMtrans zd zs
  | .flu zd pm b nf => evalFlu zd pm b nf
  | .fchol zd pm b => evalFchol zd pm b
  | .fqr zd pm zs b => evalFqr zd pm zs b
  | .ftrs zd pm zs b nf upper unit => evalFtrs zd pm zs b nf upper unit
  | .fperm zd pm b cols inv => evalFperm zd pm b cols inv
  | .hld fmt h b c swz sx off => evalHld fmt h b c swz sx off
  | .drain z fmt b c rtz sc swz sx hsize had sh off => evalDrain z fmt b c rtz sc swz sx hsize had sh off
  | .mdld md b off => evalMdld md b off
  | .mdst md b off => evalMdst md b off
  | .sbind a sq unbind => evalSbind a sq unbind
  | .sstart sq => evalSstart sq
  | .sstop sq => evalSstop sq
  | .sdrain sq => evalSdrain sq
  | .spos a sq c wr => evalSpos a sq c wr
  | .tilearm b c => evalTilearm b c
  | .tiledis c => evalTiledis c
  | .cqpush n c => evalCqpush n c
  | .scfg sq b off => evalScfg sq b off
  | .shape sq b off => evalShape sq b off
  | .gld a b c f x => evalGld a b c f x
  | .sct a b c f x => evalSct a b c f x
  | .copy a b c ssw x => evalCopy a b c ssw x
  | .copyh a b c out ssw x => evalCopyh a b c out ssw x
  | .mcast a b c ssw x => evalMcast a b c ssw x
  | .hcwld b first cnt => evalHcwld b first cnt
  | .aadd w a b c _ _ => evalAadd w a b c
  | .amin w a b c _ _ => evalAmin w a b c
  | .amax w a b c _ _ => evalAmax w a b c
  | .aminu w a b c _ _ => evalAminu w a b c
  | .amaxu w a b c _ _ => evalAmaxu w a b c
  | .aand w a b c _ _ => evalAand w a b c
  | .aor w a b c _ _ => evalAor w a b c
  | .axor w a b c _ _ => evalAxor w a b c
  | .aswp w a b c _ _ => evalAswp w a b c
  | .afadd a b c _ _ => evalAfadd a b c
  | .radd w b c _ _ => evalRadd w b c
  | .rfadd b c _ _ => evalRfadd b c
  | .rmin w b c _ _ => evalRmin w b c
  | .rmax w b c _ _ => evalRmax w b c
  | .rand w b c _ _ => evalRand w b c
  | .ror w b c _ _ => evalRor w b c
  | .ldacq w a b _ => evalLdacq w a b
  | .strel w b c _ _ => evalStrel w b c
  | .fence scope => evalFence scope
  | .pub b _ => evalPub b
  | .acas w a b c _ _ x _ => evalAcas w a b c x
  | .barinit b c _ _ own => evalBarinit b c own
  | .bararr a b _ => evalBararr a b
  | .barwait a b c _ _ => evalBarwait a b c
  | .bartest a b _ => evalBartest a b
  | .ctrset b c _ _ => evalCtrset b c
  | .ctradd b c _ _ => evalCtradd b c
  | .ctrwait a b c _ _ => evalCtrwait a b c
  | .tsend b c _ _ x _ => evalTsend b c x
  | .tcopy b c _ _ x _ => evalTcopy b c x
  | .qres a c _ => evalQres a c
  | .qcommit b c _ _ rel => evalQcommit b c rel
  | .qtake a c _ wait => evalQtake a c wait
  | .launch b c _ _ => evalLaunch b c
  | .fld w a b c _ _ arr off => evalFld w a b c arr off
  | .fst w b c _ _ x _ => evalFst w b c x
  | .fatom w a b c _ _ arr op x _ => evalFatom w a b c arr op x
  | .nwr b _ => evalNwr b
  | .yield => evalYield
  | .suspend => evalSuspend
  | .endC => evalEndC
  | .xret => evalXret
  | .uiret => evalUiret
  | .vNop => evalVNop
  | .mNop => evalMNop
  | .mrel => evalMrel
  | .msync => evalMsync
  | .xNop => evalXNop
  | .trig => evalTrig
  | .pdone => evalPdone
  | .svcPing => evalSvcPing
  | .svcQstat => evalSvcQstat
  | .svcLstat => evalSvcLstat
  | .svcTime => evalSvcTime
  | .svcLog => evalSvcLog
  | _ => fun _ _ _ => fault0 0x02

/-! ## Landings (R90, R91) -/

/-- The seats of a core. -/
def seatsOfCore (core : Nat) : List Nat := (nats 4).map fun k => 4 * core + k

/-- A landing that is due at a core cycle: those of a resumed seat that has not begun to count are due only with a
count of zero (R93). One that met an error lands nothing (R115). -/
def Seat.landsNow (x : Seat) (now : Nat) (i : Item) : Bool :=
  (x.st == .occupied || x.st == .saving) && i.landing && !i.er && (if x.relDue then i.due == 0 else decide (i.due ≤ now))

/-- LANDING: every landing of a core that is due is written, or the core freezes for the cycle while one has no
data; and whether it froze. -/
def State.land (s : State) (core : Nat) : Bool × State :=
  let now := s.cycle core
  let due := (seatsOfCore core).flatMap fun k => ((s.seat k).items.filter ((s.seat k).landsNow now)).map fun i => (k, i)
  if due.any fun e => e.2.data.isNone then (true, s.modCore core fun c => { c with frozen := c.frozen + 1 })
  else (false, due.foldl (fun s e => s.modSeat e.1 fun x =>
    { (x.arrive e.2 (e.2.data.getD 0)) with items := x.items.filter fun i => i.id != e.2.id }) s)
/-- LANDING as a step. -/
def execLanding (core : Nat) (s : State) : Host.Outcome State Fault Refusal := .next (s.land core).2

/-! ## Boundary causes (R272) -/

/-- The seat stands at an issue boundary at which a cause may be taken: it is OCCUPIED, no factorisation of it
executes (R231), and its next issue raises no precise fault. -/
def State.atBoundary (s : State) (seat : Nat) : Bool :=
  let x := s.seat seat
  x.st == .occupied && x.fact.isNone && (match s.tryIssue evalOf seat with
    | .flt _ => false
    | _ => true)

/-- The late read that has met an error may be taken: a landing not before its cycle, and at the first boundary
after a resumption (R115). -/
def Seat.lateDue (x : Seat) (now : Nat) (i : Item) : Bool := i.er && (!i.landing || x.relDue || decide (i.due ≤ now))

/-- LATE_UNCORRECTABLE_READ: the destination is FULL with its old value, and the seat takes the trap (R115). -/
def State.lateRead (s : State) (id : Nat) : State :=
  match s.itemSeat id with
  | some (k, i) =>
    if (s.seat k).lateDue (s.cycle (coreOf k)) i && s.atBoundary k then
      let n := i.reg.toNat
      let s := s.modSeat k fun x =>
        let x := { x with items := x.items.filter fun y => y.id != id }
        if i.landing ∨ n = 0 then x
        else if i.sh then { x with shEmpty := putBit x.shEmpty (shBit n) false } else { x with empty := putBit x.empty n false }
      s.boundaryTrap k 0x70 (BitVec.ofNat 64 (2 ^ 62 + n * 2 ^ 56 + (i.data.getD 0).toNat % 2 ^ 48))
    else s
  | none => s
/-- LATE_UNCORRECTABLE_READ as a step. -/
def execLateUncorrectableRead (id : Nat) (s : State) : Host.Outcome State Fault Refusal := .next (s.lateRead id)

/-- The limit of a reduction: MAXRED of the kernel, or 16,384 (R201). -/
def State.redLimit (s : State) (seat : Nat) : Nat :=
  let x := s.seat seat
  match s.lent (dieOf seat) x.ctx x.lid with
  | some e => if e.p.maxred = 0 then 16384 else e.p.maxred
  | none => 16384

/-- The reduction of a seat has become too long. -/
def State.redDue (s : State) (seat : Nat) : Bool :=
  match (s.seat seat).lease.openAt with
  | some t => decide (t + s.redLimit seat + 1 ≤ s.cycle (coreOf seat))
  | none => false

/-- REDUCTION_DEPTH_EXPIRY: the run ends, the open planes are closed with their contents kept, and the seat takes the
trap; a watchdog that falls due with it restarts from 0 (R199, R201, R272). -/
def State.redExpire (s : State) (seat : Nat) : State :=
  if s.redDue seat && s.atBoundary seat then
    let limit := s.redLimit seat
    let s := if s.wdDue seat then s.modSeat seat fun x => { x with wdcnt := 0 } else s
    let s := s.endRunSeat seat
    let s := s.modArr (quadOf seat) fun a => a.closePlanes (s.seat seat).cid
    let s := s.modSeat seat fun x => { x with lease := { x.lease with openAt := none } }
    s.boundaryTrap seat 0x61 (BitVec.ofNat 64 limit)
  else s
/-- REDUCTION_DEPTH_EXPIRY as a step. -/
def execReductionDepthExpiry (seat : Nat) (s : State) : Host.Outcome State Fault Refusal := .next (s.redExpire seat)

/-- WATCHDOG_EXPIRY (R266); together with a reduction that is too long, that one is taken (R272). -/
def State.wdExpire (s : State) (seat : Nat) : State :=
  if s.wdDue seat && !s.redDue seat && s.atBoundary seat then
    let s := s.modSeat seat fun x => { x with wdcnt := 0 }
    s.boundaryTrap seat 0x60 (BitVec.ofNat 64 (2 ^ (s.ctx (s.seat seat).ctx).wdint))
  else s
/-- WATCHDOG_EXPIRY as a step. -/
def execWatchdogExpiry (seat : Nat) (s : State) : Host.Outcome State Fault Refusal := .next (s.wdExpire seat)

/-- The shadow S56 or S57 still waits for a result or a landing, so that the entry waits (R88, R155). -/
def Seat.uiBlocked (x : Seat) : Bool :=
  x.shEmpty.getLsbD 0 || x.shEmpty.getLsbD 1
    || x.items.any fun i => i.landing && i.sh && (i.reg == 56#6 || i.reg == 57#6)

/-- USER_INTERRUPT_ENTRY: the oldest pending interrupt is taken, at level 0 with no handler active (R155). -/
def State.userEntry (s : State) (seat : Nat) : State :=
  let x := s.seat seat
  match x.uis with
  | u :: _ =>
    if x.lvl = 0 ∧ x.uiActive = false ∧ x.uiBlocked = false ∧ s.atBoundary seat = true then s.modSeat seat fun x => x.uiEnter u
    else s
  | [] => s
/-- USER_INTERRUPT_ENTRY as a step. -/
def execUserInterruptEntry (seat : Nat) (s : State) : Host.Outcome State Fault Refusal := .next (s.userEntry seat)

/-! ## The selector (R253) -/

/-- The seat can issue in this cycle, or freezes the core in its issue (R94). -/
def IssueRes.issues : IssueRes → Bool
  | .freeze => true
  | .flt _ => true
  | .go _ => true
  | .held => false
  | .wait _ => false

/-- The running seat keeps the width: it issues, or only WAIT or the spacing of issues holds it. -/
def IssueRes.keeps : IssueRes → Bool
  | .wait _ => false
  | _ => true

/-- The OCCUPIED seats of a core, lowest first. -/
def State.occupied (s : State) (core : Nat) : List Nat := (seatsOfCore core).filter fun k => (s.seat k).st == .occupied

/-- Seat `a` comes before seat `b` at the selector: lower class, then longer without an issue. -/
def State.selBefore (s : State) (a b : Nat) : Bool :=
  let cls (k : Nat) : Nat := s.effClass (dieOf k) (s.seat k).ctx (s.seat k).lid
  decide (cls a < cls b ∨ (cls a = cls b ∧ (s.seat a).lastIssue < (s.seat b).lastIssue))

/-- The seat that the selector chooses among those that can issue; the lowest of equals. -/
def State.select (s : State) (l : List Nat) : Option Nat :=
  l.foldl (fun (b : Option Nat) k => match b with
    | none => some k
    | some j => if s.selBefore k j then some k else some j) none

/-- An issue that waits for something else holds up no other at a page or a queue that it could have by now. -/
def State.letPass (s : State) (seat : Nat) : State :=
  let x := s.seat seat
  let t := x.tok
  let c := s.ctx x.ctx
  let past (e : Nat × QTok) : Bool :=
    let va := e.1 * 2 ^ 16
    let l := (c.leafAt va).1
    e.2 == t && !(l.mig || (!l.v && l.onhost)) && s.pageMay x.ctx va t
  let s := if c.pageq.any past then s.modCtx x.ctx fun c => { c with pageq := c.pageq.filter fun e => !past e } else s
  (c.queues.filter fun q => q.2.st == qResident && q.2.waiting.contains t && s.qMay x.ctx q.1 t).foldl
    (fun s q => s.modQueue x.ctx q.1 fun q => { q with waiting := q.waiting.erase t }) s

/-- The seats of a core that wait for something ask for it, each once a cycle. -/
def State.askAll (s : State) (core : Nat) : State :=
  (s.occupied core).foldl (fun s k => match s.tryIssue evalOf k with
    | .wait f => f (s.letPass k)
    | _ => s) s

/-- A split issue of the core has its second pass in this cycle (R15). -/
def State.secondPass (s : State) (core : Nat) : Bool := decide (s.cycle core < (s.core core).busy)

/-- BUNDLE_ISSUE: the issue of a core in one cycle (R253). In the second cycle of a split issue the core issues nothing
else (R15). -/
def State.issueCore (s : State) (core : Nat) : State :=
  if s.secondPass core then s
  else
  let run : Option Nat := match (s.core core).running with
    | some k => if (s.seat k).st = .occupied ∧ (s.tryIssue evalOf k).keeps = true then some k else none
    | none => none
  match run with
  | some k => (s.tryIssue evalOf k).apply s core
  | none =>
    let s := s.askAll core
    match s.select ((s.occupied core).filter fun k => (s.tryIssue evalOf k).issues) with
    | some k => (s.tryIssue evalOf k).apply s core
    | none => s

/-- The bundle of a seat lies in HBM that the package does not have (R7). -/
def State.inHole (s : State) (seat : Nat) : Bool :=
  match s.look (s.seat seat).ctx .fetch (s.seat seat).pc.toNat with
  | .ok p => let k := s.front (s.seat seat).ctx p; decide (Config.hbmBytes ≤ k ∧ k < hostBase)
  | _ => false

/-- BUNDLE_ISSUE as a step. While the package is not ACTIVE nothing on it runs (R18). -/
def execBundleIssue (core : Nat) (s : State) : Host.Outcome State Fault Refusal :=
  if s.power ≠ .active ∧ s.power ≠ .gated then .next s
  else if (s.occupied core).any s.inHole then .fault .hbmHole
  else .next (s.issueCore core)

end Sys2Proof.Machine
end

