-- ==== Sys2Proof/Machine/Seats.lean ====
section
/-!
DEFINITION. Seating and saving (R249 to R252, R264), and the end of a carriage (R268).
-/

namespace Sys2Proof.Machine

/-! ## Seating (R250 to R252) -/

/-- The tag of the kernel of a launch: context, model slot, image generation (R252). Slot 256 is none. -/
def State.kernelTag (s : State) (d ctx lid : Nat) : Nat × Nat × Nat :=
  match s.lent d ctx lid with
  | some e => (ctx, e.p.slot, e.p.gen)
  | none => (ctx, 256, 0)

/-- The lowest slots of a context's image pool that are neither reserved nor holding an image (R251). -/
def Ctx.poolSlots (c : Ctx) (n : Nat) : Option (List Nat) :=
  let l := ((nats (c.pool.length + n)).filter fun i => decide (i < c.pooln) && SMap.get 0 c.pool i == 0).take n
  if l.length = n then some l else none

/-- The address of a slot of the image pool. -/
def Ctx.poolAt (c : Ctx) (i : Nat) : Nat := (c.poolVa + 65536 * i) % 2 ^ 48

/-- A carriage has a seat image attached (FULL). -/
def State.isFull (s : State) (ctx carr : Nat) : Bool := bit (s.carrWord ctx carr 0) 63

/-- The words of the item records of the seat image of a carriage. -/
def State.itemWords (s : State) (ctx carr : Nat) : List W64 :=
  let va := fld (s.carrWord ctx carr 3) 47 0
  (nats 64).map fun i => s.devWord ctx (va + 0xEC00 + 16 * i)

/-- Every record of the seat image has its data or its error (R257). -/
def State.imageReady (s : State) (ctx carr : Nat) : Bool := (s.itemWords ctx carr).all fun w => !bit w 63 || bit w 61 || bit w 53

/-- The seat receives what comes before its state: a table of HCW entries that is kept only for the same image, and
nothing of the carriage before (R252). -/
def seatBase (x : Seat) (r : Rec) (kernel : Nat × Nat × Nat) (full : Bool) (now until_ core : Nat) : Seat :=
  let keep := !full && x.tag == some kernel
  { Seat.reset with
    st := .loading, ctx := r.ctx, carr := r.carr, lid := r.lid, tag := x.tag, kernel := kernel, until_ := until_, seatedAt := now,
    lease := r.lease, lastIssue := core, hcw := if keep then x.hcw else [], hcwErr := if keep then x.hcwErr else [] }

/-- A carriage is seated on a seat: it becomes SEATED, with a slot of the image pool in reserve (R245, R250, R251). -/
def State.seatOn (s : State) (r : Rec) (seat : Nat) : State :=
  let full := s.isFull r.ctx r.carr
  let slot : Option Nat := if full then r.pool else
    match (s.ctx r.ctx).poolSlots 1 with
    | some (i :: _) => some i
    | _ => none
  match slot with
  | none => s
  | some i =>
    let s := s.modCtx r.ctx fun c => { c with pool := SMap.set 0 c.pool i 1 }
    let s := { s with coaches := s.coaches.map fun (c : Coach) => { c with resv := c.resv.filter fun k => k != seat } }
    let s := (s.modRec r.ctx r.carr fun r => { r with pool := some i }).setCarr r.ctx r.carr .seated
    let kernel := s.kernelTag (dieOf seat) r.ctx r.lid
    s.modSeat seat fun x => seatBase x r kernel full s.dieCycle (s.dieCycle + if full then 1024 else 16) (s.cycle (coreOf seat))

/-- The state of R85 that a seat receives with FULL = 0. -/
def State.freshSeat (s : State) (x : Seat) : Seat :=
  let w (i : Nat) : W64 := s.carrWord x.ctx x.carr i
  { x with
    st := .occupied, pc := addrOf (w 0), wid := w 1, frameReg := w 2
    sregs := (nats 4).foldl (fun m i => SMap.set 0 m (60 + i) (w (4 + i))) [] }

/-- SEATING_LOADED: the initial state or the image is in place, and the seat becomes OCCUPIED (R249, R250). An image
waits for its entries of the landing buffer (R93); one with a line in error contains the carriage. -/
def State.loaded (s : State) (seat : Nat) : State :=
  let x := s.seat seat
  if x.st ≠ .loading ∨ s.dieCycle < x.until_ then s
  else
    match s.recOf x.ctx x.carr with
    | none => s
    | some r =>
      let go (y : Seat) (s : State) : State :=
        let s := s.setSeat seat y
        let s := s.modRec x.ctx x.carr fun r => { r with lease := Lease.none }
        match y.late with
        | some (c, va) => s.contain seat c va none
        | none => s
      if s.isFull x.ctx x.carr then
        let w0 := s.carrWord x.ctx x.carr 0
        let va := fld (s.carrWord x.ctx x.carr 3) 47 0
        let need := ((s.itemWords x.ctx x.carr).filter fun w => bit w 63 && bit w 62 && !bit w 53).length
        if s.landFree (coreOf seat) < need then s
        else
          let bad := s.devBad x.ctx va 65536
          let y := x.restore (s.readImage x.ctx va) s.nextId r.uiRep r.lease.granted
          let y := { y with st := .occupied, wid := s.carrWord x.ctx x.carr 1, hcwErr := r.hcwErr, lease := { y.lease with freeing := r.lease.freeing }
                            late := match bad with
                              | some l => some (0x70, l)
                              | none => y.late }
          let s := { s with nextId := s.nextId + 64 }
          let s := s.setCarrWord x.ctx x.carr 0 (BitVec.ofNat 64 (w0.toNat % 2 ^ 63))
          go y (s.modRec x.ctx x.carr fun r => { r with imgIds := [], hcwErr := [] })
      else go (s.freshSeat x) s
/-- SEATING_LOADED as a step. -/
def execSeatingLoaded (seat : Nat) (s : State) : Host.Outcome State Fault Refusal := .next (s.loaded seat)

/-! ## Which records are pending, and where they may be seated (R246, R262) -/

/-- The carriage belongs to a rind that the die does not hold, or is about to save (R298). -/
def State.rindAway (s : State) (r : Rec) : Bool :=
  match s.rind r.die r.ctx r.lid with
  | some x => !x.held || x.leaving
  | none => false

/-- A carriage that the allocator may seat on its own: NEW or RUNNABLE, off every seat (the seat that it has left is freed
only when its writes are performed, R249, R305), of a context that runs, of a gang launch record
that is SEATED if of any, and with a complete image if it has one. -/
def State.seatable (s : State) (r : Rec) : Bool :=
  (r.st == .new || r.st == .runnable) && (s.ctx r.ctx).st == .runnable && !s.rindAway r && (s.seatOf r.ctx r.carr).isNone
    && (match r.coach with
        | none => true
        | some i => s.coaches.any fun c => c.idx == i && c.cst == 2 && !c.swapping)
    && (!s.isFull r.ctx r.carr || s.imageReady r.ctx r.carr)

/-- The quads of the package on which a carriage may be seated (R246). -/
def Rec.quads (r : Rec) : List Nat :=
  match r.pin with
  | some q => [q]
  | none => match r.quad with
    | some q => [q]
    | none => (nats 28).map fun i => 28 * r.die + i

/-- The seats of a quad in the order of R259. -/
def seatsOfQuad (quad : Nat) : List Nat := (nats 16).map fun i => 16 * quad + i % 4 * 4 + i / 4

/-- A seat may be given to a record: it is FREE, or reserved for this gang launch record, or reserved for another while
the record is a class-0 one within its reservation (R261, R262). -/
def State.avail (s : State) (coach : Option Nat) (c0 : Bool) (seat : Nat) : Bool :=
  match (s.seat seat).st with
  | .free => true
  | .reserved => c0 || s.coaches.any fun c => some c.idx == coach && c.resv.contains seat
  | _ => false

/-- Seats of a context on a die whose carriages have effective class 0 (R4, R290). -/
def State.class0Seats (s : State) (d ctx : Nat) : Nat :=
  (s.seats.filter fun e => dieOf e.1 == d && e.2.st != .free && e.2.st != .reserved && e.2.ctx == ctx
    && s.effClass d ctx e.2.lid == 0).length

/-- A record that needs `n` seats is a class-0 one within its context's reservation (R4, R263). -/
def State.within (s : State) (d ctx lid n : Nat) : Bool :=
  s.effClass d ctx lid == 0 && decide (s.class0Seats d ctx + n ≤ (s.ctx ctx).rsvSeats)

/-- SEATING: the allocator seats a carriage on a seat that it may have. -/
def execSeating (carr seat : Nat) (s : State) : Host.Outcome State Fault Refusal :=
  .next (match s.recs.find? fun r => r.carr == carr && r.die == dieOf seat && s.seatable r && r.quads.contains (quadOf seat)
      && s.avail none (s.within r.die r.ctx r.lid 1) seat with
    | some r => s.seatOn r seat
    | none => s)

/-! ## The save (R93, R202, R264) -/

/-- The seat has a plane open (R198). -/
def State.redOpen (s : State) (seat : Nat) : Bool := (s.arr (quadOf seat)).openPlane (s.seat seat).cid

/-- PREEMPTION_SAVE: a marked seat stops issuing at an eligible boundary and is SAVING. -/
def State.preempt (s : State) (seat : Nat) : State :=
  let x := s.seat seat
  if x.st = .occupied ∧ x.mark ≠ .none ∧ s.redOpen seat = false ∧ x.fact.isNone = true then
    let s := s.modCore (coreOf seat) fun c => { c with running := if c.running = some seat then none else c.running }
    s.setSeat seat { x with st := .saving, until_ := 0 }
  else s
/-- PREEMPTION_SAVE as a step. -/
def execPreemptionSave (seat : Nat) (s : State) : Host.Outcome State Fault Refusal := .next (s.preempt seat)

/-- A read whose data is still to come is performed: its value is fixed now (R178). -/
def State.bindRead (s : State) (a : Acc) : Acc :=
  if a.flag || !bindKind a.k || a.locs.length ≠ 1 || !s.accReady a then a
  else
    match s.accBad a with
    | some l => { a with flag := true, x := 1, v := BitVec.ofNat 64 l }
    | none => { a with flag := true, x := 0, v := extendTo a.n a.sgn (ofBytesLE (s.accBytes a)) }

/-- The reads of a carriage are performed. -/
def State.bindReads (s : State) (ctx carr : Nat) : State :=
  let mine (a : Acc) : Bool := a.ctx == ctx && a.carr == carr
  let t := (s.accs.filter fun a => mine a && s.bindRead a != a).foldl State.noteRead s
  { t with accs := s.accs.map fun a => if mine a then s.bindRead a else a }

/-- Every access of a carriage is performed; results of the firmware and of reads that are performed may still come. -/
def State.allPerformed (s : State) (ctx carr : Nat) : Bool :=
  s.accs.all fun a => a.ctx != ctx || a.carr != carr || a.k == .svc || a.k == .producer || (a.flag && bindKind a.k)

/-- The waits of a save are over: M commands, copies between clusters, pushed elements, HCWLDs, and every access. -/
def State.saveReady (s : State) (seat : Nat) : Bool :=
  let x := s.seat seat
  (s.queued (quadOf seat) x.ctx x.carr).isEmpty
    && !((s.core (coreOf seat)).xcls.any fun e => e.seat == seat)
    && (s.pushesOf x.ctx x.carr).isEmpty && (s.hcwldOf x.ctx x.carr).isEmpty && s.allPerformed x.ctx x.carr

/-- The image of a seat is written and the carriage becomes RUNNABLE with it (R245, R264); the lease goes with the
carriage, pinned to the quad but in a team swap (R202, R267). -/
def State.writeSave (s : State) (seat : Nat) : State :=
  let x := s.seat seat
  let now := s.cycle (coreOf seat)
  match s.recOf x.ctx x.carr with
  | none => s
  | some r =>
    let slot := r.pool.getD 0
    let va := (s.ctx x.ctx).poolAt slot
    let y := if x.relDue then { x with items := x.items.map fun i => if i.landing then { i with due := now + i.due } else i } else x
    let s := s.writeImage x.ctx va (y.image now)
    let pin := if x.lease.st = .idle ∨ x.mark = .teamSwap then none else some (quadOf seat)
    let s := s.setCarrWord x.ctx x.carr 0 (leaveWord0 (s.carrWord x.ctx x.carr 0) x.pc true pin .runnable)
    let s := s.setCarrWord x.ctx x.carr 3 (BitVec.ofNat 64 va)
    let s := s.modRec x.ctx x.carr fun r =>
      { r with st := .runnable, pin := pin, lease := x.lease.off, since := s.dieCycle, uiRep := x.uiRep, imgIds := x.items.map (·.id), hcwErr := x.hcwErr }
    let s := s.modCtx x.ctx fun c => { c with pool := SMap.set 0 c.pool slot 2 }
    let s := s.endRun (quadOf seat) x.cid
    s.freeSeat seat true

/-- SEAT_WRITE_PERFORMED: a suspended carriage's writes are performed, or the 1,024 cycles of an image are over, and the
seat is FREE (R249, R264). The image is written in the 1,024 cycles after the waits of the save. -/
def State.seatWritten (s : State) (seat : Nat) : State :=
  let x := s.seat seat
  match x.st with
  | .writing => if s.unperformed seat then s else (s.freeSeat seat false).rindSaves (dieOf seat)
  | .saving =>
    if x.until_ = 0 then
      let s := s.bindReads x.ctx x.carr
      if s.saveReady seat then s.modSeat seat fun y => { y with until_ := s.dieCycle + 1024 } else s
    else if s.dieCycle < x.until_ then s
    else (s.writeSave seat).rindSaves (dieOf seat)
  | _ => s
/-- SEAT_WRITE_PERFORMED as a step. -/
def execSeatWritePerformed (seat : Nat) (s : State) : Host.Outcome State Fault Refusal := .next (s.seatWritten seat)

/-! ## The end of a carriage (R268) -/

/-- Every engine that the seat fed reports empty, and every access that it committed is performed. -/
def State.drained (s : State) (seat : Nat) : Bool :=
  let x := s.seat seat
  !s.unperformed seat && (s.transOf x.ctx x.carr).isEmpty && (s.wreqsOf x.ctx x.carr).isEmpty
    && (s.queued (quadOf seat) x.ctx x.carr).isEmpty

/-- SEAT_DRAIN_COMPLETE: the lease goes to IDLE, tickets left in reserve are voided (R333), the seat is FREE and the
carriage DONE. -/
def State.drainEnd (s : State) (seat : Nat) : State :=
  let x := s.seat seat
  if x.st = .draining ∧ s.drained seat = true then
    let s := if x.lease.st = .idle then s else s.releaseLease seat
    let s := s.qVoidAll x.ctx x.carr
    let s := (s.freeSeat seat false).recGone x.ctx x.carr false
    s.rindSaves (dieOf seat)
  else s
/-- SEAT_DRAIN_COMPLETE as a step. -/
def execSeatDrainComplete (seat : Nat) (s : State) : Host.Outcome State Fault Refusal := .next (s.drainEnd seat)

/-! ## Containment as events (R275, R277) -/

/-- CONTAINMENT: a containing fault of the work of the carriage on a seat. -/
def execContainment (seat cause : Nat) (va : W64) (s : State) : Host.Outcome State Fault Refusal :=
  .next (s.contain seat cause va.toNat none)

/-- OFF_SEAT_CONTAINMENT: a containing fault of the work of a carriage that is off its seat. -/
def execOffSeatContainment (carr cause : Nat) (va : W64) (s : State) : Host.Outcome State Fault Refusal :=
  .next (match s.recs.find? fun r => r.carr == carr && (s.seatOf r.ctx r.carr).isNone with
    | some r => s.containCarr r.ctx r.carr cause va.toNat
    | none => s)

end Sys2Proof.Machine
end

