-- ==== Sys2Proof/Machine/Allocator.lean ====
section
/-!
DEFINITION. The seat allocator of a die (R259 to R263) and the rotation of a team swap (R267).
-/

namespace Sys2Proof.Machine

/-! ## The state of an array as bytes (R191, R267, R375) -/

/-- The 32 KiB of a hoop. -/
def Arr.hoopBytes (a : Arr) (h : Nat) : List Byte := (nats 32768).map fun i => SMap.get 0 a.hoop (32768 * h + i)
/-- The 8 KiB of the scale store of a hoop. -/
def Arr.scaleBytes (a : Arr) (h : Nat) : List Byte := (nats 8192).map fun i => SMap.get 0 a.hscale (8192 * h + i)
/-- The 64 KiB of a plane. -/
def Arr.planeBytes (a : Arr) (z : Nat) : List Byte := (nats 16384).flatMap fun i => bytesLE 4 (SMap.get 0 a.z (16384 * z + i)).toNat
/-- The 128 bytes of a permutation register. -/
def Arr.pmBytes (a : Arr) (k : Nat) : List Byte := bytesLE 128 (SMap.get 0 a.pm k).toNat

/-- Puts the bytes of a hoop back. -/
def Arr.putHoop (a : Arr) (h : Nat) (f : Nat → Byte) : Arr := { a with hoop := splice 0 a.hoop (32768 * h) 32768 f }
/-- Puts the bytes of a scale store back. -/
def Arr.putScale (a : Arr) (h : Nat) (f : Nat → Byte) : Arr := { a with hscale := splice 0 a.hscale (8192 * h) 8192 f }
/-- A little-endian number of `n` bytes from `k` on. -/
def numAt (f : Nat → Byte) (k n : Nat) : Nat := ofBytesLE ((nats n).map fun i => f (k + i))
/-- Puts the bytes of a plane back. -/
def Arr.putPlane (a : Arr) (z : Nat) (f : Nat → Byte) : Arr :=
  { a with z := splice 0 a.z (16384 * z) 16384 fun i => BitVec.ofNat 32 (numAt f (4 * i) 4) }
/-- Puts the bytes of a metadata register back. -/
def Arr.putMd (a : Arr) (m : Nat) (f : Nat → Byte) : Arr :=
  { a with md := splice 0 a.md (128 * m) 128 fun r => BitVec.ofNat 128 (numAt f (16 * r) 16) }
/-- Puts the bytes of a permutation register back. -/
def Arr.putPm (a : Arr) (k : Nat) (f : Nat → Byte) : Arr := { a with pm := SMap.set 0 a.pm k (BitVec.ofNat 1024 (numAt f 0 128)) }

/-- The bytes of a resource: a hoop with its scale store, a plane, a metadata or a permutation register. -/
def Arr.resBytes (a : Arr) (r : Nat) : List Byte :=
  if r < 0x10 then a.hoopBytes r ++ a.scaleBytes r
  else if r < 0x20 then a.planeBytes (r - 0x10)
  else if r < 0x30 then a.mdBytes (r - 0x20)
  else a.pmBytes (r - 0x30)

/-- Their number. -/
def resSize (r : Nat) : Nat := if r < 0x10 then 40960 else if r < 0x20 then 65536 else if r < 0x30 then 2048 else 128

/-- Puts the bytes of a resource back. -/
def Arr.putRes (a : Arr) (r : Nat) (f : Nat → Byte) : Arr :=
  if r < 0x10 then (a.putHoop r f).putScale r fun i => f (32768 + i)
  else if r < 0x20 then a.putPlane (r - 0x10) f
  else if r < 0x30 then a.putMd (r - 0x20) f
  else a.putPm (r - 0x30) f

/-- The tag of a hoop, or 1 for a plane of type INT32; and HS of a hoop. -/
def Arr.tagOf (a : Arr) (r : Nat) : Nat × Bool :=
  if r < 0x10 then (SMap.get 0 a.hf r, SMap.get false a.hs r)
  else if r < 0x20 then (if SMap.get false a.zt (r - 0x10) then 1 else 0, false)
  else (0, false)

/-- Sets the tag of a hoop or the type of a plane. -/
def Arr.putTag (a : Arr) (r t : Nat) (hs : Bool) : Arr :=
  if r < 0x10 then { a with hf := SMap.set 0 a.hf r t, hs := SMap.set false a.hs r hs }
  else if r < 0x20 then { a with zt := SMap.set false a.zt (r - 0x10) (t == 1) }
  else a

/-! ## Team swap: saving and restoring a group (R267) -/

/-- The members of a group of a gang launch record that have a record. -/
def State.groupRecs (s : State) (c : Coach) (g : Nat) : List Rec :=
  s.recs.filter fun r => r.coach == some c.idx && r.member / (c.seats + 1) == g

/-- The quad of the package of a group of a SEATED gang launch record. -/
def Coach.quadOf (c : Coach) (g : Nat) : Nat := c.die * 28 + (c.qstart + g) % 28

/-- The scratchpad region that the launch declares per group: its first location and length (R267, R281). -/
def State.swapRegion (s : State) (c : Coach) (quad : Nat) : Nat × Nat :=
  match s.lent c.die c.ctx c.lid with
  | some e => (spKey c.ctx quad e.p.spOff, Nat.min e.p.spLen ((s.ctx c.ctx).spLen quad - e.p.spOff))
  | none => (spKey c.ctx quad 0, 0)

/-- The resources that the carriages of a group hold on a quad, in the order of the save: hoops, planes, metadata and
permutation registers, each rising; with the carriage that holds each. -/
def State.groupRes (s : State) (c : Coach) (g : Nat) : List (Nat × Nat × Nat × Bool) :=
  let a := s.arr (c.quadOf g)
  let ids := (s.groupRecs c g).map fun r => carrId r.ctx r.carr
  (a.alloc.filter fun e => ids.any fun i => e.2 == i + 1).map fun e => (e.2 - 1, e.1, a.tagOf e.1)

/-- Writes bytes into slots of the image pool of a context, 64 KiB to each. -/
def State.poolPut (s : State) (ctx : Nat) (slots : List Nat) (l : List Byte) : State :=
  let a := l.toArray
  ((nats slots.length).zip slots).foldl (fun s e =>
    s.devFill ctx ((s.ctx ctx).poolAt e.2) (Nat.min 65536 (a.size - 65536 * e.1)) fun i => a.getD (65536 * e.1 + i) 0) s

/-- Byte `i` of what slots of the image pool hold. -/
def State.poolByte (s : State) (ctx : Nat) (slots : List Nat) (i : Nat) : Byte :=
  s.devByte ctx ((s.ctx ctx).poolAt (nth 0 slots (i / 65536)) + i % 65536)

/-- Saves a group whose carriages have left their seats; nothing while the pool has too few slots. -/
def State.saveGroup (s : State) (c : Coach) (g : Nat) : Option (GSave × State) :=
  let q := c.quadOf g
  let res := s.groupRes c g
  let (k, n) := s.swapRegion c q
  let l := (res.flatMap fun r => (s.arr q).resBytes r.2.1) ++ s.rdBytes k n
  match (s.ctx c.ctx).poolSlots (cdiv l.length 65536) with
  | none => none
  | some slots =>
    let s := s.modCtx c.ctx fun x => { x with pool := slots.foldl (fun m i => SMap.set 0 m i 2) x.pool }
    let s := s.poolPut c.ctx slots l
    let tags := (s.tags.filter fun t => decide (k / 256 ≤ t.1 ∧ t.1 < (k + n) / 256)).map fun t => (t.1 - k / 256, t.2)
    let s := s.modArr q fun a => (s.groupRecs c g).foldl (fun a r => a.freeAlloc (carrId r.ctx r.carr)) a
    some (⟨g, slots, res, n, tags⟩, s)

/-- Saves the groups of a record one after the other. -/
def saveGroups (c : Coach) : List Nat → State → Option (List GSave × State)
  | [], s => some ([], s)
  | g :: gs, s =>
    match s.saveGroup c g with
    | none => none
    | some (x, s) =>
      match saveGroups c gs s with
      | none => none
      | some (xs, s) => some (x :: xs, s)

/-- Saves the marked records of a die whose carriages have all left their seats; they are PENDING again, as from the
end of the quantum. -/
def State.swapSaves (s : State) (d : Nat) : State :=
  s.coaches.foldl (fun s c =>
    if c.die = d ∧ c.swapping = true ∧ (s.recs.all fun r => r.coach != some c.idx || r.st != .seated) = true then
      match saveGroups c (nats (c.groups + 1)) s with
      | none => s
      | some (xs, s) =>
        let since := match s.lent d c.ctx c.lid with
          | some e => e.swapAt.getD s.dieCycle
          | none => s.dieCycle
        let c' : Coach := { c with cst := 0, since := since, swapping := false, saves := xs }
        let s := { s with recs := s.recs.map fun (r : Rec) => if r.coach = some c.idx then { r with quad := none } else r }
        ((s.modCoach c.idx fun _ => c').putCoach c').setCarrWord c.ctx (c.first - 64) 3 (BitVec.ofNat 64 since)
    else s) s

/-- The resources that a saved group holds are free on a quad, and the region fits its window. -/
def State.fitsSave (s : State) (c : Coach) (q : Nat) (x : GSave) : Bool :=
  (x.res.all fun r => SMap.get 0 (s.arr q).alloc r.2.1 == 0) && decide (x.len ≤ (s.swapRegion c q).2)

/-- Restores a saved group on a quad (R267). -/
def State.restoreGroup (s : State) (c : Coach) (q : Nat) (x : GSave) : State :=
  let byte := s.poolByte c.ctx x.slots
  let put := fun (p : Nat × State) (r : Nat × Nat × Nat × Bool) =>
    let s := p.2.modArr q fun a =>
      let a := (a.putRes r.2.1 fun i => byte (p.1 + i)).putTag r.2.1 r.2.2.1 r.2.2.2
      { a with alloc := SMap.set 0 a.alloc r.2.1 (r.1 + 1), owner := SMap.set 0 a.owner r.2.1 (c.ctx + 1) }
    (p.1 + resSize r.2.1, s)
  let r := x.res.foldl put (0, s)
  let s := r.2
  let k := (s.swapRegion c q).1
  let n := x.len
  let s := s.wrBytes k ((nats n).map fun i => byte (r.1 + i))
  let s := { s with tags := (nats (n / 256)).foldl (fun m i => SMap.set 0 m (k / 256 + i) (SMap.get 0 x.tags i)) s.tags }
  s.modCtx c.ctx fun y => { y with pool := x.slots.foldl SMap.erase y.pool }

/-! ## Gang launch records (R259 to R262) -/

/-- The quads of a record that starts at a quad of the die. -/
def Coach.quadsAt (c : Coach) (qs : Nat) : List Nat := (nats (c.groups + 1)).map fun g => c.die * 28 + (qs + g) % 28

/-- The seats of a quad that a record may have. -/
def State.seatsFor (s : State) (c : Coach) (c0 : Bool) (quad : Nat) : List Nat := (seatsOfQuad quad).filter fun k => s.avail (some c.idx) c0 k

/-- What the saved groups of a record need is free from a start. -/
def State.savesFit (s : State) (c : Coach) (qs : Nat) : Bool := c.saves.all fun x => s.fitsSave c (c.die * 28 + (qs + x.group) % 28) x

/-- The lowest QSTART from which every quad has the seats (R261); a record in RESERVING has its start. -/
def State.startFor (s : State) (c : Coach) (c0 : Bool) : Option Nat :=
  ((if c.cst = 1 then [c.qstart] else nats 28)).find? fun qs =>
    s.savesFit c qs && (c.quadsAt qs).all fun q => decide (c.seats + 1 ≤ (s.seatsFor c c0 q).length)

/-- The members of a record that are to be seated: those that are NEW or RUNNABLE. -/
def State.coachMembers (s : State) (c : Coach) : List Rec := s.recs.filter fun r => r.coach == some c.idx && (r.st == .new || r.st == .runnable)

/-- Seats a record from a start: every member on its seat, each group on its quad, and what it kept in reserve beside
them is free again. -/
def State.seatCoach (s : State) (c : Coach) (c0 : Bool) (qs : Nat) : State :=
  let seats := (c.quadsAt qs).map fun q => s.seatsFor c c0 q
  let s := c.saves.foldl (fun s x => s.restoreGroup c (c.die * 28 + (qs + x.group) % 28) x) s
  let ms := s.coachMembers c
  let s := { s with recs := s.recs.map fun (r : Rec) =>
    if r.coach = some c.idx then { r with quad := some (c.die * 28 + (qs + r.member / (c.seats + 1)) % 28) } else r }
  let s := ms.foldl (fun s r => s.seatOn r (nth 0 (nth [] seats (r.member / (c.seats + 1))) (r.member % (c.seats + 1)))) s
  let rest := (s.coaches.filter fun y => y.idx == c.idx).flatMap fun y => y.resv
  let s := rest.foldl (fun s k => s.modSeat k fun x => { x with st := .free }) s
  let c' : Coach := { c with cst := 2, qstart := qs, resv := [], seatedAt := s.dieCycle, saves := [] }
  let s := (s.modCoach c.idx fun _ => c').putCoach c'
  s.modLent c.die c.ctx c.lid fun e => 
    { e with lastGang := c.idx, swapAt := if e.p.swap && e.swapAt.isNone then some s.dieCycle else e.swapAt }

/-- The slots of the image pool that the seating of a record takes (R251). -/
def State.coachSlots (s : State) (c : Coach) : Nat := ((s.coachMembers c).filter fun r => !s.isFull r.ctx r.carr).length

/-! ## Victims (R263) -/

/-- A launch is in the rotation of a team swap (R267). -/
def State.rotating (s : State) (d ctx lid : Nat) : Bool := s.coaches.any fun c => c.die == d && c.ctx == ctx && c.lid == lid && c.swapping

/-- Seat `a` is taken before seat `b`: higher class, then seated later, then higher place. -/
def State.victimBefore (s : State) (a b : Nat) : Bool :=
  let cls (k : Nat) : Nat := s.effClass (dieOf k) (s.seat k).ctx (s.seat k).lid
  decide (cls b < cls a ∨ (cls a = cls b ∧ ((s.seat b).seatedAt < (s.seat a).seatedAt
    ∨ ((s.seat a).seatedAt = (s.seat b).seatedAt ∧ b % 16 ≤ a % 16))))

/-- The seats of quads that a class-0 record of a context may take, in the order of choice. -/
def State.victims (s : State) (ctx : Nat) (quads : List Nat) : List Nat :=
  let l := (quads.flatMap seatsOfQuad).filter fun k =>
    let x := s.seat k
    x.st == .occupied && x.mark == .none && (x.ctx != ctx || s.effClass (dieOf k) x.ctx x.lid != 0)
      && !(x.ctx == ctx && s.rotating (dieOf k) x.ctx x.lid)
  sortBy s.victimBefore l

/-- Seats that are marked for a record, on quads. -/
def State.markedFor (s : State) (f : Nat × Nat) (quads : List Nat) : Nat :=
  ((quads.flatMap seatsOfQuad).filter fun k =>
    let x := s.seat k
    x.mark == .class0 && x.markFor == f && (x.st == .occupied || x.st == .saving)).length

/-- Marks seats for a class-0 record. -/
def State.markSeats (s : State) (f : Nat × Nat) (l : List Nat) : State :=
  l.foldl (fun s k => s.modSeat k fun x => { x with mark := .class0, markFor := f }) s

/-- The victims of a gang launch record: those of the QSTART that needs the fewest (R263). -/
def State.coachVictims (s : State) (c : Coach) : List Nat :=
  let f := (c.ctx, c.first - 64)
  let lack (q : Nat) : Nat := c.seats + 1 - (s.seatsFor c true q).length - s.markedFor f [q]
  let pick (qs : Nat) : Option (List Nat) :=
    let l := (c.quadsAt qs).map fun q => (lack q, (s.victims c.ctx [q]).take (lack q))
    if l.all fun e => e.2.length == e.1 then some (l.flatMap fun e => e.2) else none
  let best := ((nats 28).filterMap pick).foldl (fun (b : Option (List Nat)) l => match b with
    | none => some l
    | some m => if l.length < m.length then some l else some m) none
  best.getD []

/-! ## Serving (R262) -/

/-- A pending record: a carriage, or a gang launch record. -/
inductive Pend where
  | one (r : Rec)
  | gang (c : Coach)

/-- The place of a gang launch record in a rotation: those of higher WID than the group seated last come first (R267). -/
def State.turnOfGang (s : State) (c : Coach) : Nat :=
  match s.lent c.die c.ctx c.lid with
  | some e => if e.p.swap && decide (c.idx ≤ e.lastGang) then 1 else 0
  | none => 0

/-- Its effective class, whether it is no handler (R244), the die cycle from which it is pending, and its place in a rotation. -/
def State.pendKey (s : State) : Pend → Nat × Nat × Nat × Nat
  | .one r => (s.effClass r.die r.ctx r.lid, if r.kind = kHandler then 0 else 1, r.since, 0)
  | .gang c => (s.effClass c.die c.ctx c.lid, 1, c.since, s.turnOfGang c)

/-- The order of service. -/
def State.pendBefore (s : State) (a b : Pend) : Bool :=
  let x := s.pendKey a
  let y := s.pendKey b
  decide (x.1 < y.1 ∨ (x.1 = y.1 ∧ (x.2.1 < y.2.1 ∨ (x.2.1 = y.2.1
    ∧ (x.2.2.1 < y.2.2.1 ∨ (x.2.2.1 = y.2.2.1 ∧ x.2.2.2 ≤ y.2.2.2))))))

/-- The pending records of a die, in the order of service. -/
def State.pending (s : State) (d : Nat) : List Pend :=
  let rs := (s.recs.filter fun r => r.die == d && s.seatable r).map Pend.one
  let cs := (s.coaches.filter fun c => c.die == d && decide (c.cst < 2) && (s.ctx c.ctx).st == .runnable).map Pend.gang
  sortBy s.pendBefore (rs ++ cs)

/-- Serves a carriage: a seat of its choice among those that it may have (log 1), or a victim. -/
def State.serveOne (s : State) (r : Rec) : State :=
  let c0 := s.within r.die r.ctx r.lid 1
  if !s.isFull r.ctx r.carr && ((s.ctx r.ctx).poolSlots 1).isNone then s
  else
    match (r.quads.flatMap seatsOfQuad).filter fun k => s.avail none c0 k with
    | [] =>
      let f := (r.ctx, r.carr)
      if c0 && s.markedFor f r.quads == 0 then s.markSeats f ((s.victims r.ctx r.quads).take 1) else s
    | k :: ks =>
      let l := k :: ks
      { (s.seatOn r (nth 0 l (Config.freeChoice s.free % l.length))) with free := s.free + 1 }

/-- Serves a gang launch record: all of its seats or none. -/
def State.serveCoach (s : State) (c : Coach) : State :=
  let need := (c.groups + 1) * (c.seats + 1)
  let c0 := s.within c.die c.ctx c.lid need
  if ((s.ctx c.ctx).poolSlots (s.coachSlots c)).isNone || !((s.coachMembers c).all fun r =>
      (s.seatOf r.ctx r.carr).isNone && (!s.isFull r.ctx r.carr || s.imageReady r.ctx r.carr)) then s
  else
    match s.startFor c c0 with
    | some qs => s.seatCoach c c0 qs
    | none => if c0 then s.markSeats (c.ctx, c.first - 64) (s.coachVictims c) else s

/-- ALLOCATOR_SERVE: the records that are due are created (R286), and the allocator of a die serves its pending records (R262). -/
def execAllocatorServe (die : Nat) (s : State) : Host.Outcome State Fault Refusal :=
  .next (
    let s := (s.createDue die).swapSaves die
    (s.pending die).foldl (fun s p => match p with
      | .one r => s.serveOne r
      | .gang c => s.serveCoach c) s)

/-- COACH_RESERVING: a record that has been PENDING for 2^16 die cycles fixes the start that lacks the fewest seats, and
keeps the free seats there up to its number; others are kept for it as they are freed (R262). -/
def execCoachReserving (die : Nat) (s : State) : Host.Outcome State Fault Refusal :=
  .next (match s.coaches.find? fun c => c.die == die && c.cst == 0 && !c.swapping && decide (c.since + 2 ^ 16 ≤ s.dieCycle) with
    | none => s
    | some c =>
      let lack (qs : Nat) : Nat := (c.quadsAt qs).foldl (fun n q => n + (c.seats + 1 - (s.seatsFor c false q).length)) 0
      let qs := (nats 28).foldl (fun b i => if lack i < lack b then i else b) 0
      let take := (c.quadsAt qs).flatMap fun q => (s.seatsFor c false q).take (c.seats + 1)
      let s := take.foldl (fun s k => s.modSeat k fun x => { x with st := .reserved }) s
      let c' : Coach := { c with cst := 1, qstart := qs, resv := take }
      (s.modCoach c.idx fun _ => c').putCoach c')

/-- TEAM_SWAP_QUANTUM: a quantum of 2^18 die cycles of a launch in team swap mode ends; if a group of it is unseated,
the groups that have been seated for a whole quantum are marked (R267). -/
def execTeamSwapQuantum (die lid ctx : Nat) (s : State) : Host.Outcome State Fault Refusal :=
  .next (match s.lent die ctx lid with
    | none => s
    | some e =>
      match e.swapAt with
      | none => s
      | some t =>
        if s.dieCycle < t + 2 ^ 18 then s
        else
          let at_ := t + (s.dieCycle - t) / 2 ^ 18 * 2 ^ 18
          let s := s.modLent die ctx lid fun e => { e with swapAt := some at_ }
          let mine := s.coaches.filter fun c => c.die == die && c.ctx == ctx && c.lid == lid
          if mine.any fun c => decide (c.cst < 2) then
            mine.foldl (fun s c =>
              if c.cst = 2 ∧ c.swapping = false ∧ c.seatedAt + 2 ^ 18 ≤ s.dieCycle then
                let s := s.modCoach c.idx fun c => { c with swapping := true }
                (s.recs.filter fun r => r.coach == some c.idx).foldl (fun s r => match s.seatOf r.ctx r.carr with
                  | some k => s.modSeat k fun x => if x.st = .occupied ∨ x.st = .loading then { x with mark := .teamSwap } else x
                  | none => s) s
              else s) s
          else s)

end Sys2Proof.Machine
end

