-- ==== Sys2Proof/Machine/Engine.lean ====
section
/-!
DEFINITION. The network engine of a die when a packet comes to it (R416, R417, R421): at the target of a request
(R425, R428, R430, R433, R434, R438, R439), and at its source (R423, R435, R436, R437, R439); its timers (R435, R436,
R442) and the halving of the contention counters (R430).
-/

namespace Sys2Proof.Machine

/-! ## Connections at the target -/

/-- The connection of a packet from its source, by its header (R421). -/
def skfId (h : Skf) : W32 := connId h.schip.toNat h.ctag.toNat

/-- The state after the connection of a request has been found or opened; none, with the drop counted, when the GEN
of the packet is not that of the live connection, or is in quarantine (R421, R442). -/
def State.inConn (s : State) (d : Nat) (h : Skf) : Option State :=
  let id := skfId h
  let drop : Bool :=
    match s.conn d false id with
    | some c => c.gen != h.gen
    | none => s.quars.any fun q => q.id == id && q.gen == h.gen
  if drop then none else some (s.openConn d false id h.gen)

/-- A packet whose GEN is not live is dropped and counted. -/
def State.genDropped (s : State) (d : Nat) : State := s.modDie d fun x => { x with genDrop := x.genDrop + 1 }

/-- The slots that the target grants beside those it gives back: up to 64 for the connection, while its queue of
1,024 has room (R422). -/
def State.grantFor (s : State) (d : Nat) (c : Conn) : Nat :=
  let all := ((s.die d).conns.filter fun x => !x.out).foldl (fun n x => n + x.granted) 0
  Nat.min (64 - c.granted) (1024 - all)

/-- A reply to a packet: it goes back with the TS and the CE of what it answers, and a grant of slots (R422, R423). -/
def State.reply (s : State) (d : Nat) (h : Skf) (kind : Nat) (off : Nat) (data : List Byte) : State :=
  let id := skfId h
  let g := match s.conn d false id with
    | some c => s.grantFor d c
    | none => 0
  let s := s.modConn d false id fun c => { c with granted := c.granted + g }
  s.emit d h.ctag.toNat
    ⟨{ h with dchip := h.schip, vcls := true, kind := BitVec.ofNat 8 kind, offset := BitVec.ofNat 40 off, grant := BitVec.ofNat 16 g }, data⟩

/-- A NACK for a key violation. -/
def State.nackKey (s : State) (d : Nat) (h : Skf) (reason off : Nat) : State :=
  s.reply d h 0x12 0 (nackData 0x22 reason (reason * 2 ^ 44 + off % 2 ^ 40))

/-- What a message has received. -/
def Conn.msg (c : Conn) (m : BitVec 32) : List Nat × Nat × Nat × Nat := SMap.get ([], 0, 0, 0) c.msgs m.toNat

/-- A packet of a message has been received (R435): new ones enter its bitmap, and each is to be acknowledged. -/
def State.received (s : State) (d : Nat) (out : Bool) (h : Skf) : State :=
  s.modConn d out (skfId h) fun c =>
    let m := c.msg h.msgid
    let isNew := !m.1.contains h.pidx.toNat
    { c with msgs := SMap.set ([], 0, 0, 0) c.msgs h.msgid.toNat
                (if isNew then h.pidx.toNat :: m.1 else m.1, m.2.1 + 1, if m.2.1 = 0 then s.dieCycle else m.2.2.1,
                 if isNew then s.dieCycle else m.2.2.2)
             heads := SMap.insert c.heads h.msgid.toNat h }

/-- A fabric form has been received and is answered: its response acknowledges it, and is kept for a duplicate (R428, R435). -/
def State.answered (s : State) (d : Nat) (h : Skf) (data : List Byte) : State :=
  (s.received d false h).modConn d false (skfId h) fun c =>
    let m := c.msg h.msgid
    { c with msgs := SMap.set ([], 0, 0, 0) c.msgs h.msgid.toNat (m.1, 0, 0, m.2.2.2), replies := SMap.insert c.replies h.msgid.toNat data }

/-- The packet is a duplicate (R435). -/
def State.isDup (s : State) (d : Nat) (out : Bool) (h : Skf) : Bool :=
  match s.conn d out (skfId h) with
  | some c => (c.msg h.msgid).1.contains h.pidx.toNat
  | none => false

/-- The first PIDX not received, from `i` on. -/
def firstMissing (l : List Nat) : Nat → Nat → Nat
  | 0, i => i
  | fuel + 1, i => if l.contains i then firstMissing l fuel (i + 1) else i

/-- The payload of a SACK (R435), big-endian (log 23). -/
def sackData (l : List Nat) : List Byte :=
  let f := firstMissing l (l.length + 1) 0
  let m := (nats 64).foldl (fun n i => if l.contains (f + 1 + i) then n + 2 ^ i else n) 0
  bytesBE 4 f ++ List.replicate 4 0 ++ bytesBE 8 m

/-- Sends the SACK of a message; OFFSET is 1 where it acknowledges the answer to a READ (log 23). -/
def State.sack (s : State) (d : Nat) (out : Bool) (id : W32) (m : BitVec 32) : State :=
  match s.conn d out id with
  | none => s
  | some c =>
    let x := c.msg m
    match SMap.find c.heads m.toNat with
    | none => s
    | some h =>
      let s := s.modConn d out id fun c => { c with msgs := SMap.set ([], 0, 0, 0) c.msgs m.toNat (x.1, 0, 0, x.2.2.2) }
      s.reply d h 0x10 (if out then 1 else 0) (sackData x.1)

/-- A SACK goes after every four packets (R435). -/
def State.sackDue (s : State) (d : Nat) (out : Bool) (h : Skf) : State :=
  match s.conn d out (skfId h) with
  | some c => if 4 ≤ (c.msg h.msgid).2.1 then s.sack d out (skfId h) h.msgid else s
  | none => s

/-! ## Access at the target -/

/-- What the target finds of a range that a packet reads or writes. -/
inductive Place where
  | ok (h : Held)
  | later (s : State)
  | bad (cause va : Nat)

/-- A record for a page that incoming data found absent, one for a page and message until it is resolved (R365). -/
def State.noteRemote (s : State) (d : Nat) (h : Skf) (page va n : Nat) : State :=
  let lo := Nat.max va page
  let hi := Nat.min (va + n) (page + 2 ^ 16)
  let secs := natsFrom ((lo - page) / 256) ((hi - 1 - page) / 256 + 1 - (lo - page) / 256)
  let mine (r : FRec) : Bool := r.src == 2 && r.ctx == h.ctag.toNat && r.va.toNat == page && r.chip == h.schip.toNat && r.first == h.msgid.toNat
  match (s.die d).faults.find? mine with
  | some r => s.modDie d fun x => { x with faults := x.faults.map fun f =>
      if f.rid = r.rid then { f with secs := f.secs ++ secs.filter fun k => !f.secs.contains k } else f }
  | none =>
    if 1024 ≤ (s.die d).faults.length then s
    else s.addFault d
      { rid := 0, ctx := h.ctag.toNat, cause := 0x20, src := 2, side := 1, hold := false, va := BitVec.ofNat 48 page, carr := 0,
        chip := h.schip.toNat, first := h.msgid.toNat, secs := secs, tid := 0, sent := false }

/-- Translates the range of a packet at its target (R365, R428). -/
def State.placeOf (s : State) (d : Nat) (h : Skf) (k : Right) (va n : Nat) : Place :=
  let ctx := h.ctag.toNat
  match transPages (fun a => s.look ctx k a) (pagesOf va n) with
  | .ok l => .ok l
  | .walk _ => .later s
  | .hold a => .later (s.noteHold d ctx a)
  | .fault 0x20 a => .later (if k == .wr then s.noteRemote d h (a / 2 ^ 16 * 2 ^ 16) va n else s)
  | .fault c a => .bad c a

/-- The context of a packet is saving, or has been saved (R375, R428). -/
def State.ctxAway (s : State) (ctx : Nat) : Bool := (s.ctx ctx).st == .quiescing || (s.ctx ctx).st == .quiesced

/-- The key check at the target, with the entry of its table: 0 when it passes (R428). -/
def State.targetKey (s : State) (h : Skf) (size kind : Nat) : Nat :=
  keyReason (s.keyEntry h.ctag.toNat (h.rkey.toNat / 65536)) h.offset.toNat size kind h.schip.toNat (h.rkey.toNat % 65536)

/-- The key entry that a packet names. -/
def State.packetKey (s : State) (h : Skf) : BitVec 256 := (s.keyEntry h.ctag.toNat (h.rkey.toNat / 65536)).getD 0

/-- WRITE_DATA: the payload is placed at its offset, and its bytes are counted (R434). -/
def execWriteData (die : Nat) (p : Pkt) (s : State) : Host.Outcome State Fault Refusal :=
  .next (match s.inConn die p.h with
    | none => s.genDropped die
    | some s =>
      let h := p.h
      let ctx := h.ctag.toNat
      let n := p.data.length
      if s.isDup die false h then (s.received die false h).sackDue die false h
      else if s.ctxAway ctx then s.reply die h 0x11 0 []
      else
        match s.targetKey h n 1 with
        | 0 =>
          let e := s.packetKey h
          let va := (kBase e + h.offset.toNat) % 2 ^ 48
          match s.placeOf die h .wr va n with
          | .later s => s.reply die h 0x11 0 []
          | .bad c a => s.reply die h 0x12 0 (nackData c 0 a)
          | .ok l =>
            if (s.ctx ctx).onTile va n then s.reply die h 0x12 0 (nackData 0x21 0 va)
            else if !s.lctrTurn die ctx (kCctr e) then s.reply die h 0x11 0 []
            else
              let loc (a : Nat) : Nat := match heldPlace l a with
                | some q => s.shadow ctx q
                | none => 0
              let s := s.applyPieces (pieces loc va p.data)
              ((s.addLctr die ctx (kCctr e) n).received die false h).sackDue die false h
        | r => s.nackKey die h r h.offset.toNat
    )

/-- READ_REQUEST: checked, and answered with data packets by a request of the target's engine (R433). -/
def execReadRequest (die : Nat) (p : Pkt) (s : State) : Host.Outcome State Fault Refusal :=
  .next (match s.inConn die p.h with
    | none => s.genDropped die
    | some s =>
      let h := p.h
      let ctx := h.ctag.toNat
      let n := ofBytesBE p.data
      if s.isDup die false h then s
      else if s.ctxAway ctx then s.reply die h 0x11 0 []
      else
        match s.targetKey h n 2 with
        | 0 =>
          let va := (kBase (s.packetKey h) + h.offset.toNat) % 2 ^ 48
          match s.placeOf die h .rd va n with
          | .later s => s.reply die h 0x11 0 []
          | .bad c a => s.reply die h 0x12 0 (nackData c 0 a)
          | .ok _ =>
            let (id, s) := (s.received die false h).freshId
            let w : WReq :=
              { id, ctx, carr := 0, die, kind := 6, cls := h.cls.toNat, laddr := BitVec.ofNat 48 va,
                ptr := h.schip ++ 0#4 ++ h.ctag ++ h.rkey, roff := 0, len := n, lctr := 0, src := 0, rgt := 0, kctr := 0,
                started := true, next := 0, acked := 0, counted := 0, done := false, fired := false, msgid := h.msgid, syl := 0, ts := h.ts }
            (s.modDie die fun x => { x with wreqs := x.wreqs ++ [w] }).pump die
        | r => s.nackKey die h r h.offset.toNat)

/-! ## Remote loads, stores and atomics at the target (R428, R430) -/

/-- The contention counter of the page of an address after a fabric form from a chip (R430): one more, saturating,
where another chip came last. Pages of HBM only. The last chip of each page of the package is kept with D0. -/
def State.bumpCont (s : State) (ctx va chip : Nat) : State :=
  if !paged va then s
  else
    let (l, big) := (s.ctx ctx).leafAt va
    if l.kind = 1#2 then s
    else
      let page := if big then 2 ^ 40 + va / 2 ^ 25 else va / 2 ^ 16
      let k := ctx * 2 ^ 48 + page
      let last := SMap.get 0 (s.die 0).lastChip k
      let s := s.modDie 0 fun x => { x with lastChip := SMap.set 0 x.lastChip k (chip + 1) }
      if last = chip + 1 then s
      else
        let l' := { l with cont := if l.cont = 0xFF then l.cont else l.cont + 1 }
        s.modCtx ctx fun c =>
          if big then { c with large := SMap.set Leaf.absent c.large (va / 2 ^ 25) l' }
          else { c with small := SMap.set Leaf.absent c.small (va / 2 ^ 16) l' }

/-- The page of an address is in lend mode (R430). -/
def State.lendMode (s : State) (ctx va : Nat) : Bool :=
  paged va && (let l := ((s.ctx ctx).leafAt va).1; l.kind != 1#2 && decide (l.cont.toNat < 32))

/-- KIND of the answer to a fabric form. -/
def answerKind (kind : Nat) : Nat := if kind = 4 then 5 else if kind = 7 then 8 else 0x10

/-- A fabric form at its target: the access, its answer, and the line that the answer lends. `op`, `v` and `new` are
its operands. -/
def State.fabAccess (s : State) (d : Nat) (p : Pkt) (kind op n : Nat) (v new : W64) : State :=
  match s.inConn d p.h with
  | none => s.genDropped d
  | some s =>
    let h := p.h
    let ctx := h.ctag.toNat
    let old? := (s.conn d false (skfId h)).bind fun c => SMap.find c.replies h.msgid.toNat
    match old? with
    | some data => s.reply d h (answerKind kind) 0 data
    | none =>
      if s.ctxAway ctx then s.reply d h 0x11 0 []
      else
        match s.targetKey h n kind with
        | 0 =>
          let va := (kBase (s.packetKey h) + h.offset.toNat) % 2 ^ 48
          let right : Right := if kind = 4 then .rd else if kind = 6 then .wr else .atom
          -- a line that is lent comes back first
          let lent := match (s.ctx ctx).look ctx right va with
            | .ok q => s.lentAt (s.front ctx q)
            | _ => false
          let key := match (s.ctx ctx).look ctx right va with
            | .ok q => s.front ctx q
            | _ => 0
          if lent then ((s.wantLine key).modDie d fun x => { x with lineWaits := x.lineWaits ++ [⟨key / 64, p⟩] }).recallGo d
          else
            match s.placeOf d h right va n with
            | .later s => s.reply d h 0x11 0 []
            | .bad c a => s.reply d h 0x12 0 (nackData c 0 a)
            | .ok l =>
              let tile := (s.ctx ctx).onTile va n && right != .rd && !(kind == 7 && op == 1 && n == 8 && (s.ctx ctx).onCount va)
              if tile then s.reply d h 0x12 0 (nackData 0x21 0 va)
              else if kind = 7 ∧ s.keyTurn ctx key (agentNet d) = false then s.reply d h 0x11 0 []
              else
                match s.gatherBad (s.heldKey ctx l) va n with
                | some a => s.reply d h 0x12 0 (nackData 0x70 0 a)
                | none =>
                  let old := BitVec.ofNat 64 (ofBytesLE (s.gather (s.heldKey ctx l) va n))
                  let s := if kind = 7 then s.keyLog ctx key (agentNet d) else s
                  let s := match fabNewOf kind op n old v new with
                    | some w =>
                      let s := s.applyPieces (pieces (s.heldKey ctx l) va (bytesLE n w.toNat))
                      if kind = 7 ∧ op = 1 ∧ n = 8 then s.tileTest key else s
                    | none => s
                  let s := s.bumpCont ctx va h.schip.toNat
                  let lend := kind != 6 && s.lendMode ctx va && h.schip.toNat != s.chip && decide (va % 64 + n ≤ 64) && !s.bad (key / 64)
                  let line := if lend then bytesBE 8 (va / 64) ++ s.rdBytes (key / 64 * 64) 64 else []
                  let s := if lend then
                      s.modDie d fun x => { x with lentOut := x.lentOut ++ [⟨h.schip, h.ctag, va / 64, key / 64, [], 0⟩] }
                    else s
                  let data := (if kind = 6 then sackData [h.pidx.toNat] else bytesLE n old.toNat)
                  (s.answered d h (data ++ line)).reply d h (answerKind kind) 0 (data ++ line)
        | r => s.nackKey d h r h.offset.toNat

/-- The width that the payload of a fabric form names. -/
def fabN (l : List Byte) : Nat := if nth 0 l 0 = 8 then 8 else 4

/-- LOAD_REQUEST (R428). -/
def execLoadRequest (die : Nat) (p : Pkt) (s : State) : Host.Outcome State Fault Refusal :=
  .next (s.fabAccess die p 4 0 (fabN p.data) 0 0)

/-- STORE (R428). -/
def execStore (die : Nat) (p : Pkt) (s : State) : Host.Outcome State Fault Refusal :=
  .next (s.fabAccess die p 6 0 (fabN p.data) (BitVec.ofNat 64 (ofBytesLE (p.data.drop 1))) 0)

/-- ATOMIC_REQUEST (R428). -/
def execAtomicRequest (die : Nat) (p : Pkt) (s : State) : Host.Outcome State Fault Refusal :=
  .next (s.fabAccess die p 7 (nth 0 p.data 1).toNat (fabN p.data) (BitVec.ofNat 64 (ofBytesLE ((p.data.drop 2).take 8)))
    (BitVec.ofNat 64 (ofBytesLE (p.data.drop 10))))

/-! ## Answers at the source -/

/-- An answer belongs to a packet of its message: KEYRSP to a KEYREQ, which has no number of its own, and the others to
packets that have one (log 23). -/
def Sent.answeredBy (p : Sent) (h : Skf) : Bool :=
  p.pkt.h.msgid == h.msgid && (if h.kind = 0x16 then p.pkt.h.kind == 0x15 else p.numbered)

/-- The packets of a message that an answer is for. -/
def State.answeredOf (s : State) (d : Nat) (out : Bool) (h : Skf) (f : Sent → Bool) : List Sent :=
  match s.conn d out (skfId h) with
  | some c => c.sent.filter fun p => p.answeredBy h && f p
  | none => []

/-- Packets that an answer is for leave the connection: their slots come back with the grant, and the window takes the
sample (R422, R423). -/
def State.takeBack (s : State) (d : Nat) (out : Bool) (h : Skf) (f : Sent → Bool) : State :=
  let mine := s.answeredOf d out h f
  let n := mine.foldl (fun n p => n + p.pkt.data.length) 0
  let r := (s.fabTime d + 65536 - h.ts.toNat) % 65536
  s.modConn d out (skfId h) fun c =>
    { (c.sample s.dieCycle r n h.ce) with
      slots := c.slots + h.grant.toNat + (mine.filter fun p => takesSlot p.pkt.h.kind.toNat).length
      sent := c.sent.filter fun p => !(p.answeredBy h && f p) }

/-- Packets of a message that an answer acknowledges leave the connection, and their bytes are counted (R437). -/
def State.ackWhere (s : State) (d : Nat) (out : Bool) (h : Skf) (f : Sent → Bool) : State :=
  (s.answeredOf d out h f).foldl (fun s p => s.modWreq d p.wr fun w =>
    if w.kind = 2 then w
    else
      let a := w.acked + p.pkt.data.length
      { w with acked := a, done := w.done || decide (w.len ≤ a) }) (s.takeBack d out h f)

/-- The packet of a message that is still to be acknowledged. -/
def State.sentOf (s : State) (d : Nat) (h : Skf) : Option Sent :=
  (s.conn d true (skfId h)).bind fun c => c.sent.find? fun p => p.answeredBy h && p.pkt.h.pidx == h.pidx

/-- The answer belongs to the live generation of the connection (R421). -/
def State.genOk (s : State) (d : Nat) (out : Bool) (h : Skf) : Bool :=
  match s.conn d out (skfId h) with
  | some c => c.gen == h.gen
  | none => false

/-- Sends a kept packet again, for the context that sent it first (R413, R435, R436): the bytes first read, with a new TS. -/
def State.resendPkt (s : State) (d : Nat) (c : Conn) (p : Sent) : State :=
  (s.modConn d c.out c.id fun x =>
    { x with sent := x.sent.map fun y => if y.id = p.id then { y with sentAt := s.dieCycle, parked := false } else y }).emit d
      p.ctx { p.pkt with h := { p.pkt.h with ts := BitVec.ofNat 16 (s.fabTime d) } }

/-- A line goes home without having been asked for (R430). -/
def State.giveBack (s : State) (d : Nat) (l : Lent) : State :=
  let gen := match s.conn d true (connId l.chip.toNat l.ctag.toNat) with
    | some c => c.gen
    | none => 0
  let h := plainSkf l.chip.toNat l.ctag.toNat 0x18 true gen
  s.emit d l.ctag.toNat ⟨{ h with ts := BitVec.ofNat 16 (s.fabTime d) }, bytesBE 8 l.line ++ l.bytes⟩

/-- The line that an answer lends enters the engine's cache of 256 lines; the oldest goes home for it (R430). -/
def State.takeLine (s : State) (d : Nat) (h : Skf) (l : List Byte) : State :=
  if l.length < 72 then s
  else
    let x : Lent := ⟨h.schip, h.ctag, ofBytesBE (l.take 8), 0, (l.drop 8).take 64, 0⟩
    let s := match (s.die d).lentIn with
      | y :: ys =>
        if ys.length < 255 then s
        else (s.modDie d fun z => { z with lentIn := ys }).giveBack d y
      | [] => s
    s.modDie d fun z => { z with lentIn := z.lentIn ++ [x] }

/-- The answer to a FLD or FATOM comes (R427). -/
def State.fabAnswer (s : State) (d : Nat) (p : Pkt) : State :=
  let h := p.h
  if !s.genOk d true h then s.genDropped d
  else
    match s.sentOf d h with
    | none => s
    | some q =>
      let s := s.ackWhere d true h fun y => y.pkt.h.pidx == h.pidx
      let n := fabN q.pkt.data
      let s := s.takeLine d h (p.data.drop n)
      let s := match s.accs.find? fun (a : Acc) => a.id == q.wr with
        | some a => s.fabDone a (BitVec.ofNat 64 (ofBytesLE (p.data.take n)))
        | none => s
      s.pump d

/-- LOAD_RESPONSE (R427). -/
def execLoadResponse (die : Nat) (p : Pkt) (s : State) : Host.Outcome State Fault Refusal := .next (s.fabAnswer die p)

/-- ATOMIC_RESPONSE (R427). -/
def execAtomicResponse (die : Nat) (p : Pkt) (s : State) : Host.Outcome State Fault Refusal := let t := s.fabAnswer die p; .next t

/-- READ_RESPONSE_DATA: placed at LADDR + 4,096 × PIDX, and counted in LCTR (R434). -/
def execReadResponseData (die : Nat) (p : Pkt) (s : State) : Host.Outcome State Fault Refusal :=
  .next (
    let h := p.h
    let n := p.data.length
    if !s.genOk die true h then s.genDropped die
    else if s.isDup die true h then (s.received die true h).sackDue die true h
    else
      match s.wreqWhere die fun w => w.kind == 2 && w.connId == skfId h && w.msgid == h.msgid && w.started with
      | none => s
      | some (k, w) =>
        let va := (w.laddr.toNat + 4096 * h.pidx.toNat) % 2 ^ 48
        match s.placeOf die { h with ctag := BitVec.ofNat 12 w.ctx } .wr va n with
        | .later s => s.reply die h 0x11 1 []
        | .bad c a => s.failWreq k w c a
        | .ok l =>
          if !s.lctrTurn k w.ctx w.lctr.toNat then s.reply die h 0x11 1 []
          else
          let loc (a : Nat) : Nat := match heldPlace l a with
            | some q => s.shadow w.ctx q
            | none => 0
          let s := s.applyPieces (pieces loc va p.data)
          let s := s.addLctr k w.ctx w.lctr.toNat n
          let s := s.modWreq die w.id fun w =>
            { w with acked := w.acked + n, counted := w.counted + n, done := w.done || decide (w.len ≤ w.acked + n) }
          let s := s.ackWhere die true { h with grant := 0 } fun y => y.pkt.h.kind == 2
          ((s.received die true h).sackDue die true h).pump die)

/-- The packets of a message that a SACK shows received: those below its first missing PIDX, and those of its map. -/
def sackHas (data : List Byte) (i : Nat) : Bool :=
  let f := ofBytesBE (data.take 4)
  decide (i < f) || (decide (f < i) && (ofBytesBE (data.drop 8)).testBit (i - f - 1))

/-- After a SACK, each packet that is still missing and below three received ones is sent again, once (R435). -/
def State.fastResend (s : State) (d : Nat) (out : Bool) (h : Skf) (data : List Byte) : State :=
  match s.conn d out (skfId h) with
  | none => s
  | some c =>
    let f := ofBytesBE (data.take 4)
    let above (i : Nat) : Nat := ((natsFrom (i + 1) 64).filter fun j => decide (j < f + 65) && sackHas data j).length
    (c.sent.filter fun p => p.answeredBy h && !p.parked && p.higher == 0 && decide (3 ≤ above p.pkt.h.pidx.toNat)).foldl
      (fun s p =>
        (s.modConn d out c.id fun x => { x with sent := x.sent.map fun y => if y.id = p.id then { y with higher := 3 } else y }).resendPkt
          d c p) s

/-- SACK: slots come back, more are granted, missing packets are sent again, and the window moves (R422, R423,
R435). It also answers a STORE and a VAT message. -/
def execSack (die : Nat) (p : Pkt) (s : State) : Host.Outcome State Fault Refusal :=
  .next (
    let h := p.h
    let out := h.offset != 1
    if !s.genOk die out h then s.genDropped die
    else
      let has (y : Sent) : Bool := sackHas p.data y.pkt.h.pidx.toNat
      let done : List Nat := match s.conn die out (skfId h) with
        | some c => (c.sent.filter fun (y : Sent) => y.answeredBy h && has y && y.pkt.h.kind == 6).map fun (y : Sent) => y.wr
        | none => []
      let s := s.ackWhere die out h has
      let s := (s.accs.filter fun a => a.k == .fst && done.contains a.id).foldl (fun s a => s.fabDone a 0) s
      (s.fastResend die out h p.data).pump die)

/-- RETRY: the packet is parked, its slot comes back, and it is sent again after 8 µs × 2^r, at most 512 µs (R436). -/
def execRetry (die : Nat) (p : Pkt) (s : State) : Host.Outcome State Fault Refusal :=
  .next (
    let h := p.h
    let out := h.offset != 1
    if !s.genOk die out h then s.genDropped die
    else
      match (s.conn die out (skfId h)).bind fun c => c.sent.find? fun y => y.answeredBy h && y.pkt.h.pidx == h.pidx with
      | none => s
      | some q =>
        if q.parked then s
        else
          let wait := Nat.min 512 (8 * 2 ^ q.retries) * usCycles
          let s := s.modConn die out (skfId h) fun c =>
            { c with slots := c.slots + h.grant.toNat + (if takesSlot q.pkt.h.kind.toNat then 1 else 0)
                     sent := c.sent.map fun y =>
                       if y.id = q.id then { y with parked := true, retries := y.retries + 1, resend := s.dieCycle + wait } else y }
          (s.modDie die fun x => { x with replayq := x.replayq ++ [(skfId h, q.id)] }).pump die)

/-- NACK: the issuing carriage is contained, or the fired request is cancelled (R428, R439). One that comes for a READ whose
answer has begun finds the request by its message. -/
def execNack (die : Nat) (p : Pkt) (s : State) : Host.Outcome State Fault Refusal :=
  .next (
    let h := p.h
    if !s.genOk die true h then s.genDropped die
    else
      let cause := (nth 0 p.data 0).toNat
      let va := ofBytesBE ((p.data.drop 2).take 8) % 2 ^ 48
      match s.sentOf die h with
      | none =>
        match s.wreqWhere die fun w => w.kind == 2 && w.connId == skfId h && w.msgid == h.msgid && w.started with
        | some (k, w) => (s.failWreq k w cause va).pump die
        | none => s
      | some q =>
        let s := s.takeBack die true h fun y => y.pkt.h.pidx == h.pidx
        let s := match s.accs.find? fun (a : Acc) => a.id == q.wr with
          | some a => (s.dropAcc a.id).containCarr a.ctx a.carr cause va
          | none =>
            match s.wreqWhere die fun (w : WReq) => w.id == q.wr with
            | some (k, w) => s.failWreq k w cause va
            | none => s
        s.pump die)

/-- VAT_MESSAGE: answered once its memory actions have been applied (R434); until then it stays with the engine. -/
def execVatMessage (die : Nat) (p : Pkt) (s : State) : Host.Outcome State Fault Refusal :=
  .next (match s.inConn die p.h with
    | none => s.genDropped die
    | some s =>
      if s.accs.any fun a => a.ctx == p.h.ctag.toNat && (a.k == .pline || a.k == .pdepo || a.k == .pbump) then
        s.modDie die fun x => { x with loopb := x.loopb ++ [p] }
      else (s.received die false p.h).sack die false (skfId p.h) p.h.msgid)

/-- The packet carries data of the READ that a packet from its source cancels. -/
def Sent.dataFor (y : Sent) (h : Skf) : Bool :=
  y.pkt.h.kind == 3 && y.pkt.h.dchip == h.schip && y.pkt.h.ctag == h.ctag && y.pkt.h.msgid == h.msgid

/-- CANCEL of a WRITE: error release on CCTR of the key (R439); of a READ: no more of its data is sent. -/
def execCancel (die : Nat) (p : Pkt) (s : State) : Host.Outcome State Fault Refusal :=
  .next (match s.inConn die p.h with
    | none => s.genDropped die
    | some s =>
      let h := p.h
      if h.pidx = 0 then
        match s.keyEntry h.ctag.toNat (h.rkey.toNat / 65536) with
        | some e => if kCctr e = 0 then s else s.errReleaseVa h.ctag.toNat .counter (kCctr e) h.offset.toNat 2
        | none => s
      else (s.modDie die fun x =>
        { x with wreqs := x.wreqs.filter fun w => !(w.kind == 6 && w.connId == skfId h && w.msgid == h.msgid) }).dropSent
          fun y => y.dataFor h)

/-! ## Keys and lines -/

/-- KEYREQ: answered with the entry, or with nothing when it is refused (R425); not answered while the context is away, so that
it is sent again (log 23). -/
def execKeyreq (die : Nat) (p : Pkt) (s : State) : Host.Outcome State Fault Refusal :=
  .next (
    let h := p.h
    let data := match s.keyEntry h.ctag.toNat (h.rkey.toNat / 65536) with
      | some e => bytesLE 32 e.toNat
      | none => []
    match s.inConn die h with
    | some s => if s.ctxAway h.ctag.toNat then s else s.reply die h 0x16 0 data
    | none => s.genDropped die)

/-- An entry enters the cache of 4,096 key entries of a die that waits for it, in the place of the oldest when it is full (R425). -/
def Die.takeKey (x : Die) (k : KeyEnt) : Die :=
  let w := (k.chip, k.ctag, k.index)
  if x.keyWaits.contains w then
    let ks := x.keys.filter fun y => !(y.chip == k.chip && y.ctag == k.ctag && y.index == k.index)
    { x with keys := (if 4096 ≤ ks.length then ks.drop 1 else ks) ++ [k], keyWaits := x.keyWaits.filter fun y => y != w }
  else x

/-- KEYRSP: the entry enters the caches of the dies that wait for it (R425). -/
def execKeyrsp (die : Nat) (p : Pkt) (s : State) : Host.Outcome State Fault Refusal :=
  .next (
    let h := p.h
    if !s.genOk die true h then s.genDropped die
    else
      let s := s.ackWhere die true h fun y => y.pkt.h.kind == 0x15 && y.pkt.h.rkey == h.rkey
      (nats 4).foldl (fun s k => s.modDie k fun x =>
        x.takeKey ⟨h.schip, h.ctag, BitVec.ofNat 16 (h.rkey.toNat / 65536), BitVec.ofNat 256 (ofBytesLE p.data)⟩) s)

/-- RECALL: the holder returns the line (R430); its forms on it have been applied as they came. -/
def execRecall (die : Nat) (p : Pkt) (s : State) : Host.Outcome State Fault Refusal :=
  .next (match s.loanOf (p.h.schip.toNat, p.h.ctag.toNat, ofBytesBE p.data / 64) with
    | some (d, l) =>
      (s.modDie d fun x => { x with lentIn := x.lentIn.filter fun y => y != l }).emit die p.h.ctag.toNat
        ⟨{ p.h with dchip := p.h.schip, vcls := true, kind := 0x18 }, bytesBE 8 l.line ++ l.bytes⟩
    | none => s)

/-- LINE_RETURN: the line is written at its home, and the accesses that wait for it proceed (R430). -/
def execLineReturn (die : Nat) (p : Pkt) (s : State) : Host.Outcome State Fault Refusal :=
  .next (
    let n := ofBytesBE (p.data.take 8)
    if !s.genOk die false p.h then s.genDropped die
    else
    match (s.die die).lentOut.find? fun l => l.chip == p.h.schip && l.ctag == p.h.ctag && l.line == n with
    | none => s
    | some l =>
      let s := s.modDie die fun x => { x with lentOut := x.lentOut.filter fun y => y != l }
      let s := s.modConn die false (skfId p.h) fun c =>
        { c with sent := c.sent.filter fun y => !(y.pkt.h.kind == 0x17 && y.pkt.data == bytesBE 8 (64 * n)) }
      let s := s.apply (64 * l.key) (p.data.drop 8)
      s.modDie die fun x =>
        { x with loopb := x.loopb ++ ((x.lineWaits.filter fun w => w.key == l.key).map (·.pkt))
                 lineWaits := x.lineWaits.filter fun w => w.key != l.key })

/-! ## Timers -/

/-- SACK_TIMER: 8 µs after the first packet not yet acknowledged (R435). -/
def execSackTimer (die : Nat) (conn : W32) (msgid : W32) (s : State) : Host.Outcome State Fault Refusal :=
  .next (
    let go (out : Bool) : Option State := (s.conn die out conn).bind fun c =>
      let m := c.msg msgid
      if m.2.1 ≠ 0 ∧ m.2.2.1 + 8 * usCycles ≤ s.dieCycle then some (s.sack die out conn msgid) else none
    ((go false).or (go true)).getD s)

/-- Four times the round-trip time, smoothed as the mean of the samples (log 23), and at least 20 µs, in die cycles. -/
def Conn.timeout (c : Conn) : Nat :=
  let mean := if c.rtts.isEmpty then 0 else c.rtts.foldl (· + ·) 0 / c.rtts.length
  Nat.max 20 (4 * mean) * usCycles

/-- RETRANSMIT_TIMEOUT (R435). -/
def execRetransmitTimeout (die id : Nat) (s : State) : Host.Outcome State Fault Refusal :=
  .next (match (s.die die).conns.findSome? fun c => (c.sent.find? fun p => p.id == id).map fun p => (c, p) with
    | some (c, p) => if !p.parked && decide (p.sentAt + c.timeout ≤ s.dieCycle) then s.resendPkt die c p else s
    | none => s)

/-- RETRY_RESEND: a parked packet whose time has come is sent again, if a slot is held (R436). -/
def execRetryResend (die : Nat) (s : State) : Host.Outcome State Fault Refusal :=
  .next (match (s.die die).conns.findSome? fun c =>
      (c.sent.find? fun p => p.parked && decide (p.resend ≤ s.dieCycle) && (!takesSlot p.pkt.h.kind.toNat || decide (0 < c.slots))).map
        fun p => (c, p) with
    | some (c, p) =>
      let s := s.modDie die fun x => { x with replayq := x.replayq.filter fun e => !(e.2 == p.id) }
      let s := s.modConn die c.out c.id fun x => { x with slots := if takesSlot p.pkt.h.kind.toNat then x.slots - 1 else x.slots }
      s.resendPkt die c p
    | none => s)

/-- A leaf with its contention counter halved. -/
def Leaf.halve (l : Leaf) : Leaf := { l with cont := l.cont >>> 1 }

/-- CONTENTION_HALVING: every 2^20 die cycles (R430). -/
def execContentionHalving (s : State) : Host.Outcome State Fault Refusal :=
  .next (if s.dieCycle % 2 ^ 20 = 0 then
      { s with ctxs := s.ctxs.map fun (c : Nat × Ctx) =>
          (c.1, { c.2 with small := c.2.small.filterMap fun (e : Nat × Leaf) => if e.2.halve = Leaf.absent then none else some (e.1, e.2.halve)
                           large := c.2.large.filterMap fun (e : Nat × Leaf) => if e.2.halve = Leaf.absent then none else some (e.1, e.2.halve) }) }
    else s)

/-- GEN_QUARANTINE_EXPIRY (R442). -/
def execGenQuarantineExpiry (conn : W32) (s : State) : Host.Outcome State Fault Refusal :=
  .next ((nats 4).foldl (fun s d => s.modDie d fun x =>
    { x with quar := x.quar.filter fun q => !(q.id == conn && decide (q.until_ ≤ s.dieCycle)) }) s)

/-- SACK_BITMAP_EXPIRY: 2 ms after the message completes (R435). -/
def execSackBitmapExpiry (die : Nat) (conn : W32) (msgid : W32) (s : State) : Host.Outcome State Fault Refusal :=
  .next ((nats 2).foldl (fun s o => s.modConn die (o == 1) conn fun c =>
    let m := c.msg msgid
    if m.1 ≠ [] ∧ m.2.1 = 0 ∧ m.2.2.2 + 2000 * usCycles ≤ s.dieCycle then
      { c with msgs := SMap.erase c.msgs msgid.toNat, heads := SMap.erase c.heads msgid.toNat, replies := SMap.erase c.replies msgid.toNat }
    else c) s)

/-! ## The packets that the engine has before it -/

/-- A packet of a kind that the engine does not know is dropped and counted (R416). -/
def State.kindDropped (s : State) (d : Nat) : State := s.modDie d fun x => { x with kindDrop := x.kindDrop + 1 }

/-- The engine of a die takes one packet, by its KIND. -/
def State.engineTakes (s : State) (d : Nat) (p : Pkt) : Host.Outcome State Fault Refusal :=
  match p.h.kind.toNat with
  | 0x01 => execWriteData d p s
  | 0x02 => execReadRequest d p s
  | 0x03 => execReadResponseData d p s
  | 0x04 => execLoadRequest d p s
  | 0x05 => execLoadResponse d p s
  | 0x06 => execStore d p s
  | 0x07 => execAtomicRequest d p s
  | 0x08 => execAtomicResponse d p s
  | 0x09 => execVatMessage d p s
  | 0x10 => execSack d p s
  | 0x11 => execRetry d p s
  | 0x12 => execNack d p s
  | 0x13 => execCancel d p s
  | 0x15 => execKeyreq d p s
  | 0x16 => execKeyrsp d p s
  | 0x17 => execRecall d p s
  | 0x18 => execLineReturn d p s
  | _ => .next (s.kindDropped d)

/-- The die whose engine serves a packet that has come to a die: the one that keeps the connection of the packet, at its source
for an answer and at its target for a request (R417, log 74). -/
def State.engineOf (s : State) (d : Nat) (h : Skf) : Nat :=
  let out := match h.kind.toNat with
    | 0x10 | 0x11 => h.offset != 1
    | 0x03 | 0x05 | 0x08 | 0x12 | 0x16 | 0x17 => true
    | _ => false
  s.connDie d out (skfId h)

/-- The packet that stands first before the engine of a die is taken: sent by itself (R425), absorbed by the
pipelines (R417), or one that has waited for a line. -/
def State.engineNext (s : State) (d : Nat) : Host.Outcome State Fault Refusal :=
  match (s.die d).loopb with
  | [] => .next s
  | p :: ps => (s.modDie d fun x => { x with loopb := ps }).engineTakes (s.engineOf d p.h) p

end Sys2Proof.Machine
end

