-- ==== Sys2Proof/Machine/Firmware.lean ====
section
/-!
DEFINITION. The firmware core's commands in general (R338 to R346): reports, checks, the resident queues of a die, the
commands of R342 on images, queues and launches, and the host's queue window (R348).
-/

namespace Sys2Proof.Machine

/-! ## Commands and reports (R341, R345) -/

/-- A word of a command. -/
def cmdWord (c : Cmd) : Nat → W64
  | 0 => c.e.w0
  | 1 => c.e.w1
  | 2 => c.e.w2
  | 3 => c.e.w3
  | 4 => c.e.w4
  | 5 => c.e.w5
  | 6 => c.e.w6
  | _ => c.e.w7
/-- OP. -/
def cmdOp (c : Cmd) : Nat := fld c.e.w0 63 56
/-- RQ. -/
def cmdRq (c : Cmd) : Nat := fld c.e.w0 55 44
/-- TAG. -/
def cmdTag (c : Cmd) : Nat := fld c.e.w0 31 0

/-- STATUS codes (R345). -/
def stOk : Nat := 0x00
/-- LAUNCHED. -/
def stLaunched : Nat := 0x01
/-- COMPLETE, status OK. -/
def stComplete : Nat := 0x02
/-- COMPLETE, status ERROR. -/
def stError : Nat := 0x03
/-- BADOP. -/
def stBadop : Nat := 0x10
/-- BADARG. -/
def stBadarg : Nat := 0x11
/-- NOSLOT. -/
def stNoslot : Nat := 0x12
/-- GEOMETRY. -/
def stGeometry : Nat := 0x13
/-- FAULT. -/
def stFault : Nat := 0x14
/-- NORES. -/
def stNores : Nat := 0x15
/-- BUSY. -/
def stBusy : Nat := 0x16
/-- SIGNATURE. -/
def stSignature : Nat := 0x17

/-- A report (R345). -/
def reportOf (op status tag lid : Nat) (detail : W64) : Entry :=
  ⟨BitVec.ofNat 64 (op * 2 ^ 56 + status % 256 * 2 ^ 48 + tag % 2 ^ 32), BitVec.ofNat 64 (lid % 2 ^ 32), detail, 0, 0, 0, 0, 0⟩

/-- Publishes a report or another entry of the firmware, if its queue is resident and has room or a ticket is held for
it; one whose queue is gone is dropped. -/
def State.publish (s : State) (d : Nat) (r : Nat × Nat × Option Nat × Entry) : Bool × State :=
  let q := s.queue r.1 r.2.1
  if q.st = qFree then (true, s)
  else if q.st ≠ qResident then (false, s.qMiss r.1 r.2.1)
  else
    match (match r.2.2.1 with
      | some k => s.qFill r.1 r.2.1 (agentFirmware d) (BitVec.ofNat 32 k) (Entry.bytes r.2.2.2)
      | none => s.qPut r.1 r.2.1 (agentFirmware d) (Entry.bytes r.2.2.2)) with
    | some t => (true, t)
    | none => (false, s)

/-- Publishes what it can of a list of entries; one that waits holds back the later ones of its queue. -/
def publishAll (d : Nat) : List (Nat × Nat × Option Nat × Entry) → List (Nat × Nat) → State → List (Nat × Nat × Option Nat × Entry) × State
  | [], _, s => ([], s)
  | r :: rs, held, s =>
    if held.contains (r.1, r.2.1) then
      let (l, s) := publishAll d rs held s
      (r :: l, s)
    else
      let (done, s) := s.publish d r
      let (l, s) := publishAll d rs (if done then held else (r.1, r.2.1) :: held) s
      (if done then l else r :: l, s)

/-- The reports of a die are published as far as their queues take them (R345). -/
def State.postReports (s : State) (d : Nat) : State :=
  let l := (s.die d).reports
  let (rest, s) := publishAll d l [] (s.modDie d fun x => { x with reports := [] })
  s.modDie d fun x => { x with reports := rest ++ x.reports }

/-- A report of a command, with the ticket that the command holds; none where RQ names no queue (log 30). -/
def State.report (s : State) (c : Cmd) (status lid : Nat) (detail : W64) : State :=
  if cmdRq c = 4095 ∨ (s.queue c.ctx (cmdRq c)).st = qFree then s
  else
    (s.modDie c.die fun x =>
      { x with reports := x.reports ++ [(c.ctx, cmdRq c, c.ticket, reportOf (cmdOp c) status (cmdTag c) lid detail)] }).postReports c.die

/-- The command leaves the buffer. -/
def State.dropCmd (s : State) (c : Cmd) : State := s.modDie c.die fun x => { x with cmds := x.cmds.erase c }

/-- What executing a command comes to: it waits and stays in the buffer; it is refused or done, with a report; or it is
done and reports later, if at all. -/
inductive CRes where
  | wait (s : State)
  | done (s : State) (status : Nat) (detail : W64)
  | later (s : State)

/-- The word masks of the operands of a command: what is not named is reserved (R341, R342, R362, R370, R410). -/
def cmdNamed (op : Nat) : List W64 :=
  match op with
  | 0x01 => [0xFFFEFFFFFFFFFFFF, 0xFFFFFFFFFFFFFFFF, 0xFFFFFFFFFFFFFFFF, 0xFFFFFFFF00000000, 0x0000FFFFFFFFFFFF]
  | 0x02 => [0xFF, 0x0000FFFFFFFFFFFF, 0xFFFFFFFFFF]
  | 0x03 => [0xFF]
  | 0x04 => [0xFFFFFFFFFFFFFFFF, 0xFFF]
  | 0x05 => [0, 0xFFF]
  | 0x06 => [0, 0x1FFF]
  | 0x07 => [0xFFFFFFFF]
  | 0x10 => [0x0000FFFFFFFFFFFF, 0x1FFFFFFFF, 0xFFFFFFFFFFFFFFFF]
  | 0x11 => [0x0000FFFFFFFFFFFF, 0x1FFFFFFFF]
  | 0x12 => [0x0000FFFFFFFFFFFF, 0x1FFFFFFFF, 0x0F00000000000000]
  | 0x13 => [0x0000FFFFFFFFFFFF, 0xFFFFFFFF, 1, 0x0000FFFFFFFF0000]
  | 0x14 => [0x3FFFFFFFF, 1]
  | 0x15 => [0x0000FFFFFFFFFFFF, 0xFFFFFF, 0x0000FFFFFFFF0000, 0x0000FFFFFFFF0000]
  | 0x16 => [0xFF]
  | 0x20 => [0xFFF, 0x0000FFFFFFFFFFFF]
  | 0x26 => [0xFFF, 0xFFFE000000000000]
  | 0x27 => [0xFFF, 0x0000FFFFFFFFFFFF, 0xFFFFFFFFFFFFFFFF, 0xFFFFFFFFFFFFFFFF, 0xFFFFFFFFFFFFFFFF, 0xFFFFFFFFFFFFFFFF]
  | 0x28 => [0xFFF, 0x0000FFFFFFFFFFFF, 0xFFFFFFFFFF, 3]
  | 0x30 => [0xFFF, 0xFFFF, 0x0000FFFFFFFFFFFF]
  | 0x31 => [0xFFF, 0xFFFF, 0x0000FFFFFFFFFFFF]
  | 0x32 => [0xFFF, 0xFFFFF]
  | 0x33 => [0xFFF, 0x0000FFFFFFFF3FFF]
  | 0x34 => [0xFFF, 0xFFF, 0x0000FFFFFFFFFFFF, 0xFFFF]
  | 0x35 => [0xFFF, 0xFFF]
  | 0x36 => [0xFFF, 0xFF, 0x0000FFFFFFFFFFFF]
  | 0x37 => [0xFFF, 0xF, 0x0000FFFFFFFFFFFF]
  | 0x21 | 0x22 | 0x23 | 0x24 | 0x25 => [0xFFF]
  | _ => []

/-- A reserved bit of the command is set. -/
def cmdReserved (c : Cmd) : Bool :=
  let m := cmdNamed (cmdOp c)
  fld c.e.w0 43 32 != 0 || (nats 7).any fun i => cmdWord c (i + 1) &&& ~~~(nth 0 m i) != 0

/-- The named context of a context or stage command (R370, R410). -/
def cmdCtx (c : Cmd) : Nat := fld c.e.w1 11 0

/-- The command code is one of R342, R362, R370 and R410, and the queue that carried the command may issue it. -/
def State.cmdAllowed (s : State) (c : Cmd) : Bool :=
  let op := cmdOp c
  let nodev := (s.queue c.ctx c.queue).nodev
  let sys := c.ctx == 0
  if op ≤ 0x07 then true
  else if 0x10 ≤ op ∧ op ≤ 0x16 then nodev || sys
  else if op = 0x27 then nodev && (sys || cmdCtx c == c.ctx)
  else if 0x20 ≤ op ∧ op ≤ 0x28 then nodev && sys
  else if op = 0x30 ∨ op = 0x37 then nodev && sys
  else if 0x31 ≤ op ∧ op ≤ 0x36 then nodev && (sys || cmdCtx c == c.ctx)
  else false

/-- The context whose state has to admit an image, queue, page or stage command is LOADED, RUNNABLE or QUIESCED (R373). -/
def State.admits (s : State) (ctx : Nat) : Bool :=
  let st := (s.ctx ctx).st
  st == .loaded || st == .runnable || st == .quiesced

/-- The checks that come before a command is executed. -/
def State.cmdCheck (s : State) (c : Cmd) : Option Nat :=
  let op := cmdOp c
  if !s.cmdAllowed c then some stBadop
  else if cmdReserved c then some stBadarg
  else if (op = 0x02 ∨ op = 0x03 ∨ op = 0x04 ∨ (0x10 ≤ op ∧ op ≤ 0x16)) ∧ s.admits c.ctx = false then some stBusy
  else if (0x20 ≤ op ∧ op ≤ 0x37) ∧ op ≠ 0x20 ∧ (s.ctx (cmdCtx c)).st = .none then some stBusy
  else if (0x30 ≤ op ∧ op ≤ 0x37) ∧ s.admits (cmdCtx c) = false then some stBusy
  else none

/-- The handle or slot that a command names, which DETAIL of BUSY gives (R345); 0 for a command that names none. -/
def cmdDetail (c : Cmd) : Nat :=
  match cmdOp c with
  | 0x02 | 0x03 => fld c.e.w1 7 0
  | 0x04 | 0x34 | 0x35 => fld c.e.w2 11 0
  | _ => 0

/-- Executes a command of the buffer by `f`, after the checks. -/
def State.runCmd (s : State) (c : Cmd) (op : Nat) (f : State → CRes) : State :=
  if !(s.die c.die).cmds.contains c || cmdOp c != op then s
  else
    match s.cmdCheck c with
    | some st => (s.dropCmd c).report c st 0 (if st = stBusy then BitVec.ofNat 64 (cmdDetail c) else 0)
    | none =>
      match f s with
      | .wait s => s
      | .later s => s.dropCmd c
      | .done s st detail => (s.dropCmd c).report c st 0 detail

/-- A command whose code is not listed, or which the queue may not issue, is refused (R342). -/
def State.runBad (s : State) (c : Cmd) : State := (s.dropCmd c).report c stBadop 0 0

/-- Refuses with the address at which a read or write of the firmware failed, or waits for a page. -/
def State.cmdFail (s : State) (c : Cmd) (r : TrRange) : CRes :=
  match r with
  | .fault _ va => .done s stFault (BitVec.ofNat 64 va)
  | .hold va => .wait (s.noteHold c.die c.ctx va)
  | _ => .wait s

/-- Bytes that the firmware reads for a context, as an engine does; an error in them fails like a fault. -/
inductive FRead where
  | ok (l : List Byte)
  | bad (r : TrRange)

/-- Reads `n` bytes at an address. -/
def State.fwRead (s : State) (ctx va n : Nat) : FRead :=
  match transPages (s.look ctx .rd) (pagesOf va n) with
  | .ok h =>
    match s.gatherBad (s.heldKey ctx h) va n with
    | some l => .bad (.fault 0x70 l)
    | none => .ok (s.gather (s.heldKey ctx h) va n)
  | r => .bad r

/-- The word at an offset of a list of bytes. -/
def wordAt (l : List Byte) (off n : Nat) : Nat := ofBytesLE ((l.drop off).take n)

/-! ## NOP -/

/-- NOP: nothing, and no report (R342). -/
def doNop (s : State) : CRes := .later s
/-- CMD_NOP. -/
def execCmdNop (c : Cmd) (s : State) : Host.Outcome State Fault Refusal := .next (s.runCmd c 0x00 doNop)

/-! ## Images (R279, R280, R342, R381) -/

/-- A launch of the slot is short of COMPLETE, or on its way (R280). -/
def State.slotInUse (s : State) (ctx slot : Nat) : Bool :=
  (nats 4).any fun d =>
    let x := s.die d
    let of (p : LPacket) : Bool := p.ctx == ctx && p.slot == slot
    (x.launches.any fun e => of e.p && (e.st == .waiting || e.st == .active || e.st == .localDone))
      || x.inbox.any of || x.launchq.any of

/-- Residency tags that name the slot are cleared on every die (R280). -/
def State.clearTags (s : State) (ctx slot : Nat) : State :=
  { s with seats := s.seats.map fun (e : Nat × Seat) =>
      (e.1, { e.2 with tag := e.2.tag.filter fun t => !(t.1 == ctx && t.2.1 == slot) }) }

/-- The header of an image meets R279. -/
def headerOk (l : List Byte) : Bool :=
  decide (256 ≤ l.length) && wordAt l 0 4 == 0x4B32514D && wordAt l 4 2 == 1 && wordAt l 6 2 == 0 && wordAt l 0x2A 6 == 0
    && decide (wordAt l 0x4B 1 < 4) && wordAt l 0x4C 4 == 0 && wordAt l 0x60 96 == 0

/-- The record of a checked header (R279). -/
def slotOf (l : List Byte) (base len gen : Nat) : MSlot :=
  { full := true, base := BitVec.ofNat 48 base, len, gen := BitVec.ofNat 16 gen, entry := BitVec.ofNat 64 (wordAt l 8 8),
    geom := BitVec.ofNat 64 (wordAt l 0x40 8), maxred := wordAt l 0x48 2, cls := wordAt l 0x4A 1 % 4,
    kflags := BitVec.ofNat 8 (wordAt l 0x4B 1), front0 := BitVec.ofNat 64 (wordAt l 0x50 8), front1 := BitVec.ofNat 64 (wordAt l 0x58 8) }

/-- CM after an object is loaded (R381). -/
def measured (cm : BitVec 512) (l : List Byte) : BitVec 512 := bits512 (sha512 (bytes512 cm ++ sha512 l))

/-- The image with SIG set to zero, which the signature covers. -/
def unsigned (l : List Byte) : List Byte := l.take 0xC0 ++ List.replicate 64 0 ++ l.drop 0x100

/-- The signature of an image is good, or the context checks none (R381). -/
def sigOk (c : Ctx) (l : List Byte) : Bool :=
  c.ipk == 0 || edVerify (bytes256 c.ipk) (sha512 (unsigned l)) ((l.drop 0xC0).take 64)

/-- The slot of a context. -/
def Ctx.slot (c : Ctx) (i : Nat) : MSlot := SMap.get MSlot.empty c.slots i

/-- LOADIMG: an empty slot takes its address from the source (log 31). -/
def doLoadimg (c : Cmd) (s : State) : CRes :=
  let slot := fld c.e.w1 7 0
  let src := fld c.e.w2 47 0
  let n := fld c.e.w3 39 0
  if s.slotInUse c.ctx slot then .wait s
  else
    match s.fwRead c.ctx src n with
    | .bad r => s.cmdFail c r
    | .ok l =>
      let x := s.ctx c.ctx
      let m := x.slot slot
      let base := if m.full then m.base.toNat else src
      if !headerOk l then .done s stBadarg 0
      else if !sigOk x l then .done s stSignature 0
      else
        match transPages (s.look c.ctx .dev) (pagesOf base n) with
        | .ok _ =>
          let s := if base = src then s else
            let a := l.toArray
            s.devFill c.ctx base n fun i => a.getD i 0
          let s := s.modCtx c.ctx fun x =>
            { x with slots := SMap.set MSlot.empty x.slots slot (slotOf l base n (m.gen.toNat + 1)), cm := measured x.cm l }
          .done (s.clearTags c.ctx slot) stOk 0
        | r => s.cmdFail c r
/-- LOADIMG. -/
def execLoadimg (c : Cmd) (s : State) : Host.Outcome State Fault Refusal := .next (s.runCmd c 0x02 (doLoadimg c))

/-- UNLOADIMG: the slot is emptied; its generation goes on (R280). -/
def doUnloadimg (c : Cmd) (s : State) : CRes :=
  let slot := fld c.e.w1 7 0
  if s.slotInUse c.ctx slot then .wait s
  else
    let s := s.modCtx c.ctx fun x => { x with slots := SMap.set MSlot.empty x.slots slot { MSlot.empty with gen := (x.slot slot).gen } }
    .done (s.clearTags c.ctx slot) stOk 0
/-- UNLOADIMG. -/
def execUnloadimg (c : Cmd) (s : State) : Host.Outcome State Fault Refusal := .next (s.runCmd c 0x03 (doUnloadimg c))

/-! ## Launches (R281, R282, R294, R343) -/

/-- The product of the extents of fields 2 to 5. -/
def LPacket.members (p : LPacket) : Nat := p.prodFrom 2

/-- A header meets R282, but for its predecessors, which D0 checks. -/
def LPacket.ok282 (p : LPacket) : Bool :=
  decide ((nats 6).foldl (fun a f => a + p.width f) 0 ≤ 64)
    && ((nats 6).all fun f => decide (p.extent f ≤ 2 ^ p.width f))
    && (if p.gang then !p.isFront && p.extent 1 == p.coach + 1 && p.members == p.seats + 1
        else p.coach == 0 && p.seats == 0 && !p.swap)
    && decide (p.npred ≤ 4)

/-- The number of lines that a die owns (R295). -/
def LPacket.ownedLines (p : LPacket) (d : Nat) : Nat :=
  let b := p.blk
  p.lines / (4 * b) * b + Nat.min (p.lines % (4 * b) - d * b) b

/-- The components of a vector as far as the launch has dimensions. -/
def LPacket.comps (p : LPacket) (v : Nat) : List Int := (nats p.nd).map (p.vec v)

/-- Lexicographically positive: the first component that is not zero is positive. -/
def lexPos : List Int → Bool
  | [] => false
  | x :: l => decide (0 < x) || (x == 0 && lexPos l)

/-- The stepped fields. -/
def LPacket.stepped (p : LPacket) : List Nat := (nats p.nd).map p.sf

/-- A frontier header meets R294. -/
def LPacket.ok294 (p : LPacket) : Bool :=
  let most := (nats 4).foldl (fun m d => Nat.max m (p.ownedLines d)) 0
  !p.gang && p.nd != 0 && decide (p.nv ≤ 4)
    && ((nats 6).all fun f => p.stepped.contains f || p.extent f == 1)
    && (p.stepped.all fun f => decide (f < 6) && p.width f != 0) && p.stepped.Nodup
    && decide (p.ex ≤ 65535)
    && ((nats p.nv).all fun v => lexPos (p.comps v) && decide (0 ≤ p.vec v 0) && (p.comps v).all fun x => decide (-15 ≤ x))
    && decide (most ≤ 16384) && decide (p.lines ≤ 65536)
    && p.saveVa % 64 == 0 && p.stride % 64 == 0
    && decide (64 + 64 * cdiv (2 * p.lines) 64 + 16 * most ≤ p.stride)

/-- The header words of an INVOKE (R281, R343): `a` is the argument block. -/
def headerOf (c : Cmd) (m : MSlot) (a : List Byte) : List W64 :=
  let w1 := c.e.w1
  let cls := if bit w1 53 then fld w1 55 54 else m.cls
  let np := fld w1 51 49
  let bit1 (i : Nat) (b : Bool) : Nat := if b then 2 ^ i else 0
  let w0 := fld w1 63 56 * 2 ^ 24 + cls * 2 ^ 22 + bit1 21 (bit w1 52) + bit1 20 (m.kflags.getLsbD 0) + bit1 19 (m.kflags.getLsbD 1)
    + np * 2 ^ 16
  let g := m.geom.toNat
  let geom := g / 2 ^ 57 * 2 ^ 57 + fld w1 47 32 * 2 ^ 40 + g % 2 ^ 36
  let x (k : Nat) : Nat := wordAt a (4 * k) 4
  let pr (k : Nat) (v : Nat) : Nat := if k < np then v else 0
  [BitVec.ofNat 64 w0, BitVec.ofNat 64 geom, BitVec.ofNat 64 (x 0 * 2 ^ 32 + x 1), BitVec.ofNat 64 (x 2 * 2 ^ 32 + x 3),
   BitVec.ofNat 64 (x 4 * 2 ^ 32 + x 5),
   BitVec.ofNat 64 (pr 0 (fld c.e.w2 63 32) * 2 ^ 32 + pr 1 (fld c.e.w2 31 0)),
   BitVec.ofNat 64 (pr 2 (fld c.e.w3 63 32) * 2 ^ 32 + pr 3 (fld c.e.w3 31 0)),
   BitVec.ofNat 64 (fld w1 31 0 * 2 ^ 32 + fld c.e.w4 63 32)]

/-- The launch packet of an INVOKE, before it has a LID. -/
def packetOf (c : Cmd) (m : MSlot) (a : List Byte) : LPacket :=
  let rl (k : Nat) : W64 := BitVec.ofNat 64 (wordAt a (0x18 + 8 * k) 8)
  let front := if m.kflags.getLsbD 0 then
      [m.front0, m.front1, BitVec.ofNat 64 (wordAt a 0x58 8), BitVec.ofNat 64 (wordAt a 0x60 8), 0, 0, 0, 0] else []
  { ctx := c.ctx, hdr := headerOf c m a, rl := m.base.setWidth 64 :: (natsFrom 1 7).map rl, front, entry := m.entry, maxred := m.maxred,
    gen := m.gen.toNat, rq := cmdRq c, tag := cmdTag c, ticket := c.ticket, die := c.die, inj := c.inj }

/-- A byte of the argument block that has to be 0 is not: those that no operand names, and the bits above SAVE and STRIDE. -/
def argsBad (a : List Byte) : Bool :=
  wordAt a 0x18 8 != 0 || wordAt a 0x68 24 != 0 || wordAt a 0x5E 2 != 0 || wordAt a 0x64 4 != 0

/-- INVOKE: the checked header goes to D0 (R343, R344). -/
def doInvoke (c : Cmd) (s : State) : CRes :=
  let slot := fld c.e.w1 63 56
  let m := (s.ctx c.ctx).slot slot
  let va := fld c.e.w5 47 0
  if !m.full then .done s stNoslot (BitVec.ofNat 64 slot)
  else if va % 64 ≠ 0 then .done s stBadarg 0
  else
    match s.fwRead c.ctx va 128 with
    | .bad r => s.cmdFail c r
    | .ok a =>
      let p := packetOf c m a
      if argsBad a then .done s stBadarg 0
      else if !p.ok282 || (p.isFront && !p.ok294) then .done s stGeometry 0
      else .later (s.modDie 0 fun x => { x with launchq := x.launchq ++ [p] })
/-- INVOKE. -/
def execInvoke (c : Cmd) (s : State) : Host.Outcome State Fault Refusal := .next (s.runCmd c 0x01 (doInvoke c))

/-- A report of an INVOKE that D0 makes, published by the firmware that took the command. -/
def State.invokeReport (s : State) (p : LPacket) (status lid : Nat) : State :=
  if p.rq = 4095 ∨ (s.queue p.ctx p.rq).st = qFree then s
  else
    (s.modDie p.die fun x => { x with reports := x.reports ++ [(p.ctx, p.rq, p.ticket, reportOf 1 status p.tag lid 0)] }).postReports p.die

/-- Every predecessor that the header names is below the LID (R282). -/
def LPacket.predsBelow (p : LPacket) (lid : Nat) : Bool := (nats p.npred).all fun k => decide (p.pred k < lid)

/-- A die's launch table can take one more packet: not all its entries are short of COMPLETE (R287). -/
def State.tableRoom (s : State) (d : Nat) : Bool :=
  let x := s.die d
  decide ((x.launches.filter fun e => e.st != .complete).length + x.inbox.length < 1024)

/-- D0 gives one header its LID and delivers its packet to every die (R344). -/
def State.assign (s : State) (p : LPacket) : State :=
  let s := s.modDie 0 fun x => { x with launchq := x.launchq.erase p }
  let lid := (s.ctx p.ctx).nextLid
  if !p.predsBelow lid then s.invokeReport p stGeometry 0
  else
    let q : LPacket := { p with hdr := BitVec.ofNat 64 (lid * 2 ^ 32 + fld (p.w 0) 31 0) :: p.hdr.drop 1, ticket := none }
    let s := s.modCtx p.ctx fun x => { x with nextLid := lid + 1 }
    let s := (nats 4).foldl (fun s d => s.modDie d fun x => { x with inbox := x.inbox ++ [q] }) s
    s.invokeReport p stLaunched lid

/-- D0's launch slots: headers in the order of arrival, class 0 first, while every die has room (R344). -/
def assignGo : List LPacket → State → State
  | [], s => s
  | p :: ps, s => if (nats 4).all s.tableRoom then assignGo ps (s.assign p) else s

/-- The assignment of launch ids in one slot. -/
def State.assignAll (s : State) : State :=
  let l := (s.die 0).launchq
  assignGo (l.filter (fun p => p.cls == 0) ++ l.filter fun p => p.cls != 0) s

/-- WAITL (R342): the report of a retired launch gives one status or the other (log 2). -/
def doWaitl (c : Cmd) (s : State) : CRes :=
  let lid := fld c.e.w1 31 0
  if (s.ctx c.ctx).nextLid ≤ lid ∨ lid = 0 then .done s stBadarg 0
  else
    match s.lent c.die c.ctx lid with
    | some e =>
      if e.st = .complete then .later (s.report c (if e.err then stError else stComplete) lid 0)
      else .later (s.modLent c.die c.ctx lid fun e =>
        { e with waiters := if cmdRq c = 4095 then e.waiters else e.waiters ++ [(c.ctx, cmdRq c, cmdTag c, 0)] })
    | none =>
      if (s.die c.die).inbox.any fun p => p.ctx == c.ctx && p.lid == lid then .wait s
      else
        let bad := Config.freeBool s.free
        .later ({ s with free := s.free + 1 }.report c (if bad then stError else stComplete) lid 0)
/-- WAITL. -/
def execWaitl (c : Cmd) (s : State) : Host.Outcome State Fault Refusal := .next (s.runCmd c 0x07 (doWaitl c))

/-! ## The resident queues of a die (R330, R331) -/

/-- The queues of all contexts whose home is a die, with context and handle. -/
def State.homeQueues (s : State) (d : Nat) : List (Nat × Nat × Queue) :=
  s.ctxs.flatMap fun c => (c.2.queues.filter fun q => q.2.home == d && q.2.st != qFree).map fun q => (c.1, q.1, q.2)

/-- The queues that hold a resident entry of a die, by its index. -/
def State.entries (s : State) (d : Nat) : List (Nat × Nat × Queue) :=
  sortBy (fun a b => decide (a.2.2.ridx ≤ b.2.2.ridx)) ((s.homeQueues d).filter fun q => q.2.2.ridx != 0)

/-- The lowest free resident entry of a die, counted from 1. -/
def State.freeEntry (s : State) (d : Nat) : Option Nat :=
  let used := (s.entries d).map fun q => q.2.2.ridx
  (natsFrom 1 256).find? fun i => !used.contains i

/-- Pinned queues of a die, and those of class 0 among them (R331). -/
def State.pinned (s : State) (d : Nat) : Nat × Nat :=
  let l := (s.homeQueues d).filter fun q => q.2.2.pin
  (l.length, (l.filter fun q => q.2.2.cls == 0).length)

/-- One more pinned queue would exceed a limit of R331. -/
def State.pinFull (s : State) (d cls : Nat) : Bool :=
  let n := s.pinned d
  decide (192 ≤ n.1) || (cls == 0 && decide (16 ≤ n.2))

/-- The unpinned resident queue of a die whose last access is oldest (R331). -/
def State.victimQueue (s : State) (d : Nat) : Option (Nat × Nat) :=
  let l := (s.entries d).filter fun q => q.2.2.st == qResident && !q.2.2.pin
  match sortBy (fun a b => decide (a.2.2.last ≤ b.2.2.last)) l with
  | [] => none
  | q :: _ => some (q.1, q.2.1)

/-- A queue is on its way out. -/
def State.evicting (s : State) (d : Nat) : Option (Nat × Nat) :=
  ((s.homeQueues d).find? fun q => q.2.2.st == qEvicting).map fun q => (q.1, q.2.1)

/-- The firmware begins to evict a queue, unless one is on its way out: new accesses wait (R330). -/
def State.startEviction (s : State) (d : Nat) : State :=
  if (s.evicting d).isSome then s
  else
    match s.victimQueue d with
    | some (c, h) => s.modQueue c h fun q => { q with st := qEvicting }
    | none => s

/-- The state and bitmaps of the queue on its way out are written; it is SWAPPED (R330). The place of the bitmap pair is a
free value (log 95). -/
def State.endEviction (s : State) (d : Nat) : State :=
  match s.evicting d with
  | some (c, h) =>
    let (v, s) := s.freshWord
    s.modQueue c h fun q => { q with st := qSwapped, ridx := 0, bmap := addrOf v }
  | none => s

/-- QUEUE_EVICTION: the queue on its way out is SWAPPED; where there is none, and no entry is free for a miss or a command
that waits, one is chosen (R330, R331). -/
def execQueueEviction (die : Nat) (s : State) : Host.Outcome State Fault Refusal :=
  .next (if (s.evicting die).isSome then s.endEviction die
    else if (s.freeEntry die).isNone && (!(s.die die).misses.isEmpty || (s.die die).wantRoom) then s.startEviction die else s)

/-- Serves the queue misses of a die in order: a queue takes a free entry and is loaded, or room is made (R331). -/
def serveMisses : List (Nat × Nat) → State → Nat → State
  | [], s, _ => s
  | m :: ms, s, d =>
    let q := s.queue m.1 m.2
    if q.st ≠ qLoading ∨ q.ridx ≠ 0 then serveMisses ms (s.modDie d fun x => { x with misses := x.misses.erase m }) d
    else
      match s.freeEntry d with
      | some i => serveMisses ms ((s.modQueue m.1 m.2 fun q => { q with ridx := i }).modDie d fun x => { x with misses := x.misses.erase m }) d
      | none => s.startEviction d

/-- A queue that has an entry is RESIDENT (R330). -/
def State.endLoad (s : State) (ctx h : Nat) : State :=
  let q := s.queue ctx h
  if q.st = qLoading ∧ q.ridx ≠ 0 then s.modQueue ctx h fun q => { q with st := qResident, bmap := 0 } else s

/-- QUEUE_LOAD_COMPLETE. -/
def execQueueLoadComplete (ctx handle : Nat) (s : State) : Host.Outcome State Fault Refusal := .next (s.endLoad ctx handle)

/-- The queue-miss slots of a die: what an earlier slot began ends, misses are served, and room is made for a command that
waits for it (R331, R339). -/
def State.queueSlot (s : State) (d : Nat) : State :=
  let s := s.endEviction d
  let s := (s.homeQueues d).foldl (fun s q => s.endLoad q.1 q.2.1) s
  let s := serveMisses (s.die d).misses s d
  if !(s.die d).wantRoom then s
  else if (s.freeEntry d).isNone then s.startEviction d
  else s.modDie d fun x => { x with wantRoom := false }

/-! ## Queue commands (R342) -/

/-- The addresses of a ring are as R329 allows. -/
def ringPlace (w0 : W64) : Bool :=
  let ring := fld w0 47 0
  let n := 64 * 2 ^ fld w0 51 48
  let last := ring + n - 1
  let window := match windowOf ring, windowOf last with
    | some a, some b => a.1 == b.1 && a.1 / 28 == fld w0 57 56
    | _, _ => false
  decide (last < 0x800000000000) || window || (fld w0 53 52 == 2 && inHost ring && inHost last)

/-- The pages of a ring lie on its die HOME, but for one in the host window (R329). -/
def State.ringHome (s : State) (ctx : Nat) (w0 : W64) (held : Held) : Bool :=
  inHost (fld w0 47 0) || (pagesOf (fld w0 47 0) (64 * 2 ^ fld w0 51 48)).all fun va => dieOfKey (s.heldKey ctx held va) == fld w0 57 56

/-- What QCREATE requires of its operands. -/
def queueArgs (w0 : W64) : Bool :=
  decide (2 ≤ fld w0 51 48 ∧ fld w0 51 48 ≤ 12) && fld w0 47 0 % 64 == 0 && fld w0 53 52 != 3 && ringPlace w0

/-- The right that each page of a ring needs: both reads and writes. -/
def State.lookRing (s : State) (ctx va : Nat) : Tr :=
  match s.look ctx .rd va with
  | .ok _ => s.look ctx .wr va
  | r => r

/-- A new queue, in a resident entry or swapped out. -/
def newQueue (w0 : W64) (h : Held) (ridx now : Nat) : Queue :=
  { Queue.free with st := if ridx = 0 then qSwapped else qResident, word0 := BitVec.ofNat 64 (w0.toNat % 2 ^ 61), ring := h, ridx, last := now }

/-- QCREATE. -/
def doQcreate (c : Cmd) (s : State) : CRes :=
  let w0 := c.e.w1
  let h := fld c.e.w2 11 0
  let d := fld w0 57 56
  let pin := bit w0 58
  if (s.queue c.ctx h).st ≠ qFree ∨ queueArgs w0 = false then .done s stBadarg 0
  else
    match transPages (s.lookRing c.ctx) (pagesOf (fld w0 47 0) (64 * 2 ^ fld w0 51 48)) with
    | .ok held =>
      if !s.ringHome c.ctx w0 held then .done s stBadarg 0
      else if pin && s.pinFull d (fld w0 55 54) then .done s stNores (BitVec.ofNat 64 h)
      else
        match s.freeEntry d with
        | none => if pin then .wait (s.modDie d fun x => { x with wantRoom := true }) else .done (s.modQueue c.ctx h fun _ => newQueue w0 held 0 s.dieCycle) stOk 0
        | some i => .done (s.modQueue c.ctx h fun _ => newQueue w0 held i s.dieCycle) stOk 0
    | r => s.cmdFail c r
/-- QCREATE. -/
def execQcreate (c : Cmd) (s : State) : Host.Outcome State Fault Refusal := .next (s.runCmd c 0x04 (doQcreate c))

/-- The tickets of reports in a queue that is destroyed are void: those reports are dropped. -/
def State.dropTickets (s : State) (ctx h : Nat) : State :=
  (nats 4).foldl (fun s d => s.modDie d fun x =>
    { x with cmds := x.cmds.map fun (k : Cmd) => if k.ctx = ctx ∧ cmdRq k = h then { k with ticket := none } else k
             launchq := x.launchq.map fun (p : LPacket) => if p.ctx = ctx ∧ p.rq = h then { p with ticket := none } else p
             reports := x.reports.filter fun r => !(r.1 == ctx && r.2.1 == h) }) s

/-- A queue is destroyed: its waiters run on with EMPTY, DESTROYED (R337, R342). -/
def State.destroyQueue (s : State) (ctx h : Nat) : State :=
  let ws := s.waits.filter fun w => w.kind == 3 && w.ctx == ctx && w.addr.toNat == h
  let s := { s with waits := s.waits.filter fun w => !(w.kind == 3 && w.ctx == ctx && w.addr.toNat == h) }
  let s := ws.foldl (fun s w => s.wake ctx w.carr (some (w.aux.toNat / 256 % 4, qDestroyed))) s
  (s.modQueue ctx h fun _ => Queue.free).dropTickets ctx h

/-- QDESTROY. -/
def doQdestroy (c : Cmd) (s : State) : CRes :=
  let h := fld c.e.w2 11 0
  let q := s.queue c.ctx h
  if q.st = qFree then .done s stBadarg 0
  else if cmdRq c = h then .done s stBusy (BitVec.ofNat 64 h)
  else if q.st = qLoading ∨ q.st = qEvicting then .wait s
  else .done (s.destroyQueue c.ctx h) stOk 0
/-- QDESTROY. -/
def execQdestroy (c : Cmd) (s : State) : Host.Outcome State Fault Refusal := .next (s.runCmd c 0x05 (doQdestroy c))

/-- A queue with PIN set or clear. -/
def Queue.setPin (q : Queue) (b : Bool) : Queue := { q with word0 := putBit q.word0 58 b }

/-- QPIN: a queue that is to be pinned is first made resident. -/
def doQpin (c : Cmd) (s : State) : CRes :=
  let h := fld c.e.w2 11 0
  let q := s.queue c.ctx h
  if q.st = qFree then .done s stBadarg 0
  else if !bit c.e.w2 12 then .done (s.modQueue c.ctx h fun q => q.setPin false) stOk 0
  else if q.pin then .done s stOk 0
  else if s.pinFull q.home q.cls then .done s stNores (BitVec.ofNat 64 h)
  else if q.st = qResident then .done (s.modQueue c.ctx h fun q => q.setPin true) stOk 0
  else .wait (s.qMiss c.ctx h)
/-- QPIN. -/
def execQpin (c : Cmd) (s : State) : Host.Outcome State Fault Refusal := .next (s.runCmd c 0x06 (doQpin c))

/-! ## The host's queue window (R348) -/

/-- An answer to a read of the host. -/
def State.answer (s : State) (v : W64) : State := { s with hostOut := v :: s.hostOut }

/-- The checks of a host access of a kind fail: production needs NOHOST = 0, take and release CONS = 2 (R348). -/
def State.hostBars (s : State) (ctx h k : Nat) : Bool :=
  let q := s.queue ctx h
  q.st == qFree || (if k = 0 ∨ k = 2 then q.nohost else q.cons != 2)

/-- A host access may be applied: its queue is resident, and in a replay it is the host's turn (R348, R380). -/
def State.hostMay (s : State) (ctx h : Nat) : Bool := (s.queue ctx h).st == qResident && s.queueTurn ctx h agentHost

/-- The bytes of ring entries that the host has sent come to memory, those of a queue that is gone are lost (R348). -/
def State.hostBytes (s : State) (ctx h : Nat) : State :=
  let mine (e : Nat × Nat × BitVec 32 × List Byte) : Bool := e.1 == ctx && e.2.1 == h
  let p := s
  (p.hostRing.filter mine).foldl (fun s e => if (s.queue ctx h).st = qFree then s else s.apply (s.qKey ctx h e.2.2.1) (e.2.2.2.take 64))
    { s with hostRing := s.hostRing.filter fun e => !mine e }

/-- The digest of a command that the host commits, kept for the log while its context records or replays (R348, R379). -/
def State.hostNote (s : State) (ctx h : Nat) (k : BitVec 32) : State :=
  if (s.ctx ctx).rcd || (s.ctx ctx).replay then
    { s with hostCmds := s.hostCmds ++ [(ctx, h, k, digestWords (s.rdBytes (s.qKey ctx h k) 64))] }
  else s

/-- A host access that comes to its queue, of a kind: 0 COMMIT, 1 RELEASE, 2 RES, 3 TAKE. Its entry bytes travel ahead of a
COMMIT (R348). -/
def State.hostDo (s : State) (ctx h : Nat) (v : W64) (k : Nat) : State :=
  let t := (s.queueLog ctx h agentHost).qTouch ctx h
  if k = 0 then
    let t := (t.hostBytes ctx h).hostNote ctx h (v.setWidth 32)
    t.qCommit ctx h (v.setWidth 32)
  else if k = 1 then t.qRelease ctx h (v.setWidth 32)
  else if k = 2 then
    let (r, t) := t.qRes ctx h 0
    t.answer r
  else
    let (r, t) := t.qTake ctx h
    t.answer r

/-- Host accesses to a queue are held in the adapter. -/
def State.hostLater (s : State) (ctx h : Nat) : Bool := s.hostHeld.any fun e => e.1 == ctx && e.2.1 == h

/-- A read of the window of a queue: RETRY while the queue is not resident; in a replay its reply waits for its turn. -/
def State.hostRead (s : State) (ctx h k : Nat) : State :=
  if s.hostBars ctx h k then s.answer (BitVec.allOnes 64)
  else if (s.queue ctx h).st ≠ qResident then ((s.qMiss ctx h).qTouch ctx h).answer qRetry
  else if s.hostMay ctx h && !s.hostLater ctx h then s.hostDo ctx h 0 k
  else { s with hostHeld := s.hostHeld ++ [(ctx, h, 0, k)] }

/-- A write of the window of a queue: held in the adapter while the queue is not resident, behind the accesses held before. -/
def State.hostWrite (s : State) (ctx h : Nat) (v : W64) (k : Nat) : State :=
  if s.hostBars ctx h k then s
  else if s.hostMay ctx h && !s.hostLater ctx h then s.hostDo ctx h v k
  else
    let s := (s.qMiss ctx h).qTouch ctx h
    { s with hostHeld := s.hostHeld ++ [(ctx, h, v, k)] }

/-- HOST_RES_READ. -/
def execHostResRead (ctx handle : Nat) (s : State) : Host.Outcome State Fault Refusal := .next (s.hostRead ctx handle 2)

/-- HOST_TAKE_READ. -/
def execHostTakeRead (ctx handle : Nat) (s : State) : Host.Outcome State Fault Refusal := .next (s.hostRead ctx handle 3)

/-- HOST_COMMIT_WRITE. -/
def execHostCommitWrite (ctx handle : Nat) (v : W64) (s : State) : Host.Outcome State Fault Refusal := .next (s.hostWrite ctx handle v 0)

/-- HOST_RELEASE_WRITE. -/
def execHostReleaseWrite (ctx handle : Nat) (v : W64) (s : State) : Host.Outcome State Fault Refusal := .next (s.hostWrite ctx handle v 1)

/-- HOST_WINDOW_OTHER_ACCESS: a read returns 0 and a write is ignored. -/
def execHostWindowOther (_ctx _off : Nat) (write : Option W64) (s : State) : Host.Outcome State Fault Refusal :=
  .next (if write.isNone then s.answer 0 else s)

end Sys2Proof.Machine
end

