-- ==== Sys2Proof/Machine/Pages.lean ====
section
/-!
DEFINITION. Pages: the end of a walk (R355), the delivery of fault records (R359, R360), and the page commands (R351,
R352, R354, R356, R361 to R364, R459).
-/

namespace Sys2Proof.Machine

/-! ## Leaves -/

/-- The leaf of a word of R352. -/
def leafOf (w : W64) : Leaf :=
  ⟨bit w 63, BitVec.ofNat 2 (fld w 62 61), bit w 59, bit w 58, bit w 57, bit w 56, bit w 55, bit w 54, BitVec.ofNat 32 (fld w 47 16),
   BitVec.ofNat 8 (fld w 15 8), BitVec.ofNat 8 (fld w 7 0), false⟩

/-- Puts a leaf of a 64 KiB page. -/
def Ctx.putSmall (c : Ctx) (page : Nat) (l : Leaf) : Ctx := { c with small := SMap.set Leaf.absent c.small page l }
/-- Puts a large leaf: the table that mapped its range is gone. -/
def Ctx.putLarge (c : Ctx) (region : Nat) (l : Leaf) : Ctx :=
  { c with large := SMap.set Leaf.absent c.large region l, small := SMap.keep (fun p => decide (p / 512 ≠ region)) c.small }

/-- A large leaf becomes a table of 512 leaves that map the same (R362). -/
def Ctx.split (c : Ctx) (region : Nat) : Ctx :=
  match SMap.find c.large region with
  | none => c
  | some l =>
    { c with large := SMap.erase c.large region
             small := splice Leaf.absent c.small (512 * region) 512 fun i => { l with frame := l.frame + BitVec.ofNat 32 i } }

/-- Splits every large leaf that 64 KiB pages lie in. -/
def Ctx.splitAll (c : Ctx) (page n : Nat) : Ctx :=
  (natsFrom (page / 512) ((page + n - 1) / 512 + 1 - page / 512)).foldl Ctx.split c

/-- A page command needs a table that is not there: for the regions of its pages, or for the 512 GiB around them. -/
def Ctx.needsTable (c : Ctx) (page n : Nat) (large : Bool) : Bool :=
  let region (r : Nat) : Bool := c.small.any fun e => e.1 / 512 == r
  let top (t : Nat) : Bool := c.small.any (fun e => e.1 / 2 ^ 23 == t) || c.large.any fun e => e.1 / 2 ^ 14 == t
  let regions := natsFrom (page / 512) ((page + n - 1) / 512 + 1 - page / 512)
  (!large && regions.any fun r => !region r) || regions.any fun r => !top (r / 2 ^ 14)

/-! ## Walks (R355) -/

/-- An entry enters the cache of a quad, which holds 4,096. -/
def State.cacheAdd (s : State) (quad : Nat) (e : Nat × Nat × Bool) : State :=
  s.modQuad quad fun q => if q.tlb.contains e then q else { q with tlb := (q.tlb ++ [e]).drop (q.tlb.length + 1 - 4096) }

/-- One of the 64 running walks of a die ends: every request for its page is served. What may not be cached is told to
the requester once. -/
def State.walkEnd (s : State) (d : Nat) : State :=
  let run := ((s.die d).walks.filter fun w => !w.2.2.2).take 64
  match run[Config.freeChoice s.free % run.length]? with
  | none => s
  | some w =>
    let s := { s with free := s.free + 1 }
    let (l, big) := (s.ctx w.1).leafAt (w.2.1 * 2 ^ 16)
    let mine (x : Nat × Nat × Nat × Bool) : Bool := x.1 == w.1 && x.2.1 == w.2.1
    let quads := ((s.die d).walks.filter fun x => mine x && !x.2.2.2).map fun x => x.2.2.1
    let rest := (s.die d).walks.filter fun x => !mine x
    if l.v && !l.mig && !l.err then
      quads.foldl (fun s q => s.cacheAdd q (w.1, if big then w.2.1 / 512 else w.2.1, big)) (s.modDie d fun x => { x with walks := rest })
    else
      let old := rest.filter fun x => x.2.2.2
      let keep := rest.filter (fun x => !x.2.2.2) ++ old.drop (old.length - 1024)
      s.modDie d fun x => { x with walks := keep ++ quads.map fun q => (w.1, w.2.1, q, true) }

/-- PAGE_WALK_COMPLETE. -/
def execPageWalkComplete (die : Nat) (s : State) : Host.Outcome State Fault Refusal := .next (s.walkEnd die)

/-- Entries of pages are invalid in every cache of the package (R356). -/
def State.invalidate (s : State) (ctx lo hi : Nat) : State :=
  let hit (page : Nat) : Bool := decide (lo ≤ page ∧ page < hi)
  let hitE (e : Nat × Nat × Bool) : Bool :=
    e.1 == ctx && if e.2.2 then decide (lo < (e.2.1 + 1) * 512 ∧ e.2.1 * 512 < hi) else hit e.2.1
  let s := { s with quads := s.quads.map fun (q : Nat × Quad) => (q.1, { q.2 with tlb := q.2.tlb.filter fun e => !hitE e }) }
  (nats 4).foldl (fun s d => s.modDie d fun x => { x with walks := x.walks.filter fun w => !(w.1 == ctx && hit w.2.1 && w.2.2.2) }) s

/-! ## Fault records (R359, R360) -/

/-- The mask words of a record: bit `i` for each of the 256 sectors. -/
def FRec.maskWord (r : FRec) (nsec k : Nat) : W64 :=
  let has (i : Nat) : Bool :=
    if r.src = 1 then r.secs.any fun x => (if nsec = 0 then x else x % nsec) == r.first + i
    else if r.src = 2 then r.secs.contains i else false
  BitVec.ofNat 64 ((nats 64).foldl (fun n i => if has (64 * k + i) then n + 2 ^ i else n) 0)

/-- The entry of a record (R360). -/
def FRec.entry (r : FRec) (d nsec : Nat) : Entry :=
  ⟨BitVec.ofNat 64 (r.cause * 2 ^ 56 + r.src * 2 ^ 52 + r.side * 2 ^ 50 + d * 2 ^ 48 + (if r.hold then 2 ^ 32 else 0) + r.rid % 2 ^ 32),
   r.va.setWidth 64, BitVec.ofNat 64 (r.chip * 2 ^ 48 + r.carr.toNat), BitVec.ofNat 64 (if r.src = 1 ∨ r.src = 2 then r.first % 2 ^ 32 else 0),
   r.maskWord nsec 0, r.maskWord nsec 1, r.maskWord nsec 2, r.maskWord nsec 3⟩

/-- A transfer command in a queue, or kept by a quiesce (R327). -/
def State.transAny (s : State) (ctx id : Nat) : Option Trans := (s.trans? id).or ((s.ctx ctx).kept.find? fun t => t.id == id)

/-- A record of die `d` may be delivered: its sectors are all known, since the command has come to a fault-stop, or sectors
wait for room in the die's fault queue (R359). -/
def State.recReady (s : State) (d : Nat) (r : FRec) : Bool :=
  !r.sent && (r.src != 1 || decide (1024 ≤ (s.die d).faults.length) || match s.transAny r.ctx r.tid with
    | some t => t.stopped
    | none => true)

/-- Publishes one record on the fault queue of its context, if that has room. -/
def State.deliverRec (s : State) (d : Nat) (r : FRec) : State :=
  let nsec := match s.transAny r.ctx r.tid with
    | some t => t.nsec
    | none => 0
  let h := (s.ctx r.ctx).fqh
  match s.qPut r.ctx h (agentFirmware d) (Entry.bytes (FRec.entry r d nsec)) with
  | some s => s.modDie d fun x => { x with faults := x.faults.map fun (f : FRec) => if f.rid = r.rid then { f with sent := true } else f }
  | none => s.qMiss r.ctx h

/-- FAULT_RECORD_DELIVERY: the oldest record that may be delivered. -/
def execFaultRecordDelivery (die : Nat) (s : State) : Host.Outcome State Fault Refusal :=
  .next (match (s.die die).faults.find? (s.recReady die) with
    | some r => s.deliverRec die r
    | none => s)

/-- The delivery of every record of a die in one slot. -/
def State.deliverAll (s : State) (d : Nat) : State :=
  ((s.die d).faults.filter (s.recReady d)).foldl (fun s r => s.deliverRec d r) s

/-! ## What holds an old leaf (R356, R459) -/

/-- A held translation covers one of the pages. -/
def heldIn (h : Held) (lo hi : Nat) : Bool := h.any fun e => decide (lo ≤ e.1 ∧ e.1 < hi)

/-- Bytes lie in one of the pages. -/
def vaIn (va n lo hi : Nat) : Bool := decide (lo ≤ (va + n - 1) / 2 ^ 16 ∧ va / 2 ^ 16 < hi)

/-- An access or command made before number `id` still uses the old leaf of one of the pages. -/
def State.usesOld (s : State) (ctx lo hi id : Nat) : Bool :=
  (s.accs.any fun a => a.ctx == ctx && decide (a.id < id) && (vaIn a.va.toNat (Nat.max a.n 1) lo hi || heldIn a.rref lo hi))
    || (s.quads.any fun q =>
        (q.2.trans.any fun t => t.ctx == ctx && decide (t.id < id) && heldIn t.wref lo hi)
          || q.2.arr.cmds.any fun c => c.ctx == ctx && decide (c.id < id) && (heldIn c.refs lo hi || match c.k with
            | .mma _ (.tile a) _ _ _ b _ _ | .mmas _ (.tile a) _ _ _ b _ _ _ _ => heldIn a.refs lo hi || heldIn b.refs lo hi
            | .mma _ _ _ _ _ b _ _ | .mmas _ _ _ _ _ b _ _ _ _ => heldIn b.refs lo hi
            | .cmpr d a _ _ _ _ _ _ =>
              (match d with | .tile t => heldIn t.refs lo hi | _ => false) || match a with | .tile t => heldIn t.refs lo hi | _ => false
            | _ => false))
    || ((s.ctx ctx).kept.any fun t => decide (t.id < id) && heldIn t.wref lo hi)
    || (s.cores.any fun c => c.2.hcwp.any fun w => (s.seat w.seat).ctx == ctx && decide (w.id < id) && heldIn w.refs lo hi)
    || (s.seats.any fun x => x.2.ctx == ctx && x.2.streams.any fun q => q.2.pushed.any fun p => decide (p.id < id))

/-- The queue whose ring lies on one of the pages, if there is one (R459). -/
def Ctx.ringOn (c : Ctx) (lo hi : Nat) : Option Nat := (c.queues.find? fun q => q.2.st != qFree && heldIn q.2.ring lo hi).map Prod.fst

/-- A page command has changed leaves: caches are invalid, and its report waits for the accesses that use the old ones. -/
def State.pageDone (s : State) (c : Cmd) (lo hi : Nat) (page : Option Nat) : CRes :=
  let (id, s) := (s.invalidate c.ctx lo hi).freshId
  .later (s.modDie c.die fun x => { x with jobs := x.jobs ++ [⟨c, lo, hi, id, page⟩] })

/-- The pages that a command names: first and number of 64 KiB pages, whether they are large; none if the range leaves
its region or is misaligned (R362). -/
def pageArgs (c : Cmd) : Option (Nat × Nat × Bool) :=
  let va := fld c.e.w1 47 0
  let large := bit c.e.w2 32
  let cnt := fld c.e.w2 31 0 + 1
  let size := if large then 512 else 1
  let last := va + cnt * size * 2 ^ 16 - 1
  if cnt ≤ 65536 ∧ va % (size * 2 ^ 16) = 0 ∧ (last < 0x800000000000 ∨ (inHost va = true ∧ inHost last = true)) then
    some (va / 2 ^ 16, cnt * size, large)
  else none

/-- HBM frames lie in the frame grant of a context (R362, R368). -/
def Ctx.granted (c : Ctx) (frame n : Nat) : Bool := decide (c.fgBase ≤ frame ∧ frame + n ≤ c.fgBase + c.fgLen)

/-- The table pool of the firmware cannot supply a table: how large it is, is not stated (R362, log 2). -/
def State.poolShort (s : State) (need : Bool) : Bool × State :=
  if need then (Config.freeBool s.free, { s with free := s.free + 1 }) else (false, s)

/-! ## MAP, UNMAP, PROTECT -/

/-- The template of MAP is a leaf that R352 and R362 admit. -/
def mapLeafOk (x : Ctx) (l : Leaf) (w : W64) (page n : Nat) (large : Bool) : Bool :=
  l.v && bit w 60 && !l.mig && !l.onhost && l.pbi == 0 && fld w 53 48 == 0 && decide (l.kind.toNat < 2)
    && ((l.kind == 1#2) == inHost (page * 2 ^ 16)) && (!large || l.frame.toNat % 512 == 0)
    && decide (l.frame.toNat + n ≤ 2 ^ 32) && (l.kind == 1#2 || x.granted l.frame.toNat n)

/-- A leaf that a command writes over another: the error of a line of eight leaves goes only with a command that writes all of
the line (R366). `i` is the index of the leaf among `n` from `lo` on. -/
def Leaf.over (l old : Leaf) (i lo n : Nat) : Leaf :=
  { l with err := old.err && !decide (lo ≤ i / 8 * 8 ∧ i / 8 * 8 + 8 ≤ lo + n) }

/-- Leaves are written in a range of pages: `f i` for the `i`-th large or small page. -/
def Ctx.writeLeaves (x : Ctx) (page n : Nat) (large : Bool) (f : Nat → Leaf) : Ctx :=
  if large then
    (nats (n / 512)).foldl (fun (x : Ctx) i =>
      let r := page / 512 + i
      x.putLarge r ((f i).over (SMap.get Leaf.absent x.large r) r (page / 512) (n / 512))) x
  else
    let x := x.splitAll page n
    { x with small := splice Leaf.absent x.small page n fun i => (f i).over (SMap.get Leaf.absent x.small (page + i)) (page + i) page n }

/-- The leaves that MAP writes. -/
def Ctx.mapLeaves (x : Ctx) (l : Leaf) (page n : Nat) (large : Bool) : Ctx :=
  x.writeLeaves page n large fun i => { l with frame := l.frame + BitVec.ofNat 32 ((if large then 512 else 1) * i) }

/-- A page of the range moves: a command on it waits until MIGRATE is done with it (DESIGN CHOICE, log 101). -/
def Ctx.moving (x : Ctx) (page n : Nat) : Bool := x.small.any fun e => decide (page ≤ e.1 ∧ e.1 < page + n) && e.2.mig

/-- MAP. -/
def doMap (c : Cmd) (s : State) : CRes :=
  match pageArgs c with
  | none => .done s stBadarg 0
  | some (page, n, large) =>
    if (s.ctx c.ctx).moving page n then .wait s else
    let x := s.ctx c.ctx
    let l := leafOf c.e.w3
    if !mapLeafOk x l c.e.w3 page n large then .done s stBadarg 0
    else
      match x.ringOn page (page + n) with
      | some h => .done s stBusy (BitVec.ofNat 64 h)
      | none =>
        let (short, s) := s.poolShort (x.needsTable page n large)
        if short then .done s stNores 0
        else (s.modCtx c.ctx fun x => x.mapLeaves l page n large).pageDone c page (page + n) none
/-- MAP. -/
def execMap (c : Cmd) (s : State) : Host.Outcome State Fault Refusal := .next (s.runCmd c 0x10 (doMap c))

/-- The pages of a range have no leaf. -/
def Ctx.unmapLeaves (x : Ctx) (page n : Nat) (large : Bool) : Ctx := x.writeLeaves page n large fun _ => Leaf.absent

/-- A large leaf holds some of the pages and would be split. -/
def Ctx.splits (x : Ctx) (page n : Nat) (large : Bool) : Bool :=
  !large && x.large.any fun e => decide (page < (e.1 + 1) * 512 ∧ e.1 * 512 < page + n)

/-- UNMAP. -/
def doUnmap (c : Cmd) (s : State) : CRes :=
  match pageArgs c with
  | none => .done s stBadarg 0
  | some (page, n, large) =>
    if (s.ctx c.ctx).moving page n then .wait s else
    let x := s.ctx c.ctx
    match x.ringOn page (page + n) with
    | some h => .done s stBusy (BitVec.ofNat 64 h)
    | none =>
      let (short, s) := s.poolShort (x.splits page n large)
      if short then .done s stNores 0
      else (s.modCtx c.ctx fun x => x.unmapLeaves page n large).pageDone c page (page + n) none
/-- UNMAP. -/
def execUnmap (c : Cmd) (s : State) : Host.Outcome State Fault Refusal := .next (s.runCmd c 0x11 (doUnmap c))

/-- The rights R, W, X, DW of a valid leaf are replaced. -/
def Leaf.protect (l : Leaf) (w : W64) : Leaf := if l.v then { l with r := bit w 59, w := bit w 58, x := bit w 57, dw := bit w 56 } else l

/-- The valid leaves of a range take new rights; a large PROTECT takes in the leaves of a table in its place. -/
def Ctx.protectLeaves (x : Ctx) (w : W64) (page n : Nat) (large : Bool) : Ctx :=
  let x := if large then x else x.splitAll page n
  let x := { x with small := x.small.map fun (e : Nat × Leaf) => if page ≤ e.1 ∧ e.1 < page + n then (e.1, e.2.protect w) else e }
  if large then
    { x with large := x.large.map fun (e : Nat × Leaf) => if page ≤ e.1 * 512 ∧ e.1 * 512 < page + n then (e.1, e.2.protect w) else e }
  else x

/-- PROTECT. -/
def doProtect (c : Cmd) (s : State) : CRes :=
  match pageArgs c with
  | none => .done s stBadarg 0
  | some (page, n, large) =>
    if (s.ctx c.ctx).moving page n then .wait s else
    let x := s.ctx c.ctx
    match x.ringOn page (page + n) with
    | some h => .done s stBusy (BitVec.ofNat 64 h)
    | none =>
      let (short, s) := s.poolShort (x.splits page n large)
      if short then .done s stNores 0
      else (s.modCtx c.ctx fun x => x.protectLeaves c.e.w3 page n large).pageDone c page (page + n) none
/-- PROTECT. -/
def execProtect (c : Cmd) (s : State) : Host.Outcome State Fault Refusal := .next (s.runCmd c 0x12 (doProtect c))

/-! ## MIGRATE (R363) -/

/-- The page is in the state that MIGRATE needs: RESIDENT in HBM for out, ON-HOST for in. -/
def Ctx.migOk (x : Ctx) (inward : Bool) (page : Nat) : Bool :=
  let l := (x.leafAt (page * 2 ^ 16)).1
  !l.mig && (if inward then !l.v && l.onhost else l.v && l.kind == 0#2)

/-- MIG of a page is set, and its entry is invalid in every cache; the report waits for the job. A page that is no longer in the
state that MIGRATE needs ends the command with BADARG (DESIGN CHOICE, log 101). -/
def State.migStart (s : State) (c : Cmd) (lo hi page : Nat) : State :=
  if (s.ctx c.ctx).migOk (bit c.e.w3 0) page then
    let s := s.modCtx c.ctx fun x =>
      let x := x.splitAll page 1
      x.putSmall page { (x.leafAt (page * 2 ^ 16)).1 with mig := true }
    let (id, s) := (s.invalidate c.ctx page (page + 1)).freshId
    s.modDie c.die fun x => { x with jobs := x.jobs ++ [⟨c, lo, hi, id, some page⟩] }
  else s.report c stBadarg 0 0

/-- MIGRATE. -/
def doMigrate (c : Cmd) (s : State) : CRes :=
  let va := fld c.e.w1 47 0
  let n := fld c.e.w2 31 0 + 1
  let page := va / 2 ^ 16
  let inward := bit c.e.w3 0
  let x := s.ctx c.ctx
  let frame := fld c.e.w4 47 16
  if x.moving page n then .wait s
  else if n ≤ 65536 ∧ va % 2 ^ 16 = 0 ∧ va + n * 2 ^ 16 ≤ 0x800000000000 ∧ frame + n ≤ 2 ^ 32 ∧ (inward = true → x.granted frame n = true)
      ∧ ((natsFrom page n).all (x.migOk inward)) = true then
    match x.ringOn page (page + n) with
    | some h => .done s stBusy (BitVec.ofNat 64 h)
    | none =>
      let (short, s) := s.poolShort (x.splits page n false)
      if short then .done s stNores 0 else .later (s.migStart c page (page + n) page)
  else .done s stBadarg 0
/-- MIGRATE. -/
def execMigrate (c : Cmd) (s : State) : Host.Outcome State Fault Refusal := .next (s.runCmd c 0x13 (doMigrate c))

/-- What stands at `n` locations moves to others, with its errors, and what waits on it moves along (R363). -/
def State.moveBytes (s : State) (from_ to_ n : Nat) : State :=
  let m := s.mem
  let lines := (nats (n / 64)).filter fun i => s.bad (from_ / 64 + i)
  let re (k : Nat) : Nat := if from_ ≤ k ∧ k < from_ + n then to_ + (k - from_) else k
  { s with mem := splice memDefault s.mem to_ n fun i => SMap.get memDefault m (from_ + i)
           poison := lines.foldl (fun p i => SMap.set false p (to_ / 64 + i) true) (clearLines s.poison (natsFrom (to_ / 64) (n / 64)))
           waits := s.waits.map fun (w : Wait) => if w.kind = 1 ∨ w.kind = 2 then { w with key := re w.key } else w
           dies := s.dies.map fun (d : Nat × Die) =>
             (d.1, { d.2 with trigs := d.2.trigs.map fun (t : Trig) => { t with key := re t.key }
                              lentOut := d.2.lentOut.map fun (l : Lent) => { l with key := re (64 * l.key) / 64 } }) }

/-- The page of a MIGRATE whose old accesses are all performed is copied, and its leaf names the new frame. -/
def State.migPage (s : State) (c : Cmd) (lo page : Nat) : State :=
  let inward := bit c.e.w3 0
  let l := ((s.ctx c.ctx).leafAt (page * 2 ^ 16)).1
  let frame := fld c.e.w4 47 16 + (page - lo)
  let old := l.frame.toNat * 2 ^ 16
  let new := frame * 2 ^ 16
  let s := if inward then s.moveBytes (hostBase + old) new 65536 else s.moveBytes old (hostBase + new) 65536
  let l' : Leaf := { l with mig := false, v := inward, onhost := !inward, frame := BitVec.ofNat 32 frame, kind := (if inward then 0 else l.kind) }
  let s := s.modCtx c.ctx fun x => x.putSmall page l'
  if inward then
    (nats 4).foldl (fun s d => s.modDie d fun x =>
      { x with faults := x.faults.filter fun f => !(f.src == 3 && f.ctx == c.ctx && f.va.toNat == page * 2 ^ 16) }) s
  else s

/-- One turn of a page command that has begun: its report, or the next page of a MIGRATE, once nothing uses the old
leaves. -/
def State.jobStep (s : State) (j : PageJob) : State :=
  let (lo, hi) := match j.page with
    | some p => (p, p + 1)
    | none => (j.lo, j.hi)
  if s.usesOld j.cmd.ctx lo hi j.id then s
  else
    let s := s.modDie j.cmd.die fun x => { x with jobs := x.jobs.erase j }
    match j.page with
    | none => s.report j.cmd stOk 0 0
    | some p =>
      let s := s.migPage j.cmd j.lo p
      if p + 1 < j.hi then s.migStart j.cmd j.lo j.hi (p + 1) else s.report j.cmd stOk 0 0

/-- One turn of every page command of a die. -/
def State.jobsStep (s : State) (d : Nat) : State := (s.die d).jobs.foldl (fun s j => s.jobStep j) s

/-! ## RESOLVE (R361, R461) -/

/-- RESOLVE of one record. -/
def State.resolveRec (s : State) (d : Nat) (r : FRec) (replay : Bool) : State :=
  let s := s.modDie d fun x => { x with faults := x.faults.filter fun f => f.rid != r.rid }
  if r.src = 1 then
    let go (y : Trans) : Trans :=
      if replay then { y with todo := y.todo ++ r.secs.map (fun k => (k, 1)), stopped := false }
      else { y with lost := y.lost ++ r.secs, aband := some (y.aband.getD r.cause) }
    match s.trans? r.tid with
    | some t => s.modTrans t go
    | none => s.modCtx r.ctx fun c => { c with kept := c.kept.map fun y => if y.id = r.tid then go y else y }
  else if r.src = 4 then
    let hit (c : Nat × Nat × Nat × Option Nat) : Bool := c.1 == r.ctx && c.2.1 / 28 == d && c.2.2.2 == some r.rid
    if replay then { s with curds := s.curds.map fun (c : Nat × Nat × Nat × Option Nat) => if hit c then (c.1, c.2.1, c.2.2.1, none) else c }
    else { s with curds := s.curds.filter fun c => !hit c }
  else s

/-- RESOLVE. -/
def doResolve (c : Cmd) (s : State) : CRes :=
  let d := fld c.e.w1 33 32
  let rid := fld c.e.w1 31 0
  match (s.die d).faults.find? fun f => f.rid % 2 ^ 32 == rid && f.ctx == c.ctx with
  | none => .done s stBadarg 0
  | some r => .done (s.resolveRec d r (bit c.e.w2 0)) stOk 0
/-- RESOLVE. -/
def execResolve (c : Cmd) (s : State) : Host.Outcome State Fault Refusal := .next (s.runCmd c 0x14 (doResolve c))

/-! ## Publishable buffers (R364) -/

/-- PBCREATE: both copies are zeroed, and copy A is the front. -/
def doPbcreate (c : Cmd) (s : State) : CRes :=
  let va := fld c.e.w1 47 0
  let n := fld c.e.w2 15 0 + 1
  let i := fld c.e.w2 23 16
  let fa := fld c.e.w3 47 16
  let fb := fld c.e.w4 47 16
  let x := s.ctx c.ctx
  let page := va / 2 ^ 16
  if x.moving page n then .wait s
  else if va % 2 ^ 16 = 0 ∧ va + n * 2 ^ 16 ≤ 0x800000000000 ∧ (SMap.find x.pbs i).isNone = true ∧ x.granted fa n = true ∧ x.granted fb n = true then
    match x.ringOn page (page + n) with
    | some h => .done s stBusy (BitVec.ofNat 64 h)
    | none =>
      let (short, s) := s.poolShort (x.needsTable page n false)
      if short then .done s stNores 0
      else
        let s := (s.wipe (fa * 2 ^ 16) (n * 2 ^ 16)).wipe (fb * 2 ^ 16) (n * 2 ^ 16)
        let s := s.modCtx c.ctx fun x =>
          let l : Leaf := ⟨true, 2, true, true, false, false, false, false, BitVec.ofNat 32 fa, 0, BitVec.ofNat 8 i, false⟩
          { (x.mapLeaves l page n false) with
            pbs := SMap.insert x.pbs i ⟨BitVec.ofNat 48 va, n, BitVec.ofNat 32 fa, BitVec.ofNat 32 fb, false, []⟩ }
        s.pageDone c page (page + n) none
  else .done s stBadarg 0
/-- PBCREATE. -/
def execPbcreate (c : Cmd) (s : State) : Host.Outcome State Fault Refusal := .next (s.runCmd c 0x15 (doPbcreate c))

/-- PBDESTROY. -/
def doPbdestroy (c : Cmd) (s : State) : CRes :=
  let i := fld c.e.w1 7 0
  let x := s.ctx c.ctx
  match SMap.find x.pbs i with
  | none => .done s stBadarg 0
  | some b =>
    let page := b.va.toNat / 2 ^ 16
    match x.ringOn page (page + b.pages) with
    | some h => .done s stBusy (BitVec.ofNat 64 h)
    | none =>
      let mine (e : Nat × Leaf) : Bool := decide (page ≤ e.1 ∧ e.1 < page + b.pages) && e.2.kind == 2#2 && e.2.pbi.toNat == i
      (s.modCtx c.ctx fun x => { x with small := x.small.filter fun e => !mine e, pbs := SMap.erase x.pbs i }).pageDone c page
        (page + b.pages) none
/-- PBDESTROY. -/
def execPbdestroy (c : Cmd) (s : State) : Host.Outcome State Fault Refusal := .next (s.runCmd c 0x16 (doPbdestroy c))

end Sys2Proof.Machine
end

