-- ==== Sys2Proof/Machine/Contexts.lean ====
section
/-!
DEFINITION. The context commands (R368 to R382): creation, loading, running, quiescing with what is saved and restored
(R327, R328, R375), killing, destroying, reservations, attestation, and record and replay.
-/

namespace Sys2Proof.Machine

/-! ## CTXCREATE (R368, R369) -/

/-- A region of whole 64 KiB pages lies in the device range and, at the frames of the same numbers, in the frame grant
(R368, R369, log 32). -/
def regionOk (base n fgBase fgLen : Nat) : Bool :=
  base % 2 ^ 16 == 0 && (n == 0 || (decide (base + n ≤ 0x800000000000) && decide (fgBase ≤ base / 2 ^ 16)
    && decide (cdiv (base + n) (2 ^ 16) ≤ fgBase + fgLen)))

/-- The mask of the named bits of each word of the descriptor. -/
def descNamed : List W64 :=
  [0xFFFFEFFF00000000, 0x0000FFFFFFFFFFFF, 0x0000FFFFFFFFFFFF, 0x0000FFFFFFFFFFFC, 0xFFFE000000FFFFFF, 0xFFFFFFFFFFFFFFFF,
   0x0000FFFFFFFFFFFF, 0x0000FFFFFFFFFFFF, 0x0000FFFFFFFF0000, 0x00000000FFFFFFFF, 0xFFFFFFFFFFFFFFFF, 0xFFFFFFFFFFFFFFFF]

/-- A descriptor image that R369 admits for a tag. -/
def descOk (w : Nat → W64) (tag : Nat) : Bool :=
  let fb := fld (w 8) 47 16
  let fl := fld (w 9) 31 0
  ((nats 12).all fun i => w i &&& ~~~(nth 0 descNamed i) == 0)
    && fld (w 0) 43 32 == tag && decide (1 ≤ tag) && !bit (w 0) 59
    && decide (10 ≤ fld (w 0) 50 45 ∧ fld (w 0) 50 45 ≤ 40)
    && decide (fld (w 4) 63 57 ≤ 112) && decide (fld (w 4) 56 49 ≤ 128)
    && decide ((fb + fl) * 2 ^ 16 ≤ Config.hbmBytes)
    && regionOk (fld (w 1) 47 0) 65536 fb fl && regionOk (fld (w 2) 47 0) 262144 fb fl
    && regionOk (fld (w 5) 47 0) (fld (w 5) 63 48 * 65536) fb fl && regionOk (fld (w 6) 47 0) 0x20000000 fb fl
    && regionOk (fld (w 10) 47 0) (fld (w 10) 63 48 * 65536) fb fl && regionOk (fld (w 11) 47 0) (fld (w 11) 63 48 * 32) fb fl

/-- The descriptor that CTXCREATE records: the state, REC, SYS and KEY are the device's own. -/
def descOf (w : Nat → W64) : SMap W64 :=
  splice 0 [] 0 16 fun i => if i = 0 then w 0 &&& 0x07FFFFFF00000000 &&& ~~~0x03F8000000000000 else w i

/-- CTXCREATE. The scratchpad table is read with the descriptor (log 32). -/
def doCtxcreate (c : Cmd) (s : State) : CRes :=
  let tag := cmdCtx c
  let st := (s.ctx tag).st
  if st ≠ .none ∧ st ≠ .destroyed then .done s stBusy 0
  else
    match s.fwRead c.ctx (fld c.e.w2 47 0) 128 with
    | .bad r => s.cmdFail c r
    | .ok l =>
      let w (i : Nat) : W64 := BitVec.ofNat 64 (wordAt l (8 * i) 8)
      if !descOk w tag then .done s stBadarg 0
      else
        match s.fwRead c.ctx (fld (w 7) 47 0) 112 with
        | .bad r => s.cmdFail c r
        | .ok t =>
          if t.any fun b => decide (48 < b.toNat) then .done s stBadarg 0
          else
            let a := t.toArray
            .done (s.setCtx tag { Ctx.fresh with
              st := .created, desc := descOf w, rsvSeats := fld (w 4) 63 57, rsvBw := fld (w 4) 56 49
              spTab := splice 0 [] 0 112 fun i => (a.getD i 0).toNat * 65536 }) stOk 0
/-- CTXCREATE. -/
def execCtxcreate (c : Cmd) (s : State) : Host.Outcome State Fault Refusal := .next (s.runCmd c 0x20 (doCtxcreate c))

/-! ## CTXLOAD and CTXRES (R371, R374, R376) -/

/-- The context is in a state from LOADED to QUIESCED. -/
def CtxSt.live (st : CtxSt) : Bool := st == .loaded || st == .runnable || st == .quiescing || st == .quiesced

/-- The reservations of every live context but one. -/
def State.reserved (s : State) (but : Nat) : Nat × Nat :=
  s.ctxs.foldl (fun n c => if c.1 ≠ but ∧ c.2.st.live = true then (n.1 + c.2.rsvSeats, n.2 + c.2.rsvBw) else n) (0, 0)

/-- Reservations that R371 admits beside those of the other contexts. -/
def State.resFits (s : State) (ctx seats bw : Nat) : Bool :=
  let n := s.reserved ctx
  decide (n.1 + seats ≤ 112) && decide (n.2 + bw ≤ 128)

/-- The scratchpad of a quad, in bytes (R12). -/
def State.spadSize (s : State) (quad : Nat) : Nat := SMap.get Config.spadGranules s.spad quad * 65536

/-- What all contexts hold of the scratchpad of a quad. -/
def State.spadUsed (s : State) (quad : Nat) : Nat := s.ctxs.foldl (fun n c => n + c.2.spLen quad) 0

/-- A context's window fits on a quad. -/
def State.spadFits (s : State) (ctx quad : Nat) : Bool :=
  decide (s.spadUsed quad - (s.ctx ctx).spLen quad + SMap.get 0 (s.ctx ctx).spTab quad ≤ s.spadSize quad)

/-- The lowest free key slot (R376). -/
def State.freeKeySlot (s : State) : Option Nat := (natsFrom 1 127).find? fun k => SMap.get 0 s.keySlots k == 0

/-- The leaf of a region that CTXLOAD maps: R = 1 and DW = 1 (R352, R368). -/
def deviceLeaf (page : Nat) : Leaf := ⟨true, 0, true, false, false, true, false, false, BitVec.ofNat 32 page, 0, 0, false⟩

/-- Maps the pages of a region for the device. -/
def Ctx.mapRegion (c : Ctx) (base n : Nat) : Ctx :=
  if n = 0 then c
  else
    let p := base / 2 ^ 16
    { c with small := splice Leaf.absent c.small p (cdiv (base % 2 ^ 16 + n) (2 ^ 16)) fun i => deviceLeaf (p + i) }

/-- CTXLOAD. -/
def doCtxload (c : Cmd) (s : State) : CRes :=
  let t := cmdCtx c
  let x := s.ctx t
  if x.st ≠ .created then .done s stBusy 0
  else if (s.queue t x.logh).st ≠ qFree ∧ (s.queue t x.logh).cons ≠ 2 then .done s stBadarg 0
  else
    match s.freeKeySlot with
    | none => .done s stNores 0
    | some k =>
      if !s.resFits t x.rsvSeats x.rsvBw || !(nats 112).all (s.spadFits t) then .done s stNores 0
      else
        let key := Config.freeKey s.free
        let s := { s with free := s.free + 1, keySlots := SMap.set 0 s.keySlots k (t + 1) }
        let s := (nats 112).foldl (fun s q => s.wipe (spKey t q 0) (4 * 2 ^ 20)) s
        let s := s.modCtx t fun x =>
          let y : Ctx := { x with st := .loaded, key := some k, keyVal := key, cm := 0, splen := x.spTab, small := [], large := [], queues := [] }
          (((y.mapRegion y.poolVa (y.pooln * 65536)).mapRegion y.saveVa 0x20000000).mapRegion y.caraVa (y.carn * 65536)).mapRegion
            y.rktVa (y.nrk * 32)
        .done s stOk 0
/-- CTXLOAD. -/
def execCtxload (c : Cmd) (s : State) : Host.Outcome State Fault Refusal := .next (s.runCmd c 0x21 (doCtxload c))

/-- CTXRES: a reservation may be lowered at any time (R371). That of a CREATED context is held against the sums as CTXLOAD will
hold it (log 49). -/
def doCtxres (c : Cmd) (s : State) : CRes :=
  let t := cmdCtx c
  let x := s.ctx t
  let seats := fld c.e.w2 63 57
  let bw := fld c.e.w2 56 49
  if x.st ≠ .created ∧ x.st.live = false then .done s stBusy 0
  else if (x.rsvSeats < seats ∨ x.rsvBw < bw) ∧ s.resFits t seats bw = false then .done s stNores 0
  else .done (s.modCtx t fun x => { x with rsvSeats := seats, rsvBw := bw }) stOk 0
/-- CTXRES. -/
def execCtxres (c : Cmd) (s : State) : Host.Outcome State Fault Refusal := .next (s.runCmd c 0x26 (doCtxres c))

/-! ## The save area of a die (R375) -/

/-- The save area of a die. -/
def Ctx.saveOf (c : Ctx) (d : Nat) : Nat := c.saveVa + d * 0x8000000

/-- The resources of an array in the order of the save area, with their offsets. -/
def resPlaces : List (Nat × Nat) :=
  (nats 4).map (fun h => (h, 0x8000 * h)) ++ (nats 4).map (fun z => (0x10 + z, 0x28000 + 0x10000 * z))
    ++ (nats 8).map (fun m => (0x20 + m, 0x68000 + 0x800 * m)) ++ (nats 4).map fun p => (0x30 + p, 0x6C000 + 0x80 * p)

/-- Where the scales of a hoop are saved. -/
def scalePlace (h : Nat) : Nat := 0x20000 + 0x2000 * h

/-- The resources of a quad's array that carriages of a context hold: code and carriage. -/
def State.ctxRes (s : State) (ctx quad : Nat) : List (Nat × Nat) :=
  ((s.arr quad).alloc.filter fun e => e.2 != 0 && (e.2 - 1) / 2 ^ 48 == ctx).map fun e => (e.1, e.2 - 1)

/-- Writes a list of bytes at an address for the device. -/
def State.devList (s : State) (ctx va : Nat) (l : List Byte) : State :=
  let a := l.toArray
  s.devFill ctx va a.size fun i => a.getD i 0

/-- Writes the array state of a quad that a context holds, and frees it. Tags and allocation follow the resources, as 16
bytes for each place of `resPlaces`: the carriage with bit 63, and the tag with bit 63 for scales (log 33). -/
def State.saveArr (s : State) (ctx quad : Nat) : State :=
  let a := s.arr quad
  let base := (s.ctx ctx).saveOf (quad / 28) + 0x100000 + 0x80000 * (quad % 28)
  let held := s.ctxRes ctx quad
  let s := ((nats 20).zip resPlaces).foldl (fun s e =>
    let r := e.2.1
    match held.find? fun h => h.1 == r with
    | none => (s.devPut ctx (base + 0x6C200 + 16 * e.1) 0).devPut ctx (base + 0x6C208 + 16 * e.1) 0
    | some h =>
      let bytes := if r < 0x10 then a.hoopBytes r else a.resBytes r
      let s := s.devList ctx (base + e.2.2) bytes
      let s := if r < 0x10 then s.devList ctx (base + scalePlace r) (a.scaleBytes r) else s
      let t := a.tagOf r
      (s.devPut ctx (base + 0x6C200 + 16 * e.1) (BitVec.ofNat 64 (2 ^ 63 + h.2 % 2 ^ 48))).devPut ctx (base + 0x6C208 + 16 * e.1)
        (BitVec.ofNat 64 (t.1 + if t.2 then 2 ^ 63 else 0))) s
  held.foldl (fun s h => s.modArr quad fun a => a.freeAlloc h.2) s

/-- Reads resource `i` of `resPlaces` of a quad's array back, and allocates it to the same carriage; none while another carriage
holds it. -/
def State.restoreRes (s : State) (ctx quad i : Nat) : Option State :=
  let base := (s.ctx ctx).saveOf (quad / 28) + 0x100000 + 0x80000 * (quad % 28)
  let e := nth (0, 0) resPlaces i
  let r := e.1
  let w := s.devWord ctx (base + 0x6C200 + 16 * i)
  let t := s.devWord ctx (base + 0x6C208 + 16 * i)
  if !bit w 63 then some s
  else if SMap.get 0 (s.arr quad).alloc r ≠ 0 then none
  else
    let f (j : Nat) : Byte :=
      if r < 0x10 then (if j < 32768 then s.devByte ctx (base + e.2 + j) else s.devByte ctx (base + scalePlace r + (j - 32768)))
      else s.devByte ctx (base + e.2 + j)
    some (s.modArr quad fun a =>
      let a := (a.putRes r f).putTag r (fld t 62 0) (bit t 63)
      { a with owner := SMap.set 0 a.owner r (ctx + 1), alloc := SMap.set 0 a.alloc r (carrId ctx (fld w 47 0) + 1) })

/-- Writes the entries that a context has in the count queues of a quad, and empties them. -/
def State.saveCqs (s : State) (ctx quad : Nat) : State :=
  let q := s.quad quad
  let base := (s.ctx ctx).saveOf (quad / 28) + 0x50000 + 0x1000 * (quad % 28)
  let mine := q.cqCtx == ctx
  let s := (nats 8).foldl (fun s k =>
    let l := if mine then (SMap.get [] q.cqs k).map Prod.snd else []
    s.devList ctx (base + 0x200 * k) (bytesLE 8 l.length ++ l.flatMap fun v => bytesLE 4 v.toNat)) s
  if mine then s.modQuad quad fun q => { q with cqs := [] } else s

/-- Reads the count queues of a quad back. -/
def State.restoreCqs (s : State) (ctx quad : Nat) : State :=
  let base := (s.ctx ctx).saveOf (quad / 28) + 0x50000 + 0x1000 * (quad % 28)
  (nats 8).foldl (fun s k =>
    let n := Nat.min 64 (s.devWord ctx (base + 0x200 * k)).toNat
    let l := (nats n).map fun i => (2 * s.dieCycle + 1, BitVec.ofNat 32 (ofBytesLE ((nats 4).map fun j => s.devByte ctx (base + 0x200 * k + 8 + 4 * i + j))))
    if l.isEmpty then s else s.modQuad quad fun q => { q with cqs := SMap.set [] q.cqs k l, cqCtx := ctx }) s

/-- The count queues of a quad can take the saved entries: they hold none of another context (R300). -/
def State.cqsFit (s : State) (ctx quad : Nat) : Bool :=
  let base := (s.ctx ctx).saveOf (quad / 28) + 0x50000 + 0x1000 * (quad % 28)
  !s.cqForeign quad ctx || (nats 8).all fun k => s.devWord ctx (base + 0x200 * k) == 0

/-- Writes the window of a quad and its swizzle tags, zeroes it and frees it. -/
def State.saveWindow (s : State) (ctx quad : Nat) : State :=
  let n := (s.ctx ctx).spLen quad
  if n = 0 then s
  else
    let area := (s.ctx ctx).saveOf (quad / 28)
    let k := spKey ctx quad 0
    let m := s.mem
    let t := s.tags
    let s := s.devFill ctx (area + 0x1000000 + 0x300000 * (quad % 28)) n fun i => SMap.get memDefault m (k + i)
    let s := s.devFill ctx (area + 0xF00000 + 0x4000 * (quad % 28)) (n / 256) fun i => BitVec.ofNat 8 (SMap.get 0 t (k / 256 + i))
    let s := s.wipe k n
    s.modCtx ctx fun c => { c with splen := SMap.erase c.splen quad }

/-- Allocates the window of a quad again and reads it back. -/
def State.restoreWindow (s : State) (ctx quad : Nat) : State :=
  let n := SMap.get 0 (s.ctx ctx).spTab quad
  if n = 0 then s
  else
    let area := (s.ctx ctx).saveOf (quad / 28)
    let k := spKey ctx quad 0
    let s := s.modCtx ctx fun c => { c with splen := SMap.set 0 c.splen quad n }
    let p := s
    { s with mem := splice memDefault s.mem k n fun i => p.devByte ctx (area + 0x1000000 + 0x300000 * (quad % 28) + i)
             tags := splice 0 s.tags (k / 256) (n / 256) fun i => (p.devByte ctx (area + 0xF00000 + 0x4000 * (quad % 28) + i)).toNat % 8 }

/-! ## Synchronisation transactions (R327, R328) -/

/-- Bytes meet a scratchpad window. -/
def inWindow (va n : Nat) : Bool := (windowOf va).isSome || (windowOf (va + n - 1)).isSome

/-- A transfer command reads, writes or signals in a scratchpad window: a quiesce keeps what is left of it. -/
def Trans.usesWindow (t : Trans) : Bool :=
  let n := Nat.max 1 t.bytes
  inWindow t.src.toNat n || inWindow t.dst.toNat n || (match t.k with | .mcast _ => true | _ => false)
    || ((t.cmode == 1#2 || t.cmode == 2#2) && inWindow t.wVa 16)

/-- What a kept transfer still owes: the records of R328. -/
def Trans.owes (t : Trans) (kept : Nat) : List (Nat × Nat × Nat × Nat) :=
  if t.cmode = 1#2 then [(1, t.wVa, t.bytes * t.copies - t.counted, kept)]
  else if t.cmode = 2#2 then [(3, t.wVa + 8, t.bytes * t.copies, kept), (2, t.wVa, 0, kept)]
  else []

/-- Writes the synchronisation save block of a die: the completions of kept transfers and of work requests that rest,
and the armed triggers. The kept state of a transaction takes 256 bytes, whose layout the spec does not give: their bytes are
free values, and `Ctx.kept` holds what is kept (log 33). -/
def State.saveSync (s : State) (ctx d : Nat) (ts : List Trans) (trigs : List Trig) : State :=
  let base := (s.ctx ctx).saveOf d + 0x10000
  let area := (s.ctx ctx).saveOf d + 0x80000
  let ws := (s.die d).wreqs.filter fun w => w.ctx == ctx && w.lctr != 0
  let recs := ((nats ts.length).zip ts).flatMap (fun e => e.2.owes (area + 256 * e.1))
    ++ ((nats ws.length).zip ws).map fun e => (1, e.2.lctr.toNat, e.2.len - e.2.counted, area + 256 * (ts.length + e.1))
  let n := 32 * (ts.length + ws.length)
  let f := s.free
  let s := { (s.devFill ctx area (8 * n) fun i => (Config.freeWord (f + i / 8)).extractLsb' (8 * (i % 8)) 8) with free := f + n }
  let r (x : Nat × Nat × Nat × Nat) : List Byte :=
    bytesLE 8 (x.1 * 2 ^ 56 + x.2.1) ++ bytesLE 8 x.2.2.1 ++ bytesLE 8 x.2.2.2 ++ bytesLE 8 0
  let t (e : Nat × Trig) : List Byte :=
    bytesLE 8 e.2.va.toNat ++ bytesLE 8 e.2.thr.toNat ++ bytesLE 8 (e.2.kind * 2 ^ 56 + e.1) ++ List.replicate 40 0 ++ padTo 64 e.2.rcd
  s.devList ctx base (bytesLE 8 recs.length ++ bytesLE 8 trigs.length ++ List.replicate 48 0 ++ recs.flatMap r
    ++ ((nats trigs.length).zip trigs).flatMap t)

/-! ## CTXQUIESCE (R375) -/

/-- A seat runs, loads or saves a carriage of a context. -/
def Seat.busyFor (x : Seat) (ctx : Nat) : Bool := x.st != .free && x.st != .reserved && x.ctx == ctx

/-- What a die has to have finished before it saves: every seat is saved, every rind is in its save area, no access and
no array command is under way, no fired operation waits, and every transfer that has written its last byte has completed, so
that its completion reaches the saved scratchpad (R327, R375). -/
def State.quiesceReady (s : State) (ctx d : Nat) : Bool :=
  !(s.seats.any fun x => dieOf x.1 == d && x.2.busyFor ctx)
    && !((s.die d).rinds.any fun r => r.ctx == ctx && (r.held || r.leaving))
    && !(s.accs.any fun a => a.ctx == ctx && !a.isFab && (dieOf a.seat == d || a.carr == 0))
    && !((nats 28).any fun n => (s.arr (28 * d + n)).cmds.any fun c => c.ctx == ctx)
    && !((s.die d).fired.any fun t => t.ctx == ctx)
    && !((nats 28).any fun n => (s.quad (28 * d + n)).trans.any fun t =>
      t.ctx == ctx && t.usesWindow && t.todo.isEmpty && (s.recsOf t).isEmpty)

/-- One die saves what is outside the context's memory. -/
def State.quiesceDie (s : State) (ctx d : Nat) : State :=
  let quads := (nats 28).map fun n => 28 * d + n
  let ts := (quads.flatMap fun q => (s.quad q).trans.filter fun t => t.ctx == ctx && t.usesWindow)
  let trigs := (s.die d).trigs.filter fun t => t.ctx == ctx
  let s := quads.foldl (fun s q => (s.saveArr ctx q).saveCqs ctx q) s
  let s := s.saveSync ctx d ts trigs
  let s := quads.foldl (fun s q => s.modQuad q fun x => { x with trans := x.trans.filter fun t => !(t.ctx == ctx && t.usesWindow) }) s
  let s := s.modDie d fun x => { x with trigs := x.trigs.filter fun t => t.ctx != ctx }
  let s := quads.foldl (fun s q => s.saveWindow ctx q) s
  let s := s.devList ctx ((s.ctx ctx).saveOf d) (padTo 64 (bytesLE 8 (2 ^ 63 + ctx * 2 ^ 32 + d)))
  s.modCtx ctx fun c => { c with saving := c.saving ++ [d], kept := c.kept ++ ts, armed := c.armed ++ trigs.map fun t => (d, t) }

/-- The die's turn in every quiesce that is under way. -/
def State.quiesceTurn (s : State) (d : Nat) : State :=
  s.ctxs.foldl (fun s e =>
    let c := s.ctx e.1
    if c.st = .quiescing ∧ c.saving.contains d = false ∧ s.quiesceReady e.1 d = true then s.quiesceDie e.1 d else s) s

/-- A gang launch record in RESERVING gives back the seats it keeps, and is PENDING. -/
def State.unreserve (s : State) (c : Coach) : State :=
  let s := c.resv.foldl (fun s k => s.modSeat k fun x => if x.st = .reserved then { x with st := .free } else x) s
  let c' : Coach := { c with cst := 0, resv := [] }
  (s.modCoach c.idx fun _ => c').putCoach c'

/-- CTXQUIESCE: seats and rinds are to be saved; the report comes with QUIESCED. -/
def doCtxquiesce (c : Cmd) (s : State) : CRes :=
  let t := cmdCtx c
  if (s.ctx t).st ≠ .runnable then .done s stBusy 0
  else
    let s := s.modCtx t fun x => { x with st := .quiescing, saving := [], cmd := some c }
    let s := (s.coaches.filter fun k => k.ctx == t && k.cst == 1).foldl (fun s k => s.unreserve k) s
    let s := { s with seats := s.seats.map fun (e : Nat × Seat) =>
      (e.1, if (e.2.st = .occupied ∨ e.2.st = .loading) ∧ e.2.ctx = t then { e.2 with mark := .quiesce } else e.2) }
    let s := (nats 4).foldl (fun s d =>
      (((s.die d).rinds.filter fun r => r.ctx == t && r.held).foldl (fun s r => s.evictRind d r.ctx r.lid) s).rindSaves d) s
    .later s
/-- CTXQUIESCE. -/
def execCtxquiesce (c : Cmd) (s : State) : Host.Outcome State Fault Refusal := .next (s.runCmd c 0x23 (doCtxquiesce c))

/-- The context is QUIESCED once all four dies have saved it, and the command reports. -/
def State.quiesceDone (s : State) (ctx : Nat) : State :=
  let c := s.ctx ctx
  if c.st = .quiescing then
    let s := (nats 4).foldl (fun s d => if (s.ctx ctx).saving.contains d = false ∧ s.quiesceReady ctx d = true then s.quiesceDie ctx d else s) s
    if (nats 4).all fun d => (s.ctx ctx).saving.contains d then
      let s := s.modCtx ctx fun c => { c with st := .quiesced, saving := [], cmd := none, back := [] }
      match c.cmd with
      | some k => s.report k stOk 0 0
      | none => s
    else s
  else s
/-- QUIESCE_COMPLETE. -/
def execQuiesceComplete (ctx : Nat) (s : State) : Host.Outcome State Fault Refusal := .next (s.quiesceDone ctx)

/-! ## CTXRUN (R375, R379, R380) -/

/-- The entries of a die's log that a replay is to meet. -/
def readLog (s : State) (ctx va : Nat) : Nat → Nat → List (List W64)
  | 0, _ => []
  | fuel + 1, left =>
    let w := s.devWord ctx va
    let n := fld w 55 48
    if fld w 63 56 = 0 ∨ n = 0 ∨ left < n then []
    else ((nats (4 * n)).map fun i => s.devWord ctx (va + 8 * i)) :: readLog s ctx (va + 32 * n) fuel (left - n)

/-- Record or replay mode begins as RECORD has asked (R379, R380). -/
def State.startRecord (s : State) (ctx : Nat) : State :=
  let c := s.ctx ctx
  let log := if c.replayArm then
      (nats 4).flatMap fun d => (readLog s ctx (c.logBase.toNat + d * c.logLen) (c.logLen / 32) (c.logLen / 32)).map fun e => (d, e)
    else []
  s.modCtx ctx fun c =>
    { c with rcd := c.rcdArm, rcdArm := false, replay := c.replayArm, replayArm := false, logPos := [], rcdFull := [],
             rcdAt := if c.rcdArm then s.dieCycle else c.rcdAt, playAt := s.dieCycle, rlog := log, diverged := false }

/-- Arms a recorded trigger again: it fires or is cancelled at once if its counter says so (R322, R327). -/
def State.rearm (s : State) (d : Nat) (t : Trig) : State :=
  if (s.badIn t.key 8).isSome then s.cancelTrig t 0x70 else s.armTrig d t

/-- What CTXRUN restores on each quad, one by one: part 0 is the window, 1 to 20 the array's resources in the order of
`resPlaces`, 21 the count queues. -/
def quadParts : Nat := 22

/-- Restores one part of a quad; none while it is not free. -/
def State.restorePart (s : State) (ctx quad part : Nat) : Option State :=
  if part = 0 then if s.spadFits ctx quad then some (s.restoreWindow ctx quad) else none
  else if part = 21 then if s.cqsFit ctx quad then some (s.restoreCqs ctx quad) else none
  else s.restoreRes ctx quad (part - 1)

/-- Restores what is free of one quad and not yet restored: each resource is taken as it frees (R375). -/
def State.restoreQuad (s : State) (ctx quad : Nat) : State :=
  (nats quadParts).foldl (fun s part =>
    let k := quad * quadParts + part
    if (s.ctx ctx).back.contains k then s
    else match s.restorePart ctx quad part with
      | some s => s.modCtx ctx fun c => { c with back := c.back ++ [k] }
      | none => s) s

/-- A recorded trigger as the save block of its die has it: `i` counts the die's trigger records, which stand in arming order
(R327, R328). -/
def State.readTrig (s : State) (ctx d i : Nat) (t : Trig) : Trig :=
  let base := (s.ctx ctx).saveOf d + 0x10000
  let at_ := base + 64 + 32 * (s.devWord ctx base).toNat + 128 * i
  { t with thr := s.devWord ctx (at_ + 8), kind := fld (s.devWord ctx (at_ + 16)) 63 56
           rcd := (nats 64).map fun j => s.devByte ctx (at_ + 64 + j) }

/-- What comes when every quad is restored: triggers in arming order, as the save blocks have them, then the kept transfers, and
the waits against the restored words (R327). -/
def State.restoreSync (s : State) (ctx : Nat) : State :=
  let c := s.ctx ctx
  let armed : List (Nat × Trig) := (nats 4).flatMap fun d =>
    let l : List Trig := (c.armed.filter fun e => e.1 == d).map Prod.snd
    ((nats l.length).zip l).map fun (e : Nat × Trig) => (d, s.readTrig ctx d e.1 e.2)
  let s := s.modCtx ctx fun c => { c with kept := [], armed := [], back := [] }
  let s := armed.foldl (fun s t => s.rearm t.1 t.2) s
  let s := c.kept.foldl (fun s t => s.modQuad t.home fun q => { q with trans := q.trans ++ [t] }) s
  (s.waits.filter fun w => w.ctx == ctx && (w.kind == 1 || w.kind == 2)).foldl (fun s w =>
    if s.waitCond w (s.rdWord w.key) then s.satisfy [w] (s.rdWord w.key) else s) s

/-- CTXRUN. -/
def doCtxrun (c : Cmd) (s : State) : CRes :=
  let t := cmdCtx c
  let st := (s.ctx t).st
  if st = .loaded then .done (s.modCtx t fun x => { x with st := .runnable }) stOk 0
  else if st ≠ .quiesced then .done s stBusy 0
  else
    let s := (nats 112).foldl (fun s q => s.restoreQuad t q) s
    if (s.ctx t).back.length = 112 * quadParts then
      .done (((s.restoreSync t).startRecord t).modCtx t fun x => { x with st := .runnable }) stOk 0
    else .wait s
/-- CTXRUN. -/
def execCtxrun (c : Cmd) (s : State) : Host.Outcome State Fault Refusal := .next (s.runCmd c 0x22 (doCtxrun c))

/-! ## CTXKILL and CTXDESTROY (R373, R377, R378) -/

/-- CTXKILL. -/
def doCtxkill (c : Cmd) (s : State) : CRes :=
  let t := cmdCtx c
  if (s.ctx t).st.live ∧ t ≠ 0 then .done (s.killCtx t 3 none 0 0) stOk 0 else .done s stBusy 0
/-- CTXKILL. -/
def execCtxkill (c : Cmd) (s : State) : Host.Outcome State Fault Refusal := .next (s.runCmd c 0x24 (doCtxkill c))

/-- Nothing of a context is left in the device. -/
def State.purge (s : State) (ctx : Nat) : State :=
  let s := s.freeWindows ctx
  let s := { s with recs := s.recs.filter fun r => r.ctx != ctx
                    coaches := s.coaches.filter fun c => c.ctx != ctx
                    waits := s.waits.filter fun w => w.ctx != ctx
                    accs := s.accs.filter fun a => a.ctx != ctx
                    quads := s.quads.map fun (q : Nat × Quad) =>
                      (q.1, { q.2 with trans := q.2.trans.filter fun t => t.ctx != ctx, tlb := q.2.tlb.filter fun e => e.1 != ctx })
                    seats := s.seats.map fun (e : Nat × Seat) => (e.1, { e.2 with tag := e.2.tag.filter fun t => t.1 != ctx })
                    vats := s.vats.map fun (v : Nat × Vat) => (v.1, { v.2 with progs := v.2.progs.filter fun p => p.2.2.ctx != ctx }) }
  (nats 4).foldl (fun s d =>
    (s.modDie d fun x =>
      { x with launches := x.launches.filter fun e => e.p.ctx != ctx
               launchq := x.launchq.filter fun p => p.ctx != ctx
               inbox := x.inbox.filter fun p => p.ctx != ctx
               notices := x.notices.filter fun n => n.ctx != ctx
               rnotices := x.rnotices.filter fun n => n.1 != ctx
               rinds := x.rinds.filter fun r => r.ctx != ctx
               faults := x.faults.filter fun f => f.ctx != ctx
               trigs := x.trigs.filter fun t => t.ctx != ctx
               fired := x.fired.filter fun t => t.ctx != ctx
               cmds := x.cmds.filter fun c => c.ctx != ctx
               jobs := x.jobs.filter fun j => j.cmd.ctx != ctx
               reports := x.reports.filter fun r => r.1 != ctx
               logs := x.logs.filter fun l => l.ctx != ctx
               misses := x.misses.filter fun m => m.1 != ctx
               walks := x.walks.filter fun w => w.1 != ctx
               wreqs := x.wreqs.filter fun w => w.ctx != ctx
               tables := x.tables.filter fun t => t.ctx != ctx
               lentOut := x.lentOut.filter fun l => l.ctag.toNat != ctx }).retireConns d ctx) s

/-- CTXDESTROY: the key is zeroed and its slot is free; frames keep their bytes. -/
def doCtxdestroy (c : Cmd) (s : State) : CRes :=
  let t := cmdCtx c
  let x := s.ctx t
  if x.st = .created ∨ x.st = .loaded ∨ x.st = .quiesced ∨ x.st = .killed then
    let s := s.purge t
    let s := match x.key with
      | some k => { s with keySlots := SMap.erase s.keySlots k }
      | none => s
    .done (s.setCtx t { Ctx.fresh with st := .destroyed }) stOk 0
  else .done s stBusy 0
/-- CTXDESTROY. -/
def execCtxdestroy (c : Cmd) (s : State) : Host.Outcome State Fault Refusal := .next (s.runCmd c 0x25 (doCtxdestroy c))

/-! ## ATTEST (R381, R382) -/

/-- CST codes (R368). -/
def cstCode : CtxSt → Nat
  | .none => 0
  | .created => 0
  | .loaded => 1
  | .runnable => 2
  | .quiescing => 3
  | .quiesced => 4
  | .killed => 5
  | .destroyed => 6

/-- The Alias seed: the first 32 bytes of H(CDI1, "MQ2 ALIAS"). -/
def State.aliasSeed (s : State) : List Byte :=
  (hmac512 (bytes512 s.cdi1) [0x4D, 0x51, 0x32, 0x20, 0x41, 0x4C, 0x49, 0x41, 0x53]).take 32

/-- The evidence of a context. -/
def State.evidence (s : State) (t : Nat) (nonce : List Byte) : List Byte :=
  let x := s.ctx t
  let l := bytesLE 8 (2 ^ 32 + 0x41545351) ++ bytesLE 8 (t * 2 ^ 32 + cstCode x.st) ++ nonce ++ bytes512 x.cm
    ++ sha512 s.bootCfg ++ List.replicate 16 0
  l ++ edSign s.aliasSeed l

/-- ATTEST. -/
def doAttest (c : Cmd) (s : State) : CRes :=
  let t := cmdCtx c
  let va := fld c.e.w2 47 0
  if (s.ctx t).st = .destroyed then .done s stBusy 0
  else if va % 64 ≠ 0 then .done s stBadarg 0
  else
    match transPages (s.look c.ctx .wr) (pagesOf va 256) with
    | .ok h =>
      let nonce := [c.e.w3, c.e.w4, c.e.w5, c.e.w6].flatMap fun w => bytesLE 8 w.toNat
      .done (s.frontWrite c.ctx h 0 va (s.evidence t nonce)) stOk 0
    | r => s.cmdFail c r
/-- ATTEST. -/
def execAttest (c : Cmd) (s : State) : Host.Outcome State Fault Refusal := .next (s.runCmd c 0x27 (doAttest c))

/-! ## RECORD (R379, R380) -/

/-- RECORD. -/
def doRecord (c : Cmd) (s : State) : CRes :=
  let t := cmdCtx c
  let start := bit c.e.w4 0
  let replay := bit c.e.w4 1
  if !(s.ctx t).st.live then .done s stBusy 0
  else if start then
    .done (s.modCtx t fun x =>
      { x with rcdArm := !replay, replayArm := replay, logBase := BitVec.ofNat 48 (fld c.e.w2 47 0), logLen := fld c.e.w3 39 0
               rcdRep := some (c.ctx, cmdRq c, cmdTag c), rcdFull := [] }) stOk 0
  else .done (s.modCtx t fun x => { x with rcd := false, rcdArm := false, replay := false, replayArm := false, rlog := [], diverged := false }) stOk 0
/-- RECORD. -/
def execRecord (c : Cmd) (s : State) : Host.Outcome State Fault Refusal := .next (s.runCmd c 0x28 (doRecord c))

/-- A die's log is full: logging stops on all dies, and RECORD's queue is told (R379). -/
def State.logFull (s : State) : State :=
  s.ctxs.foldl (fun s e =>
    match (s.ctx e.1).rcdFull, (s.ctx e.1).rcdRep with
    | d :: _, some (ctx, rq, tag) =>
      let s := s.modCtx e.1 fun c => { c with rcd := false, rcdFull := [] }
      if rq = 4095 ∨ (s.queue ctx rq).st = qFree then s
      else s.modDie 0 fun x => { x with reports := x.reports ++ [(ctx, rq, none, reportOf 0x28 stNores tag 0 (BitVec.ofNat 64 d))] }
    | _, _ => s) s

/-- REPLAY_DIVERGENCE: a digest has differed, or an operation that the log has does not arrive; when the firmware gives up
waiting for one is not stated, so the step may come while any is awaited (R380). -/
def execReplayDivergence (ctx : Nat) (s : State) : Host.Outcome State Fault Refusal :=
  .next (let c := s.ctx ctx
    if c.replay && (c.diverged || !c.rlog.isEmpty) then s.killCtx ctx 4 none 0 0 else s)

end Sys2Proof.Machine
end

