-- ==== Sys2Proof/Machine/Vats.lean ====
section
/-!
DEFINITION. The packet pipelines (R383 to R409): arrival, parser, stages, micro-operations, verdict, parked and
recirculated packets, and the memory actions of packets at their home ports.
-/

namespace Sys2Proof.Machine

/-! ## The header vector (R384, R385) -/

/-- A big-endian field of a header vector. -/
def hvNat (hv : SMap Byte) (off n : Nat) : Nat := ofBytesBE ((nats n).map fun i => SMap.get 0 hv (off + i))
/-- Bytes of a header vector. -/
def hvBytes (hv : SMap Byte) (off n : Nat) : List Byte := (nats n).map fun i => SMap.get 0 hv (off + i)
/-- Writes a big-endian field. -/
def hvNum (hv : SMap Byte) (off n v : Nat) : SMap Byte := putBytes hv off (bytesBE n v)
/-- A bit of FLAGS. -/
def hvFlag (hv : SMap Byte) (i : Nat) : Bool := (SMap.get 0 hv 1).getLsbD i
/-- Sets a bit of FLAGS: 7 HELD, 6 recirculated, 5 TRUNC, 4 MEMDONE, 3 FWDSET, 2 ABSSET, 1 MARKCE. -/
def hvSetFlag (hv : SMap Byte) (i : Nat) : SMap Byte := putBytes hv 1 [SMap.get 0 hv 1 ||| (1#8 <<< i)]

/-- CTX of a packet. -/
def VPkt.ctx (p : VPkt) : Nat := hvNat p.hv 0x04 2
/-- PLOFF. -/
def VPkt.ploff (p : VPkt) : Nat := hvNat p.hv 0x0C 2
/-- PLEN. -/
def VPkt.plen (p : VPkt) : Nat := hvNat p.hv 0x0E 2
/-- Sets a bit of FLAGS. -/
def VPkt.setFlag (p : VPkt) (i : Nat) : VPkt := { p with hv := hvSetFlag p.hv i }

/-- The bytes of a frame from a position on, zero from a limit on; and whether the limit was met. -/
def frameBytes (l : List Byte) (lim pos n : Nat) : List Byte × Bool :=
  ((nats n).map fun i => if pos + i < lim then nth 0 l (pos + i) else 0, decide (0 < n ∧ lim < pos + n))

/-- The payload of a packet: PLEN bytes from PLOFF; a byte beyond the end of the frame is a free value (log 2). -/
def VPkt.payload (p : VPkt) (s : State) : List Byte × State :=
  let l := (p.frame.drop p.ploff).take p.plen
  if l.length = p.plen then (l, s)
  else (l ++ (nats (p.plen - l.length)).map fun i => (Config.freeWord (s.free + i)).setWidth 8, { s with free := s.free + (p.plen - l.length) })

/-- The header vector at the start of parsing (R384). -/
def hvStart (port len cycle : Nat) : SMap Byte :=
  let hv := hvNum [] 0x00 1 port
  let hv := hvNum hv 0x02 2 len
  let hv := hvNum hv 0x06 1 3
  let hv := hvNum hv 0x08 2 0xFFFF
  let hv := hvNum hv 0x10 4 (cycle % 2 ^ 32)
  putBytes hv 0x18 (List.replicate 8 0xFF)

/-! ## Counters (R409) -/

/-- Adds one to a counter of a vat. -/
def State.vatCount (s : State) (vat i : Nat) : State := s.modVat vat fun v => { v with ctrs := SMap.set 0 v.ctrs i (SMap.get 0 v.ctrs i + 1) }

/-- Adds one to the high or the low half of a counter; a half wraps on its own. -/
def State.vatHalf (s : State) (vat i : Nat) (high : Bool) : State :=
  s.modVat vat fun v =>
    let w := SMap.get 0 v.ctrs i
    let hi : W32 := w.extractLsb' 32 32
    let lo : W32 := w.extractLsb' 0 32
    { v with ctrs := SMap.set 0 v.ctrs i (if high then (hi + 1) ++ lo else hi ++ (lo + 1)) }

/-- A kind of access that a packet posts. -/
def pipeKind (k : AKind) : Bool := k == .pline || k == .pdepo || k == .pbump

/-- The posted actions of a packet that are not yet applied. -/
def State.postedOf (s : State) (vat id : Nat) : List Acc :=
  s.accs.filter fun a => pipeKind a.k && a.seat == vat && a.v == BitVec.ofNat 64 id

/-- Forgets the flags raised by packets that have left the vat and have no action left to be applied. -/
def State.tidyRaised (s : State) (vat : Nat) : State :=
  s.modVat vat fun v => { v with raised := v.raised.keep fun id =>
    (v.pkts.any fun p => p.id == id) || ((s.die (vat / 4)).holds.any fun h => h.1.id == id) || !(s.postedOf vat id).isEmpty }

/-- A packet raises flags: each flag counter counts the packet once (R409). -/
def State.raiseFlags (s : State) (vat id : Nat) (fl : Flags) : State :=
  let old := SMap.get 0 (s.vat vat).raised id
  let new := fl &&& ~~~old
  let s := s.modVat vat fun v => { v with raised := SMap.set 0 v.raised id (old ||| fl) }
  let s := if new &&& fNV != 0 then s.vatCount vat 12 else s
  let s := if new &&& fOF != 0 then s.vatCount vat 13 else s
  let s := if new &&& fUF != 0 then s.vatHalf vat 14 true else s
  let s := if new &&& fDZ != 0 then s.vatHalf vat 14 false else s
  if new &&& fNX != 0 then s.vatCount vat 15 else s

/-! ## Packets of a vat -/

/-- Puts a packet back in its place. -/
def State.putPkt (s : State) (vat : Nat) (p : VPkt) : State :=
  s.modVat vat fun v => { v with pkts := v.pkts.map fun q => if q.id = p.id then p else q }

/-- A packet leaves its vat. -/
def State.pktGone (s : State) (vat id : Nat) : State :=
  (s.modVat vat fun v => { v with pkts := v.pkts.filter fun q => q.id != id }).tidyRaised vat

/-- A program that packets of an epoch meet (R391). -/
def progSeen (epoch : Nat) (g : Nat × Option Nat × Prog) : Bool :=
  decide (g.1 ≤ epoch) && (match g.2.1 with | some e => decide (epoch < e) | none => true)

/-- The stage program of a context that packets of an epoch meet. -/
def State.progOf (s : State) (vat epoch ctx stage : Nat) : Option Prog :=
  ((s.vat vat).progs.find? fun g => progSeen epoch g && g.2.2.ctx == ctx && g.2.2.stage == stage).map fun g => g.2.2

/-- Writes a stateful register of a program. -/
def State.setVreg (s : State) (vat epoch ctx stage r : Nat) (w : W64) : State :=
  s.modVat vat fun v =>
    { v with progs := v.progs.map fun (g : Nat × Option Nat × Prog) =>
        if progSeen epoch g && g.2.2.ctx == ctx && g.2.2.stage == stage then
          (g.1, g.2.1, { g.2.2 with reg := SMap.set 0 g.2.2.reg r w }) else g }

/-! ## What ends a packet (R386, R393, R403, R404, R408) -/

/-- Why a packet stops: an action fault, an uncorrectable error, DROP, a context that is not RUNNABLE, a live packet of a
context in replay, or HOLD. -/
inductive VStop where
  | act | mem | user (n : Nat) | notRun | replay | park (conn : W32)
  deriving DecidableEq, Repr

/-- A packet is parked in the hold buffer of its die, with what it had at ACCEPT, and the miss is raised (R404). -/
def State.parkPkt (s : State) (vat : Nat) (p : VPkt) (conn : W32) : State :=
  let d := vat / 4
  if 64 ≤ (s.die d).holds.length then (s.pktGone vat p.id).vatCount vat 8
  else
    let p : VPkt := { p with hv := p.accHv, recs := p.accRecs, mirrors := [], again := none }
    (s.modDie d fun x =>
      { x with holds := x.holds ++ [(p, s.dieCycle, conn)]
               holdMiss := if x.holdMiss.contains conn then x.holdMiss else x.holdMiss ++ [conn] }).pktGone vat p.id

/-- A packet stops. An error discards its actions that have not been applied (R408). -/
def State.stopPkt (s : State) (vat : Nat) (p : VPkt) (why : VStop) : State :=
  match why with
  | .act => (s.pktGone vat p.id).vatCount vat 5
  | .mem =>
    let ids := (s.postedOf vat p.id).map fun a => a.id
    (({ s with accs := s.accs.filter fun (a : Acc) => !ids.contains a.id }).pktGone vat p.id).vatCount vat 11
  | .user n =>
    ((s.pktGone vat p.id).vatCount vat 7).modVat vat fun v => { v with reasons := SMap.set 0 v.reasons n (SMap.get 0 v.reasons n + 1) }
  | .notRun => (s.pktGone vat p.id).vatHalf vat 6 false
  | .replay => s.pktGone vat p.id
  | .park c => s.parkPkt vat p c

/-! ## Micro-operations (R394 to R404) -/

/-- Where a micro-operation executes: the vat, the context and the stage of the program, the program as it was loaded, and the
load that the packet meets. -/
structure MEnv where
  vat   : Nat
  ctx   : Nat
  stage : Nat
  prog  : Prog
  epoch : Nat

/-- The packet on which it works, the lookups of the stage so far and the next word (R392). -/
structure MWork where
  p   : VPkt
  lks : Nat
  nxt : Option Nat

/-- What a micro-operation comes to. -/
inductive MOut where
  | go (s : State) (w : MWork)
  | stop (s : State) (w : MWork) (why : VStop)

/-- The meaning of a micro-operation. -/
abbrev MEval := MEnv → State → MWork → MOut

/-- A binding of the program: kind, base or handle, length (R389). -/
def MEnv.bind (e : MEnv) (b : Nat) : Nat × Nat × Nat :=
  let x := nth (0, 0) e.prog.binds b
  (fld x.1 63 62, fld x.1 47 0, x.2.toNat)

/-- The location of the region of a binding, and its length. -/
def MEnv.region (e : MEnv) (b : Nat) : Option (Nat × Nat) :=
  let x := e.bind b
  if x.1 = 2 then (windowOf x.2.1).map fun w => (spKey e.ctx w.1 w.2, x.2.2) else none

/-- The packet with another header vector. -/
def MWork.withHv (w : MWork) (hv : SMap Byte) : MWork := { w with p := { w.p with hv := hv } }

/-- A field lies in the part of the header vector that EXT, LKP, REWR and RGA may use (R385). -/
def inArea (off n : Nat) : Bool := decide (0x38 ≤ off ∧ off + n ≤ 0x200)
/-- A field lies in the header vector (R385). -/
def inHv (off n : Nat) : Bool := decide (off + n ≤ 0x200)
/-- A byte that SETF and ADDF may write: DCHIP, PLOFF, PLEN, HASH, SCR and the field area (R384, R385). -/
def setByte (i : Nat) : Bool := decide ((0x0A ≤ i ∧ i < 0x10) ∨ (0x14 ≤ i ∧ i < 0x18) ∨ (0x38 ≤ i ∧ i < 0x200))

/-- CTX is set: the packet has to belong to a RUNNABLE context, and is recorded, or is dropped in a replay (R386). -/
def setOwner (e : MEnv) (s : State) (w : MWork) (tag : Nat) : MOut :=
  let c := s.ctx tag
  let w := w.withHv (hvNum w.p.hv 0x04 2 tag)
  if tag = 0 then .go s w
  else if c.st ≠ .runnable then .stop s w .notRun
  else if c.replay && !w.p.replayed then .stop s w .replay
  else .go (s.logAdd tag (e.vat / 4) 1 4 (bytesLE 8 w.p.port ++ w.p.frame.take 88)) w

/-- SETF and ADDF write a field (R385, R386). -/
def putField (e : MEnv) (s : State) (w : MWork) (off n v : Nat) (ctxForm : Bool) : MOut :=
  let v := v % 2 ^ (8 * n)
  if off = 4 ∧ n = 2 then
    if ctxForm ∧ e.ctx = 0 ∧ w.p.ctx = 0 then setOwner e s w v else .stop s w .act
  else if (nats n).all fun i => setByte (off + i) then .go s (w.withHv (hvNum w.p.hv off n v))
  else .stop s w .act

/-- NOPA. -/
def evalNopa : MEval := fun _ s w => .go s w

/-- EXT: copies frame bytes after PLOFF into the header vector (R395). -/
def evalExt (h : BitVec 9) (len1 : BitVec 5) (off : BitVec 13) : MEval := fun _ s w =>
  let n := len1.toNat + 1
  let pos := w.p.ploff + off.toNat
  if inArea h.toNat n then
    let (l, trunc) := frameBytes w.p.frame (w.p.frame.length - 4) pos n
    let p := { w.p with hv := putBytes w.p.hv h.toNat l, recs := w.p.recs ++ [(h.toNat, pos, n)] }
    .go s { w with p := if trunc then p.setFlag 5 else p }
  else .stop s w .act

/-- The width of a field form in bytes. -/
def fieldBytes (w : BitVec 2) : Nat := 2 ^ w.toNat

/-- SETF. -/
def evalSetf (h : BitVec 9) (wd : BitVec 2) (imm : BitVec 16) : MEval := fun e s w =>
  putField e s w h.toNat (fieldBytes wd) imm.toNat (wd == 1#2)

/-- ADDF with an immediate. -/
def evalAddfImm (h : BitVec 9) (wd : BitVec 2) (imm : BitVec 15) : MEval := fun e s w =>
  let n := fieldBytes wd
  if inHv h.toNat n then putField e s w h.toNat n (wrapInt (8 * n) (hvNat w.p.hv h.toNat n + imm.toInt)) false else .stop s w .act

/-- ADDF with a source field. -/
def evalAddfField (h : BitVec 9) (wd : BitVec 2) (src : BitVec 9) : MEval := fun e s w =>
  let n := fieldBytes wd
  if inHv h.toNat n && inHv src.toNat n then
    putField e s w h.toNat n (hvNat w.p.hv h.toNat n + hvNat w.p.hv src.toNat n) (wd == 1#2)
  else .stop s w .act

/-- A byte of a table entry. -/
def entryByte (l : List Byte) (i : Nat) : Nat := (nth 0 l i).toNat

/-- The entry that a key hits: exact, ternary and range tables (R396). Entries with INDEX stand in its order. -/
def Table.hit (t : Table) (key : List Byte) : Option (List Byte) :=
  t.entries.find? fun l => entryByte l 0x31 % 2 == 1 &&
    match t.kind with
    | 0 => l.take t.klen == key
    | 1 => (nats t.klen).all fun i => nth 0 key i &&& nth 0 l (16 + i) == nth 0 l i &&& nth 0 l (16 + i)
    | _ => let k := ofBytesBE key
           decide (ofBytesBE (l.take 4) ≤ k ∧ k ≤ ofBytesBE ((l.drop 4).take 4))

/-- The table of a binding, on the die of the vat. -/
def MEnv.table (e : MEnv) (s : State) (b : Nat) : Option Table :=
  let x := e.bind b
  if x.1 = 1 then (s.die (e.vat / 4)).tables.find? fun t => t.handle == x.2.1 % 4096 && t.ctx == e.ctx else none

/-- Sets or clears LKR of a binding. -/
def setLkr (hv : SMap Byte) (b : Nat) (v : Bool) : SMap Byte :=
  let x := (SMap.get 0 hv 0x30).toNat
  putBytes hv 0x30 [BitVec.ofNat 8 (if v then x ||| 2 ^ b else x - x / 2 ^ b % 2 * 2 ^ b)]

/-- LKP: a fifth of a stage is an action fault; the last that hits decides the next word (R392, R396). -/
def evalLkp (b : BitVec 2) (key res : BitVec 9) : MEval := fun e s w =>
  let w := { w with lks := w.lks + 1 }
  if 4 < w.lks then .stop s w .act
  else
    match e.table s b.toNat with
    | none => .stop s w .act
    | some t =>
      if !inHv key.toNat t.klen then .stop s w .act
      else
        match t.hit (hvBytes w.p.hv key.toNat t.klen) with
        | none => .go s (w.withHv (setLkr w.p.hv b.toNat false))
        | some l =>
          if t.errs.contains l then .stop s w .mem
          else if !inArea res.toNat 16 then .stop s w .act
          else
            let w := w.withHv (setLkr (putBytes w.p.hv res.toNat ((l.drop 0x20).take 16)) b.toNat true)
            .go s { w with nxt := if entryByte l 0x31 / 2 % 2 = 1 then some (entryByte l 0x30) else none }

/-- One step of CRC-32C on one bit. -/
def castBit (c : BitVec 32) : BitVec 32 := if c.getLsbD 0 then (c >>> 1) ^^^ 0x82F63B78 else c >>> 1
/-- CRC-32C: Castagnoli, reflected, initial value and final XOR all ones (R395). -/
def crc32c (l : List Byte) : BitVec 32 :=
  (l.foldl (fun c b => (nats 8).foldl (fun c _ => castBit c) (c ^^^ b.setWidth 32)) 0xFFFFFFFF) ^^^ 0xFFFFFFFF

/-- HASH. -/
def evalHash (h : BitVec 9) (len1 : BitVec 5) : MEval := fun _ s w =>
  let n := len1.toNat + 1
  if inHv h.toNat n then .go s (w.withHv (hvNum w.p.hv 0x14 4 (crc32c (hvBytes w.p.hv h.toNat n)).toNat)) else .stop s w .act

/-- RTE: EPORT from the route of DCHIP (R397, R418). -/
def evalRte (mode : BitVec 2) : MEval := fun e s w =>
  let chip := hvNat w.p.hv 0x0A 2
  let rs := if chip = s.chip then [] else s.routes (e.vat / 4) chip
  let port := if rs.isEmpty then 0xFFFF else if mode = 0#2 then nth 0 rs (hvNat w.p.hv 0x14 4 % rs.length) else nth 0 rs 0
  if mode.toNat ≤ 1 then .go s (w.withHv (hvNum w.p.hv 0x08 2 port)) else .stop s w .act

/-- REWR: DCHIP and a field from the entry of an expert (R397). -/
def evalRewr (b : BitVec 2) (i : BitVec 3) (h : BitVec 9) : MEval := fun e s w =>
  let x := hvNat w.p.hv (0x18 + i.toNat) 1
  match e.region b.toNat with
  | none => .stop s w .act
  | some (key, _) =>
    if x = 0xFF ∨ (h ≠ 0#9 ∧ inArea h.toNat 6 = false) then .stop s w .act
    else if (s.badIn (key + 8 * x) 8).isSome then .stop s w .mem
    else
      let v := s.rdNat (key + 8 * x) 8
      let hv := hvNum w.p.hv 0x0A 2 (v / 2 ^ 48)
      .go s (w.withHv (if h = 0#9 then hv else hvNum hv h.toNat 6 (v % 2 ^ 48)))

/-- A BF16 element of a list of bytes. -/
def bf16At (l : List Byte) (i : Nat) : Fv := bfBF16.decode (ofBytesLE ((l.drop (2 * i)).take 2))

/-- The score of one gate row: blocks of 16 in ascending order (R398). -/
def gateScore (token row : List Byte) (d : Nat) : W32 × Flags :=
  (nats (cdiv d 16)).foldl (fun (a : W32 × Flags) k =>
    let ps := (natsFrom (16 * k) 16).map fun x => if x < d then fvMul (bf16At token x) (bf16At row x) else some fvZero
    let (z, f) := accFp a.1 ps
    (z, a.2 ||| f)) (0, 0)

/-- Scores in order: largest first, NaN below every number, equal ones by their number (R398). -/
def scoreOrder (l : List (Nat × W32)) : List (Nat × W32) :=
  let isNan (x : W32) : Bool := f32 x == .nan
  sortBy (fun a b => !fvLt (f32 a.2) (f32 b.2)) (l.filter fun e => !isNan e.2) ++ l.filter fun e => isNan e.2

/-- SCORE. -/
def evalScore (b : BitVec 2) (d1 : BitVec 10) (g1 : BitVec 6) (k1 : BitVec 3) : MEval := fun e s w =>
  let d := d1.toNat + 1
  let g := g1.toNat + 1
  match e.region b.toNat with
  | none => .stop s w .act
  | some (key, _) =>
    if w.p.plen < 2 * d then .stop s w .act
    else if (s.badIn key (2 * d * g)).isSome then .stop s w .mem
    else
      let (token, s) := w.p.payload s
      let sc := (nats g).map fun r => (r, gateScore token (s.rdBytes (key + 2 * d * r) (2 * d)) d)
      let fl := sc.foldl (fun f x => f ||| x.2.2) (0 : Flags)
      let top := (scoreOrder (sc.map fun x => (x.1, x.2.1))).take (k1.toNat + 1)
      let hv := putBytes w.p.hv 0x18 (List.replicate 8 0xFF ++ List.replicate 16 0)
      let hv := ((nats 8).zip top).foldl (fun hv x =>
        hvNum (hvNum hv (0x18 + x.1) 1 x.2.1) (0x20 + 2 * x.1) 2 (bfBF16.round .rne false (f32 x.2.2)).1) hv
      .go (s.raiseFlags e.vat w.p.id fl) (w.withHv hv)

/-- The parts of a run of elements of `w` bytes that begin in one 64-byte line each: offset and length. An element that an
unaligned region lays over two lines belongs to the line where it begins (R399, log 102). -/
def linePieces (key n w : Nat) : List (Nat × Nat) :=
  let up (a : Nat) : Nat := Nat.min n (cdiv (a - key) w * w)
  if n = 0 then []
  else ((natsFrom (key / 64) ((key + n - 1) / 64 + 1 - key / 64)).map fun l =>
    (up (64 * l), up (64 * l + 64) - up (64 * l))).filter fun x => x.2 != 0

/-- Posts the lines of ADDT or DEPO: each is an access of the vat for the packet (R399, R400, R407). -/
def State.postLines (s : State) (e : MEnv) (p : VPkt) (k : AKind) (op key va : Nat) (l : List Byte) : State :=
  (linePieces key l.length (if k = .pline then 4 else 1)).foldl (fun s x => s.addAcc fun id =>
    { id, iss := id, k, carr := 0, ctx := e.ctx, seat := e.vat, op, n := x.2, sgn := false, va := BitVec.ofNat 48 (va + x.1),
      locs := [⟨key + x.1, none⟩], v := BitVec.ofNat 64 p.id, x := BitVec.ofNat 64 p.ord, flag := false,
      rcd := (l.drop x.1).take x.2, rref := [] }) s

/-- BF16 elements widened to FP32. -/
def widenBf : List Byte → List Byte
  | a :: b :: l => 0 :: 0 :: a :: b :: widenBf l
  | _ => []

/-- ADDT (R399). -/
def evalAddt (b : BitVec 2) (mode : BitVec 2) (h : BitVec 9) : MEval := fun e s w =>
  let n := w.p.plen
  let o := hvNat w.p.hv h.toNat 4
  let len := if mode = 2#2 then 2 * n else n
  match e.region b.toNat with
  | none => .stop s w .act
  | some (key, size) =>
    if mode = 3#2 ∨ inHv h.toNat 4 = false ∨ n = 0 ∨ 4096 < n ∨ n % (if mode = 2#2 then 2 else 4) ≠ 0 ∨ o % 4 ≠ 0 ∨ size < o + len then
      .stop s w .act
    else
      let (l, s) := w.p.payload s
      let l := if mode = 2#2 then widenBf l else l
      .go (s.postLines e w.p .pline mode.toNat (key + o) ((e.bind b.toNat).2.1 + o) l) { w with p := w.p.setFlag 4 }

/-- DEPO (R400). -/
def evalDepo (b : BitVec 2) (h : BitVec 9) : MEval := fun e s w =>
  let o := hvNat w.p.hv h.toNat 4
  match e.region b.toNat with
  | none => .stop s w .act
  | some (key, size) =>
    if inHv h.toNat 4 = false ∨ size < o + w.p.plen then .stop s w .act
    else
      let (l, s) := w.p.payload s
      .go (s.postLines e w.p .pdepo 0 (key + o) ((e.bind b.toNat).2.1 + o) l) { w with p := w.p.setFlag 4 }

/-- BUMP: posted (R401). -/
def evalBump (quad : BitVec 5) (tile : BitVec 8) (amt : BitVec 14) : MEval := fun e s w =>
  let q := e.vat / 4 * 28 + quad.toNat
  if 28 ≤ quad.toNat ∨ (s.ctx e.ctx).spLen q = 0 then .stop s w .act
  else
    let key := s.tileKey e.ctx q tile.toNat + 16
    .go (s.addAcc fun id =>
      { id, iss := id, k := .pbump, carr := 0, ctx := e.ctx, seat := e.vat, op := amt.toNat, n := 8, sgn := false,
        va := BitVec.ofNat 48 (windowBase q + ((s.ctx e.ctx).spLen q - 8192) + 32 * tile.toNat + 16),
        locs := [⟨key, none⟩], v := BitVec.ofNat 64 w.p.id, x := BitVec.ofNat 64 w.p.ord, flag := false, rcd := [], rref := [] })
      { w with p := w.p.setFlag 4 }

/-- A register of the packet's program: none when it is beyond REGS; whether it is in error. -/
def MEnv.vreg (e : MEnv) (s : State) (r : Nat) : Option (W64 × Bool) :=
  if e.prog.regs ≤ r then none
  else (s.progOf e.vat e.epoch e.ctx e.stage).map fun g => (SMap.get 0 g.reg r, g.errs.contains r)

/-- RGA on a register and a field: the field takes the old value, the register what `f` gives (R402). -/
def rgaField (f : W64 → W64 → W64) (r : BitVec 12) (h : BitVec 9) : MEval := fun e s w =>
  match e.vreg s r.toNat with
  | none => .stop s w .act
  | some (old, bad) =>
    if !inArea h.toNat 8 then .stop s w .act
    else if bad then .stop s w .mem
    else
      let x := BitVec.ofNat 64 (hvNat w.p.hv h.toNat 8)
      .go (s.setVreg e.vat e.epoch e.ctx e.stage r.toNat (f old x))
        { w with p := ({ w.p with hv := hvNum w.p.hv h.toNat 8 old.toNat } : VPkt).setFlag 4 }

/-- RGA add. -/
def evalRgaAdd (r : BitVec 12) (h : BitVec 9) : MEval := rgaField (fun old x => old + x) r h
/-- RGA swap. -/
def evalRgaSwap (r : BitVec 12) (h : BitVec 9) : MEval := rgaField (fun _ x => x) r h
/-- RGA umax. -/
def evalRgaUmax (r : BitVec 12) (h : BitVec 9) : MEval := rgaField (fun old x => if old.toNat < x.toNat then x else old) r h

/-- RGA push: the scaled register goes to a count queue, or is lost; then it is cleared (R300, R402). -/
def evalRgaPush (r : BitVec 12) (quad : BitVec 5) (cq : BitVec 3) (sh : BitVec 4) : MEval := fun e s w =>
  match e.vreg s r.toNat with
  | none => .stop s w .act
  | some (old, bad) =>
    if bad then .stop s w .mem
    else
      let q := e.vat / 4 * 28 + quad.toNat
      let s := s.setVreg e.vat e.epoch e.ctx e.stage r.toNat 0
      let lost := decide (28 ≤ quad.toNat) || s.cqForeign q e.ctx || decide (64 ≤ (SMap.get [] (s.quad q).cqs cq.toNat).length)
      .go (if lost then s.vatCount e.vat 10 else s.cqAdd q e.ctx cq.toNat true (BitVec.ofNat 32 (cdiv old.toNat (2 ^ sh.toNat))))
        { w with p := w.p.setFlag 4 }

/-- FWD (R403). -/
def evalFwd (eport : Bool) (port : BitVec 7) : MEval := fun _ s w =>
  if eport then
    if hvNat w.p.hv 0x08 2 = 0xFFFF then .stop s w .act else .go s { w with p := w.p.setFlag 3 }
  else .go s { w with p := ({ w.p with hv := hvNum w.p.hv 0x08 2 port.toNat } : VPkt).setFlag 3 }

/-- ABSORB. -/
def evalAbsorb : MEval := fun _ s w => .go s { w with p := w.p.setFlag 2 }

/-- MIRR: reserved to the system context. -/
def evalMirr (port : BitVec 7) (trunc : Bool) : MEval := fun e s w =>
  if e.ctx = 0 then .go s { w with p := { w.p with mirrors := w.p.mirrors ++ [(port.toNat, trunc)] } } else .stop s w .act

/-- DROP. -/
def evalDrop (reason : BitVec 8) : MEval := fun _ s w => .stop s w (.user reason.toNat)

/-- RECIRC: a fifth recirculation is an action fault. -/
def evalRecirc (stage : BitVec 4) : MEval := fun _ s w =>
  if 4 ≤ hvNat w.p.hv 0x07 1 then .stop s w .act else .go s { w with p := { w.p with again := some stage.toNat } }

/-- MARK: a change of class to a lower number is reserved to the system context. -/
def evalMark (ce setc : Bool) (cls : BitVec 2) : MEval := fun e s w =>
  if setc ∧ e.ctx ≠ 0 ∧ cls.toNat < hvNat w.p.hv 0x06 1 % 4 then .stop s w .act
  else
    let p := if ce then w.p.setFlag 1 else w.p
    .go s { w with p := if setc then { p with hv := hvNum p.hv 0x06 1 cls.toNat } else p }

/-- The states of a connection at this end, its source's and its target's (R421). -/
def State.connsOf (s : State) (id : W32) : List Conn := (nats 4).flatMap fun d => (s.die d).conns.filter fun c => c.id == id

/-- The state of a connection is not resident: a part of it is held in HBM only, or there is none (R404, R421). -/
def State.connAway (s : State) (id : W32) : Bool := (s.connsOf id).isEmpty || (s.connsOf id).any fun c => !c.resident

/-- HOLD (R404). -/
def evalHold (h : BitVec 9) : MEval := fun _ s w =>
  let id := BitVec.ofNat 32 (hvNat w.p.hv h.toNat 4)
  if !inHv h.toNat 4 then .stop s w .act
  else if s.connAway id then
    if hvFlag w.p.hv 4 then .stop s w .act else .stop s w (.park id)
  else .go s w

/-- The meaning of a micro-operation; what is not one is an action fault (R393). -/
def microEval : Instr → MEval
  | .nopa => evalNopa
  | .ext h n o => evalExt h n o
  | .setf h w i => evalSetf h w i
  | .addfImm h w i => evalAddfImm h w i
  | .addfField h w x => evalAddfField h w x
  | .lkp b k r => evalLkp b k r
  | .hash h n => evalHash h n
  | .rte m => evalRte m
  | .rewr b i h => evalRewr b i h
  | .score b d g k => evalScore b d g k
  | .addt b m h => evalAddt b m h
  | .bump q t a => evalBump q t a
  | .depo b h => evalDepo b h
  | .rgaAdd r h => evalRgaAdd r h
  | .rgaSwap r h => evalRgaSwap r h
  | .rgaUmax r h => evalRgaUmax r h
  | .rgaPush r q c x => evalRgaPush r q c x
  | .fwd m p => evalFwd m p
  | .absorb => evalAbsorb
  | .mirr p t => evalMirr p t
  | .drop r => evalDrop r
  | .recirc n => evalRecirc n
  | .mark c x k => evalMark c x k
  | .hold h => evalHold h
  | _ => fun _ s w => .stop s w .act

/-! ## A stage (R392) -/

/-- The four micro-operations of an action word, number 0 first (R74). -/
def microsOf (a : BitVec 128) : List W32 := [a.extractLsb' 96 32, a.extractLsb' 64 32, a.extractLsb' 32 32, a.extractLsb' 0 32]

/-- Executes the micro-operations of a word; an unassigned code is an action fault (R393). -/
def wordGo (e : MEnv) : List W32 → State → MWork → MOut
  | [], s, w => .go s w
  | u :: us, s, w =>
    match decodeMicro u with
    | none => .stop s w .act
    | some i =>
      if !fieldsOk i then .stop s w .act
      else
        match microEval i e s w with
        | .go s w => wordGo e us s w
        | .stop s w y => .stop s w y

/-- Executes words until none is next; a fifth word, or one beyond the program, is an action fault. -/
def stageGo (e : MEnv) : Nat → List W32 → State → MWork → MOut
  | 0, _, s, w => .stop s w .act
  | n + 1, us, s, w =>
    match wordGo e us s { w with nxt := none } with
    | .stop s w y => .stop s w y
    | .go s w =>
      match w.nxt with
      | none => .go s w
      | some a =>
        if e.prog.acts.length ≤ a then .stop s w .act else stageGo e n (microsOf (nth 0 e.prog.acts a)) s w

/-- A packet has passed a stage: it goes to the next, re-enters, or comes to its verdict (R383, R403). -/
def VPkt.passed (p : VPkt) (n : Nat) : VPkt :=
  if n < 15 then { p with phase := .stage (n + 1) }
  else
    match p.again with
    | some k => { p with phase := .recirc k }
    | none => { p with phase := .finish }

/-- A stage runs the program of the packet's context, from its entry word or from a word given (R386, R392). -/
def State.runStage (s : State) (vat : Nat) (p : VPkt) (n : Nat) (first : Option (List W32)) : State :=
  let tag := p.ctx
  if (s.ctx tag).st ≠ .runnable then s.stopPkt vat p .notRun
  else
    match s.progOf vat p.epoch tag n with
    | none => s.putPkt vat (p.passed n)
    | some g =>
      let e : MEnv := ⟨vat, tag, n, g, p.epoch⟩
      match stageGo e 4 (first.getD (microsOf (nth 0 g.acts g.entry))) s ⟨p, 0, none⟩ with
      | .go s w => s.putPkt vat (w.p.passed n)
      | .stop s w why => s.stopPkt vat w.p why

/-- The stage at which a packet stands. -/
def VPkt.stage? (p : VPkt) : Option Nat := match p.phase with | .stage n => some n | _ => none

/-- The packets that may execute a stage: none overtakes the one before it (R383). -/
def stageReady : Option VPkt → List VPkt → List (VPkt × Nat)
  | _, [] => []
  | prev, p :: ps =>
    let free (n : Nat) : Bool := match prev.map fun (q : VPkt) => q.phase with
      | none => true
      | some .parse => false
      | some (.stage m) => decide (n < m)
      | some .finish => true
      | some (.recirc _) => true
    let rest := stageReady (some p) ps
    match p.stage? with
    | some n => if free n then (p, n) :: rest else rest
    | none => rest

/-- STAGE_EXECUTE: one packet of the vat that may go on executes its stage; which of several is a free value. -/
def execStageExecute (vat : Nat) (s : State) : Host.Outcome State Fault Refusal :=
  .next (match stageReady none (s.vat vat).pkts with
    | [] => s
    | [x] => s.runStage vat x.1 x.2 none
    | x :: y :: l =>
      let z := nth x (x :: y :: l) (Config.freeChoice s.free % (l.length + 2))
      { s with free := s.free + 1 }.runStage vat z.1 z.2 none)

/-- A micro-operation on its own: the oldest packet at a stage of the vat `curVat` executes its stage with a word that
holds this micro-operation and three NOPAs in place of the entry word (log 5). -/
def microSolo (i : Instr) (s : State) : Host.Outcome State Fault Refusal :=
  .next (match encodeMicro i, stageReady none (s.vat s.curVat).pkts with
    | some u, x :: _ => s.runStage s.curVat x.1 x.2 (some [u, 0, 0, 0])
    | _, _ => s)

/-- NOPA on its own. -/
def execNopa (s : State) : Host.Outcome State Fault Refusal := microSolo .nopa s
/-- EXT on its own. -/
def execExt (h : BitVec 9) (len1 : BitVec 5) (off : BitVec 13) (s : State) : Host.Outcome State Fault Refusal := microSolo (.ext h len1 off) s
/-- SETF on its own. -/
def execSetf (h : BitVec 9) (w : BitVec 2) (imm : BitVec 16) (s : State) : Host.Outcome State Fault Refusal := microSolo (.setf h w imm) s
/-- ADDF with an immediate on its own. -/
def execAddfImm (h : BitVec 9) (w : BitVec 2) (imm : BitVec 15) (s : State) : Host.Outcome State Fault Refusal := microSolo (.addfImm h w imm) s
/-- ADDF with a field on its own. -/
def execAddfField (h : BitVec 9) (w : BitVec 2) (src : BitVec 9) (s : State) : Host.Outcome State Fault Refusal := microSolo (.addfField h w src) s
/-- LKP on its own. -/
def execLkp (b : BitVec 2) (key res : BitVec 9) (s : State) : Host.Outcome State Fault Refusal := microSolo (.lkp b key res) s
/-- HASH on its own. -/
def execHash (h : BitVec 9) (len1 : BitVec 5) (s : State) : Host.Outcome State Fault Refusal := microSolo (.hash h len1) s
/-- RTE on its own. -/
def execRte (mode : BitVec 2) (s : State) : Host.Outcome State Fault Refusal := microSolo (.rte mode) s
/-- REWR on its own. -/
def execRewr (b : BitVec 2) (i : BitVec 3) (h : BitVec 9) (s : State) : Host.Outcome State Fault Refusal := microSolo (.rewr b i h) s
/-- SCORE on its own. -/
def execScore (b : BitVec 2) (d1 : BitVec 10) (g1 : BitVec 6) (k1 : BitVec 3) (s : State) : Host.Outcome State Fault Refusal :=
  microSolo (.score b d1 g1 k1) s
/-- ADDT on its own. -/
def execAddt (b : BitVec 2) (mode : BitVec 2) (h : BitVec 9) (s : State) : Host.Outcome State Fault Refusal := microSolo (.addt b mode h) s
/-- BUMP on its own. -/
def execBump (quad : BitVec 5) (tile : BitVec 8) (amt : BitVec 14) (s : State) : Host.Outcome State Fault Refusal := microSolo (.bump quad tile amt) s
/-- DEPO on its own. -/
def execDepo (b : BitVec 2) (h : BitVec 9) (s : State) : Host.Outcome State Fault Refusal := microSolo (.depo b h) s
/-- RGA add on its own. -/
def execRgaAdd (r : BitVec 12) (h : BitVec 9) (s : State) : Host.Outcome State Fault Refusal := microSolo (.rgaAdd r h) s
/-- RGA swap on its own. -/
def execRgaSwap (r : BitVec 12) (h : BitVec 9) (s : State) : Host.Outcome State Fault Refusal := microSolo (.rgaSwap r h) s
/-- RGA umax on its own. -/
def execRgaUmax (r : BitVec 12) (h : BitVec 9) (s : State) : Host.Outcome State Fault Refusal := microSolo (.rgaUmax r h) s
/-- RGA push on its own. -/
def execRgaPush (r : BitVec 12) (quad : BitVec 5) (cq : BitVec 3) (sh : BitVec 4) (s : State) : Host.Outcome State Fault Refusal :=
  microSolo (.rgaPush r quad cq sh) s
/-- FWD on its own. -/
def execFwd (eport : Bool) (port : BitVec 7) (s : State) : Host.Outcome State Fault Refusal := microSolo (.fwd eport port) s
/-- MIRR on its own. -/
def execMirr (port : BitVec 7) (trunc : Bool) (s : State) : Host.Outcome State Fault Refusal := microSolo (.mirr port trunc) s
/-- DROP on its own. -/
def execDrop (reason : BitVec 8) (s : State) : Host.Outcome State Fault Refusal := microSolo (.drop reason) s
/-- RECIRC on its own. -/
def execRecirc (stage : BitVec 4) (s : State) : Host.Outcome State Fault Refusal := microSolo (.recirc stage) s
/-- MARK on its own. -/
def execMark (ce setc : Bool) (cls : BitVec 2) (s : State) : Host.Outcome State Fault Refusal := microSolo (.mark ce setc cls) s
/-- HOLD on its own. -/
def execHold (h : BitVec 9) (s : State) : Host.Outcome State Fault Refusal := microSolo (.hold h) s
/-- ABSORB on its own. -/
def execAbsorb (s : State) : Host.Outcome State Fault Refusal := microSolo .absorb s

/-! ## Arrival (R383, R412, R417) -/

/-- A packet is admitted to a vat: after the headers admitted before, of one cycle the lower port first (R383). -/
def State.admitPkt (s : State) (port : Nat) (bytes : List Byte) (replayed : Bool) : State :=
  let vat := port / 8
  let (id, s) := s.freshId
  let p : VPkt := { id, ord := 0, port, hv := hvStart port bytes.length s.dieCycle, frame := bytes, recs := [], phase := .parse,
                    accHv := [], accRecs := [], epoch := 0, mirrors := [], again := none, replayed, at_ := s.dieCycle }
  let after (q : VPkt) : Bool := q.phase == .parse && q.at_ == s.dieCycle && decide (port < q.port)
  (s.modVat vat fun v => { v with pkts := (v.pkts.filter fun q => !after q) ++ p :: v.pkts.filter after }).vatCount vat 0

/-- FRAME_ARRIVAL: the last flit of a frame has arrived; old packets and packets on their fifth link are dropped before the
parser (R417). A HELLO stays with the link (R412), and its content comes as the row HELLO. -/
def execFrameArrival (port : Nat) (bytes : List Byte) (s : State) : Host.Outcome State Fault Refusal :=
  .next (
    let h := (pktOf bytes).h
    if 128 ≤ port ∨ s.usable port = false ∨ bytes.length < 64 ∨ 9216 < bytes.length then s
    else if isSkf bytes then
      if h.kind = 0x20#8 then s
      else if 1900 < (s.fabTime (port / 32) + 65536 - h.ts.toNat) % 65536 then s.modPort port fun p => { p with ageDrop := p.ageDrop + 1 }
      else if h.hop = 4#3 ∧ h.dchip.toNat ≠ s.chip then s.modPort port fun p => { p with hopDrop := p.hopDrop + 1 }
      else s.admitPkt port bytes false
    else s.admitPkt port bytes false)

/-- RECORDED_PACKET_DELIVERY: a replay admits a packet of the log whose cycle has come; the bytes that the log does not
hold are free values (R379, R380). -/
def execRecordedPacketDelivery (ctx : Nat) (s : State) : Host.Outcome State Fault Refusal :=
  .next (
    let c := s.ctx ctx
    let due (e : Nat × List W64) : Bool :=
      fld (nth 0 e.2 0) 63 56 == 1 && decide ((fld (nth 0 e.2 0) 47 0 + 2 ^ 48 - c.rcdAt % 2 ^ 48) % 2 ^ 48 ≤ (s.dieCycle - c.playAt) % 2 ^ 48)
    if c.replay ∧ c.st = .runnable then
      match c.rlog.find? due with
      | none => s
      | some e =>
        let l := ((e.2.drop 2).take 11).flatMap fun w => bytesLE 8 w.toNat
        let n := if isSkf l then Nat.max 64 (50 + (pktOf l).h.len.toNat) else 92
        let rest := (nats (n - l.length)).map fun i => (Config.freeWord (s.free + i)).setWidth 8
        ({ s.met ctx e with free := s.free + (n - l.length) }).admitPkt (fld (nth 0 e.2 1) 6 0) ((l ++ rest).take n) true
    else s)

/-! ## The parser (R387, R388) -/

/-- The state of the parser: cursor, header vector, extract records and their number. -/
structure PState where
  cur  : Nat
  p    : VPkt
  nx   : Nat

/-- One extract; none when it is the thirty-third. -/
def parseExt (lim : Nat) (x : PState) (e : Nat) : Option PState :=
  if bitsAt e 23 1 = 0 then some x
  else if 32 < x.nx + 1 then none
  else
    let pos := x.cur + bitsAt e 15 8
    let n := bitsAt e 10 5 + 1
    let h := bitsAt e 1 9
    let (l, trunc) := frameBytes x.p.frame lim pos n
    let p := { x.p with hv := putBytes x.p.hv h l, recs := x.p.recs ++ [(h, pos, n)] }
    some { x with p := if trunc then p.setFlag 5 else p, nx := x.nx + 1 }

/-- The extracts of a state word. -/
def parseExts (lim w : Nat) (x : PState) : Option PState :=
  (nats 4).foldl (fun o k => o.bind fun x => parseExt lim x (bitsAt w (232 - 24 * k) 24)) (some x)

/-- The next state of a state word. -/
def parseNext (w sel : Nat) : Nat :=
  let ts := (nats 3).map fun k => bitsAt w (96 - 40 * k) 40
  match ts.find? fun t => bitsAt t 39 1 == 1 && sel &&& bitsAt t 0 16 == bitsAt t 16 16 &&& bitsAt t 0 16 with
  | some t => bitsAt t 32 7
  | none => bitsAt w 144 7

/-- Runs the parser from a state; none rejects. -/
def parseGo (words : SMap (BitVec 256)) (lim : Nat) : Nat → Nat → PState → Option PState
  | 0, st, x => if st = 0x40 then some x else none
  | n + 1, st, x =>
    if 0x40 ≤ st then (if st = 0x40 then some x else none)
    else
      let w := (SMap.get 0 words st).toNat
      match parseExts lim w x with
      | none => none
      | some x =>
        let (l, trunc) := frameBytes x.p.frame lim (x.cur + bitsAt w 152 8) (bitsAt w 151 1 + 1)
        let x := { x with p := if trunc then x.p.setFlag 5 else x.p }
        parseGo words lim n (parseNext w (ofBytesBE l)) { x with cur := x.cur + bitsAt w 136 8 }

/-- PARSE: the oldest packet in the parser is accepted to stage 0, under the loads of that moment, or rejected (R388, R391). -/
def execParse (vat : Nat) (s : State) : Host.Outcome State Fault Refusal :=
  .next (
    let v := s.vat vat
    match v.pkts.find? fun p => p.phase == .parse with
    | none => s
    | some p =>
      let len := p.frame.length
      match parseGo v.words (Nat.min 256 (len - 4)) 16 (SMap.get 0 v.starts (p.port % 8)) ⟨0, p, 0⟩ with
      | none => (s.pktGone vat p.id).vatCount vat 4
      | some x =>
        let plo := Nat.min x.cur (len - 4)
        let hv := hvNum (hvNum x.p.hv 0x0C 2 plo) 0x0E 2 (len - 4 - plo)
        let (o, s) := s.freshId
        s.putPkt vat { x.p with hv, ord := o, phase := .stage 0, epoch := v.epoch, accHv := hv, accRecs := x.p.recs })

/-! ## Verdict (R403, R405, R417) -/

/-- Writes bytes into a list at a position, below a limit. -/
def overlay (lim : Nat) (f : List Byte) (pos : Nat) (l : List Byte) : List Byte :=
  ((nats l.length).zip l).foldl (fun f x => if pos + x.1 < lim then setNth f (pos + x.1) x.2 else f) f

/-- The deparsed frame: the recorded fields are written back, and the check sequence is made anew (R405). -/
def VPkt.deparsed (p : VPkt) : List Byte :=
  let lim := p.frame.length - 4
  let f := p.recs.foldl (fun f r => overlay lim f r.2.1 (hvBytes p.hv r.1 r.2.2)) p.frame
  f.take lim ++ fcsOf (f.take lim)

/-- An SKF frame that is forwarded: HOP rises, and CE is set where the packet is marked (R417). -/
def hopFrame (l : List Byte) (ce : Bool) : List Byte :=
  if isSkf l then
    let b := (nth 0 l 18).toNat
    let b := b / 64 * 64 + (b / 8 + 1) % 8 * 8 + b % 8
    let f := setNth (l.take (l.length - 4)) 18 (BitVec.ofNat 8 (if ce then b ||| 4 else b))
    f ++ fcsOf f
  else l

/-- The virtual channel of a frame that leaves: VC HOP of its class (R419); a frame that is not SKF travels on VC 0. -/
def frameVc (l : List Byte) : Nat :=
  if isSkf l then
    let h := (pktOf l).h
    (if h.vcls then 5 else 0) + Nat.min 4 h.hop.toNat
  else 0

/-- A frame goes to the egress of a port; one that carries nothing drops it as LINKDROP (R412). -/
def State.sendFrame (s : State) (port : Nat) (l : List Byte) (cls : Nat) (p : VPkt) : State :=
  if port < 128 ∧ s.usable port = true then
    s.toEgress port { bytes := l, cls, vc := frameVc l, skf := isSkf l, ctx := p.ctx, at_ := p.at_ }
  else if port < 128 then s.modPort port fun x => { x with linkDrop := x.linkDrop + 1 }
  else s

/-- The copies that MIRR asks for; whether the egress buffer is full is a free value (R403). -/
def State.sendMirrors (s : State) (vat : Nat) (p : VPkt) (l : List Byte) : State :=
  p.mirrors.foldl (fun s m =>
    let full := Config.freeBool s.free
    let s := { s with free := s.free + 1 }
    if full then s.vatCount vat 9 else s.sendFrame m.1 (if m.2 then l.take 256 else l) 3 p) s

/-- VERDICT: the oldest packet that has passed its stages is deparsed and forwarded, absorbed, or dropped (R405). -/
def execVerdict (vat : Nat) (s : State) : Host.Outcome State Fault Refusal :=
  .next (match (s.vat vat).pkts.find? fun p => p.phase == .finish with
    | none => s
    | some p =>
      let l := p.deparsed
      let fwd := hvFlag p.hv 3
      let ab := hvFlag p.hv 2
      let s := (s.pktGone vat p.id).sendMirrors vat p l
      let s := if ab && isSkf l then s.modDie (vat / 4) fun x => { x with loopb := x.loopb ++ [pktOf l] } else s
      let s := if fwd then s.sendFrame (hvNat p.hv 0x08 2) (hopFrame l (hvFlag p.hv 1)) (hvNat p.hv 0x06 1 % 4) p else s
      if fwd then s.vatCount vat (if ab then 3 else 1)
      else if ab then s.vatCount vat 2
      else s.vatHalf vat 6 true)

/-- RECIRC_REENTRY: the packet re-enters its vat at the stage named, behind the packets admitted before it (R403). -/
def execRecircReentry (vat : Nat) (s : State) : Host.Outcome State Fault Refusal :=
  .next (match (s.vat vat).pkts.find? fun p => match p.phase with | .recirc _ => true | _ => false with
    | none => s
    | some p =>
      let n := match p.phase with | .recirc n => n | _ => 0
      let (o, s) := s.freshId
      let q : VPkt := { p with hv := hvSetFlag (hvNum p.hv 0x07 1 (hvNat p.hv 0x07 1 + 1)) 6, ord := o, phase := .stage n, again := none }
      s.modVat vat fun v => { v with pkts := (v.pkts.filter fun x => x.id != p.id) ++ [q] })

/-! ## Parked packets (R404) -/

/-- A parked packet re-enters stage 0 of its vat, ahead of headers that arrive in the same cycle. -/
def State.unpark (s : State) (p : VPkt) : State :=
  let vat := p.port / 8
  let (o, s) := s.freshId
  let q : VPkt := { p with hv := hvSetFlag p.hv 7, ord := o, phase := .stage 0, epoch := (s.vat vat).epoch }
  let after (x : VPkt) : Bool := x.phase == .parse && x.at_ == s.dieCycle
  s.modVat vat fun v => { v with pkts := (v.pkts.filter fun x => !after x) ++ q :: v.pkts.filter after }

/-- The state of a connection is made resident for a die's parked packets. Where there is none, a parked packet from the peer is
the first traffic that opens it, if its generation is not in quarantine (R421, R442, log 64). -/
def State.serveHold (s : State) (die : Nat) (conn : W32) : State :=
  let s := if !(s.connsOf conn).isEmpty then s
    else
      match (s.die die).holds.find? fun h => h.2.2 == conn && isSkf h.1.frame && skfId (pktOf h.1.frame).h == conn with
      | some h => (s.inConn die (pktOf h.1.frame).h).getD s
      | none => s
  (nats 4).foldl (fun s k => s.modDie k fun x => (x.toFront conn true).toFront conn false) s

/-- HOLD_RELEASE: the missing state of a connection becomes resident, and its parked packets re-enter in parking order. -/
def execHoldRelease (die : Nat) (conn : W32) (s : State) : Host.Outcome State Fault Refusal :=
  .next (
    let x := s.die die
    let t := s.serveHold die conn
    if x.holdMiss.contains conn && !t.connAway conn then
      let s := t
      let s := s.setDie die { (s.die die) with holdMiss := x.holdMiss.erase conn, holds := x.holds.filter fun h => h.2.2 != conn }
      (x.holds.filter fun h => h.2.2 == conn).foldl (fun s h => s.unpark h.1) s
    else s)

/-- HOLD_TIMEOUT: a packet parked for 1 ms is dropped and counted. -/
def execHoldTimeout (die : Nat) (s : State) : Host.Outcome State Fault Refusal :=
  .next (match (s.die die).holds.find? fun h => decide (h.2.1 + 1000 * usCycles ≤ s.dieCycle) with
    | none => s
    | some h =>
      let vat := h.1.port / 8
      ((s.modDie die fun x => { x with holds := x.holds.erase h }).vatCount vat 8).tidyRaised vat)

/-! ## Memory actions at their home (R399 to R401, R407, R408) -/

/-- The turn of a posted action has come: actions of a vat to one location go in vat order, and a BUMP after the lines of its
packet that were posted before it (R407). -/
def State.pipeReady (s : State) (a : Acc) : Bool :=
  let mine := s.accs.filter fun b => pipeKind b.k && b.seat == a.seat && b.id != a.id
  !(mine.any fun b => rangesMeet a.ranges b.ranges && (decide (b.x.toNat < a.x.toNat) || (b.x == a.x && decide (b.id < a.id))))
    && !((s.vat a.seat).pkts.any fun p => p.stage?.isSome && decide (p.ord < a.x.toNat))
    && !(a.k == .pbump && mine.any fun b => b.k != .pbump && b.v == a.v && decide (b.id < a.id))

/-- An action meets an uncorrectable error: its packet is dropped, with its actions that have not been applied (R408). -/
def State.pipeError (s : State) (a : Acc) : State :=
  let p : VPkt := ⟨a.v.toNat, 0, 0, [], [], [], .finish, [], [], 0, [], none, false, 0⟩
  s.stopPkt a.seat p .mem

/-- Element adds of a line in ascending address (R399). -/
def addElems (fp : Bool) : List Byte → List Byte → List Byte × Flags
  | a0 :: a1 :: a2 :: a3 :: as, b0 :: b1 :: b2 :: b3 :: bs =>
    let x := BitVec.ofNat 64 (ofBytesLE [a0, a1, a2, a3])
    let y := BitVec.ofNat 64 (ofBytesLE [b0, b1, b2, b3])
    let (r, f) := if fp then atomicNew 10 .w32 x y 0 else (x + y, 0)
    let (l, g) := addElems fp as bs
    (bytesLE 4 (r.toNat % 2 ^ 32) ++ l, f ||| g)
  | _, _ => ([], 0)

/-- PIPELINE_LINE_APPLY: a line of ADDT or DEPO. -/
def execPipelineLineApply (id : Nat) (s : State) : Host.Outcome State Fault Refusal :=
  .next (match s.accOf id [.pline, .pdepo] with
    | none => s
    | some a =>
      let key := (a.locs.map fun p => p.key).headD 0
      if !s.pipeReady a then s
      else if a.k = .pline then
        if (s.badIn key a.n).isSome then s.pipeError a
        else
          let (l, f) := addElems (a.op != 0) (s.rdBytes key a.n) a.rcd
          (((s.dropAcc id).raiseFlags a.seat a.v.toNat f).apply key l).tidyRaised a.seat
      else ((s.dropAcc id).apply key a.rcd).tidyRaised a.seat)

/-- PIPELINE_BUMP_APPLY: COUNT of the tile rises, as RADD.d raises it, and may set the curd (R401, R167). -/
def execPipelineBumpApply (id : Nat) (s : State) : Host.Outcome State Fault Refusal :=
  .next (match s.accOf id [.pbump] with
    | none => s
    | some a =>
      let key := (a.locs.map fun p => p.key).headD 0
      if !s.pipeReady a then s
      else if (s.badIn key 8).isSome then s.pipeError a
      else ((s.dropAcc id).addCount key a.op).tidyRaised a.seat)

end Sys2Proof.Machine
end

