-- ==== Sys2Proof/Machine/Stages.lean ====
section
/-!
DEFINITION. The stage commands (R387, R389 to R391, R409, R410): parsers, stage programs, stage tables, registers and
counters.
-/

namespace Sys2Proof.Machine

/-- The vats that a mask names. -/
def vatsOf (mask : Nat) : List Nat := (nats 16).filter fun v => mask.testBit v

/-! ## PLOAD (R387) -/

/-- The state words of an image. -/
def parserWords (l : List Byte) : List Nat := (nats 64).map fun i => wordAt l (64 + 32 * i) 32

/-- A state word is one that the load command takes. -/
def stateWordOk (w : Nat) : Bool :=
  bitsAt w 0 16 == 0 && decide (bitsAt w 144 7 ≤ 0x41)
    && ((nats 4).all fun k =>
      let e := bitsAt w (232 - 24 * k) 24
      e % 2 == 0 && (bitsAt e 23 1 == 0 || decide (0x40 ≤ bitsAt e 1 9 ∧ bitsAt e 1 9 + bitsAt e 10 5 + 1 ≤ 512)))
    && ((nats 3).all fun k =>
      decide (bitsAt (bitsAt w (96 - 40 * k) 40) 32 7 ≤ 0x41))

/-- A parser image is one that the load command takes: start states in the first eight bytes, the rest of the header 0. -/
def parserOk (l : List Byte) : Bool :=
  decide (l.length = 2112) && ((nats 8).all fun i => decide (wordAt l i 1 ≤ 0x41)) && wordAt l 8 56 == 0
    && (parserWords l).all stateWordOk

/-- A parser image is loaded on a vat. -/
def State.loadParser (s : State) (vat : Nat) (l : List Byte) : State :=
  s.modVat vat fun v =>
    { v with words := ((nats 64).zip (parserWords l)).foldl (fun m x => SMap.set 0 m x.1 (BitVec.ofNat 256 x.2)) []
             starts := (nats 8).foldl (fun m i => SMap.set 0 m i (wordAt l i 1)) [] }

/-- PLOAD. -/
def doPload (c : Cmd) (s : State) : CRes :=
  match s.fwRead c.ctx (fld c.e.w3 47 0) 2112 with
  | .bad r => s.cmdFail c r
  | .ok l =>
    if !parserOk l then .done s stBadarg 0
    else .done ((vatsOf (fld c.e.w2 15 0)).foldl (fun s v => s.loadParser v l) s) stOk 0
/-- PLOAD. -/
def execPload (c : Cmd) (s : State) : Host.Outcome State Fault Refusal := .next (s.runCmd c 0x30 (doPload c))

/-! ## SLOAD and SUNLOAD (R389, R391) -/

/-- The length of a stage image by its NACT. -/
def stageLen (l : List Byte) : Nat := 0x80 + 16 * (wordAt l 6 2 + 1)

/-- The stage program of an image. -/
def stageOf (ctx : Nat) (l : List Byte) : Prog :=
  { ctx, stage := wordAt l 4 1, entry := wordAt l 5 1, regs := wordAt l 8 2
    binds := (nats 4).map fun i => (BitVec.ofNat 64 (wordAt l (0x40 + 16 * i) 8), BitVec.ofNat 64 (wordAt l (0x48 + 16 * i) 8))
    acts := (nats (wordAt l 6 2 + 1)).map fun i => BitVec.ofNat 128 (wordAt l (0x80 + 16 * i) 16)
    reg := [], errs := [] }

/-- A binding is one that SLOAD takes on a die: nothing, a table of the context, die and stage, or a region in one of the
context's windows on the die. -/
def State.bindOk (s : State) (g : Prog) (d : Nat) (b : W64 × W64) : Bool :=
  let base := fld b.1 47 0
  let n := b.2.toNat
  match fld b.1 63 62 with
  | 0 => b.1 == 0 && b.2 == 0
  | 1 => fld b.1 61 12 == 0 && b.2 == 0
      && (s.die d).tables.any fun t => t.handle == base && t.ctx == g.ctx && t.stage == g.stage
  | 2 => fld b.1 61 48 == 0 && (match windowOf base with
      | some (q, off) => q / 28 == d && decide (off + n ≤ (s.ctx g.ctx).spLen q)
      | none => false)
  | _ => false

/-- A micro-operation is one that SLOAD takes: its code and fields, the kind of its binding and the length of the region. -/
def Prog.microOk (g : Prog) (u : W32) : Bool :=
  let kind (b : BitVec 2) : Nat := fld (nth (0, 0) g.binds b.toNat).1 63 62
  let len (b : BitVec 2) : Nat := (nth (0, 0) g.binds b.toNat).2.toNat
  match decodeMicro u with
  | none => false
  | some i => fieldsOk i && match i with
    | .lkp b _ _ => kind b == 1
    | .rewr b _ _ => kind b == 2 && decide (512 ≤ len b)
    | .score b d g' k => kind b == 2 && decide (2 * (d.toNat + 1) * (g'.toNat + 1) ≤ len b) && decide (k.toNat ≤ g'.toNat)
    | .addt b _ _ => kind b == 2
    | .depo b _ => kind b == 2
    | _ => true

/-- A stage image is one that SLOAD takes on the vats of a mask (R389). -/
def State.stageOk (s : State) (l : List Byte) (g : Prog) (vats : List Nat) : Bool :=
  wordAt l 0 4 == 0x56415453 && decide (g.stage ≤ 15) && decide (wordAt l 6 2 ≤ 255) && decide (g.entry < g.acts.length)
    && decide (g.regs ≤ 4096) && wordAt l 0x0A 54 == 0
    && (vats.all fun v => g.binds.all fun b => s.bindOk g (v / 4) b)
    && g.acts.all fun a => (microsOf a).all g.microOk

/-- Loads that no packet meets any more are forgotten. -/
def Vat.tidy (v : Vat) : Vat :=
  { v with progs := v.progs.filter fun g => match g.2.1 with
      | none => true
      | some e => v.pkts.any fun p => p.phase != .parse && decide (g.1 ≤ p.epoch ∧ p.epoch < e) }

/-- The program of a context and stage on a vat is replaced for packets admitted to stage 0 from now on (R391). -/
def State.setStage (s : State) (vat ctx stage : Nat) (g : Option Prog) : State :=
  s.modVat vat fun v =>
    let e := v.epoch + 1
    let old := v.progs.map fun (x : Nat × Option Nat × Prog) =>
      if x.2.1.isNone && x.2.2.ctx == ctx && x.2.2.stage == stage then (x.1, some e, x.2.2) else x
    ({ v with epoch := e, progs := old ++ (g.map fun x => (e, none, x)).toList } : Vat).tidy

/-- SLOAD: each accepted load extends CM of the context (R381). -/
def doSload (c : Cmd) (s : State) : CRes :=
  let vats := vatsOf (fld c.e.w2 15 0)
  let va := fld c.e.w3 47 0
  match s.fwRead c.ctx va 0x80 with
  | .bad r => s.cmdFail c r
  | .ok h =>
    if 255 < wordAt h 6 2 then .done s stBadarg 0
    else
      match s.fwRead c.ctx va (stageLen h) with
      | .bad r => s.cmdFail c r
      | .ok l =>
        let g := stageOf (cmdCtx c) l
        if !s.stageOk l g vats then .done s stBadarg 0
        else
          let s := vats.foldl (fun s v => s.setStage v g.ctx g.stage (some g)) s
          .done (s.modCtx g.ctx fun x => { x with cm := measured x.cm l }) stOk 0
/-- SLOAD. -/
def execSload (c : Cmd) (s : State) : Host.Outcome State Fault Refusal := .next (s.runCmd c 0x31 (doSload c))

/-- SUNLOAD: a stage without a program stays so. -/
def doSunload (c : Cmd) (s : State) : CRes :=
  .done ((vatsOf (fld c.e.w2 15 0)).foldl (fun s v => s.setStage v (cmdCtx c) (fld c.e.w2 19 16) none) s) stOk 0
/-- SUNLOAD. -/
def execSunload (c : Cmd) (s : State) : Host.Outcome State Fault Refusal := .next (s.runCmd c 0x32 (doSunload c))

/-! ## Stage tables (R390) -/

/-- The kind, key length and capacity of a table are ones that R390 allows. -/
def tableOk (kind klen cap : Nat) : Bool :=
  match kind with
  | 0 => decide (klen ≤ 32 ∧ cap ≤ 65536)
  | 1 => decide (klen ≤ 16 ∧ cap ≤ 64)
  | 2 => decide (klen = 4 ∧ cap ≤ 64)
  | _ => false

/-- The lowest table handle that no table of the package has. -/
def State.freeHandle (s : State) : Option Nat :=
  let used := (nats 4).flatMap fun d => (s.die d).tables.map fun t => t.handle
  (nats 4096).find? fun h => !used.contains h

/-- The bytes that the entries of a table take at the least: key, RESULT and ACTION. -/
def Table.bytes (kind klen cap : Nat) : Nat := cap * ((if kind = 0 then klen else 2 * klen) + 17)

/-- The bytes of the bank field of a die that its scratchpads leave (R12). -/
def State.bankLeft (s : State) (d : Nat) : Nat :=
  (Config.bankGranules - (nats 28).foldl (fun n q => n + SMap.get Config.spadGranules s.spad (28 * d + q)) 0) * 65536

/-- The stage-table pool of a die is short of a table: surely where the tables would not fit into what the scratchpads
leave of the bank field (R12); else that is open, for the size of the pool is not stated (log 2). -/
def State.tablesShort (s : State) (d n : Nat) : Bool :=
  decide (s.bankLeft d < (s.die d).tables.foldl (fun n t => n + Table.bytes t.kind t.klen t.cap) n) || Config.freeBool s.free

/-- TCREATE. -/
def doTcreate (c : Cmd) (s : State) : CRes :=
  let w := c.e.w2
  let kind := fld w 1 0
  let klen := fld w 7 2 + 1
  let cap := fld w 47 16 + 1
  let d := fld w 13 12
  if !tableOk kind klen cap then .done s stBadarg 0
  else
    let short := s.tablesShort d (Table.bytes kind klen cap)
    let s := { s with free := s.free + 1 }
    match s.freeHandle, short with
    | some h, false =>
      let t : Table := { ctx := cmdCtx c, handle := h, stage := fld w 11 8, kind, klen, cap, entries := [], errs := [] }
      .done (s.modDie d fun x => { x with tables := x.tables ++ [t] }) stOk (BitVec.ofNat 64 h)
    | _, _ => .done s stNores 0
/-- TCREATE. -/
def execTcreate (c : Cmd) (s : State) : Host.Outcome State Fault Refusal := .next (s.runCmd c 0x33 (doTcreate c))

/-- The table of a context with a handle, and its die. -/
def State.tableOf (s : State) (ctx h : Nat) : Option (Nat × Table) :=
  (nats 4).findSome? fun d => ((s.die d).tables.find? fun t => t.handle == h && t.ctx == ctx).map fun t => (d, t)

/-- INDEX of an entry. -/
def entryIndex (l : List Byte) : Nat := wordAt l 0x32 2

/-- An entry is one that R390 names: its unnamed bits are 0, and INDEX of a ternary or range entry is 0 to 63. -/
def Table.entryOk (t : Table) (l : List Byte) : Bool :=
  decide (entryByte l 0x31 < 4) && wordAt l 0x34 12 == 0 && (t.kind == 0 || decide (entryIndex l < 64))

/-- Writes one entry: none when an exact key finds no place, or a table of another kind holds its capacity at other INDEXes
(DESIGN CHOICE, log 88). -/
def Table.write (t : Table) (l : List Byte) : Option Table :=
  let valid := entryByte l 0x31 % 2 == 1
  let same (x : List Byte) : Bool := if t.kind = 0 then x.take t.klen == l.take t.klen else entryIndex x == entryIndex l
  let rest := t.entries.filter fun x => !same x
  let t := { t with errs := t.errs.filter fun x => !same x }
  if !valid then some { t with entries := rest }
  else if t.cap ≤ rest.length then none
  else if t.kind = 0 then some { t with entries := rest ++ [l] }
  else some { t with entries := sortBy (fun a b => decide (entryIndex a ≤ entryIndex b)) (l :: rest) }

/-- Writes entries in order: the table, and whether all found a place. -/
def writeAll : List (List Byte) → Table → Table × Bool
  | [], t => (t, true)
  | l :: ls, t =>
    match t.write l with
    | none => (t, false)
    | some t => writeAll ls t

/-- TWRITE. -/
def doTwrite (c : Cmd) (s : State) : CRes :=
  match s.tableOf (cmdCtx c) (fld c.e.w2 11 0) with
  | none => .done s stBadarg 0
  | some (d, t) =>
    let n := fld c.e.w4 15 0 + 1
    match s.fwRead c.ctx (fld c.e.w3 47 0) (64 * n) with
    | .bad r => s.cmdFail c r
    | .ok l =>
      let es := (nats n).map fun i => (l.drop (64 * i)).take 64
      if !es.all t.entryOk then .done s stBadarg 0
      else
        let (u, all) := writeAll es t
        .done (s.modDie d fun x => { x with tables := x.tables.map fun y => if y.handle = t.handle then u else y })
          (if all then stOk else stNores) (if all then 0 else BitVec.ofNat 64 t.handle)
/-- TWRITE. -/
def execTwrite (c : Cmd) (s : State) : Host.Outcome State Fault Refusal := .next (s.runCmd c 0x34 (doTwrite c))

/-- A loaded program of a vat of the die binds a table. -/
def State.tableBound (s : State) (d : Nat) (t : Table) : Bool :=
  (natsFrom (4 * d) 4).any fun v => (s.vat v).progs.any fun g =>
    g.2.2.ctx == t.ctx && g.2.2.binds.any fun b => fld b.1 63 62 == 1 && fld b.1 11 0 == t.handle

/-- TDESTROY. -/
def doTdestroy (c : Cmd) (s : State) : CRes :=
  match s.tableOf (cmdCtx c) (fld c.e.w2 11 0) with
  | none => .done s stBadarg 0
  | some (d, t) =>
    if s.tableBound d t then .done s stBusy (BitVec.ofNat 64 t.handle)
    else .done (s.modDie d fun x => { x with tables := x.tables.filter fun y => y.handle != t.handle }) stOk 0
/-- TDESTROY. -/
def execTdestroy (c : Cmd) (s : State) : Host.Outcome State Fault Refusal := .next (s.runCmd c 0x35 (doTdestroy c))

/-! ## RREAD and VSTAT (R409, R410) -/

/-- The firmware writes bytes for the context of a command, and the command is done. -/
def State.cmdWrite (s : State) (c : Cmd) (va : Nat) (l : List Byte) : CRes :=
  match transPages (s.look c.ctx .wr) (pagesOf va l.length) with
  | .ok h => .done (s.frontWrite c.ctx h 0 va l) stOk 0
  | r => s.cmdFail c r

/-- RREAD: the registers of the program that packets admitted now meet. -/
def doRread (c : Cmd) (s : State) : CRes :=
  let v := fld c.e.w2 3 0
  match s.progOf v (s.vat v).epoch (cmdCtx c) (fld c.e.w2 7 4) with
  | none => .done s stBadarg 0
  | some g =>
    if g.regs = 0 then .done s stOk 0
    else s.cmdWrite c (fld c.e.w3 47 0) ((nats g.regs).flatMap fun r => bytesLE 8 (SMap.get 0 g.reg r).toNat)
/-- RREAD. -/
def execRread (c : Cmd) (s : State) : Host.Outcome State Fault Refusal := .next (s.runCmd c 0x36 (doRread c))

/-- VSTAT: 16 counters and 256 reason counts. -/
def doVstat (c : Cmd) (s : State) : CRes :=
  let v := s.vat (fld c.e.w2 3 0)
  s.cmdWrite c (fld c.e.w3 47 0)
    (((nats 16).flatMap fun i => bytesLE 8 (SMap.get 0 v.ctrs i).toNat) ++ (nats 256).flatMap fun i => bytesLE 8 (SMap.get 0 v.reasons i).toNat)
/-- VSTAT. -/
def execVstat (c : Cmd) (s : State) : Host.Outcome State Fault Refusal := .next (s.runCmd c 0x37 (doVstat c))

end Sys2Proof.Machine
end

