-- ==== Sys2Proof/Machine/Periods.lean ====
section
/-!
DEFINITION. The firmware period (R339, R340): polls, command execution, launches, device requests (R347), misses and the
fault queue, and the slots of the host adapter and of the logs (R348, R372).
-/

namespace Sys2Proof.Machine

/-! ## Polls (R339, R340, R345) -/

/-- The report ticket that a poll holds for a command before it takes it. -/
inductive RepTicket where
  | none
  | held (k : Nat)
  | wait
  deriving DecidableEq, Repr

/-- Reserves the ticket of a command's report: none for NOP and WAITL and where RQ names no queue; the command waits while
the queue is not resident or full (R345). -/
def State.reserveRep (s : State) (d ctx : Nat) (e : Entry) : RepTicket × State :=
  let ag := agentFirmware d
  let rq := fld e.w0 55 44
  let op := fld e.w0 63 56
  if rq = 4095 ∨ op = 0 ∨ op = 7 ∨ (s.queue ctx rq).st = qFree then (.none, s)
  else if (s.queue ctx rq).st ≠ qResident then (.wait, s.qMiss ctx rq)
  else if s.queueTurn ctx rq ag = false then (.wait, s)
  else
    let (v, t) := s.qRes ctx rq 0
    if v = qNone then (.wait, s) else (.held v.toNat, t.queueLog ctx rq ag)

/-- The firmware advances H and releases the ticket at once (R339). -/
def State.takeHead (s : State) (d ctx h : Nat) : State :=
  let k := (s.queue ctx h).h
  (((s.queueLog ctx h (agentFirmware d)).qTake ctx h).2).qRelease ctx h k

/-- Takes the entry at the head of a queue; none when there is none that can be taken. -/
def State.pollOne (s : State) (d ctx h : Nat) : Option State :=
  let q := s.queue ctx h
  if q.st ≠ qResident ∨ q.cons ≠ 0 ∨ q.h = q.p ∨ (s.ctx ctx).st ≠ .runnable ∨ 256 ≤ (s.die d).cmds.length
    ∨ s.queueTurn ctx h (agentFirmware d) = false then none
  else
    let key := s.qKey ctx h q.h
    if (s.badIn key 64).isSome then
      some ((s.addLog d ctx ⟨0x0300000000000000, BitVec.ofNat 64 h, q.h.setWidth 64, BitVec.ofNat 64 (q.entryVa q.h), 0, 0, 0, 0⟩).takeHead d ctx h)
    else
      let e := entryOf (s.rdBytes key 64)
      let (t, s) := s.reserveRep d ctx e
      match t with
      | .wait => none
      | .none => some ((s.modDie d fun x =>
          { x with cmds := x.cmds ++ [⟨d, ctx, h, Option.none, SMap.get false q.inj (q.idx q.h), e⟩] }).takeHead d ctx h)
      | .held k => some ((s.modDie d fun x =>
          { x with cmds := x.cmds ++ [⟨d, ctx, h, some k, SMap.get false q.inj (q.idx q.h), e⟩] }).takeHead d ctx h)

/-- Takes up to a number of commands of a queue. -/
def pollGo (d ctx h : Nat) : Nat → State → State
  | 0, s => s
  | n + 1, s => match s.pollOne d ctx h with
    | some t => pollGo d ctx h n t
    | none => s

/-- The queue whose report a waiting command needs is called for, though the command stays. -/
def State.callRep (s : State) (ctx h : Nat) : State :=
  let q := s.queue ctx h
  if q.st = qResident ∧ q.cons = 0 ∧ q.h ≠ q.p ∧ (s.ctx ctx).st = .runnable then
    let rq := fld (entryOf (s.rdBytes (s.qKey ctx h q.h) 64)).w0 55 44
    if rq = 4095 then s else s.qMiss ctx rq
  else s

/-- The poll of some queues of a die, in the order of their entries. -/
def State.poll (s : State) (d n : Nat) (p : Queue → Bool) : State :=
  ((s.entries d).filter fun q => q.2.2.st == qResident && p q.2.2).foldl (fun s q => (pollGo d q.1 q.2.1 n s).callRep q.1 q.2.1) s

/-- The class-0 poll. -/
def State.pollClass0 (s : State) (d : Nat) : State := s.poll d 8 fun q => q.pin && q.cls == 0 && q.cons == 0

/-- The resident poll of slot `k`. -/
def State.pollResident (s : State) (d k : Nat) : State :=
  s.poll d 2 fun q => decide (16 * (k - 1) ≤ q.ridx - 1 ∧ q.ridx - 1 ≤ 16 * (k - 1) + 15)

/-! ## Command execution (R342) -/

/-- Executes one command of the buffer by its code. -/
def State.runOp (s : State) (c : Cmd) : State :=
  match cmdOp c with
  | 0x00 => s.runCmd c 0x00 doNop
  | 0x01 => s.runCmd c 0x01 (doInvoke c)
  | 0x02 => s.runCmd c 0x02 (doLoadimg c)
  | 0x03 => s.runCmd c 0x03 (doUnloadimg c)
  | 0x04 => s.runCmd c 0x04 (doQcreate c)
  | 0x05 => s.runCmd c 0x05 (doQdestroy c)
  | 0x06 => s.runCmd c 0x06 (doQpin c)
  | 0x07 => s.runCmd c 0x07 (doWaitl c)
  | 0x10 => s.runCmd c 0x10 (doMap c)
  | 0x11 => s.runCmd c 0x11 (doUnmap c)
  | 0x12 => s.runCmd c 0x12 (doProtect c)
  | 0x13 => s.runCmd c 0x13 (doMigrate c)
  | 0x14 => s.runCmd c 0x14 (doResolve c)
  | 0x15 => s.runCmd c 0x15 (doPbcreate c)
  | 0x16 => s.runCmd c 0x16 (doPbdestroy c)
  | 0x20 => s.runCmd c 0x20 (doCtxcreate c)
  | 0x21 => s.runCmd c 0x21 (doCtxload c)
  | 0x22 => s.runCmd c 0x22 (doCtxrun c)
  | 0x23 => s.runCmd c 0x23 (doCtxquiesce c)
  | 0x24 => s.runCmd c 0x24 (doCtxkill c)
  | 0x25 => s.runCmd c 0x25 (doCtxdestroy c)
  | 0x26 => s.runCmd c 0x26 (doCtxres c)
  | 0x27 => s.runCmd c 0x27 (doAttest c)
  | 0x28 => s.runCmd c 0x28 (doRecord c)
  | 0x30 => s.runCmd c 0x30 (doPload c)
  | 0x31 => s.runCmd c 0x31 (doSload c)
  | 0x32 => s.runCmd c 0x32 (doSunload c)
  | 0x33 => s.runCmd c 0x33 (doTcreate c)
  | 0x34 => s.runCmd c 0x34 (doTwrite c)
  | 0x35 => s.runCmd c 0x35 (doTdestroy c)
  | 0x36 => s.runCmd c 0x36 (doRread c)
  | 0x37 => s.runCmd c 0x37 (doVstat c)
  | _ => s.runBad c

/-- The execution slots of a die: commands of class 0 first, each class in the order taken; then what commands that have
begun still have to do. A command that waits stays, and holds up no other (log 29). -/
def State.execSlot (s : State) (d : Nat) : State :=
  let l := (s.die d).cmds
  let zero (c : Cmd) : Bool := (s.queue c.ctx c.queue).cls == 0
  let s := (l.filter zero ++ l.filter fun c => !zero c).foldl (fun s c => if (s.die d).cmds.contains c then s.runOp c else s) s
  (s.jobsStep d).quiesceTurn d

/-! ## Device requests (R347) -/

/-- LSTAT from the launch table of a die. -/
def State.lstat (s : State) (d ctx lid : Nat) : W64 :=
  match s.lent d ctx lid with
  | none => 5
  | some e =>
    let c := match e.st with
      | .waiting => 0
      | .active => 1
      | .localDone => 2
      | .complete => 3
      | .cancelled => 4
    BitVec.ofNat 64 (c + if e.err then 256 else 0)

/-- QSTAT. -/
def State.qstat (s : State) (ctx : Nat) (h : W64) : W64 :=
  if 4095 < h.toNat then BitVec.allOnes 64
  else
    let q := s.queue ctx h.toNat
    BitVec.ofNat 64 (q.st * 2 ^ 61 + q.badc.toNat * 2 ^ 32 + (q.p - q.f).toNat % 65536 * 65536 + (q.t - q.p).toNat % 65536)

/-- The answer to an SVC. -/
def State.svcAnswer (s : State) (d : Nat) (a : Acc) : W64 × State :=
  match a.op with
  | 1 => (s.qstat a.ctx a.v, s)
  | 2 => (s.lstat d a.ctx (a.v.toNat % 2 ^ 32), s)
  | 3 => (BitVec.ofNat 64 (s.dieCycle / 2), s)
  | 4 => (0, s.addLog d a.ctx ⟨0x0100000000000000, a.v, a.x, BitVec.ofNat 64 (ofBytesLE (a.rcd.take 8)), BitVec.ofNat 64 a.carr, 0, 0, 0⟩)
  | _ => (0, s)

/-- Answers an SVC once every earlier event of its seat is performed. -/
def State.serveSvc (s : State) (d id : Nat) : State :=
  match s.accs.find? fun a => a.id == id with
  | none => s.modDie d fun x => { x with svcs := x.svcs.filter fun i => i != id }
  | some a =>
    if s.postReady a.ctx a.carr id then
      let (v, s) := s.svcAnswer d a
      ((s.dropAcc id).deliver id v 0).modDie d fun x => { x with svcs := x.svcs.filter fun i => i != id }
    else s

/-! ## Logs (R372) -/

/-- Publishes the log entries of a die as far as their queues take them; an entry whose LOGH
names no queue with CONS = 2 is discarded (log 55). -/
def State.postLogs (s : State) (d : Nat) : State :=
  let l := (s.die d).logs
  let r := l.foldl (fun (r : List LogEnt × List Nat × State) e =>
    let (left, held, s) := r
    let h := (s.ctx e.ctx).logh
    let q := s.queue e.ctx h
    if held.contains e.ctx then (left ++ [e], held, s)
    else if q.st = qFree || q.cons != 2 then (left, held, s)
    else
      let n := Nat.min 65535 (SMap.get 0 (s.die d).drops e.ctx)
      let w0 := BitVec.ofNat 64 (e.e.w0.toNat + d * 2 ^ 48 + n * 2 ^ 32)
      match s.qPut e.ctx h (agentFirmware d) (Entry.bytes { e.e with w0 := w0 }) with
      | some t => (left, held, t.modDie d fun x => { x with drops := SMap.erase x.drops e.ctx })
      | none => (left ++ [e], e.ctx :: held, s.qMiss e.ctx h)) ([], [], s)
  r.2.2.modDie d fun x => { x with logs := r.1 ++ x.logs.drop l.length }

/-! ## The adapter (R348) -/

/-- Host accesses held in the adapter go to their queue, each queue's in order, once its miss is served; those to a queue that is
gone are ignored. -/
def hostGo : List (Nat × Nat × W64 × Nat) → List (Nat × Nat) → State → State
  | [], _, s => s
  | e :: es, held, s =>
    let q := s.queue e.1 e.2.1
    let gone (s : State) : State := { s with hostHeld := s.hostHeld.erase e }
    if held.contains (e.1, e.2.1) then hostGo es held s
    else if q.st = qFree then hostGo es held (if 2 ≤ e.2.2.2 then (gone s).answer (BitVec.allOnes 64) else gone s)
    else if s.hostMay e.1 e.2.1 then hostGo es held ((gone s).hostDo e.1 e.2.1 e.2.2.1 e.2.2.2)
    else hostGo es ((e.1, e.2.1) :: held) (s.qMiss e.1 e.2.1)

/-- The host adapter's slots: what it holds, and the host commands to be logged (R339, R348). -/
def State.hostSlot (s : State) : State :=
  let s := hostGo s.hostHeld [] s
  s.hostCmds.foldl (fun s e => s.hostLog e.1 2 (BitVec.ofNat 64 e.2.1) (e.2.2.1.setWidth 64) e.2.2.2) { s with hostCmds := [] }

/-! ## The period (R339) -/

/-- A step of the firmware, as often as there is something for it. -/
def repeatStep (f : State → Host.Outcome State Fault Refusal) : Nat → State → State
  | 0, s => s
  | n + 1, s => match f s with
    | .next t => repeatStep f n t
    | _ => s

/-- The launch slots: D0 assigns LIDs, each die takes the packets that have come, and reports go out (R339, R344). -/
def State.launchSlot (s : State) (d : Nat) : State :=
  let s := if d = 0 then s.assignAll.logFull else s
  (repeatStep (execLaunchPacketReceived d) (s.die d).inbox.length s).postReports d

/-- The slots of device requests: notices, injections, and the answers to SVC (R339). -/
def State.requestSlot (s : State) (d : Nat) : State :=
  let s := repeatStep (execCompletionNotice d) (s.die d).notices.length s
  let s := repeatStep (execRindNotice d) (s.die d).rnotices.length s
  let s := (s.curds.filter fun c => c.2.1 / 28 == d && c.2.2.2.isNone).foldl
    (fun s c => if (s.ctx c.1).st = .runnable then s.inject c.1 c.2.1 c.2.2.1 else s) s
  (s.die d).svcs.foldl (fun s i => s.serveSvc d i) s

/-- The job of a slot. -/
def State.slotJob (s : State) (d k : Nat) : State :=
  if k = 0 ∨ k = 32 then s.pollClass0 d
  else if k ≤ 16 then s.pollResident d k
  else if k ≤ 47 then s.execSlot d
  else if k ≤ 51 then s.launchSlot d
  else if k ≤ 55 then s.requestSlot d
  else if k ≤ 59 then (s.queueSlot d).deliverAll d
  else (if d = 0 then s.hostSlot else s).postLogs d

/-- The slot of a die that runs now is one of some. -/
def Die.inSlots (x : Die) (lo hi : Nat) : Bool :=
  let k := (x.fwSlot + 63) % 64
  decide (lo ≤ k ∧ k ≤ hi)

/-- FIRMWARE_PERIOD_SLOT: a slot of 64 firmware cycles, 128 die cycles, begins on a die, and its job runs. -/
def execFirmwarePeriodSlot (die : Nat) (s : State) : Host.Outcome State Fault Refusal :=
  .next (
    let k := (s.die die).fwSlot
    if (s.power = .active ∨ s.power = .gated) ∧ k * 128 ≤ s.dieCycle then
      (s.slotJob die (k % 64)).modDie die fun x => { x with fwSlot := k + 1 }
    else s)

end Sys2Proof.Machine
end

