-- ==== Sys2Proof/Machine/Ports.lean ====
section
/-!
DEFINITION. The ports (R412, R413, R417, R420): training and loss of a link, HELLO, credits, and the egress.
-/

namespace Sys2Proof.Machine

/-! ## States of a port (R412) -/

/-- The credits of a link as it comes up: 256 flits for each virtual channel (R420). -/
def fullCredits : SMap Nat := (nats 10).foldl (fun m v => SMap.set 0 m v 256) []

/-- The port goes UP, or DEGRADED, with its credits set. -/
def Port.comeUp (p : Port) (st : PortSt) : Port := { p with st, credits := fullCredits }

/-- In TRAINING, both lanes are locked and, in SKF mode, a HELLO has come. -/
def Port.trained (p : Port) : Bool := p.st == .training && p.locked && (p.mode == 2 || p.heard)

/-- The port goes UP once it is trained. -/
def Port.settle (p : Port) : Port := if p.trained then p.comeUp .up else p

/-- The link is lost: the egress is dropped and counted, and outstanding credits are discarded. -/
def Port.lose (p : Port) : Port :=
  if p.st = .up ∨ p.st = .degraded then
    { p with st := .training, heard := false, locked := false, credits := [], egress := [], linkDrop := p.linkDrop + p.egress.length }
  else p

/-- The HELLO of this end of a link: link-local, with fabric time in TS (R416, R417). The peer's chip id is that of the last HELLO
heard, before which it is 0 (log 68). -/
def State.helloFrame (s : State) (port : Nat) : List Byte :=
  let h := plainSkf (s.port port).peer 0 0x20 true 0
  s.skfFrame port ⟨{ h with schip := BitVec.ofNat 16 s.chip, ts := BitVec.ofNat 16 (s.fabTime (port / 32)) }, []⟩

/-- An SKF port whose lanes have locked sends its HELLO over the link (R412, log 68). -/
def State.sendHello (s : State) (port : Nat) : State :=
  if (s.port port).mode = 1 then { s with wire := (port, s.helloFrame port) :: s.wire } else s

/-- LANES_LOCKED. -/
def execLanesLocked (port : Nat) (s : State) : Host.Outcome State Fault Refusal :=
  .next (if (s.port port).st = .training then
      (s.sendHello port).modPort port fun p => ({ p with locked := true } : Port).settle
    else s)

/-- TRAINING_TIMEOUT: 100 ms with one lane locked, or with none. -/
def execTrainingTimeout (port : Nat) (oneLane : Bool) (s : State) : Host.Outcome State Fault Refusal :=
  .next (if (s.port port).st = .training then
      (if oneLane then s.sendHello port else s).modPort port fun p =>
        if oneLane then p.comeUp .degraded else { p with trainFail := p.trainFail + 1, heard := false, locked := false }
    else s)

/-- SECOND_LANE_LOCK. -/
def execSecondLaneLock (port : Nat) (s : State) : Host.Outcome State Fault Refusal :=
  .next (if (s.port port).st = .degraded then s.modPort port fun p => { p with st := .up, locked := true } else s)

/-- LOSS_OF_LOCK. -/
def execLossOfLock (port : Nat) (s : State) : Host.Outcome State Fault Refusal := .next (s.modPort port Port.lose)

/-- FEC_ERROR_WINDOW: more than 2^−12 of the code words of 1 ms were uncorrectable. -/
def execFecErrorWindow (port bad total : Nat) (s : State) : Host.Outcome State Fault Refusal :=
  .next (if total < bad * 4096 then s.modPort port Port.lose else s)

/-- HELLO: the peer's chip id, and fabric time, which the die takes over where it is ahead (R412, R417, log 24). -/
def execHello (port : Nat) (chip : BitVec 16) (time : Nat) (s : State) : Host.Outcome State Fault Refusal :=
  .next (
    let p := s.port port
    if p.mode = 1 ∧ p.st ≠ .off then
      let s := s.modPort port fun p => ({ p with heard := true, peer := chip.toNat } : Port).settle
      s.modDie (port / 32) fun x => { x with ftime := Nat.max x.ftime time }
    else s)

/-! ## Credits and the egress (R413, R417, R420) -/

/-- CREDIT_RETURN: the other end has freed flits of a virtual channel. -/
def execCreditReturn (port vc flits : Nat) (s : State) : Host.Outcome State Fault Refusal :=
  .next (if s.usable port ∧ vc < 10 then
      s.modPort port fun p => { p with credits := SMap.set 0 p.credits vc (Nat.min 256 (SMap.get 0 p.credits vc + flits)) }
    else s)

/-- The flits of a frame. -/
def EFrame.flits (f : EFrame) : Nat := cdiv f.bytes.length 64

/-- The credits that a frame needs on its channel: 32 flits stay for class 0 (R413). -/
def EFrame.needs (f : EFrame) : Nat := if f.cls = 0 then f.flits else f.flits + 32

/-- The frame that leaves next: in order of class and arrival, the first whose channel has the credits and is not blocked by
a frame before it. -/
def nextFrame (credits : SMap Nat) : List Nat → List EFrame → Option EFrame
  | _, [] => none
  | blocked, f :: fs =>
    if blocked.contains f.vc then nextFrame credits blocked fs
    else if f.needs ≤ SMap.get 0 credits f.vc then some f
    else nextFrame credits (f.vc :: blocked) fs

/-- The frames of an egress in the order in which they are served. -/
def Port.served (p : Port) : List EFrame := (nats 4).flatMap fun c => p.egress.filter fun f => f.cls == c

/-- EGRESS_TRANSMIT: a frame leaves the package. -/
def execEgressTransmit (port : Nat) (s : State) : Host.Outcome State Fault Refusal :=
  .next (
    let p := s.port port
    if !s.usable port then s
    else
      match nextFrame p.credits [] p.served with
      | none => s
      | some f =>
        { s.modPort port fun p =>
            { p with egress := p.egress.erase f, credits := SMap.set 0 p.credits f.vc (SMap.get 0 p.credits f.vc - f.flits) } with
          wire := (port, f.bytes) :: s.wire })

/-- EGRESS_AGE_DROP: a frame that the chip has held for more than 1 ms. -/
def execEgressAgeDrop (port : Nat) (s : State) : Host.Outcome State Fault Refusal :=
  .next (match (s.port port).egress.find? fun f => decide (f.at_ + 1000 * usCycles < s.dieCycle) with
    | none => s
    | some f => s.modPort port fun p => { p with egress := p.egress.erase f, ageDrop := p.ageDrop + 1 })

end Sys2Proof.Machine
end

