-- ==== Sys2Proof/Machine/Power.lean ====
section
/-!
DEFINITION. The power states of the package (R18): power-up and boot, power-down, and array gating (R19).
-/

namespace Sys2Proof.Machine

/-! ## Power and boot (R12, R14, R18, R376, R377, R381) -/

/-- What power-down and power-up leave: host memory, what has gone out and what comes in, and the model's own counters. -/
def State.powered (s : State) (p : Power) : State :=
  { State.reset with
    power := p, inputs := s.inputs, free := s.free, nextId := s.nextId, hostOut := s.hostOut, wire := s.wire
    mem := s.mem.filter fun (e : Nat × Byte) => decide (hostBase ≤ e.1 ∧ e.1 < spadBase) }

/-- POWER_ON. -/
def execPowerOn (s : State) : Host.Outcome State Fault Refusal :=
  .next (if s.power = .off then { s.powered .boot with cdi0 := Config.fuseSecret } else s)

/-- BOOT_FAIL: the code goes to the host adapter. -/
def execBootFail (code : Nat) (s : State) : Host.Outcome State Fault Refusal :=
  .next (if s.power = .boot then (s.powered .off).answer (BitVec.ofNat 64 code) else s)

/-- A queue that the boot configuration creates, resident while entries are free (R331). -/
def State.bootQueue (s : State) (h : Nat) (w0 : W64) : State :=
  let held := match transPages (s.lookRing 0) (pagesOf (fld w0 47 0) (64 * 2 ^ fld w0 51 48)) with
    | .ok l => l
    | _ => []
  s.modQueue 0 h fun _ => newQueue w0 held ((s.freeEntry (fld w0 57 56)).getD 0) s.dieCycle

/-- The system context as the boot configuration makes it: tag 0, RUNNABLE, key slot 0 (R368, R376, log 32). -/
def BootCfg.system (g : BootCfg) (key : BitVec 512) : Ctx :=
  let w (i : Nat) : W64 := SMap.get 0 g.desc i
  let sp : SMap Nat := g.splen.map fun (e : Nat × Nat) => (e.1, e.2 * 65536)
  let y : Ctx := { Ctx.fresh with
    st := .runnable, desc := SMap.set 0 g.desc 0 (w 0 ||| 0x0800000000000000), key := some 0, keyVal := key
    rsvSeats := fld (w 4) 63 57, rsvBw := fld (w 4) 56 49, splen := sp, spTab := sp }
  let y := (((y.mapRegion y.poolVa (y.pooln * 65536)).mapRegion y.saveVa 0x20000000).mapRegion y.caraVa (y.carn * 65536)).mapRegion
    y.rktVa (y.nrk * 32)
  { y with small := g.leaves.foldl (fun m e => SMap.set Leaf.absent m e.1 (leafOf e.2)) y.small }

/-- A stage program of the boot configuration, if it is one that SLOAD takes; it extends CM of the system context (R381). -/
def State.bootStage (s : State) (e : Nat × List Byte) : State :=
  let g := stageOf 0 e.2
  if s.stageOk e.2 g (vatsOf e.1) then
    ((vatsOf e.1).foldl (fun s v => s.setStage v 0 g.stage (some g)) s).modCtx 0 fun x => { x with cm := measured x.cm e.2 }
  else s

/-- What the ROM and the boot configuration can fix: scratchpads of 16 to 48 granules (R12), and a map for an enabled core
that binds the eight slots to eight register files and to seven or eight datapaths, of nine each (R14). -/
def BootCfg.ok (g : BootCfg) : Bool :=
  g.spad.all (fun e => decide (e.1 < 112 ∧ 16 ≤ e.2 ∧ e.2 ≤ 48))
    && g.engines.all fun e => decide (e.1 < 448) && decide (e.2.1.length = 8 ∧ (e.2.2.length = 7 ∨ e.2.2.length = 8))
      && (e.2.1 ++ e.2.2).all (fun i => decide (i < 9)) && decide (e.2.1.Nodup ∧ e.2.2.Nodup)

/-- The DeviceID seed: the first 32 bytes of H(CDI0, "MQ2 DEVICEID") (R381). -/
def State.deviceSeed (s : State) : List Byte :=
  (hmac512 (bytes512 s.cdi0) [0x4D, 0x51, 0x32, 0x20, 0x44, 0x45, 0x56, 0x49, 0x43, 0x45, 0x49, 0x44]).take 32

/-- Layers 0 and 1 of the identity (R381): CDI1 from the record, the Alias certificate signed with the DeviceID key, and
CDI0 erased. -/
def State.identify (s : State) (record : List Byte) : State :=
  let digest := sha512 record
  let t : State := { s with bootCfg := record, cdi1 := bits512 (hmac512 (bytes512 s.cdi0) digest), cdi0 := 0 }
  let key : BitVec 256 := BitVec.ofNat 256 (ofBytesLE (edPublic t.aliasSeed))
  let cert := edSign s.deviceSeed (Config.certBytes key (bits512 digest))
  { t with deviceKey := BitVec.ofNat 256 (ofBytesLE (edPublic s.deviceSeed)), aliasCert := some ⟨key, bits512 digest, bits512 cert⟩ }

/-- BOOT_COMPLETE: the package is ACTIVE, with what the boot configuration record fixes; the die cycles count from here (R22).
A configuration that the ROM cannot fix is none of its reports. -/
def execBootComplete (cfg : BootCfg) (s : State) : Host.Outcome State Fault Refusal :=
  .next (if s.power = .boot ∧ BootCfg.ok cfg = true then
      let key := Config.freeKey s.free
      let s : State := { s.identify cfg.record with
        power := .active, dieCycle := 0, turn := [], free := s.free + 1, chip := cfg.chip.toNat, spad := cfg.spad, keySlots := [(0, 1)]
        ctxs := SMap.set Ctx.fresh s.ctxs 0 (BootCfg.system cfg key) }
      let s := cfg.engines.foldl (fun s e => s.modCore e.1 fun x => { x with slotMap := e.2.1, paths := e.2.2 }) s
      let s := cfg.ports.foldl (fun s p => s.modPort p.1 fun x => { x with mode := p.2, st := if p.2 = 0 then .off else .training }) s
      let s := cfg.queues.foldl (fun s q => s.bootQueue q.1 q.2) s
      let s := cfg.parsers.foldl (fun s e => if parserOk e.2 then (vatsOf e.1).foldl (fun s v => s.loadParser v e.2) s else s) s
      cfg.stages.foldl State.bootStage s
    else s)

/-- POWER_DOWN: every context is killed, and nothing is saved. -/
def execPowerDown (s : State) : Host.Outcome State Fault Refusal :=
  .next (if s.power = .active ∨ s.power = .gated then
      ((s.ctxs.filter fun c => c.2.st.live).foldl (fun s c => s.killCtx c.1 3 none 0 0) s).powered .off
    else s)

/-! ## Gating (R19) -/

/-- POWER_WINDOW: the mean power of 1 ms, in milliwatts. -/
def execPowerWindow (mw : Nat) (s : State) : Host.Outcome State Fault Refusal :=
  .next (if s.power = .active ∧ 4200000 < mw then { s with power := .gated }
    else if s.power = .gated ∧ mw ≤ 4000000 then { s with power := .active }
    else s)

/-- It is a quad's turn to be gated: one cycle in each eight, quad after quad (log 25). -/
def State.gateTurn (s : State) (quad : Nat) : Bool :=
  s.power == .gated && s.dieCycle % 8 == quad % 8 && !(s.quad quad).gatedNow

/-- GATED_CYCLE: the quad's array and cores are frozen for this die cycle. -/
def execGatedCycle (quad : Nat) (s : State) : Host.Outcome State Fault Refusal :=
  .next (if s.gateTurn quad then
      { s.modQuad quad fun q => { q with gated := q.gated + 1, gatedNow := true } with turn := s.turn.filter fun (c : Nat) => c / 4 != quad }
    else s)

end Sys2Proof.Machine
end

