-- ==== Sys2Proof/Machine/Dispatch.lean ====
section
/-!
DEFINITION. The meaning of every step: one arm for each constructor of `Instr`.
-/

namespace Sys2Proof.Machine

def exec (i : Instr) (s : State) : Host.Outcome State Fault Refusal :=
  match i with
  | .bundleIssue core => Sys2Proof.Machine.execBundleIssue core s
  | .landingDataReturn id => Sys2Proof.Machine.execLandingDataReturn id s
  | .producerResultArrival id => Sys2Proof.Machine.execProducerResultArrival id s
  | .streamElementFetch seat sq => Sys2Proof.Machine.execStreamElementFetch seat sq s
  | .streamElementWrite seat sq => Sys2Proof.Machine.execStreamElementWrite seat sq s
  | .jr b p => Sys2Proof.Machine.execJr b p s
  | .jlr a b p => Sys2Proof.Machine.execJlr a b p s
  | .ret b p => Sys2Proof.Machine.execRet b p s
  | .trap imm => Sys2Proof.Machine.execTrap imm s
  | .bra off => Sys2Proof.Machine.execBra off s
  | .bl a off => Sys2Proof.Machine.execBl a off s
  | .beq b c p q off => Sys2Proof.Machine.execBeq b c p q off s
  | .bne b c p q off => Sys2Proof.Machine.execBne b c p q off s
  | .blt b c p q off => Sys2Proof.Machine.execBlt b c p q off s
  | .bge b c p q off => Sys2Proof.Machine.execBge b c p q off s
  | .bltu b c p q off => Sys2Proof.Machine.execBltu b c p q off s
  | .bgeu b c p q off => Sys2Proof.Machine.execBgeu b c p q off s
  | .bkany k mask off => Sys2Proof.Machine.execBkany k mask off s
  | .loop b p off => Sys2Proof.Machine.execLoop b p off s
  | .loopq n off => Sys2Proof.Machine.execLoopq n off s
  | .add w a b c p q => Sys2Proof.Machine.execAdd w a b c p q s
  | .sub w a b c p q => Sys2Proof.Machine.execSub w a b c p q s
  | .mul w a b c p q => Sys2Proof.Machine.execMul w a b c p q s
  | .mulh w a b c p q => Sys2Proof.Machine.execMulh w a b c p q s
  | .mulhu w a b c p q => Sys2Proof.Machine.execMulhu w a b c p q s
  | .div w a b c p q => Sys2Proof.Machine.execDiv w a b c p q s
  | .divu w a b c p q => Sys2Proof.Machine.execDivu w a b c p q s
  | .rem w a b c p q => Sys2Proof.Machine.execRem w a b c p q s
  | .remu w a b c p q => Sys2Proof.Machine.execRemu w a b c p q s
  | .and w a b c p q => Sys2Proof.Machine.execAnd w a b c p q s
  | .or w a b c p q => Sys2Proof.Machine.execOr w a b c p q s
  | .xor w a b c p q => Sys2Proof.Machine.execXor w a b c p q s
  | .shl w a b c p q => Sys2Proof.Machine.execShl w a b c p q s
  | .shr w a b c p q => Sys2Proof.Machine.execShr w a b c p q s
  | .sar w a b c p q => Sys2Proof.Machine.execSar w a b c p q s
  | .shli w a b n p => Sys2Proof.Machine.execShli w a b n p s
  | .shri w a b n p => Sys2Proof.Machine.execShri w a b n p s
  | .sari w a b n p => Sys2Proof.Machine.execSari w a b n p s
  | .clz w a b p => Sys2Proof.Machine.execClz w a b p s
  | .ctz w a b p => Sys2Proof.Machine.execCtz w a b p s
  | .popc w a b p => Sys2Proof.Machine.execPopc w a b p s
  | .min w a b c p q => Sys2Proof.Machine.execMin w a b c p q s
  | .max w a b c p q => Sys2Proof.Machine.execMax w a b c p q s
  | .minu w a b c p q => Sys2Proof.Machine.execMinu w a b c p q s
  | .maxu w a b c p q => Sys2Proof.Machine.execMaxu w a b c p q s
  | .seq w a b c p q => Sys2Proof.Machine.execSeq w a b c p q s
  | .slt w a b c p q => Sys2Proof.Machine.execSlt w a b c p q s
  | .sltu w a b c p q => Sys2Proof.Machine.execSltu w a b c p q s
  | .fadd a b c p q rm sat => Sys2Proof.Machine.execFadd a b c p q rm sat s
  | .fsub a b c p q rm sat => Sys2Proof.Machine.execFsub a b c p q rm sat s
  | .fmul a b c p q rm sat => Sys2Proof.Machine.execFmul a b c p q rm sat s
  | .fdiv a b c p q rm sat => Sys2Proof.Machine.execFdiv a b c p q rm sat s
  | .fsqrt a b p rm sat => Sys2Proof.Machine.execFsqrt a b p rm sat s
  | .fmin a b c p q => Sys2Proof.Machine.execFmin a b c p q s
  | .fmax a b c p q => Sys2Proof.Machine.execFmax a b c p q s
  | .fcmp a b c p q cond => Sys2Proof.Machine.execFcmp a b c p q cond s
  | .fcvt a b tgt src p rm sat => Sys2Proof.Machine.execFcvt a b tgt src p rm sat s
  | .rdc a num => Sys2Proof.Machine.execRdc a num s
  | .wrc num c q => Sys2Proof.Machine.execWrc num c q s
  | .stow j b p vec => Sys2Proof.Machine.execStow j b p vec s
  | .unstow a j vec => Sys2Proof.Machine.execUnstow a j vec s
  | .li w a imm => Sys2Proof.Machine.execLi w a imm s
  | .lih a p imm => Sys2Proof.Machine.execLih a p imm s
  | .lea a b p m => Sys2Proof.Machine.execLea a b p m s
  | .addi w a b p imm => Sys2Proof.Machine.execAddi w a b p imm s
  | .andi w a b p imm => Sys2Proof.Machine.execAndi w a b p imm s
  | .ori w a b p imm => Sys2Proof.Machine.execOri w a b p imm s
  | .xori w a b p imm => Sys2Proof.Machine.execXori w a b p imm s
  | .ldb a b p arr m => Sys2Proof.Machine.execLdb a b p arr m s
  | .ldbu a b p arr m => Sys2Proof.Machine.execLdbu a b p arr m s
  | .ldh a b p arr m => Sys2Proof.Machine.execLdh a b p arr m s
  | .ldhu a b p arr m => Sys2Proof.Machine.execLdhu a b p arr m s
  | .ldw a b p arr m => Sys2Proof.Machine.execLdw a b p arr m s
  | .ldwu a b p arr m => Sys2Proof.Machine.execLdwu a b p arr m s
  | .ldd a b p arr m => Sys2Proof.Machine.execLdd a b p arr m s
  | .stb b c p q m => Sys2Proof.Machine.execStb b c p q m s
  | .sth b c p q m => Sys2Proof.Machine.execSth b c p q m s
  | .stw b c p q m => Sys2Proof.Machine.execStw b c p q m s
  | .std b c p q m => Sys2Proof.Machine.execStd b c p q m s
  | .sel w a b c p q x r => Sys2Proof.Machine.execSel w a b c p q x r s
  | .ffma a b c p q rm sat x r => Sys2Proof.Machine.execFfma a b c p q rm sat x r s
  | .hcw idx k inv base => Sys2Proof.Machine.execHcw idx k inv base s
  | .lease pm md h z => Sys2Proof.Machine.execLease pm md h z s
  | .mzero z i32 => Sys2Proof.Machine.execMzero z i32 s
  | .pmrd a word pm => Sys2Proof.Machine.execPmrd a word pm s
  | .pmwr word pm c => Sys2Proof.Machine.execPmwr word pm c s
  | .hldc fmt h n => Sys2Proof.Machine.execHldc fmt h n s
  | .mma zd sb sel c fc => Sys2Proof.Machine.execMma zd sb sel c fc s
  | .mmas zd sb sel c md seg g8 => Sys2Proof.Machine.execMmas zd sb sel c md seg g8 s
  | .cmpr dsel sel c md seg g8 => Sys2Proof.Machine.execCmpr dsel sel c md seg g8 s
  | .mtrans zd zs => Sys2Proof.Machine.execMtrans zd zs s
  | .flu zd pm b nf => Sys2Proof.Machine.execFlu zd pm b nf s
  | .fchol zd pm b => Sys2Proof.Machine.execFchol zd pm b s
  | .fqr zd pm zs b => Sys2Proof.Machine.execFqr zd pm zs b s
  | .ftrs zd pm zs b nf upper unit => Sys2Proof.Machine.execFtrs zd pm zs b nf upper unit s
  | .fperm zd pm b cols inv => Sys2Proof.Machine.execFperm zd pm b cols inv s
  | .hld fmt h b c swz sx off => Sys2Proof.Machine.execHld fmt h b c swz sx off s
  | .drain z fmt b c rtz sc swz sx hsize had sh off => Sys2Proof.Machine.execDrain z fmt b c rtz sc swz sx hsize had sh off s
  | .mdld md b off => Sys2Proof.Machine.execMdld md b off s
  | .mdst md b off => Sys2Proof.Machine.execMdst md b off s
  | .leaseGrant quad => Sys2Proof.Machine.execLeaseGrant quad s
  | .leaseIdleExpiry seat => Sys2Proof.Machine.execLeaseIdleExpiry seat s
  | .arrayCommandExecute quad => Sys2Proof.Machine.execArrayCommandExecute quad s
  | .drainRetire quad => Sys2Proof.Machine.execDrainRetire quad s
  | .factorisationStep quad => Sys2Proof.Machine.execFactorisationStep quad s
  | .sbind a sq unbind => Sys2Proof.Machine.execSbind a sq unbind s
  | .sstart sq => Sys2Proof.Machine.execSstart sq s
  | .sstop sq => Sys2Proof.Machine.execSstop sq s
  | .sdrain sq => Sys2Proof.Machine.execSdrain sq s
  | .spos a sq c wr => Sys2Proof.Machine.execSpos a sq c wr s
  | .tilearm b c => Sys2Proof.Machine.execTilearm b c s
  | .tiledis c => Sys2Proof.Machine.execTiledis c s
  | .cqpush n c => Sys2Proof.Machine.execCqpush n c s
  | .scfg sq b off => Sys2Proof.Machine.execScfg sq b off s
  | .shape sq b off => Sys2Proof.Machine.execShape sq b off s
  | .gld a b c f x => Sys2Proof.Machine.execGld a b c f x s
  | .sct a b c f x => Sys2Proof.Machine.execSct a b c f x s
  | .copy a b c ssw x => Sys2Proof.Machine.execCopy a b c ssw x s
  | .copyh a b c out ssw x => Sys2Proof.Machine.execCopyh a b c out ssw x s
  | .mcast a b c ssw x => Sys2Proof.Machine.execMcast a b c ssw x s
  | .hcwld b first cnt => Sys2Proof.Machine.execHcwld b first cnt s
  | .transferSectorWrite id sector => Sys2Proof.Machine.execTransferSectorWrite id sector s
  | .transferFaultStop id => Sys2Proof.Machine.execTransferFaultStop id s
  | .transferCompletion id => Sys2Proof.Machine.execTransferCompletion id s
  | .aadd w a b c p q => Sys2Proof.Machine.execAadd w a b c p q s
  | .amin w a b c p q => Sys2Proof.Machine.execAmin w a b c p q s
  | .amax w a b c p q => Sys2Proof.Machine.execAmax w a b c p q s
  | .aminu w a b c p q => Sys2Proof.Machine.execAminu w a b c p q s
  | .amaxu w a b c p q => Sys2Proof.Machine.execAmaxu w a b c p q s
  | .aand w a b c p q => Sys2Proof.Machine.execAand w a b c p q s
  | .aor w a b c p q => Sys2Proof.Machine.execAor w a b c p q s
  | .axor w a b c p q => Sys2Proof.Machine.execAxor w a b c p q s
  | .aswp w a b c p q => Sys2Proof.Machine.execAswp w a b c p q s
  | .afadd a b c p q => Sys2Proof.Machine.execAfadd a b c p q s
  | .radd w b c p q => Sys2Proof.Machine.execRadd w b c p q s
  | .rfadd b c p q => Sys2Proof.Machine.execRfadd b c p q s
  | .rmin w b c p q => Sys2Proof.Machine.execRmin w b c p q s
  | .rmax w b c p q => Sys2Proof.Machine.execRmax w b c p q s
  | .rand w b c p q => Sys2Proof.Machine.execRand w b c p q s
  | .ror w b c p q => Sys2Proof.Machine.execRor w b c p q s
  | .ldacq w a b p => Sys2Proof.Machine.execLdacq w a b p s
  | .strel w b c p q => Sys2Proof.Machine.execStrel w b c p q s
  | .fence scope => Sys2Proof.Machine.execFence scope s
  | .pub b p => Sys2Proof.Machine.execPub b p s
  | .acas w a b c p q x r => Sys2Proof.Machine.execAcas w a b c p q x r s
  | .homePortWriteApply id => Sys2Proof.Machine.execHomePortWriteApply id s
  | .atomicApply id => Sys2Proof.Machine.execAtomicApply id s
  | .reductionApply id => Sys2Proof.Machine.execReductionApply id s
  | .strelApply id => Sys2Proof.Machine.execStrelApply id s
  | .pubSwap id => Sys2Proof.Machine.execPubSwap id s
  | .barinit b c p q own => Sys2Proof.Machine.execBarinit b c p q own s
  | .bararr a b p => Sys2Proof.Machine.execBararr a b p s
  | .barwait a b c p q => Sys2Proof.Machine.execBarwait a b c p q s
  | .bartest a b p => Sys2Proof.Machine.execBartest a b p s
  | .ctrset b c p q => Sys2Proof.Machine.execCtrset b c p q s
  | .ctradd b c p q => Sys2Proof.Machine.execCtradd b c p q s
  | .ctrwait a b c p q => Sys2Proof.Machine.execCtrwait a b c p q s
  | .tsend b c p q x r => Sys2Proof.Machine.execTsend b c p q x r s
  | .tcopy b c p q x r => Sys2Proof.Machine.execTcopy b c p q x r s
  | .barinitApply id => Sys2Proof.Machine.execBarinitApply id s
  | .barrierArrivalApply id => Sys2Proof.Machine.execBarrierArrivalApply id s
  | .ctrsetApply id => Sys2Proof.Machine.execCtrsetApply id s
  | .ctraddApply id => Sys2Proof.Machine.execCtraddApply id s
  | .waitSatisfied carr => Sys2Proof.Machine.execWaitSatisfied carr s
  | .delayWaitExpiry carr => Sys2Proof.Machine.execDelayWaitExpiry carr s
  | .triggerArmApply id => Sys2Proof.Machine.execTriggerArmApply id s
  | .firedTcopyEnqueue die => Sys2Proof.Machine.execFiredTcopyEnqueue die s
  | .qres a c q => Sys2Proof.Machine.execQres a c q s
  | .qcommit b c p q rel => Sys2Proof.Machine.execQcommit b c p q rel s
  | .qtake a c q wait => Sys2Proof.Machine.execQtake a c q wait s
  | .qresApply id => Sys2Proof.Machine.execQresApply id s
  | .qcommitApply id => Sys2Proof.Machine.execQcommitApply id s
  | .qtakeApply id => Sys2Proof.Machine.execQtakeApply id s
  | .launch b c p q => Sys2Proof.Machine.execLaunch b c p q s
  | .launchTakesEffect id => Sys2Proof.Machine.execLaunchTakesEffect id s
  | .trigTakesEffect id => Sys2Proof.Machine.execTrigTakesEffect id s
  | .pdoneTakesEffect id => Sys2Proof.Machine.execPdoneTakesEffect id s
  | .fld w a b c p q arr off => Sys2Proof.Machine.execFld w a b c p q arr off s
  | .fst w b c p q x r => Sys2Proof.Machine.execFst w b c p q x r s
  | .fatom w a b c p q arr op x r => Sys2Proof.Machine.execFatom w a b c p q arr op x r s
  | .nwr b p => Sys2Proof.Machine.execNwr b p s
  | .wrWrite id => Sys2Proof.Machine.execWrWrite id s
  | .wrRead id => Sys2Proof.Machine.execWrRead id s
  | .wrVat id => Sys2Proof.Machine.execWrVat id s
  | .wrKeyset id => Sys2Proof.Machine.execWrKeyset id s
  | .wrKeydel id => Sys2Proof.Machine.execWrKeydel id s
  | .workRequestComplete id => Sys2Proof.Machine.execWorkRequestComplete id s
  | .seating carr seat => Sys2Proof.Machine.execSeating carr seat s
  | .seatingLoaded seat => Sys2Proof.Machine.execSeatingLoaded seat s
  | .allocatorServe die => Sys2Proof.Machine.execAllocatorServe die s
  | .coachReserving die => Sys2Proof.Machine.execCoachReserving die s
  | .preemptionSave seat => Sys2Proof.Machine.execPreemptionSave seat s
  | .seatWritePerformed seat => Sys2Proof.Machine.execSeatWritePerformed seat s
  | .seatDrainComplete seat => Sys2Proof.Machine.execSeatDrainComplete seat s
  | .teamSwapQuantum die lid ctx => Sys2Proof.Machine.execTeamSwapQuantum die lid ctx s
  | .launchPacketReceived die => Sys2Proof.Machine.execLaunchPacketReceived die s
  | .completionNotice die => Sys2Proof.Machine.execCompletionNotice die s
  | .rindNotice die => Sys2Proof.Machine.execRindNotice die s
  | .rindRestore die => Sys2Proof.Machine.execRindRestore die s
  | .curdInjection ctx quad tile => Sys2Proof.Machine.execCurdInjection ctx quad tile s
  | .queueLoadComplete ctx handle => Sys2Proof.Machine.execQueueLoadComplete ctx handle s
  | .queueEviction die => Sys2Proof.Machine.execQueueEviction die s
  | .firmwarePeriodSlot die => Sys2Proof.Machine.execFirmwarePeriodSlot die s
  | .pageWalkComplete die => Sys2Proof.Machine.execPageWalkComplete die s
  | .faultRecordDelivery die => Sys2Proof.Machine.execFaultRecordDelivery die s
  | .parse vat => Sys2Proof.Machine.execParse vat s
  | .stageExecute vat => Sys2Proof.Machine.execStageExecute vat s
  | .verdict vat => Sys2Proof.Machine.execVerdict vat s
  | .pipelineBumpApply id => Sys2Proof.Machine.execPipelineBumpApply id s
  | .pipelineLineApply id => Sys2Proof.Machine.execPipelineLineApply id s
  | .holdRelease die conn => Sys2Proof.Machine.execHoldRelease die conn s
  | .holdTimeout die => Sys2Proof.Machine.execHoldTimeout die s
  | .recircReentry vat => Sys2Proof.Machine.execRecircReentry vat s
  | .ext h len1 off => Sys2Proof.Machine.execExt h len1 off s
  | .setf h w imm => Sys2Proof.Machine.execSetf h w imm s
  | .addfImm h w imm => Sys2Proof.Machine.execAddfImm h w imm s
  | .addfField h w src => Sys2Proof.Machine.execAddfField h w src s
  | .lkp b key res => Sys2Proof.Machine.execLkp b key res s
  | .hash h len1 => Sys2Proof.Machine.execHash h len1 s
  | .rte mode => Sys2Proof.Machine.execRte mode s
  | .rewr b idx h => Sys2Proof.Machine.execRewr b idx h s
  | .score b d1 g1 k1 => Sys2Proof.Machine.execScore b d1 g1 k1 s
  | .addt b mode h => Sys2Proof.Machine.execAddt b mode h s
  | .bump quad tile amt => Sys2Proof.Machine.execBump quad tile amt s
  | .depo b h => Sys2Proof.Machine.execDepo b h s
  | .rgaAdd r h => Sys2Proof.Machine.execRgaAdd r h s
  | .rgaSwap r h => Sys2Proof.Machine.execRgaSwap r h s
  | .rgaUmax r h => Sys2Proof.Machine.execRgaUmax r h s
  | .rgaPush r quad cq sh => Sys2Proof.Machine.execRgaPush r quad cq sh s
  | .fwd eport port => Sys2Proof.Machine.execFwd eport port s
  | .mirr port trunc => Sys2Proof.Machine.execMirr port trunc s
  | .drop reason => Sys2Proof.Machine.execDrop reason s
  | .recirc stage => Sys2Proof.Machine.execRecirc stage s
  | .mark ce setc cls => Sys2Proof.Machine.execMark ce setc cls s
  | .hold h => Sys2Proof.Machine.execHold h s
  | .egressTransmit port => Sys2Proof.Machine.execEgressTransmit port s
  | .egressAgeDrop port => Sys2Proof.Machine.execEgressAgeDrop port s
  | .sackTimer die conn msgid => Sys2Proof.Machine.execSackTimer die conn msgid s
  | .retransmitTimeout die id => Sys2Proof.Machine.execRetransmitTimeout die id s
  | .retryResend die => Sys2Proof.Machine.execRetryResend die s
  | .genQuarantineExpiry conn => Sys2Proof.Machine.execGenQuarantineExpiry conn s
  | .sackBitmapExpiry die conn msgid => Sys2Proof.Machine.execSackBitmapExpiry die conn msgid s
  | .recordedPacketDelivery ctx => Sys2Proof.Machine.execRecordedPacketDelivery ctx s
  | .yield => Sys2Proof.Machine.execYield s
  | .suspend => Sys2Proof.Machine.execSuspend s
  | .endC => Sys2Proof.Machine.execEndC s
  | .xret => Sys2Proof.Machine.execXret s
  | .uiret => Sys2Proof.Machine.execUiret s
  | .vNop => Sys2Proof.Machine.execVNop s
  | .mNop => Sys2Proof.Machine.execMNop s
  | .mrel => Sys2Proof.Machine.execMrel s
  | .msync => Sys2Proof.Machine.execMsync s
  | .xNop => Sys2Proof.Machine.execXNop s
  | .trig => Sys2Proof.Machine.execTrig s
  | .pdone => Sys2Proof.Machine.execPdone s
  | .svcPing => Sys2Proof.Machine.execSvcPing s
  | .svcQstat => Sys2Proof.Machine.execSvcQstat s
  | .svcLstat => Sys2Proof.Machine.execSvcLstat s
  | .svcTime => Sys2Proof.Machine.execSvcTime s
  | .svcLog => Sys2Proof.Machine.execSvcLog s
  | .nopa => Sys2Proof.Machine.execNopa s
  | .absorb => Sys2Proof.Machine.execAbsorb s
  | .contentionHalving => Sys2Proof.Machine.execContentionHalving s
  | .powerOn => Sys2Proof.Machine.execPowerOn s
  | .bootComplete cfg => Sys2Proof.Machine.execBootComplete cfg s
  | .bootFail code => Sys2Proof.Machine.execBootFail code s
  | .powerDown => Sys2Proof.Machine.execPowerDown s
  | .powerWindow mw => Sys2Proof.Machine.execPowerWindow mw s
  | .gatedCycle quad => Sys2Proof.Machine.execGatedCycle quad s
  | .cmdNop c => Sys2Proof.Machine.execCmdNop c s
  | .invoke c => Sys2Proof.Machine.execInvoke c s
  | .loadimg c => Sys2Proof.Machine.execLoadimg c s
  | .unloadimg c => Sys2Proof.Machine.execUnloadimg c s
  | .qcreate c => Sys2Proof.Machine.execQcreate c s
  | .qdestroy c => Sys2Proof.Machine.execQdestroy c s
  | .qpin c => Sys2Proof.Machine.execQpin c s
  | .waitl c => Sys2Proof.Machine.execWaitl c s
  | .map c => Sys2Proof.Machine.execMap c s
  | .unmap c => Sys2Proof.Machine.execUnmap c s
  | .protect c => Sys2Proof.Machine.execProtect c s
  | .migrate c => Sys2Proof.Machine.execMigrate c s
  | .resolve c => Sys2Proof.Machine.execResolve c s
  | .pbcreate c => Sys2Proof.Machine.execPbcreate c s
  | .pbdestroy c => Sys2Proof.Machine.execPbdestroy c s
  | .ctxcreate c => Sys2Proof.Machine.execCtxcreate c s
  | .ctxload c => Sys2Proof.Machine.execCtxload c s
  | .ctxrun c => Sys2Proof.Machine.execCtxrun c s
  | .ctxquiesce c => Sys2Proof.Machine.execCtxquiesce c s
  | .quiesceComplete ctx => Sys2Proof.Machine.execQuiesceComplete ctx s
  | .ctxkill c => Sys2Proof.Machine.execCtxkill c s
  | .ctxdestroy c => Sys2Proof.Machine.execCtxdestroy c s
  | .ctxres c => Sys2Proof.Machine.execCtxres c s
  | .attest c => Sys2Proof.Machine.execAttest c s
  | .record c => Sys2Proof.Machine.execRecord c s
  | .replayDivergence ctx => Sys2Proof.Machine.execReplayDivergence ctx s
  | .pload c => Sys2Proof.Machine.execPload c s
  | .sload c => Sys2Proof.Machine.execSload c s
  | .sunload c => Sys2Proof.Machine.execSunload c s
  | .tcreate c => Sys2Proof.Machine.execTcreate c s
  | .twrite c => Sys2Proof.Machine.execTwrite c s
  | .tdestroy c => Sys2Proof.Machine.execTdestroy c s
  | .rread c => Sys2Proof.Machine.execRread c s
  | .vstat c => Sys2Proof.Machine.execVstat c s
  | .hostResRead ctx handle => Sys2Proof.Machine.execHostResRead ctx handle s
  | .hostCommitWrite ctx handle v => Sys2Proof.Machine.execHostCommitWrite ctx handle v s
  | .hostTakeRead ctx handle => Sys2Proof.Machine.execHostTakeRead ctx handle s
  | .hostReleaseWrite ctx handle v => Sys2Proof.Machine.execHostReleaseWrite ctx handle v s
  | .hostWindowOther ctx off write => Sys2Proof.Machine.execHostWindowOther ctx off write s
  | .frameArrival port bytes => Sys2Proof.Machine.execFrameArrival port bytes s
  | .lanesLocked port => Sys2Proof.Machine.execLanesLocked port s
  | .trainingTimeout port oneLane => Sys2Proof.Machine.execTrainingTimeout port oneLane s
  | .secondLaneLock port => Sys2Proof.Machine.execSecondLaneLock port s
  | .lossOfLock port => Sys2Proof.Machine.execLossOfLock port s
  | .fecErrorWindow port bad total => Sys2Proof.Machine.execFecErrorWindow port bad total s
  | .hello port chip time => Sys2Proof.Machine.execHello port chip time s
  | .creditReturn port vc flits => Sys2Proof.Machine.execCreditReturn port vc flits s
  | .writeData die p => Sys2Proof.Machine.execWriteData die p s
  | .readRequest die p => Sys2Proof.Machine.execReadRequest die p s
  | .readResponseData die p => Sys2Proof.Machine.execReadResponseData die p s
  | .loadRequest die p => Sys2Proof.Machine.execLoadRequest die p s
  | .loadResponse die p => Sys2Proof.Machine.execLoadResponse die p s
  | .store die p => Sys2Proof.Machine.execStore die p s
  | .atomicRequest die p => Sys2Proof.Machine.execAtomicRequest die p s
  | .atomicResponse die p => Sys2Proof.Machine.execAtomicResponse die p s
  | .vatMessage die p => Sys2Proof.Machine.execVatMessage die p s
  | .sack die p => Sys2Proof.Machine.execSack die p s
  | .retry die p => Sys2Proof.Machine.execRetry die p s
  | .nack die p => Sys2Proof.Machine.execNack die p s
  | .cancel die p => Sys2Proof.Machine.execCancel die p s
  | .keyreq die p => Sys2Proof.Machine.execKeyreq die p s
  | .keyrsp die p => Sys2Proof.Machine.execKeyrsp die p s
  | .lineRecall die p => Sys2Proof.Machine.execRecall die p s
  | .lineReturn die p => Sys2Proof.Machine.execLineReturn die p s
  | .landing core => Sys2Proof.Machine.execLanding core s
  | .lateUncorrectableRead id => Sys2Proof.Machine.execLateUncorrectableRead id s
  | .watchdogExpiry seat => Sys2Proof.Machine.execWatchdogExpiry seat s
  | .reductionDepthExpiry seat => Sys2Proof.Machine.execReductionDepthExpiry seat s
  | .userInterruptEntry seat => Sys2Proof.Machine.execUserInterruptEntry seat s
  | .xclCopyLanding core => Sys2Proof.Machine.execXclCopyLanding core s
  | .hcwldWrite seat => Sys2Proof.Machine.execHcwldWrite seat s
  | .containment seat cause va => Sys2Proof.Machine.execContainment seat cause va s
  | .offSeatContainment carr cause va => Sys2Proof.Machine.execOffSeatContainment carr cause va s

end Sys2Proof.Machine
end

