-- ==== Sys2Proof/Machine/Turn.lean ====
section
/-!
DEFINITION. How the package goes on: the turn of a core in a die cycle (R22, R90, R253, R266, R272), the start of a die
cycle, and what may happen of itself between them. Which of several things happens first is a free value, since the
manual gives no times for most of them (log 1).
-/

namespace Sys2Proof.Machine

/-! ## The turn of a core -/

/-- A boundary cause of a seat is taken: a save, a late read, a reduction or a watchdog, or a user-level interrupt; one at
a boundary (R155, R264, R272). -/
def State.boundary (s : State) (seat : Nat) : State :=
  let s := s.preempt seat
  let now := s.cycle (coreOf seat)
  match (s.seat seat).items.find? ((s.seat seat).lateDue now) with
  | some i => s.lateRead i.id
  | none =>
    if s.redDue seat then s.redExpire seat
    else if s.wdDue seat then s.wdExpire seat
    else s.userEntry seat

/-- WDCNT counts this core cycle (R266). -/
def Seat.countsWd (x : Seat) : Bool := x.st == .occupied || x.st == .writing || x.st == .saving

/-- The core cycle ends: unless it froze, the watchdogs count it (R90, R266). -/
def State.endTurn (s : State) (core frozen : Nat) : State :=
  if (s.core core).frozen ≠ frozen then s
  else (seatsOfCore core).foldl (fun s k => if (s.seat k).countsWd then s.modSeat k fun x => { x with wdcnt := x.wdcnt + 1 } else s) s

/-- One die cycle of a core: landings, which may freeze it; what arrives at its clusters; boundary causes; the issue. -/
def State.coreTurn (s : State) (core : Nat) : Host.Outcome State Fault Refusal :=
  let f := (s.core core).frozen
  let (froze, s) := s.land core
  if froze then .next s
  else
    let s := s.landXcls core
    let s := (seatsOfCore core).foldl State.hcwldWrite s
    let s := ((s.occupied core).filter fun k => !(s.secondPass core && (s.core core).running == some k)).foldl State.boundary s
    match execBundleIssue core s with
    | .next s => .next (s.endTurn core f)
    | o => o

/-! ## A die cycle (R22) -/

/-- A core in which something is to be done. -/
def State.awake (s : State) (core : Nat) : Bool :=
  !(s.core core).xcls.isEmpty || !(s.core core).hcwp.isEmpty
    || (seatsOfCore core).any fun k => (s.seat k).st != .free && (s.seat k).st != .reserved

/-- The state after an outcome, or the same state. -/
def State.orSame (s : State) (o : Host.Outcome State Fault Refusal) : State :=
  match o with
  | .next t => t
  | _ => s

/-- An event is tried; what is not due changes nothing. -/
def State.does (s : State) (i : Instr) : State := s.orSame (exec i s)

/-- An event where a condition holds. -/
def evIf (b : Bool) (i : Instr) : List Instr := if b then [i] else []

/-- The timed events of a quad: grants, the array command that has begun, elements it has drained, and the next step of a
factorisation (R200, R204, R230). -/
def timedQuad (k : Nat) (q : Quad) : List Instr :=
  List.flatten [
    [.leaseGrant k],
    ((q.arr.q.take 1).filter fun c => c.begun).map fun _ => .arrayCommandExecute k,
    q.arr.outs.map fun _ => .drainRetire k,
    [.factorisationStep k]]

/-- The timed events of a seat: the end of its loading or saving, and the idle limit of its lease (R199, R249, R264). -/
def timedSeat (k : Nat) (x : Seat) : List Instr :=
  List.append (match x.st with
    | .loading => [.seatingLoaded k]
    | .writing | .saving => [.seatWritePerformed k]
    | _ => []) (evIf (x.lease.st == .held) (.leaseIdleExpiry k))

/-- The timers of a connection (R435). -/
def timedConn (d : Nat) (c : Conn) : List Instr :=
  List.append (c.msgs.flatMap fun m => [.sackTimer d c.id (BitVec.ofNat 32 m.1), .sackBitmapExpiry d c.id (BitVec.ofNat 32 m.1)])
    (c.sent.map fun p => .retransmitTimeout d p.id)

/-- The timed events of a die: its firmware's slot (R339), the allocator's limits (R263, R267), and the network's. -/
def timedDie (d : Nat) (x : Die) : List Instr :=
  List.flatten [
    [.firmwarePeriodSlot d, .coachReserving d],
    (x.launches.filter fun e => e.swapAt.isSome).map fun e => .teamSwapQuantum d e.lid e.p.ctx,
    evIf (!x.holds.isEmpty) (.holdTimeout d),
    x.quar.map fun q => .genQuarantineExpiry q.id,
    x.conns.flatMap (timedConn d)]

/-- The events whose time the manual names. -/
def State.timed (s : State) : List Instr :=
  List.flatten [
    s.quads.flatMap fun q => timedQuad q.1 q.2,
    s.seats.flatMap fun x => timedSeat x.1 x.2,
    (nats 4).flatMap fun d => timedDie d (s.die d),
    (s.waits.filter fun w => w.kind == 4).map fun w => .delayWaitExpiry w.carr,
    (s.ports.filter fun p => !p.2.egress.isEmpty).map fun p => .egressAgeDrop p.1,
    (s.ctxs.filter fun c => c.2.replay).map fun c => .recordedPacketDelivery c.1]

/-- Gates the quads whose turn it is. -/
def State.gateAll (s : State) : State :=
  (nats 112).foldl (fun s q => s.orSame (execGatedCycle q s)) s

/-- The next die cycle begins: fabric time goes on by 1 µs every 2,000 die cycles, the contention counters are halved at
every 2^20th (R430), and what falls due in it happens before the cores have their turn. -/
def State.tick (s : State) : State :=
  let s : State := { s with
    dieCycle := s.dieCycle + 1
    turn := (nats 448).filter s.awake
    quads := s.quads.map fun (q : Nat × Quad) => (q.1, { q.2 with gatedNow := false }) }
  let s := if s.dieCycle % usCycles = 0 then (nats 4).foldl (fun s d => s.modDie d fun x => { x with ftime := x.ftime + 1 }) s else s
  let s := if s.power = .gated then s.gateAll else s
  let s := if s.dieCycle % 2 ^ 20 = 0 then s.orSame (execContentionHalving s) else s
  s.timed.foldl State.does s

/-- Time goes on: the next core has its turn, or the next die cycle begins. -/
def State.clock (s : State) : Host.Outcome State Fault Refusal :=
  match s.turn with
  | [] => .next s.tick
  | c :: l => State.coreTurn { s with turn := l } c

/-! ## What may happen of itself -/

/-- Something that may happen next: an event, the engine of a die with its next packet or its sending, the end of a
quiesce, entry bytes that the host has sent to a queue, a replay that has diverged, or the passing of time. -/
inductive Happening where
  | event (i : Instr)
  | engine (die : Nat)
  | pump (die : Nat)
  | quiesced (ctx : Nat)
  | hostBytes (ctx handle : Nat)
  | diverged (ctx : Nat)
  | clock
  deriving DecidableEq, Repr

/-- It happens. -/
def Happening.run (h : Happening) (s : State) : Host.Outcome State Fault Refusal :=
  match h with
  | .event i => exec i s
  | .engine d => s.engineNext d
  | .pump d => .next (s.pump d)
  | .quiesced c => execQuiesceComplete c s
  | .hostBytes c h => .next (s.hostBytes c h)
  | .diverged c => execReplayDivergence c s
  | .clock => s.clock

/-- The event by which an access in flight is performed. -/
def accEvent (a : Acc) : List Instr :=
  match a.k with
  | .load => [if a.op = 1 then .landingDataReturn a.id else .producerResultArrival a.id]
  | .ldacq | .bartest | .producer => [.producerResultArrival a.id]
  | .store => [.homePortWriteApply a.id]
  | .atomic => [.atomicApply a.id]
  | .reduction => [.reductionApply a.id]
  | .strel => [.strelApply a.id]
  | .pub => [.pubSwap a.id]
  | .barinit => [.barinitApply a.id]
  | .arrival => [.barrierArrivalApply a.id]
  | .ctrset => [.ctrsetApply a.id]
  | .ctradd => [.ctraddApply a.id]
  | .arm => [.triggerArmApply a.id]
  | .qres => [.qresApply a.id]
  | .qcommit | .qrelease => [.qcommitApply a.id]
  | .qtake => [.qtakeApply a.id]
  | .launch => [.launchTakesEffect a.id]
  | .trig => [.trigTakesEffect a.id]
  | .pdone => [.pdoneTakesEffect a.id]
  | .pline | .pdepo => [.pipelineLineApply a.id]
  | .pbump => [.pipelineBumpApply a.id]
  | .svc | .fld | .fst | .fatom => []

/-- The events of a seat. -/
def seatEvents (k : Nat) (x : Seat) : List Instr :=
  List.flatten [
    match x.st with
    | .loading => [.seatingLoaded k]
    | .writing | .saving => [.seatWritePerformed k]
    | .draining => [.seatDrainComplete k]
    | _ => [],
    (x.items.filter fun i => !i.landing && i.data.isSome).map fun i => .producerResultArrival i.id,
    (x.streams.filter fun q => q.2.st == .active && q.2.dir == 0#2).map fun q => .streamElementFetch k q.1,
    (x.streams.filter fun q => !q.2.pushed.isEmpty).map fun q => .streamElementWrite k q.1,
    evIf (x.lease.st == .held) (.leaseIdleExpiry k)]

/-- The events of a transfer: a sector of each part that is still to do, the signal of a stop, the completion. -/
def transEvents (n : Nat) (t : Trans) : List Instr :=
  List.append (t.todo.map fun r => .transferSectorWrite t.id (r.1 + n % Nat.max 1 r.2))
    (if t.todo.isEmpty then [.transferFaultStop t.id, .transferCompletion t.id] else [])

/-- The events of a quad. -/
def quadEvents (n k : Nat) (q : Quad) : List Instr :=
  List.flatten [
    [.leaseGrant k, .factorisationStep k],
    if q.arr.cmds.isEmpty then [] else [.arrayCommandExecute k, .drainRetire k],
    q.trans.flatMap (transEvents n)]

/-- The event of a work request. -/
def wreqEvent (w : WReq) : Instr :=
  if w.started then .workRequestComplete w.id
  else
    match w.kind with
    | 1 => .wrWrite w.id
    | 2 => .wrRead w.id
    | 3 => .wrVat w.id
    | 4 => .wrKeyset w.id
    | _ => .wrKeydel w.id

/-- The events of a die. -/
def dieEvents (now d : Nat) (x : Die) : List Instr :=
  List.flatten [
    [.allocatorServe d, .coachReserving d],
    evIf (decide (x.fwSlot * 128 ≤ now)) (.firmwarePeriodSlot d),
    evIf (!x.inbox.isEmpty && x.inSlots 48 51) (.launchPacketReceived d),
    evIf (!x.notices.isEmpty && x.inSlots 52 55) (.completionNotice d),
    evIf (!x.rnotices.isEmpty && x.inSlots 52 55) (.rindNotice d),
    evIf (!x.rinds.isEmpty) (.rindRestore d),
    evIf (!x.walks.isEmpty) (.pageWalkComplete d),
    evIf (!x.misses.isEmpty && x.inSlots 56 59) (.queueEviction d),
    evIf (!x.fired.isEmpty) (.firedTcopyEnqueue d),
    evIf (!x.holds.isEmpty) (.holdTimeout d),
    evIf (!x.replayq.isEmpty) (.retryResend d),
    x.holdMiss.map fun c => .holdRelease d c,
    x.quar.map fun q => .genQuarantineExpiry q.id,
    (x.launches.filter fun e => e.swapAt.isSome).map fun e => .teamSwapQuantum d e.lid e.p.ctx,
    x.wreqs.map wreqEvent,
    x.conns.flatMap (timedConn d)]

/-- The events of a context: queues that are being loaded, and the packets of a replay. -/
def ctxEvents (s : State) (t : Nat) (c : Ctx) : List Instr :=
  List.append
    ((c.queues.filter fun q => q.2.st == qLoading && q.2.ridx != 0 && (s.die q.2.home).inSlots 56 59).map fun q => .queueLoadComplete t q.1)
    (evIf c.replay (.recordedPacketDelivery t))

/-- The events of a vat. -/
def vatEvents (v : Nat) (x : Vat) : List Instr :=
  let has (f : VPhase → Bool) : Bool := x.pkts.any fun p => f p.phase
  List.flatten [
    evIf (has fun p => p == .parse) (.parse v),
    evIf (x.pkts.any fun p => p.stage?.isSome) (.stageExecute v),
    evIf (has fun p => p == .finish) (.verdict v),
    evIf (has fun p => match p with | .recirc _ => true | _ => false) (.recircReentry v)]

/-- The events that the table names which may happen of themselves. What is not yet due changes nothing when it is tried. -/
def State.events (s : State) : List Instr :=
  let n := Config.freeChoice s.free
  List.flatten [
    s.accs.flatMap accEvent,
    s.seats.flatMap fun x => seatEvents x.1 x.2,
    s.quads.flatMap fun q => quadEvents n q.1 q.2,
    (nats 4).flatMap fun d => dieEvents s.dieCycle d (s.die d),
    s.ctxs.flatMap fun c => ctxEvents s c.1 c.2,
    s.vats.flatMap fun v => vatEvents v.1 v.2,
    (s.waits.filter fun w => w.kind == 4).map fun w => .delayWaitExpiry w.carr,
    (s.waits.filter fun w => w.kind != 4 && w.kind != 3).map fun w => .waitSatisfied w.carr,
    (s.curds.filter fun c => c.2.2.2.isNone && (s.die (c.2.1 / 28)).inSlots 52 55).map fun c => .curdInjection c.1 c.2.1 c.2.2.1,
    (s.ports.filter fun p => !p.2.egress.isEmpty).flatMap fun p => [.egressTransmit p.1, .egressAgeDrop p.1],
    ((nats 4).filter fun d => (s.evicting d).isSome && (s.die d).inSlots 56 59).map fun d => .queueEviction d]

/-- Everything that may happen of itself, time apart. -/
def State.happenings (s : State) : List Happening :=
  List.flatten [
    s.events.map .event,
    ((nats 4).filter fun d => !(s.die d).loopb.isEmpty).map .engine,
    ((nats 4).filter fun d => !(s.die d).wreqs.isEmpty || !(s.die d).lentOut.isEmpty || s.accs.any fun a => a.isFab).map .pump,
    (s.ctxs.filter fun c => c.2.st == .quiescing).map fun c => .quiesced c.1,
    (s.ctxs.filter fun c => c.2.replay).map fun c => .diverged c.1,
    s.hostRing.map fun e => .hostBytes e.1 e.2.1]

/-- What happens next of itself: one of the things that may, or time goes on. Nothing runs while the package is not
ACTIVE (R18). -/
def State.goOn (s : State) : Host.Outcome State Fault Refusal :=
  if s.power = .active ∨ s.power = .gated then
    let l := s.happenings
    (nth .clock l (Config.freeChoice (s.free + 1) % (l.length + 1))).run { s with free := s.free + 2 }
  else .next s

end Sys2Proof.Machine
end

