-- ==== Sys2Proof/Machine/Step.lean ====
section
/-!
DEFINITION. One step of the package, and the state in which the next step runs an instruction.
-/

namespace Sys2Proof.Machine

/-- A step: what the outside world has done and the package has not yet taken in comes first; else the package goes on of
itself. -/
def step (s : State) : Host.Outcome State Fault Refusal :=
  match s.inputs with
  | i :: l => exec i { s with inputs := l }
  | [] => s.goOn

/-! ## The state in which the next step runs a given instruction (log 34) -/

/-- The word of a bundle with one syllable in a slot: the header, the syllable, and its extension word, which counts only
where the opcode has one (R51). -/
def soloWords (pos w e : Nat) : List Nat := [2 ^ (pos + 10), w, e]

/-- The page on which the instruction stands. -/
def fetchPage : Nat := 0x10000

/-- The seat 0, OCCUPIED by context 1, about to issue the bundle at `fetchPage`, of which the words are given. -/
def State.withBundle (s : State) (l : List Nat) : State :=
  let s := s.modCtx 1 fun c =>
    { c with st := .runnable, small := SMap.insert c.small 1 { Leaf.absent with v := true, r := true, w := true, x := true, frame := 1 } }
  let s := s.modQuad 0 fun q => { q with tlb := [(1, 1, false)] }
  let s := s.modSeat 0 fun x => { x with st := .occupied, ctx := 1, pc := 0x10000 }
  let s := s.wrBytes fetchPage (l.flatMap (bytesLE 4))
  { s with power := .active, cur := 0, inputs := .bundleIssue 0 :: s.inputs }

/-- A packet of vat 0 stands at stage 0, where the stage program of context 0 has a word with one micro-operation. -/
def State.withMicro (s : State) (w : Nat) : State :=
  let p : VPkt := { id := s.nextId, ord := 0, port := 0, hv := hvStart 0 64 s.dieCycle, frame := List.replicate 64 0, recs := [],
                    phase := .stage 0, accHv := [], accRecs := [], epoch := 0, mirrors := [], again := none, replayed := false,
                    at_ := s.dieCycle }
  let g : Prog := { ctx := 0, stage := 0, entry := 0, regs := 0, binds := [], acts := [BitVec.ofNat 128 (w % 2 ^ 32 * 2 ^ 96)], reg := [],
                    errs := [] }
  let s := s.modCtx 0 fun c => { c with st := .runnable }
  let s := s.modVat 0 fun v => { v with pkts := [p], progs := [(0, none, g)] }
  { s with power := .active, curVat := 0, nextId := s.nextId + 1, inputs := .stageExecute 0 :: s.inputs }

/-- The state with an instruction, numbered as the opcode table numbers its bits, where the next step finds it: in the
bundle that seat 0 issues next, in the slot that its map belongs to, or in the stage program of a waiting packet. -/
def State.withFetchWord (s : State) (nbits w : Nat) : State :=
  match (decodeTableWord nbits w).bind encode with
  | some (.micro, _, _) => s.withMicro w
  | some (c, _, _) => s.withBundle (soloWords (soloPos c) (w % 2 ^ 32) (w / 2 ^ 32 % 2 ^ 32))
  | none => s.withBundle (soloWords (if nbits ≤ 16 then 7 else 12) (w % 2 ^ 32) (w / 2 ^ 32 % 2 ^ 32))

end Sys2Proof.Machine
end

