-- ==== Sys2Proof/Safety.lean ====
section
/-!
DEFINITION. The terms in which claims speak of a step: when an issue is not held up, what a step leaves alone, where a
seat goes on, and the invariant of memory.
-/

namespace Sys2Proof.Machine

/-! ## The invariant -/

/-- Memory is in its canonical form: addresses strictly rising, no byte listed that reads as it would unlisted. -/
def State.Canonical (s : State) : Prop := Memory.wf s.mem = true

/-! ## When a syllable on its own is issued -/

/-- The seat `cur` is OCCUPIED and nothing holds the syllable up or makes it trap before it is evaluated (R58, R59, R88 to R92,
R187): its fields are in range, its sources are FULL, its destination is neither empty nor awaited by a landing, and there
is room for its items. -/
structure State.Issuable (s : State) (i : Instr) : Prop where
  occupied : (s.seat s.cur).st = .occupied
  fields   : fieldsOk i = true
  srcs     : ∀ r ∈ (infoOf i).srcs, (s.seat s.cur).isEmpty r.1 = false
  dests    : ∀ r ∈ (infoOf i).dests, (s.seat s.cur).destBlocked r = false
  mem      : (infoOf i).mem = true → s.memWaits s.cur = false
  items    : (infoOf i).items ≠ 0 → (s.seat s.cur).items.length + (infoOf i).items ≤ 64
  lands    : (infoOf i).lands ≠ 0 → (infoOf i).lands ≤ s.landFree (coreOf s.cur)

/-- The words of the bundle that holds a syllable alone (R51). -/
def soloLen (i : Instr) : Nat :=
  match encode i with
  | some (c, w, _) => (soloBundle c w 0 0).words
  | none => 0

/-- What the evaluation of a syllable on its own is given (R56); for what is no syllable, what M_NOP would be given. -/
def State.envOf (s : State) (i : Instr) : Env :=
  match encode i with
  | some (c, w, e) => s.soloEnv c w e
  | none => s.soloEnv .slotM 0 0

/-! ## What a step leaves alone -/

/-- Only one seat and its core have changed: every byte of memory, every other seat and core and every other part of the
package is as before. -/
structure SeatOnly (s t : State) (k : Nat) : Prop where
  bytes : ∀ a, t.rdByte a = s.rdByte a
  seats : ∀ j, j ≠ k → t.seat j = s.seat j
  cores : ∀ j, j ≠ coreOf k → t.core j = s.core j
  rest  : { t with seats := s.seats, cores := s.cores } = s

/-- A seat has changed in the scalar registers listed, in the flags given, and in where it stands; every other register,
special register, bank and table of it is as before. -/
structure RegsOnly (x y : Seat) (l : List Reg) (fl : Flags) : Prop where
  regs   : ∀ r, r ∉ l → y.reg r = x.reg r
  empty  : ∀ r, y.isEmpty r = x.isEmpty r
  fflags : y.fflags = x.fflags ||| fl
  items  : x.relDue = false → y.items = x.items
  rest   : { y with sregs := x.sregs, shadow := x.shadow, fflags := x.fflags, pc := x.pc, rep := x.rep, frame := x.frame
                    lastIssue := x.lastIssue, lastFirst := x.lastFirst, fact := x.fact, relDue := x.relDue, items := x.items } = x

/-! ## Where a seat goes on -/

/-- The sticky state after the issue of a syllable alone (R64 to R66): an M or V form is kept in its slot where its class
says so, or clears it; the X slot likewise; a C, S or Y form leaves all as it is. -/
def stickyAfter (f : Frame) (i : Instr) : Frame :=
  let kept (w e : W32) : Option Stored := if stickyOf i = .step ∨ stickyOf i = .same then some ⟨w, e, 0⟩ else none
  match encode i with
  | some (.slotM, w, e) => { f with m := kept w e }
  | some (.slotX, w, e) => { f with x := kept w e }
  | some (.slotV, w, _) => { f with v := SMap.set vNone f.v 0 (if i = .vNop then vNone else (w.setWidth 16, baseOf w)) }
  | _ => f

/-- The seat goes on behind the bundle of one syllable by the back-edge rule (R63, R97), with its sticky state (R64). -/
structure GoesOn (x y : Seat) (i : Instr) : Prop where
  pc    : y.pc = (backEdge x.pc (x.pc + BitVec.ofNat 48 (4 * soloLen i)) x.frame.loop).1
  rep   : y.rep = 0
  frame : y.frame = { stickyAfter x.frame i with loop := (backEdge x.pc (x.pc + BitVec.ofNat 48 (4 * soloLen i)) x.frame.loop).2 }

/-- A seat after the commit of an issue: its flags have joined, and it stands at `pc` with a loop stack; `x` is the seat before
the issue, `y` with what the syllable has done to it. -/
def Seat.placed (x y : Seat) (now : Nat) (i : Instr) (fl : Flags) (pc : Addr) (l : List LoopEnt) : Seat :=
  { (y.startDue now) with
    pc := pc, rep := 0, frame := { stickyAfter y.frame i with loop := l }, fflags := y.fflags ||| fl
    lastIssue := now, lastFirst := if x.rep = 0#5 ∨ y.lastFirst = none then some now else y.lastFirst, fact := none }

/-- The state after the commit of a syllable alone that has made `u` of `s` and raised the flags `fl`, and does not transfer
control. -/
def State.gone (s u : State) (i : Instr) (fl : Flags) : State :=
  let x := s.seat s.cur
  (u.modSeat s.cur fun y =>
    let r := backEdge x.pc (x.pc + BitVec.ofNat 48 (4 * soloLen i)) y.frame.loop
    x.placed y (s.cycle (coreOf s.cur)) i fl r.1 r.2).modCore (coreOf s.cur) fun c => c.issued s.cur

/-- The same where control is transferred to `t`; a transfer that pops drops the loops that do not hold `t` (R98). -/
def State.jumped (s u : State) (i : Instr) (t : Addr) (pops : Bool) : State :=
  let x := s.seat s.cur
  (u.modSeat s.cur fun y =>
    x.placed y (s.cycle (coreOf s.cur)) i 0 t (if pops then popTo t y.frame.loop else y.frame.loop)).modCore (coreOf s.cur) fun c =>
      c.issued s.cur

/-- The issue of a syllable commits, writes `v` to register `a` (nothing where `a` is S0), raises the flags `fl`, and changes
nothing else. -/
def WritesReg (s : State) (i : Instr) (a : Reg) (v : W64) (fl : Flags) : Prop :=
  ∃ t, exec i s = .next t
    ∧ (t.seat s.cur).reg a = (if a = 0#6 then 0 else v)
    ∧ RegsOnly (s.seat s.cur) (t.seat s.cur) [a] fl
    ∧ GoesOn (s.seat s.cur) (t.seat s.cur) i
    ∧ SeatOnly s t s.cur

/-! ## Accesses -/

/-- No carriage waits on, and no trigger is armed on, a word that `n` bytes at `k` touch (R317, R322). -/
def State.Quiet (s : State) (k n : Nat) : Prop :=
  (∀ w ∈ s.waits, touches k n w.key = false) ∧ ∀ d, ∀ t ∈ (s.die d).trigs, touches k n t.key = false

/-- An access in flight may be performed now, after everything that it has to come after (R175, R188), and its context neither
records nor replays (R379). -/
def State.Performs (s : State) (id : Nat) (k : AKind) (a : Acc) : Prop :=
  a.k = k ∧ s.accOf id [k] = some a ∧ (s.ctx a.ctx).rcd = false ∧ (s.ctx a.ctx).replay = false

/-- The `n` bytes at `k` hold a number, and every other byte and every other part of the package but the list of accesses is as
before; lines in error may have been replaced (R366). -/
structure BytesWritten (s t : State) (k n v : Nat) : Prop where
  value : t.rdNat k n = v % 256 ^ n
  bytes : ∀ a, a < k ∨ k + n ≤ a → t.rdByte a = s.rdByte a
  rest  : { t with mem := s.mem, poison := s.poison, accs := s.accs } = s

/-- The issue of a syllable commits: `u` is the state with its own effect, and the seat goes on. -/
def Commits (s : State) (i : Instr) (u : State) (fl : Flags) : Prop := exec i s = .next (s.gone u i fl)

/-- The issue of a syllable commits and transfers control. -/
def Transfers (s : State) (i : Instr) (u : State) (t : Addr) (pops : Bool) : Prop := exec i s = .next (s.jumped u i t pops)

/-- The issue of a syllable takes a precise trap with a cause, a value and a mask of slots (R56, R58): nothing of it commits. -/
def Traps (s : State) (i : Instr) (cause : Nat) (va : W64) (mask : BitVec 14) : Prop :=
  exec i s = .next (s.faultIssue s.cur cause va mask)

end Sys2Proof.Machine
end

