-- ==== Sys2Proof/Certificates/Slice0/Obligations.lean ====
section
/-!
DEFINITION. The statements about the machine: what the encodings mean, what each instruction does where it completes,
what it leaves alone, where it traps, and what every step keeps.
-/

open Sys2Proof Sys2Proof.Machine

namespace Sys2Proof.Claims

/-! ## Scalar results (R111 to R113, R118) -/

/-- The value that a destination receives for the exact result `v` (R111): `v` mod 2^64 for .d, and sext(v[31:0]) for .w. -/
def placed (w : Wd) (v : Int) : W64 :=
  match w with
  | .d64 => BitVec.ofInt 64 v
  | .w32 => (BitVec.ofInt 32 v).signExtend 64

/-- The bits of a width. -/
def bits (w : Wd) : Nat :=
  match w with
  | .d64 => 64
  | .w32 => 32

/-- An operand read as unsigned. -/
def uns (w : Wd) (x : W64) : Nat := x.toNat % 2 ^ bits w

/-- An operand read as signed. -/
def sgn (w : Wd) (x : W64) : Int := if uns w x < 2 ^ (bits w - 1) then uns w x else (uns w x : Int) - 2 ^ bits w

/-- The two-source integer forms whose latency is one issue, with the value of each. -/
def twoSource (w : Wd) (a b c : Reg) (p q : Bool) (x y : W64) : List (Instr × Int) :=
  [(.add w a b c p q, x.toNat + y.toNat), (.sub w a b c p q, (x.toNat : Int) - y.toNat), (.mul w a b c p q, x.toNat * y.toNat),
   (.mulh w a b c p q, sgn w x * sgn w y / 2 ^ bits w), (.mulhu w a b c p q, (uns w x * uns w y / 2 ^ bits w : Nat)),
   (.and w a b c p q, (x.toNat &&& y.toNat : Nat)), (.or w a b c p q, (x.toNat ||| y.toNat : Nat)),
   (.xor w a b c p q, (x.toNat ^^^ y.toNat : Nat)),
   (.shl w a b c p q, x.toNat * 2 ^ (y.toNat % bits w)), (.shr w a b c p q, (uns w x / 2 ^ (y.toNat % bits w) : Nat)),
   (.sar w a b c p q, sgn w x / 2 ^ (y.toNat % bits w)),
   (.min w a b c p q, if sgn w x ≤ sgn w y then sgn w x else sgn w y), (.max w a b c p q, if sgn w x ≤ sgn w y then sgn w y else sgn w x),
   (.minu w a b c p q, if uns w x ≤ uns w y then uns w x else uns w y), (.maxu w a b c p q, if uns w x ≤ uns w y then uns w y else uns w x),
   (.seq w a b c p q, if uns w x = uns w y then 1 else 0), (.slt w a b c p q, if sgn w x < sgn w y then 1 else 0),
   (.sltu w a b c p q, if uns w x < uns w y then 1 else 0)]

/-- The counts of bits. -/
def oneSource (w : Wd) (a b : Reg) (p : Bool) (x : W64) : List (Instr × Int) :=
  [(.clz w a b p, ((nats (bits w)).filter fun i => decide (uns w x < 2 ^ i)).length),
   (.ctz w a b p, ((nats (bits w)).filter fun i => decide (uns w x % 2 ^ (i + 1) = 0)).length),
   (.popc w a b p, ((nats (bits w)).filter fun i => (uns w x).testBit i).length)]

/-- The shifts by an amount in field C. -/
def amountShift (w : Wd) (a b : Reg) (n : BitVec 6) (p : Bool) (x : W64) : List (Instr × Int) :=
  [(.shli w a b n p, x.toNat * 2 ^ n.toNat), (.shri w a b n p, (uns w x / 2 ^ n.toNat : Nat)), (.sari w a b n p, sgn w x / 2 ^ n.toNat)]

/-- The immediate forms with a width; LI.w alone writes a zero-extended value (R113). -/
def immediate (w : Wd) (a b : Reg) (p : Bool) (imm : W32) (x : W64) : List (Instr × W64) :=
  [(.li w a imm, match w with | .d64 => BitVec.ofInt 64 imm.toInt | .w32 => BitVec.ofNat 64 imm.toNat),
   (.addi w a b p imm, placed w (x.toNat + imm.toInt)), (.andi w a b p imm, placed w (x.toNat &&& (BitVec.ofInt 64 imm.toInt).toNat : Nat)),
   (.ori w a b p imm, placed w (x.toNat ||| (BitVec.ofInt 64 imm.toInt).toNat : Nat)),
   (.xori w a b p imm, placed w (x.toNat ^^^ (BitVec.ofInt 64 imm.toInt).toNat : Nat))]

end Sys2Proof.Claims

open Sys2Proof.Claims

/-- R111: ADD to SLTU write the value of the table at either width, and nothing else but the place where the seat stands. -/
def Sys2Proof.Claims.IntegerFormsWriteTheirValue : Prop :=
  ∀ (s : State) (w : Wd) (a b c : Reg) (p q : Bool),
    ∀ e ∈ twoSource w a b c p q ((s.seat s.cur).reg b) ((s.seat s.cur).reg c), s.Issuable e.1 → WritesReg s e.1 a (placed w e.2) 0

/-- R111: CLZ, CTZ and POPC count bits. -/
def Sys2Proof.Claims.BitCountsWriteTheirValue : Prop :=
  ∀ (s : State) (w : Wd) (a b : Reg) (p : Bool),
    ∀ e ∈ oneSource w a b p ((s.seat s.cur).reg b), s.Issuable e.1 → WritesReg s e.1 a (placed w e.2) 0

/-- R113: the immediate forms, and LIH. -/
def Sys2Proof.Claims.ImmediateFormsWriteTheirValue : Prop :=
  ∀ (s : State) (w : Wd) (a b : Reg) (p : Bool) (imm : W32),
    (∀ e ∈ immediate w a b p imm ((s.seat s.cur).reg b), s.Issuable e.1 → WritesReg s e.1 a e.2 0)
    ∧ (s.Issuable (.lih a p imm) →
        WritesReg s (.lih a p imm) a (BitVec.ofNat 64 (imm.toNat * 2 ^ 32 + ((s.seat s.cur).reg a).toNat % 2 ^ 32)) 0)

/-- R111, R113: the integer forms whose latency is one issue write their value. -/
def Obligations.IntegerFormsWriteTheirResults : Prop :=
  IntegerFormsWriteTheirValue ∧ BitCountsWriteTheirValue ∧ ImmediateFormsWriteTheirValue

/-- R112: SHLI, SHRI and SARI have the effect of SHL, SHR and SAR with the amount of field C; an amount above 31 at .w takes trap 0x02. -/
def Obligations.ShiftsByAnAmount : Prop :=
  ∀ (s : State) (w : Wd) (a b : Reg) (n : BitVec 6) (p : Bool),
    ∀ e ∈ amountShift w a b n p ((s.seat s.cur).reg b),
      (s.Issuable e.1 → WritesReg s e.1 a (placed w e.2) 0)
      ∧ ((s.seat s.cur).st = .occupied → w = .w32 → 32 ≤ n.toNat → Traps s e.1 0x02 0 0x1000)
      ∧ (∀ u v, decodeWord .slotS u v = some e.1 → n = u.extractLsb' 6 6)

/-- R118: SEL writes SB where the test of its third source is not zero, else SC; the test and the result are those of the width; the third
register and its trap bit sit in the extension word, as for FFMA. -/
def Obligations.SelectionTakesItsThirdSource : Prop :=
  (∀ (s : State) (w : Wd) (a b c x : Reg) (p q r : Bool), s.Issuable (.sel w a b c p q x r) →
    let y := s.seat s.cur
    let tst : W64 := match w with | .d64 => y.reg x | .w32 => ((y.reg x).setWidth 32).setWidth 64
    let v := if tst ≠ 0 then y.reg b else y.reg c
    WritesReg s (.sel w a b c p q x r) a (match w with | .d64 => v | .w32 => (v.setWidth 32).signExtend 64) 0)
  ∧ (∀ (w : Wd) (a b c x : Reg) (p q r : Bool) (u e : W32), decodeWord .slotS u e = some (.sel w a b c p q x r) →
      x = e.extractLsb' 0 6 ∧ r = e.getLsbD 6)
  ∧ (∀ (a b c x : Reg) (p q r sat : Bool) (rm : BitVec 2) (u e : W32), decodeWord .slotS u e = some (.ffma a b c p q rm sat x r) →
      x = e.extractLsb' 0 6 ∧ r = e.getLsbD 6)

namespace Sys2Proof.Claims

/-! ## Results that come later (R87, R88) -/

/-- A producer whose latency is not named: its destination is empty, and an item holds the value and the flags until they
arrive; nothing else but the place where the seat stands has changed. -/
def GivesLater (s : State) (i : Instr) (a : Reg) (v : W64) (fl : Flags) : Prop :=
  Commits s i ({ s with nextId := s.nextId + 1 }.modSeat s.cur fun x => x.addItem s.nextId a false 0 (some v) fl) 0

/-- The quotients and remainders (R111). -/
def divisions (w : Wd) (a b c : Reg) (p q : Bool) (x y : W64) : List (Instr × Int) :=
  [(.div w a b c p q, (sgn w x).tdiv (sgn w y)), (.divu w a b c p q, (uns w x / uns w y : Nat)),
   (.rem w a b c p q, sgn w x - sgn w y * (sgn w x).tdiv (sgn w y)), (.remu w a b c p q, (uns w x % uns w y : Nat))]

/-- The float forms whose latency is one issue, with value and flags (R116, R117). -/
def floatForms (a b c : Reg) (p q : Bool) (rm : BitVec 2) (sat : Bool) (cond : BitVec 2) (tgt src : BitVec 3) (z : Reg) (r : Bool) (x y v : W64) :
    List (Instr × W64 × Flags) :=
  let w2 (f : W32 × Flags) : W64 × Flags := (f.1.setWidth 64, f.2)
  [(.fadd a b c p q rm sat, w2 (fadd32 (rmOf rm) sat (x.setWidth 32) (y.setWidth 32))),
   (.fsub a b c p q rm sat, w2 (fsub32 (rmOf rm) sat (x.setWidth 32) (y.setWidth 32))),
   (.fmul a b c p q rm sat, w2 (fmul32 (rmOf rm) sat (x.setWidth 32) (y.setWidth 32))),
   (.ffma a b c p q rm sat z r, w2 (ffma32 (rmOf rm) sat (x.setWidth 32) (y.setWidth 32) (v.setWidth 32))),
   (.fmin a b c p q, ((fmin32 (x.setWidth 32) (y.setWidth 32)).setWidth 64, 0)),
   (.fmax a b c p q, ((fmax32 (x.setWidth 32) (y.setWidth 32)).setWidth 64, 0)),
   (.fcmp a b c p q cond, (if (fcmp32 cond.toNat (x.setWidth 32) (y.setWidth 32)).1 then 1 else 0,
      (fcmp32 cond.toNat (x.setWidth 32) (y.setWidth 32)).2)),
   (.fcvt a b tgt src p rm sat, cvtScalar tgt.toNat src.toNat (rmOf rm) sat x)]

/-- A binary32 NaN. -/
def isNaN (x : W32) : Prop := x.toNat / 2 ^ 23 % 2 ^ 8 = 255 ∧ x.toNat % 2 ^ 23 ≠ 0

/-! ## Transfers of control (R102 to R104) -/

/-- The target of a word offset from the address of the bundle. -/
def target (s : State) (off : W32) : Addr := (s.seat s.cur).pc + 4 * off.signExtend 48

/-- The address of the next bundle. -/
def nextOf (s : State) (i : Instr) : Addr := (s.seat s.cur).pc + BitVec.ofNat 48 (4 * soloLen i)

/-- The conditional branches with their conditions. -/
def branches (b c : Reg) (p q : Bool) (off : W32) (x y : W64) : List (Instr × Bool) :=
  [(.beq b c p q off, decide (x = y)), (.bne b c p q off, decide (x ≠ y)), (.blt b c p q off, decide (x.toInt < y.toInt)),
   (.bge b c p q off, decide (y.toInt ≤ x.toInt)), (.bltu b c p q off, decide (x.toNat < y.toNat)),
   (.bgeu b c p q off, decide (y.toNat ≤ x.toNat))]

/-- The seat with a link written. -/
def linked (s : State) (a : Reg) (i : Instr) : State := s.modSeat s.cur fun x => x.setReg a ((nextOf s i).setWidth 64)

end Sys2Proof.Claims

/-- R111, R87: a division by a divisor that is not zero empties its destination, and its result comes with an item; by zero
it takes trap 0x10. -/
def Obligations.DivisionsComeLaterOrTrap : Prop :=
  ∀ (s : State) (w : Wd) (a b c : Reg) (p q : Bool),
    ∀ e ∈ divisions w a b c p q ((s.seat s.cur).reg b) ((s.seat s.cur).reg c), s.Issuable e.1 →
      (uns w ((s.seat s.cur).reg c) ≠ 0 → GivesLater s e.1 a (placed w e.2) 0)
      ∧ (uns w ((s.seat s.cur).reg c) = 0 → Traps s e.1 0x10 0 0x1000)

/-- R88: the result of a producer whose latency is not named fills its destination, clears its empty mark, removes the item
and ORs its flags into FFLAGS; S0 takes no value. -/
def Obligations.ProducerResultFillsItsRegister : Prop :=
  ∀ (s : State) (k id : Nat) (i : Item) (v : W64),
    s.itemSeat id = some (k, i) → i.landing = false → i.id = id → i.data = some v → i.er = false → i.sh = (s.seat k).inShadow i.reg.toNat →
    (∀ a ∈ s.accs, a.id ≠ id) →
    ∃ t, exec (.producerResultArrival id) s = .next t
      ∧ (t.seat k).reg i.reg = (if i.reg = 0#6 then 0 else v)
      ∧ (t.seat k).isEmpty i.reg = false
      ∧ (∀ r, r ≠ i.reg → (t.seat k).reg r = (s.seat k).reg r ∧ (t.seat k).isEmpty r = (s.seat k).isEmpty r)
      ∧ (t.seat k).fflags = (s.seat k).fflags ||| i.flags
      ∧ (t.seat k).items = (s.seat k).items.filter (fun y => y.id ≠ id)
      ∧ { t.seat k with sregs := (s.seat k).sregs, shadow := (s.seat k).shadow, empty := (s.seat k).empty, shEmpty := (s.seat k).shEmpty
                        fflags := (s.seat k).fflags, items := (s.seat k).items } = s.seat k
      ∧ SeatOnly s t k

/-- R116, R117: the float forms write the rounded binary32 value, or the converted one, and OR its flags into FFLAGS; FDIV and
FSQRT give theirs later. -/
def Sys2Proof.Claims.FloatFormsWriteTheirValue : Prop :=
  ∀ (s : State) (a b c z : Reg) (p q r : Bool) (rm : BitVec 2) (sat : Bool) (cond : BitVec 2) (tgt src : BitVec 3),
    let x := (s.seat s.cur).reg b
    let y := (s.seat s.cur).reg c
    (∀ e ∈ floatForms a b c p q rm sat cond tgt src z r x y ((s.seat s.cur).reg z), s.Issuable e.1 → WritesReg s e.1 a e.2.1 e.2.2)
    ∧ (s.Issuable (.fdiv a b c p q rm sat) →
        GivesLater s (.fdiv a b c p q rm sat) a ((fdiv32 (rmOf rm) sat (x.setWidth 32) (y.setWidth 32)).1.setWidth 64)
          (fdiv32 (rmOf rm) sat (x.setWidth 32) (y.setWidth 32)).2)
    ∧ (s.Issuable (.fsqrt a b p rm sat) →
        GivesLater s (.fsqrt a b p rm sat) a ((fsqrt32 (rmOf rm) sat (x.setWidth 32)).1.setWidth 64) (fsqrt32 (rmOf rm) sat (x.setWidth 32)).2)

/-- R26, R36: an arithmetic form with a NaN operand gives the positive canonical NaN of binary32 and sets no flag. -/
def Sys2Proof.Claims.NaNOperandsGiveTheCanonicalNaN : Prop :=
  ∀ (m : Rm) (sat : Bool) (x y z : W32), isNaN x ∨ isNaN y →
    fadd32 m sat x y = (0x7FC00000, 0) ∧ fsub32 m sat x y = (0x7FC00000, 0) ∧ fmul32 m sat x y = (0x7FC00000, 0)
    ∧ fdiv32 m sat x y = (0x7FC00000, 0) ∧ ffma32 m sat x y z = (0x7FC00000, 0) ∧ (isNaN x → fsqrt32 m sat x = (0x7FC00000, 0))

/-- R26, R36, R116, R117: the float forms, and their NaN operands. -/
def Obligations.FloatFormsWriteTheirResults : Prop := FloatFormsWriteTheirValue ∧ NaNOperandsGiveTheCanonicalNaN

/-- R102, R104, R98: a branch whose condition holds, and B, go to their target and pop the loops that do not hold it; a branch whose
condition does not hold goes on; BL writes the address of the next bundle into its link register. -/
def Obligations.BranchesAndJumpsTransferControl : Prop :=
  ∀ (s : State) (a b c : Reg) (p q : Bool) (off : W32) (k : BitVec 3) (m : BitVec 8) (o24 : BitVec 24),
    let x := (s.seat s.cur).reg b
    (∀ e ∈ branches b c p q off x ((s.seat s.cur).reg c), s.Issuable e.1 →
      if e.2 then Transfers s e.1 s (target s off) true else Commits s e.1 s 0)
    ∧ (s.Issuable (.bkany k m o24) →
        if ∃ i : Fin 8, m.getLsbD i = true ∧ (s.seat s.cur).kreg i k.toNat ≠ 0
        then Transfers s (.bkany k m o24) s (target s (o24.signExtend 32)) true else Commits s (.bkany k m o24) s 0)
    ∧ (s.Issuable (.bra off) → Transfers s (.bra off) s (target s off) true)
    ∧ (s.Issuable (.bl a off) → Transfers s (.bl a off) (linked s a (.bl a off)) (target s off) false)

/-- R103: JR, JLR and RET take their target from SB[47:0]; JLR writes the address of the next bundle into SA and pops nothing, and reads the
old SB where A = B; JR and RET pop, and differ only in their opcode; FL[5] is the trap bit of B, and the fields named are zero. -/
def Obligations.JumpsGoToTheirRegister : Prop :=
  (∀ (s : State) (a b : Reg) (p : Bool),
    let t : Addr := ((s.seat s.cur).reg b).extractLsb' 0 48
    (s.Issuable (.jr b p) → Transfers s (.jr b p) s t true)
    ∧ (s.Issuable (.ret b p) → Transfers s (.ret b p) s t true)
    ∧ (s.Issuable (.jlr a b p) → Transfers s (.jlr a b p) (linked s a (.jlr a b p)) t false))
  ∧ (∀ (a b : Reg) (p : Bool) (w e : W32),
    (decodeWord .slotC w e = some (.jr b p) ↔ w = 0x01#8 ++ 0#6 ++ b ++ 0#6 ++ BitVec.ofBool p ++ 0#5)
    ∧ (decodeWord .slotC w e = some (.ret b p) ↔ w = 0x03#8 ++ 0#6 ++ b ++ 0#6 ++ BitVec.ofBool p ++ 0#5)
    ∧ (decodeWord .slotC w e = some (.jlr a b p) ↔ w = 0x02#8 ++ a ++ b ++ 0#6 ++ BitVec.ofBool p ++ 0#5))
  ∧ (∀ (a b : Reg) (p : Bool), (infoOf (.jr b p)).srcs = [(b, p)] ∧ (infoOf (.ret b p)).srcs = [(b, p)] ∧ (infoOf (.jlr a b p)).srcs = [(b, p)])

/-- R105, R97: a loop whose end bundle does not come before the next bundle, on a stack with room, pushes its entry and goes
on with the body; with a count of zero it goes on behind the end bundle; otherwise it traps. LOOPQ takes its count from the
oldest entry of its count queue. -/
def Obligations.LoopsPushTheirEntry : Prop :=
  ∀ (s : State) (i : Instr) (b : Reg) (p : Bool) (n : BitVec 3) (off : W32) (cnt : W64) (u : State),
    s.Issuable i →
    ((i = .loop b p off ∧ cnt = (s.seat s.cur).reg b ∧ u = s)
      ∨ (i = .loopq n off ∧ s.cqForeign (quadOf s.cur) (s.seat s.cur).ctx = false
          ∧ ∃ at_ v l, SMap.get [] (s.quad (quadOf s.cur)).cqs n.toNat = (at_, v) :: l ∧ at_ / 2 < s.dieCycle ∧ cnt = v.setWidth 64
            ∧ u = s.modQuad (quadOf s.cur) fun q => { q with cqs := SMap.set [] q.cqs n.toNat l })) →
    let stop := target s off
    (stop.toNat < (nextOf s i).toNat ∨ (s.seat s.cur).frame.loop.length = 4 → Traps s i 0x02 0 0x2000)
    ∧ (¬ stop.toNat < (nextOf s i).toNat → (s.seat s.cur).frame.loop.length ≠ 4 →
        (cnt ≠ 0 → Transfers s i
            (u.modSeat s.cur fun x => { x with frame := { x.frame with loop := ⟨nextOf s i, stop, cnt⟩ :: x.frame.loop } }) (nextOf s i) false)
        ∧ (cnt = 0 → ∀ t, afterBundle s (s.envOf i) stop = .ok t → Transfers s i u t false))

/-- R106, R248, R249: a voluntary suspension that nothing delays writes the carriage and leaves the seat WRITING, with its lease
and its owned words given up; END leaves it DRAINING with its items and pending interrupts discarded (R107). -/
def Obligations.SuspensionsLeaveTheSeat : Prop :=
  ∀ (s : State),
    (s.Issuable .yield → s.suspendWaits s.cur = false → s.suspendBad s.cur = false →
      ∃ t, exec .yield s = .next t ∧ t = (s.gone s .yield 0).leave s.cur 0 .runnable
        ∧ (t.seat s.cur).st = .writing ∧ (t.seat s.cur).owned = [] ∧ (t.seat s.cur).lease = Lease.none)
    ∧ (s.Issuable .suspend → s.suspendWaits s.cur = false → s.suspendBad s.cur = false → waitdBad (s.seat s.cur).waitd = false →
      (fld (s.seat s.cur).waitd 63 60 = 0 → ∃ t, exec .suspend s = .next t
        ∧ t = (s.gone s .suspend 0).leave s.cur (s.seat s.cur).waitd .runnable ∧ (t.seat s.cur).st = .writing)
      ∧ (fld (s.seat s.cur).waitd 63 60 = 4 → ∃ t, exec .suspend s = .next t
        ∧ t = (s.gone s .suspend 0).suspendOn s.cur 4 0 (addrOf (s.seat s.cur).waitd) 0
            ((s.gone s .suspend 0).dieCycle + fld (s.seat s.cur).waitd 31 0)
        ∧ (t.seat s.cur).st = .writing ∧ ∃ w ∈ t.waits, w.carr = (s.seat s.cur).carr ∧ w.kind = 4))
    ∧ (s.Issuable .endC → ∃ t, exec .endC s = .next t
        ∧ (t.seat s.cur).st = .draining ∧ (t.seat s.cur).items = [] ∧ (t.seat s.cur).uis = []
        ∧ (∀ r, (t.seat s.cur).reg r = (s.seat s.cur).reg r) ∧ (t.core (coreOf s.cur)).running = none ∧ SeatOnly s t s.cur)

/-- R108, R271: TRAP commits its bundle and enters the next trap level with cause 0x04, the immediate as value and the address of
the next bundle in XPC; the control frame goes with the bank, and the handler begins at XVEC with a clear one. -/
def Sys2Proof.Claims.TrapEntersTheNextLevel : Prop :=
  ∀ (s : State) (imm : BitVec 12), s.Issuable (.trap imm) → (s.seat s.cur).lvl ≠ 2 →
    ∃ t, exec (.trap imm) s = .next t
      ∧ (t.seat s.cur).lvl = (s.seat s.cur).lvl + 1
      ∧ (t.seat s.cur).pc = (s.ctx (s.seat s.cur).ctx).xvec ∧ (t.seat s.cur).rep = 0 ∧ (t.seat s.cur).frame = Frame.clear
      ∧ (t.seat s.cur).bank ((s.seat s.cur).lvl.toNat + 1)
        = { cause := 0x04, pc := xpcOf ((s.gone s (.trap imm) 0).seat s.cur).pc, va := imm.setWidth 64, mask := 0x2000, rep := 0
            frame := ((s.gone s (.trap imm) 0).seat s.cur).frame }
      ∧ (∀ r, (t.seat s.cur).reg r = (s.seat s.cur).reg r) ∧ (t.seat s.cur).fflags = (s.seat s.cur).fflags ∧ SeatOnly s t s.cur

/-- R271: a precise trap below level 2 saves cause, pc, value, slots, issue index and control frame in the bank of the new level
and goes to XVEC; no register of the seat, no flag and no byte of memory changes. -/
def Sys2Proof.Claims.PreciseTrapsSaveTheirBank : Prop :=
  ∀ (s : State) (k cause : Nat) (va : W64) (mask : BitVec 14), (s.seat k).lvl = 0 ∨ (s.seat k).lvl = 1 →
    let t := s.faultIssue k cause va mask
    (t.seat k).lvl = (s.seat k).lvl + 1
    ∧ (t.seat k).pc = (s.ctx (s.seat k).ctx).xvec ∧ (t.seat k).rep = 0 ∧ (t.seat k).frame = Frame.clear
    ∧ (t.seat k).bank ((s.seat k).lvl.toNat + 1)
      = { cause := BitVec.ofNat 8 cause, pc := xpcOf (s.seat k).pc, va := va, mask := mask, rep := (s.seat k).rep, frame := (s.seat k).frame }
    ∧ (∀ r, (t.seat k).reg r = (s.seat k).reg r ∧ (t.seat k).isEmpty r = (s.seat k).isEmpty r)
    ∧ (t.seat k).fflags = (s.seat k).fflags ∧ (t.seat k).items = (s.seat k).items
    ∧ (∀ a, t.rdByte a = s.rdByte a) ∧ (∀ j, j ≠ k → t.seat j = s.seat j)

/-- R109, R110: XRET restores pc, issue index and control frame from the bank of its level and goes one level down, and traps
at level 0; UIRET returns from the user-level handler, and traps where none is active. -/
def Obligations.ReturnsRestoreWhatWasSaved : Prop :=
  ∀ (s : State),
    (s.Issuable .xret →
      ((s.seat s.cur).lvl = 0 → Traps s .xret 0x02 0 0x2000)
      ∧ ((s.seat s.cur).lvl ≠ 0 → ∃ t, exec .xret s = .next t
        ∧ (t.seat s.cur).lvl = (s.seat s.cur).lvl - 1
        ∧ (t.seat s.cur).pc = ((s.seat s.cur).bank (s.seat s.cur).lvl.toNat).pc
        ∧ (t.seat s.cur).rep = ((s.seat s.cur).bank (s.seat s.cur).lvl.toNat).rep
        ∧ (t.seat s.cur).frame = ((s.seat s.cur).bank (s.seat s.cur).lvl.toNat).frame
        ∧ (∀ r, (t.seat s.cur).reg r = (s.seat s.cur).reg r) ∧ (t.seat s.cur).fflags = (s.seat s.cur).fflags ∧ SeatOnly s t s.cur))
    ∧ (s.Issuable .uiret →
      ((s.seat s.cur).uiActive = false → Traps s .uiret 0x02 0 0x2000)
      ∧ ((s.seat s.cur).uiActive = true → ∃ t, exec .uiret s = .next t
        ∧ (t.seat s.cur).uiActive = false ∧ (t.seat s.cur).pc = (s.seat s.cur).uipc ∧ (t.seat s.cur).rep = (s.seat s.cur).uiRep
        ∧ (t.seat s.cur).frame = (s.seat s.cur).uiFrame
        ∧ (t.seat s.cur).sregs = (s.seat s.cur).sregs ∧ (t.seat s.cur).fflags = (s.seat s.cur).fflags ∧ SeatOnly s t s.cur))

namespace Sys2Proof.Claims

/-! ## Accesses that an issue posts (R114, R172, R183 to R190) -/

/-- An access of the issuing carriage: kind, operation, width, extension of its value, address, places and operands. -/
def access (s : State) (k : AKind) (op n : Nat) (sg : Bool) (va : Nat) (locs : List PLoc) (v x : W64) (id : Nat) : Acc :=
  { id, iss := s.nextId, k, carr := (s.seat s.cur).carr, ctx := (s.seat s.cur).ctx, seat := s.cur, op, n, sgn := sg, va := BitVec.ofNat 48 va, locs, v, x
    flag := false, rcd := [], rref := [] }

/-- The state with an access posted. -/
def posted (s : State) (f : Nat → Acc) : State := { s with nextId := s.nextId + 1, accs := s.accs ++ [f s.nextId] }

/-- The state with a read posted that register `a` awaits: through full/empty, or for a landing at a core cycle (R88, R90). -/
def awaited (s : State) (a : Reg) (landing : Bool) (due : Nat) (f : Nat → Acc) : State :=
  { { s with nextId := s.nextId + 1 }.modSeat s.cur fun x => x.addItem s.nextId a landing due none 0 with
    accs := s.accs ++ [f s.nextId] }

/-- The address of a scalar access: relocation, base and offset modulo 2^48 (R114). -/
def address (s : State) (b : Reg) (m : MemOp) : Nat :=
  ((if m.re then s.relocOf s.cur m.rl.toNat else 0) + (s.seat s.cur).reg b + m.off.signExtend 64).toNat % 2 ^ 48

/-- The address in a register (R183). -/
def pointed (s : State) (b : Reg) : Nat := ((s.seat s.cur).reg b).toNat % 2 ^ 48

/-- The loads, with width and extension. -/
def loads (a b : Reg) (p : Bool) (arr : BitVec 12) (m : MemOp) : List (Instr × Nat × Bool) :=
  [(.ldb a b p arr m, 1, true), (.ldbu a b p arr m, 1, false), (.ldh a b p arr m, 2, true), (.ldhu a b p arr m, 2, false),
   (.ldw a b p arr m, 4, true), (.ldwu a b p arr m, 4, false), (.ldd a b p arr m, 8, false)]

/-- The stores, with width. -/
def stores (b c : Reg) (p q : Bool) (m : MemOp) : List (Instr × Nat) :=
  [(.stb b c p q m, 1), (.sth b c p q m, 2), (.stw b c p q m, 4), (.std b c p q m, 8)]

/-- The bytes of a width. -/
def widthOf (w : Wd) : Nat := bits w / 8

/-- The returning atomics of two operands, with operation code and width. -/
def atomics (w : Wd) (a b c : Reg) (p q : Bool) : List (Instr × Nat × Wd) :=
  [(.aadd w a b c p q, 1, w), (.amin w a b c p q, 2, w), (.amax w a b c p q, 3, w), (.aminu w a b c p q, 4, w), (.amaxu w a b c p q, 5, w),
   (.aand w a b c p q, 6, w), (.aor w a b c p q, 7, w), (.axor w a b c p q, 8, w), (.aswp w a b c p q, 9, w), (.afadd a b c p q, 10, .w32)]

/-- The reductions, with operation code and width. -/
def reductions (w : Wd) (b c : Reg) (p q : Bool) : List (Instr × Nat × Wd) :=
  [(.radd w b c p q, 1, w), (.rmin w b c p q, 2, w), (.rmax w b c p q, 3, w), (.rand w b c p q, 6, w), (.ror w b c p q, 7, w),
   (.rfadd b c p q, 10, .w32)]

/-- The value that an atomic or a reduction writes (R184 to R186): `old` is what stands there, `v` the operand, `cmp` the compare
value of ACAS (operation 11). -/
def combined (op : Nat) (w : Wd) (old v cmp : W64) : Nat :=
  match op with
  | 1 => old.toNat + v.toNat
  | 2 => if sgn w v < sgn w old then v.toNat else old.toNat
  | 3 => if sgn w old < sgn w v then v.toNat else old.toNat
  | 4 => if uns w v < uns w old then v.toNat else old.toNat
  | 5 => if uns w old < uns w v then v.toNat else old.toNat
  | 6 => (old &&& v).toNat
  | 7 => (old ||| v).toNat
  | 8 => (old ^^^ v).toNat
  | 9 => v.toNat
  | 10 => (fadd32 .rne false (old.setWidth 32) (v.setWidth 32)).1.toNat
  | _ => if uns w old = uns w cmp then v.toNat else old.toNat

end Sys2Proof.Claims

/-- R114, R88, R90: a load whose bytes translate, none of them exposed (R94), commits: with arrival 0 its destination is empty until the
value comes; with arrival n a landing is due n core cycles after the commit. LEA writes the address. No byte changes. -/
def Sys2Proof.Claims.LoadsAwaitTheirData : Prop :=
  ∀ (s : State) (a b : Reg) (p : Bool) (arr : BitVec 12) (m : MemOp),
    (∀ e ∈ loads a b p arr m, s.Issuable e.1 → ∀ locs, trAcc s (s.envOf e.1) .rd (address s b m) e.2.1 = .ok locs →
      s.expo (coreOf s.cur) (s.cycle (coreOf s.cur)) (locRanges locs e.2.1) = .clear →
      Commits s e.1 (awaited s a (decide (arr ≠ 0)) (s.cycle (coreOf s.cur) + arr.toNat)
        (access s .load (if arr = 0 then 0 else 1) e.2.1 e.2.2 (address s b m) locs 0 0)) 0)
    ∧ (s.Issuable (.lea a b p m) → WritesReg s (.lea a b p m) a (BitVec.ofNat 64 (address s b m)) 0)

/-- R114, R172, R174: a store to an aligned address that translates commits with the store posted, and changes no byte yet; one to
a misaligned address posts one store for each byte. A store into a tile descriptor takes trap 0x21 (R165). -/
def Sys2Proof.Claims.StoresArePosted : Prop :=
  ∀ (s : State) (b c : Reg) (p q : Bool) (m : MemOp), ∀ e ∈ stores b c p q m, s.Issuable e.1 →
    let va := address s b m
    let v := (s.seat s.cur).reg c
    (∀ pl, trAcc s (s.envOf e.1) .wr va e.2 = .ok [pl] → (s.ctx (s.seat s.cur).ctx).onTile va e.2 = false →
      Commits s e.1 (posted s (access s .store 0 e.2 false va [pl] v 0)) 0)
    ∧ (∀ locs, va % e.2 ≠ 0 → trAcc s (s.envOf e.1) .wr va e.2 = .ok locs → (s.ctx (s.seat s.cur).ctx).onTile va e.2 = false →
      Commits s e.1 (((nats e.2).zip locs).foldl
        (fun u x => posted u (access s .store 0 1 false (va + x.1) [x.2] (v >>> (8 * x.1)) 0)) s) 0)
    ∧ (∀ locs, va % e.2 = 0 → trAcc s (s.envOf e.1) .wr va e.2 = .ok locs → (s.ctx (s.seat s.cur).ctx).onTile va e.2 = true →
      Traps s e.1 0x21 (BitVec.ofNat 64 va) 0x1000)

/-- R88, R90, R114, R172, R174: loads and stores as they are issued. -/
def Obligations.LoadsAndStoresAreIssued : Prop := LoadsAwaitTheirData ∧ StoresArePosted

/-- R182, R24: a posted store that may be applied writes its bytes, little-endian, at the front of its place, and no other byte. -/
def Sys2Proof.Claims.StoreApplyWritesItsBytes : Prop :=
  ∀ (s : State) (id : Nat) (a : Acc) (pl : PLoc), s.Performs id .store a → a.locs = [pl] → s.Quiet (s.front a.ctx pl) a.n →
    ∃ t, exec (.homePortWriteApply id) s = .next t ∧ BytesWritten s t (s.front a.ctx pl) a.n a.v.toNat
      ∧ t.accs = s.accs.filter fun b => b.id != id

/-- R173, R88, R90: a whole load that may be performed takes the bytes that stand at its place; one with a landing gives them to the
landing buffer, one without writes its register at once, sign- or zero-extended. No byte changes; a publishable buffer that
holds the bytes keeps the number of the read (R181). -/
def Sys2Proof.Claims.LoadsReturnWhatStandsThere : Prop :=
  ∀ (s : State) (id : Nat) (a : Acc) (pl : PLoc) (k : Nat) (i : Item), s.Performs id .load a → a.id = id → a.locs = [pl] → a.flag = false →
    s.badIn (s.front a.ctx pl) a.n = none → inHost a.va.toNat = false → s.itemSeat id = some (k, i) → i.id = id →
    i ∈ (s.seat k).items →
    let v := extendTo a.n a.sgn (s.rdNat (s.front a.ctx pl) a.n)
    (a.op = 1 → i.landing = true → ∃ t, exec (.landingDataReturn id) s = .next t
      ∧ (∃ y ∈ (t.seat k).items, y.id = id ∧ y.data = some v) ∧ (∀ r, (t.seat k).reg r = (s.seat k).reg r)
      ∧ t.accs = s.accs.filter (fun b => b.id != id) ∧ SeatOnly { s.noteRead a with accs := t.accs } t k)
    ∧ (a.op = 0 → i.landing = false → i.sh = (s.seat k).inShadow i.reg.toNat → i.flags = 0 → s.accOf id [.load, .ldacq, .bartest] = some a →
      ∃ t, exec (.producerResultArrival id) s = .next t
      ∧ (t.seat k).reg i.reg = (if i.reg = 0#6 then 0 else v) ∧ (t.seat k).isEmpty i.reg = false
      ∧ (∀ r, r ≠ i.reg → (t.seat k).reg r = (s.seat k).reg r ∧ (t.seat k).isEmpty r = (s.seat k).isEmpty r)
      ∧ t.accs = s.accs.filter (fun b => b.id != id) ∧ SeatOnly { s.noteRead a with accs := t.accs } t k)

/-- R24, R88, R90, R173, R175, R181, R182: a store writes its bytes, and a load returns what stands there. -/
def Obligations.MemoryTakesAndGivesBytes : Prop := StoreApplyWritesItsBytes ∧ LoadsReturnWhatStandsThere

/-- R183 to R187: an atomic, an ACAS or an LDACQ that passes its checks commits with its destination empty and its access posted; a
reduction or a STREL with its access posted. No byte changes at the issue. -/
def Obligations.AtomicsAreSentToTheirHome : Prop :=
  ∀ (s : State) (w : Wd) (a b c x : Reg) (p q r : Bool),
    let va := pointed s b
    let v := (s.seat s.cur).reg c
    (∀ e ∈ atomics w a b c p q, s.Issuable e.1 → ∀ locs,
      yCheck s (s.envOf e.1) .atom va (widthOf e.2.2) (decide (e.2.1 = 1 ∧ e.2.2 = .d64)) true = .ok locs →
      Commits s e.1 (awaited s a false 0 (access s .atomic e.2.1 (widthOf e.2.2) (decide (e.2.2 = .w32)) va locs v v)) 0)
    ∧ (s.Issuable (.acas w a b c p q x r) → ∀ locs,
      yCheck s (s.envOf (.acas w a b c p q x r)) .atom va (widthOf w) false true = .ok locs →
      Commits s (.acas w a b c p q x r)
        (awaited s a false 0 (access s .atomic 11 (widthOf w) (decide (w = .w32)) va locs ((s.seat s.cur).reg x) v)) 0)
    ∧ (∀ e ∈ reductions w b c p q, s.Issuable e.1 → ∀ locs,
      yCheck s (s.envOf e.1) .red va (widthOf e.2.2) (decide (e.2.1 = 1 ∧ e.2.2 = .d64)) false = .ok locs →
      Commits s e.1 (posted s (access s .reduction e.2.1 (widthOf e.2.2) (decide (e.2.2 = .w32)) va locs v 0)) 0)
    ∧ (s.Issuable (.strel w b c p q) → ∀ locs, yCheck s (s.envOf (.strel w b c p q)) .wr va (widthOf w) false false = .ok locs →
      Commits s (.strel w b c p q) (posted s (access s .strel 0 (widthOf w) false va locs v 0)) 0)
    ∧ (s.Issuable (.ldacq w a b p) → ∀ locs, yCheck s (s.envOf (.ldacq w a b p)) .rd va (widthOf w) false true = .ok locs →
      s.expo (coreOf s.cur) (s.cycle (coreOf s.cur)) (locRanges locs (widthOf w)) = .clear →
      Commits s (.ldacq w a b p) (awaited s a false (s.cycle (coreOf s.cur)) (access s .ldacq 0 (widthOf w) (decide (w = .w32)) va locs 0 0)) 0)

/-- R189, R190: a FENCE commits at once and makes later accesses of the seat wait; PUB posts the swap of the buffer whose base it names,
and traps for any other address. -/
def Obligations.FenceAndPubCommit : Prop :=
  ∀ (s : State) (scope : BitVec 3) (b : Reg) (p : Bool),
    (s.Issuable (.fence scope) → Commits s (.fence scope)
      ({ s with nextId := s.nextId + 1 }.modSeat s.cur fun x =>
        { x with fence := some s.nextId, fenceSys := if scope = 4#3 then some s.nextId else x.fenceSys }) 0)
    ∧ (s.Issuable (.pub b p) →
      (∀ e, (s.ctx (s.seat s.cur).ctx).pbs.find? (fun e => e.2.va.toNat == pointed s b) = some e →
        Commits s (.pub b p) (posted s (access s .pub e.1 (e.2.pages * 65536) false (pointed s b) [⟨e.2.frameA.toNat * 65536, none⟩] 0 0)) 0)
      ∧ ((s.ctx (s.seat s.cur).ctx).pbs.find? (fun e => e.2.va.toNat == pointed s b) = none →
        Traps s (.pub b p) 0x21 (BitVec.ofNat 64 (pointed s b)) 0x100))

/-- R184 to R186, R188: at the home port an atomic, a reduction or a STREL writes the value of its operation at its place, and no other
byte; an atomic's old value comes to its item. A failed ACAS writes nothing. -/
def Sys2Proof.Claims.HomePortAppliesTheOperation : Prop :=
  ∀ (s : State) (id : Nat) (a : Acc) (pl : PLoc) (w : Wd), a.locs = [pl] → a.n = widthOf w → s.Quiet (s.front a.ctx pl) a.n →
    s.badIn (s.front a.ctx pl) a.n = none → s.countOf pl.key = none →
    let old : W64 := BitVec.ofNat 64 (s.rdNat (s.front a.ctx pl) a.n)
    (s.Performs id .reduction a → ∃ t, exec (.reductionApply id) s = .next t
      ∧ BytesWritten s t (s.front a.ctx pl) a.n (combined a.op w old a.v a.x) ∧ t.accs = s.accs.filter fun b => b.id != id)
    ∧ (s.Performs id .strel a → ∃ t, exec (.strelApply id) s = .next t
      ∧ BytesWritten s t (s.front a.ctx pl) a.n a.v.toNat ∧ t.accs = s.accs.filter fun b => b.id != id)
    ∧ (∀ k i, s.Performs id .atomic a → s.itemSeat id = some (k, i) → i.id = id → i ∈ (s.seat k).items →
      ∃ t, exec (.atomicApply id) s = .next t
      ∧ BytesWritten { s.noteRead a with seats := t.seats } t (s.front a.ctx pl) a.n (combined a.op w old a.v a.x)
      ∧ (∃ y ∈ (t.seat k).items, y.id = id ∧ y.data = some (extendTo a.n a.sgn old.toNat))
      ∧ (∀ j, j ≠ k → t.seat j = s.seat j) ∧ (∀ r, (t.seat k).reg r = (s.seat k).reg r) ∧ t.accs = s.accs.filter fun b => b.id != id)
    ∧ (∀ b, s.Performs id .pub b → s.pubWaits b = false → s.pubSplits b = false → ∃ t, exec (.pubSwap id) s = .next t
      ∧ (∀ x, t.rdByte x = s.rdByte x)
      ∧ (t.ctx b.ctx).pbs = (s.ctx b.ctx).pbs.map (fun y => if y.1 = b.op then (y.1, { y.2 with sel := !y.2.sel, reads := [] }) else y)
      ∧ { t with ctxs := s.ctxs, accs := s.accs } = s ∧ t.accs = s.accs.filter fun y => y.id != id)

namespace Sys2Proof.Claims

/-! ## Barrier and counter words, queues (R307 to R320, R334 to R337) -/

/-- A barrier word of its fields EXP, ARR, GEN, BST and OWNER (R307). -/
def barrierWord (exp arr gen st own : Nat) : Nat := exp * 2 ^ 48 + arr * 2 ^ 32 + gen * 2 ^ 24 + st * 2 ^ 16 + own

/-- An issue commits, registers a wait of a kind for the word at a place, and leaves the seat (R317). -/
def Suspends (s : State) (i : Instr) (kind : Nat) (aux : BitVec 12) (va key : Nat) : Prop :=
  ∃ t, exec i s = .next t ∧ t = (s.gone s i 0).suspendOn s.cur kind aux (BitVec.ofNat 48 va) key 0
    ∧ (t.seat s.cur).st = .writing
    ∧ ∃ w ∈ t.waits, w.carr = (s.seat s.cur).carr ∧ w.ctx = (s.seat s.cur).ctx ∧ w.kind = kind ∧ w.aux = aux ∧ w.key = key

/-- A carriage off its seat is runnable, in every record of it (R245). -/
def RunnableIn (t : State) (ctx carr : Nat) : Prop := ∀ r ∈ t.recs, r.ctx = ctx → r.carr = carr → r.st = .runnable

/-- A queue whose tickets all lie in a ring of `n` entries, with room for one more (R329, R335). -/
def hasRoom (q : Queue) : Prop := (q.t - q.f).toNat < 2 ^ q.log2n

end Sys2Proof.Claims

/-- R309, R310: what an arrival makes of a well-formed barrier word, from its fields: it counts, releases at the last, begins the next
generation of a released word, and leaves a word in error or a malformed one alone. -/
def Sys2Proof.Claims.ArrivalsMoveTheBarrierWord : Prop :=
  ∀ (exp arr gen own : Nat), exp < 2 ^ 16 → 0 < exp → gen < 2 ^ 8 → own < 2 ^ 16 →
    (∀ st, st < 2 → arr + 1 < exp →
      (bArrive (BitVec.ofNat 64 (barrierWord exp arr gen st own))).toNat = barrierWord exp (arr + 1) gen 1 own)
    ∧ (∀ st, st < 2 → arr + 1 = exp → (bArrive (BitVec.ofNat 64 (barrierWord exp arr gen st own))).toNat = barrierWord exp exp gen 2 0)
    ∧ (1 < exp → arr ≤ exp →
      (bArrive (BitVec.ofNat 64 (barrierWord exp arr gen 2 own))).toNat = barrierWord exp 1 ((gen + 1) % 2 ^ 8) 1 own)
    ∧ (exp = 1 → arr ≤ 1 → (bArrive (BitVec.ofNat 64 (barrierWord exp arr gen 2 own))).toNat = barrierWord 1 1 ((gen + 1) % 2 ^ 8) 2 0)
    ∧ (arr ≤ exp → bArrive (BitVec.ofNat 64 (barrierWord exp arr gen 3 own)) = BitVec.ofNat 64 (barrierWord exp arr gen 3 own))
    ∧ (∀ st, st < 2 ^ 8 → arr < 2 ^ 16 → exp < arr ∨ 3 < st →
      bArrive (BitVec.ofNat 64 (barrierWord exp arr gen st own)) = BitVec.ofNat 64 (barrierWord exp arr gen st own))

/-- R314 to R316, R318, R319: a barrier or counter form whose values are in range and whose word passes its checks commits with its
operation posted, BARARR and BARTEST with their destination empty; a value out of range takes trap 0x45. No byte changes. -/
def Sys2Proof.Claims.WordOperationsArePosted : Prop :=
  ∀ (s : State) (a b c : Reg) (p q own : Bool) (pl : PLoc),
    let va := pointed s b
    let v := (s.seat s.cur).reg c
    let x := s.seat s.cur
    (s.Issuable (.barinit b c p q own) →
      (v.toNat = 0 ∨ 2 ^ 16 ≤ v.toNat → Traps s (.barinit b c p q own) 0x45 v 0x100)
      ∧ (0 < v.toNat → v.toNat < 2 ^ 16 → (own = true → addrOf (x.reg b) ∈ x.owned ∨ x.owned.length < 4) →
        wordTr s (s.envOf (.barinit b c p q own)) .atom va = .ok pl →
        Commits s (.barinit b c p q own)
          (posted (s.modSeat s.cur fun y => if own then y.own (addrOf (x.reg b)) else y)
            (access s .barinit 0 8 false va [pl] v (BitVec.ofNat 64 (if own then ownerOf s.cur else 0)))) 0))
    ∧ (∀ i k, (i, k) ∈ [(Instr.ctrset b c p q, AKind.ctrset), (.ctradd b c p q, .ctradd)] → s.Issuable i →
      (2 ^ 63 ≤ v.toNat → Traps s i 0x45 v 0x100)
      ∧ (v.toNat < 2 ^ 63 → wordTr s (s.envOf i) .atom va = .ok pl →
        Commits s i (posted (s.modSeat s.cur id) (access s k 0 8 false va [pl] v 0)) 0))
    ∧ (s.Issuable (.bararr a b p) → wordTr s (s.envOf (.bararr a b p)) .atom va = .ok pl →
      Commits s (.bararr a b p) (awaited s a false 0 (access s .arrival 0 8 false va [pl] 0 0)) 0)
    ∧ (s.Issuable (.bartest a b p) → wordTr s (s.envOf (.bartest a b p)) .rd va = .ok pl → s.badIn (s.front x.ctx pl) 8 = none →
      s.expo (coreOf s.cur) (s.cycle (coreOf s.cur)) [(pl.key, 8)] = .clear →
      Commits s (.bartest a b p) (awaited s a false (s.cycle (coreOf s.cur)) (access s .bartest 0 8 false va [pl] 0 0)) 0)

/-- R309, R310, R314, R315, R316, R318, R319: the barrier word, and the operations on words as they are issued. -/
def Obligations.SynchronisationWordsMove : Prop := ArrivalsMoveTheBarrierWord ∧ WordOperationsArePosted

/-- R317: a BARWAIT or CTRWAIT that nothing delays writes the word to its destination where its condition holds, and else registers its
wait and leaves the seat. -/
def Sys2Proof.Claims.WaitsTakeTheWordOrSuspend : Prop :=
  ∀ (s : State) (a b c : Reg) (p q : Bool) (pl : PLoc),
    let va := pointed s b
    let v := (s.seat s.cur).reg c
    let k := s.front (s.seat s.cur).ctx pl
    let w := s.rdWord k
    s.suspendBad s.cur = false → s.suspendWaits s.cur = false → s.unperformed s.cur = false → s.badIn k 8 = none →
    (s.Issuable (.barwait a b c p q) → wordTr s (s.envOf (.barwait a b c p q)) .rd va = .ok pl →
      let gen := v.toNat / 2 ^ 24 % 2 ^ 8
      if bGen w ≠ gen ∨ bSt w = 2 ∨ bSt w = 3 ∨ bBad w = true then WritesReg s (.barwait a b c p q) a w 0
      else Suspends s (.barwait a b c p q) 1 (barAux a gen) va k)
    ∧ (s.Issuable (.ctrwait a b c p q) → wordTr s (s.envOf (.ctrwait a b c p q)) .rd va = .ok pl →
      (2 ^ 63 ≤ v.toNat → Traps s (.ctrwait a b c p q) 0x45 v 0x100)
      ∧ (v.toNat < 2 ^ 63 →
        if v.toNat ≤ w.toNat then WritesReg s (.ctrwait a b c p q) a w 0 else Suspends s (.ctrwait a b c p q) 2 (ctrAux a c) va k))

/-- R310, R312, R315, R319: at the home port a CTRSET writes its value, a CTRADD adds, a BARINIT opens a new generation of its word, and
an arrival leaves its word as the rules of arrivals say and returns it. No other byte changes. -/
def Sys2Proof.Claims.HomePortAppliesWordOperations : Prop :=
  ∀ (s : State) (id : Nat) (a : Acc) (pl : PLoc), a.locs = [pl] → s.Quiet (s.front a.ctx pl) 8 → s.badIn (s.front a.ctx pl) 8 = none →
    let k := s.front a.ctx pl
    let w := s.rdWord k
    (s.Performs id .ctrset a → ∃ t, exec (.ctrsetApply id) s = .next t ∧ BytesWritten s t k 8 a.v.toNat)
    ∧ (s.Performs id .ctradd a → ∃ t, exec (.ctraddApply id) s = .next t ∧ BytesWritten s t k 8 (w.toNat + a.v.toNat))
    ∧ (s.Performs id .barinit a → ∃ t, exec (.barinitApply id) s = .next t
      ∧ BytesWritten { s with seats := t.seats } t k 8
          (barrierWord (a.v.toNat % 2 ^ 16) 0 ((w.toNat / 2 ^ 24 % 2 ^ 8 + 1) % 2 ^ 8) 0 (a.x.toNat % 2 ^ 16)))
    ∧ (∀ n i, s.Performs id .arrival a → s.itemSeat id = some (n, i) → i.id = id → i.landing = false → i.flags = 0 →
      i.sh = (s.seat n).inShadow i.reg.toNat → bOwn w = bOwn (bArrive w) → i.reg ≠ 0#6 →
      ∃ t, exec (.barrierArrivalApply id) s = .next t
        ∧ BytesWritten { s with seats := t.seats } t k 8 (bArrive w).toNat
        ∧ (t.seat n).reg i.reg = bArrive w ∧ (t.seat n).isEmpty i.reg = false)

/-- R182, R184, R185, R186, R188, R310, R312, R315, R319: operations at their home ports. -/
def Obligations.HomePortsApplyOperations : Prop := HomePortAppliesTheOperation ∧ HomePortAppliesWordOperations

/-- R317, R248: a registered wait whose condition holds, or whose delay has passed, makes its carriage runnable and is removed. -/
def Sys2Proof.Claims.SatisfiedWaitsWakeTheirCarriage : Prop :=
  ∀ (s : State) (carr : Nat) (w : Wait) (r : Rec), s.recOf w.ctx w.carr = some r → r.st = .waiting →
    (s.waits.find? (fun y => y.carr == carr && s.waitLive y && s.waitCond y (s.rdWord y.key)) = some w →
      ∃ t, exec (.waitSatisfied carr) s = .next t ∧ w ∉ t.waits ∧ (∀ y ∈ s.waits, y ≠ w → y ∈ t.waits) ∧ RunnableIn t w.ctx w.carr)
    ∧ (s.waits.find? (fun y => y.carr == carr && y.kind == 4 && decide (y.at_ ≤ s.dieCycle)) = some w →
      ∃ t, exec (.delayWaitExpiry carr) s = .next t ∧ w ∉ t.waits ∧ (∀ y ∈ s.waits, y ≠ w → y ∈ t.waits) ∧ RunnableIn t w.ctx w.carr)

/-- R248, R314, R315, R316, R317: waits that are satisfied at once, that suspend, and that wake their carriage. -/
def Obligations.WaitsSuspendAndWake : Prop := WaitsTakeTheWordOrSuspend ∧ SatisfiedWaitsWakeTheirCarriage

/-- R321, R322: a TSEND or TCOPY whose threshold, word and record pass their checks, with room in the trigger table, commits with its arm
posted; at the home port of its counter the operation fires where the threshold is reached, and stays armed where it is not. -/
def Sys2Proof.Claims.TriggersAreArmed : Prop :=
  ∀ (s : State) (b c x : Reg) (p q r : Bool) (pl : PLoc) (l : List Byte),
    let va := pointed s b
    let v := (s.seat s.cur).reg c
    let ra := pointed s x
    (∀ i n, (i, n) ∈ [(Instr.tsend b c p q x r, 1), (.tcopy b c p q x r, 2)] → s.Issuable i → v.toNat < 2 ^ 63 →
      wordTr s (s.envOf i) .atom va = .ok pl → ra % 64 = 0 → earlyRead s (s.envOf i) ra 64 ra true = .ok l →
      (if n = 1 then wrCheck s (s.envOf i) ra l else tcCheck s (s.envOf i) l).isNone = true → s.trigsTaken (dieOf s.cur) < 1024 →
      Commits s i (posted s fun id => { access s .arm n 8 false va [pl] v 0 id with rcd := l }) 0)
    ∧ (∀ id a pa, s.Performs id .arm a → a.locs = [pa] → s.badIn (s.front a.ctx pa) 8 = none →
      (s.rdWord (s.front a.ctx pa)).toNat < 2 ^ 63 →
      let w := s.rdWord (s.front a.ctx pa)
      let d := dieOf a.seat
      let tr : Trig := ⟨id, a.ctx, a.carr, a.op, a.va, s.front a.ctx pa, a.v, a.rcd, none⟩
      let rest := fun t : State => t.mem = s.mem ∧ t.seats = s.seats ∧ t.accs = s.accs.filter (fun y => y.id != id)
      (w.toNat < a.v.toNat → ∃ t, exec (.triggerArmApply id) s = .next t
        ∧ (t.die d).trigs = (s.die d).trigs ++ [tr] ∧ (t.die d).fired = (s.die d).fired ∧ rest t)
      ∧ (∀ h, a.v.toNat ≤ w.toNat → (∀ y ∈ (s.die d).trigs, y.id ≠ id) → (a.op ≠ 2 → h = some []) → (a.op = 2 → s.fireChk tr = .fire h) →
        ∃ t, exec (.triggerArmApply id) s = .next t
        ∧ (t.die d).fired = (s.die d).fired ++ [{ tr with held := h }] ∧ (t.die d).trigs = (s.die d).trigs ∧ rest t))

/-- R323: the oldest fired TCOPY of a die, whose completion word was translated as it fired, enters the transfer queue of the quad of its
counter. -/
def Sys2Proof.Claims.FiredCopiesEnterTheirQueue : Prop :=
  ∀ (s : State) (d : Nat) (x : Trig) (l : List Trig) (h : Held), (s.die d).fired = x :: l → x.kind = 2 → x.held = some h →
    let c := tcTrans x.id x.ctx x.carr (16 * x.quad) x.quad x.rcd h
    (s.quad x.quad).trans.length < 32 →
    ∃ t, exec (.firedTcopyEnqueue d) s = .next t
      ∧ (t.die d).fired = (s.die d).fired.filter (fun y => y != x) ∧ (t.quad x.quad).trans = (s.quad x.quad).trans ++ [c]
      ∧ t.mem = s.mem ∧ t.seats = s.seats

/-- R321, R322, R323: triggers. -/
def Obligations.TriggersArmAndFire : Prop := TriggersAreArmed ∧ FiredCopiesEnterTheirQueue

/-- R330, R334 to R337: a queue form on a resident queue of the right kind, for which nothing waits that came before, commits with its
operation sent to the queue's home, QRES and QTAKE with their destination empty. A QTAKE.wait that finds an entry takes its ticket in the
same step, and the ticket is on its way. -/
def Sys2Proof.Claims.QueueFormsAreSentHome : Prop :=
  ∀ (s : State) (a b c : Reg) (p q rel : Bool),
    let h := (s.seat s.cur).reg c
    let n := (s.seat s.cur).ctx
    let x := s.queue n h.toNat
    let u := s.qEnter n h.toNat (s.seat s.cur).tok
    h.toNat < 4096 → x.st = 3 → s.qMay n h.toNat (s.seat s.cur).tok = true →
    (s.Issuable (.qres a c q) → x.nodev = false →
      Commits s (.qres a c q) (awaited u a false 0 (access s .qres h.toNat 0 false 0 [] 0 0)) 0)
    ∧ (s.Issuable (.qcommit b c p q rel) → (if rel then x.cons = 1 else x.nodev = false) →
      Commits s (.qcommit b c p q rel)
        (posted u (access s (if rel then .qrelease else .qcommit) h.toNat 0 false 0 [] ((s.seat s.cur).reg b) 0)) 0)
    ∧ (s.Issuable (.qtake a c q false) → x.cons = 1 →
      Commits s (.qtake a c q false) (awaited u a false 0 (access s .qtake h.toNat 0 false 0 [] 0 0)) 0)
    ∧ (s.Issuable (.qtake a c q true) → x.cons = 1 → s.suspendBad s.cur = false → s.suspendWaits s.cur = false →
      s.unperformed s.cur = false → x.h ≠ x.p → (s.ctx n).rcd = false → (s.ctx n).replay = false →
      ∃ t, exec (.qtake a c q true) s = .next t
        ∧ (∃ y ∈ (t.seat s.cur).items, y.id = s.nextId ∧ y.reg = a)
        ∧ (∃ y ∈ t.accs, y.id = s.nextId ∧ y.k = .qtake ∧ y.flag = true ∧ y.v = x.h.setWidth 64)
        ∧ (t.queue n h.toNat).h = x.h + 1 ∧ t.mem = s.mem)

/-- R330, R335 to R337: at the home of a resident queue QRES takes the ticket at T where there is room and answers FULL where there is none;
QTAKE takes the ticket at H where one is published and answers EMPTY where none is; QCOMMIT marks a reserved ticket, and one that is not
reserved or already committed only counts as rejected. A ticket already taken comes to its register. -/
def Sys2Proof.Claims.QueueHomeServesTheForms : Prop :=
  ∀ (s : State) (id : Nat) (a : Acc), let q := s.queue a.ctx a.op
    q.st = 3 → s.qMay a.ctx a.op (.acc a.id) = true →
    (∀ n i, s.itemSeat id = some (n, i) → i.id = id → i.landing = false → i.sh = (s.seat n).inShadow i.reg.toNat → i.reg ≠ 0#6 → a.id = id →
      (s.Performs id .qres a → ∃ t, exec (.qresApply id) s = .next t ∧ t.mem = s.mem ∧ (t.seat n).isEmpty i.reg = false
        ∧ (hasRoom q → (t.seat n).reg i.reg = q.t.setWidth 64 ∧ (t.queue a.ctx a.op).t = q.t + 1)
        ∧ (¬ hasRoom q → (t.seat n).reg i.reg = 0x8000000000000000 ∧ (t.queue a.ctx a.op).t = q.t))
      ∧ (s.Performs id .qtake a → a.flag = true → ∃ t, exec (.qtakeApply id) s = .next t ∧ t.mem = s.mem
        ∧ (t.seat n).isEmpty i.reg = false ∧ (t.seat n).reg i.reg = a.v ∧ (∀ c h, t.queue c h = s.queue c h))
      ∧ (s.Performs id .qtake a → a.flag = false → ∃ t, exec (.qtakeApply id) s = .next t ∧ t.mem = s.mem ∧ (t.seat n).isEmpty i.reg = false
        ∧ (q.h ≠ q.p → (t.seat n).reg i.reg = q.h.setWidth 64 ∧ (t.queue a.ctx a.op).h = q.h + 1)
        ∧ (q.h = q.p → (t.seat n).reg i.reg = 0x8000000000000000 ∧ (t.queue a.ctx a.op).h = q.h)))
    ∧ (a.k = .qcommit → s.accOf id [.qcommit, .qrelease] = some a → (s.ctx a.ctx).rcd = false → (s.ctx a.ctx).replay = false →
      let k : BitVec 32 := a.v.setWidth 32
      ∃ t, exec (.qcommitApply id) s = .next t
        ∧ ((q.t - q.p).toNat ≤ (k - q.p).toNat ∨ SMap.get false q.cb (k.toNat % 2 ^ q.log2n) = true →
          (t.queue a.ctx a.op).badc = (if q.badc = 0xFFFF then q.badc else q.badc + 1) ∧ (t.queue a.ctx a.op).p = q.p ∧ t.mem = s.mem)
        ∧ ((k - q.p).toNat < (q.t - q.p).toNat → SMap.get false q.cb (k.toNat % 2 ^ q.log2n) = false → k ≠ q.p →
          SMap.get false q.cb (q.p.toNat % 2 ^ q.log2n) = false → k.toNat % 2 ^ q.log2n ≠ q.p.toNat % 2 ^ q.log2n →
          SMap.get false (t.queue a.ctx a.op).cb (k.toNat % 2 ^ q.log2n) = true ∧ (t.queue a.ctx a.op).p = q.p
          ∧ (t.queue a.ctx a.op).badc = q.badc ∧ t.mem = s.mem))

/-- R333 to R337: the queue forms as they are issued, and at the home of their queue. -/
def Obligations.QueueFormsAreServedAtHome : Prop := QueueFormsAreSentHome ∧ QueueHomeServesTheForms

namespace Sys2Proof.Claims

/-! ## Control registers, park slots and streams -/

/-- The control registers that WRC may write, with what each holds after a write of `v` (R95, R96). -/
def writable (v : W64) : List (BitVec 12 × W64) :=
  [(0x000, BitVec.ofNat 64 (v.toNat % 2 ^ 6)), (0x001, (v.setWidth 32).signExtend 64), (0x002, (v.setWidth 32).signExtend 64),
   (0x003, BitVec.ofNat 64 (v.toNat % 2 ^ 3)), (0x004, v), (0x009, v), (0x032, v &&& 0x0000FFFFFFFFFE00), (0x039, v &&& 0x0000FFFFFFFFFFFC),
   (0x03C, BitVec.ofNat 64 (v.toNat % 2 ^ 5)), (0x041, v &&& 0x0000FFFFFFFFFFFC), (0x044, BitVec.ofNat 64 (v.toNat % 2 ^ 5)),
   (0x048, v &&& 0x0000FFFFFFFFFFFC)]

/-- The issue of a syllable commits, and its seat becomes `x` before it goes on. -/
def SeatBecomes (s : State) (i : Instr) (x : Seat) (fl : Flags) : Prop := Commits s i (s.setSeat s.cur x) fl

/-- A stream with data, after a form that starts it. -/
def begun (q : Stream) (id : Nat) : Stream :=
  { q with st := if q.pos.toNat = q.total then .exhausted else .active, since := id, resting := false, fetched := [] }

/-- The address of an X form: base, offset and Δ (R69, R157). -/
def offAddr (s : State) (b : Reg) (off : BitVec 16) : Nat := ((s.seat s.cur).reg b + off.signExtend 64).toNat % 2 ^ 48

end Sys2Proof.Claims

/-- What every commit of a syllable leaves: it changes of the state that the syllable has made only where the seat stands, its sticky
state and loop stack, its flags and counts of landings, and which seat of its core runs. -/
def Obligations.CommitsChangeOnlyWhereTheSeatStands : Prop :=
  ∀ (s u : State) (i : Instr) (fl : Flags) (a : Addr) (pops : Bool), ∀ t ∈ [s.gone u i fl, s.jumped u i a pops],
    (∀ k, t.rdByte k = u.rdByte k) ∧ (∀ j, j ≠ s.cur → t.seat j = u.seat j) ∧ (∀ j, j ≠ coreOf s.cur → t.core j = u.core j)
    ∧ { t with seats := u.seats, cores := u.cores } = u
    ∧ t.core (coreOf s.cur) = (u.core (coreOf s.cur)).issued s.cur
    ∧ (let x := u.seat s.cur
       let y := t.seat s.cur
       { y with pc := x.pc, rep := x.rep, frame := x.frame, fflags := x.fflags, lastIssue := x.lastIssue, lastFirst := x.lastFirst
                fact := x.fact, relDue := x.relDue, items := x.items } = x
       ∧ y.rep = 0 ∧ y.fact = none ∧ (x.relDue = false → y.items = x.items)
       ∧ (t = s.gone u i fl → y.fflags = x.fflags ||| fl) ∧ (t = s.jumped u i a pops → y.pc = a ∧ y.fflags = x.fflags))

/-- R95, R96, R119, R120: RDC writes the value of a listed register and traps on an unlisted number; WRC takes its value into a writable
register, and traps on any other; STOW fills a park slot and marks it; UNSTOW gives back what a filled one holds, and traps on a vacant one. -/
def Obligations.ControlRegistersAndParkSlots : Prop :=
  ∀ (s : State) (n : BitVec 12) (a b c j : Reg) (p : Bool),
    let x := s.seat s.cur
    (s.Issuable (.rdc a n) → (∀ v, s.ctrl s.cur n.toNat = some v → WritesReg s (.rdc a n) a v 0)
      ∧ (s.ctrl s.cur n.toNat = none → Traps s (.rdc a n) 0x02 0 0x1000))
    ∧ (s.Issuable (.wrc n c p) →
      (∀ e ∈ writable (x.reg c), e.1 = n → ∃ t, exec (.wrc n c p) s = .next t ∧ t.ctrl s.cur n.toNat = some e.2
        ∧ (∀ r, (t.seat s.cur).reg r = x.reg r) ∧ SeatOnly s t s.cur)
      ∧ ((∀ e ∈ writable 0, e.1 ≠ n) → Traps s (.wrc n c p) 0x02 0 0x1000))
    ∧ (s.Issuable (.stow j b p false) →
      SeatBecomes s (.stow j b p false) { x with park := SMap.set 0 x.park j.toNat (x.reg b), parkmap := x.parkmap ||| (1#64 <<< j.toNat) } 0)
    ∧ (s.Issuable (.stow j b p true) → ∃ y, SeatBecomes s (.stow j b p true) y 0
      ∧ (∀ i, i < 128 → SMap.get 0 y.vpark (128 * j.toNat + i) = SMap.get 0 x.vregs (vKey (i / 16) b.toNat (i % 16)))
      ∧ (∀ i, i / 128 ≠ j.toNat → SMap.get 0 y.vpark i = SMap.get 0 x.vpark i)
      ∧ { y with vpark := x.vpark } = { x with vparkmap := x.vparkmap ||| (1#16 <<< j.toNat) })
    ∧ (s.Issuable (.unstow a j false) →
      (x.parkmap.getLsbD j.toNat = true → GivesLater s (.unstow a j false) a (SMap.get 0 x.park j.toNat) 0)
      ∧ (x.parkmap.getLsbD j.toNat = false → Traps s (.unstow a j false) 0x02 0 0x1000))
    ∧ (s.Issuable (.unstow a j true) →
      (x.vparkmap.getLsbD j.toNat = true → ∃ y, SeatBecomes s (.unstow a j true) y 0
        ∧ (∀ k i, k < 8 → i < 16 → SMap.get 0 y.vregs (vKey k a.toNat i) = SMap.get 0 x.vpark (128 * j.toNat + 16 * k + i))
        ∧ (∀ k v i, k < 8 → i < 16 → v < 64 → v ≠ a.toNat → SMap.get 0 y.vregs (vKey k v i) = SMap.get 0 x.vregs (vKey k v i))
        ∧ { y with vregs := x.vregs } = x)
      ∧ (x.vparkmap.getLsbD j.toNat = false → Traps s (.unstow a j true) 0x02 0 0x1000))

/-- R146, R147, R150, R157 to R161: the X forms on streams, each where the state of its stream allows it and its checks pass, and the traps
where the state does not allow it. -/
def Sys2Proof.Claims.StreamFormsActOnTheirStream : Prop :=
  ∀ (s : State) (r q : BitVec 4) (a b c : Reg) (off : BitVec 16) (unbind : Bool),
    let x := s.seat s.cur
    let z := x.sq q.toNat
    let ea := offAddr s b off
    (s.Issuable (.sbind r q unbind) → ∃ y, SeatBecomes s (.sbind r q unbind) y 0 ∧ { y with streams := x.streams } = x
      ∧ ∀ i, i < 16 → y.sq i = if unbind = false ∧ i = q.toNat then { x.sq i with be := true, breg := r }
          else if (x.sq i).be = true ∧ (x.sq i).breg = r then { x.sq i with be := false, breg := 0 } else x.sq i)
    ∧ (s.Issuable (.sstart q) →
      (z.st ≠ .idle → Traps s (.sstart q) 0x02 0 0x200)
      ∧ (z.st = .idle → z.de0 = 0 ∨ z.de1 = 0 ∨ z.de2 = 0 ∨ z.de3 = 0 ∨ z.cols = 0 → Traps s (.sstart q) 0x40 0 0x200)
      ∧ (z.st = .idle → z.startBad false = none →
        Commits s (.sstart q) ({ s with nextId := s.nextId + 1 }.modSeat s.cur fun y => y.setSq q.toNat (begun z s.nextId)) 0))
    ∧ (s.Issuable (.sstop q) →
      (z.st = .active ∨ z.st = .exhausted → SeatBecomes s (.sstop q) (x.setSq q.toNat { z with st := .idle }) 0)
      ∧ (z.st = .idle ∨ z.st = .cancelled → Traps s (.sstop q) 0x02 0 0x200))
    ∧ (s.Issuable (.sdrain q) → (z.st = .cancelled → Traps s (.sdrain q) 0x02 0 0x200)
      ∧ (z.st ≠ .cancelled → z.pushed = [] →
          (∀ d ∈ (s.arr (quadOf s.cur)).cmds, d.ctx = x.ctx → d.carr = x.carr → d.k.names q.toNat = false) → Commits s (.sdrain q) s 0))
    ∧ (s.Issuable (.spos a q c false) → SeatBecomes s (.spos a q c false) (x.setReg a (z.pos.setWidth 64)) 0)
    ∧ (s.Issuable (.spos a q c true) → (z.st ≠ .idle → Traps s (.spos a q c true) 0x02 0 0x200)
      ∧ (z.st = .idle → SeatBecomes s (.spos a q c true)
          ((x.setReg a (z.pos.setWidth 64)).setSq q.toNat { z with pos := addrOf (x.reg c) }) 0))
    ∧ (s.Issuable (.scfg q b off) → (z.st = .active → Traps s (.scfg q b off) 0x02 0 0x200)
      ∧ (z.st ≠ .active → ea % 64 ≠ 0 → Traps s (.scfg q b off) 0x08 (BitVec.ofNat 64 ea) 0x200)
      ∧ (z.st ≠ .active → ea % 64 = 0 → ∀ l, earlyRead s (s.envOf (.scfg q b off)) ea 64 ea = .ok l →
        SeatBecomes s (.scfg q b off) (x.setSq q.toNat
          { streamOf (ofBytesLE l) with st := .idle, be := z.be, breg := z.breg, fcause := 0, fva := 0, since := z.since
                                        fetched := [], pushed := z.pushed }) 0))
    ∧ (s.Issuable (.shape q b off) → z.st = .idle ∨ z.st = .exhausted → ea % 8 = 0 → z.fmtBad true = false →
      ∀ l, earlyRead s (s.envOf (.shape q b off)) ea 8 ea = .ok l → ofBytesLE l < 2 ^ 16 → ofBytesLE l * z.rb ≤ z.bound.toNat →
      let z' := { z with de0 := BitVec.ofNat 16 (ofBytesLE l), de1 := 1, de2 := 1, de3 := 1, pos := 0 }
      z'.startBad true = none →
      Commits s (.shape q b off) ({ s with nextId := s.nextId + 1 }.modSeat s.cur fun y => y.setSq q.toNat (begun z' s.nextId)) 0)

/-- R145, R148, R149, R152: the unit fetches the next element of an ACTIVE in stream, an element without scale as its format reads its bits,
and keeps a fault in FCAUSE and FVA; it writes the oldest pushed vector of a stream, byte by byte under its masks, with its flags. -/
def Sys2Proof.Claims.StreamUnitsFetchAndWrite : Prop :=
  ∀ (s : State) (k n : Nat),
    let x := s.seat k
    let q := x.sq n
    let i := q.pos.toNat + q.fetched.length
    let w : QTok := .elem x.carr n i
    (x.st = .occupied → q.st = .active → q.dir = 0#2 → i < q.total → q.resting = false → (∀ f ∈ q.fetched, f.fault = none) →
      s.fetchHeld k q i w = false →
      (∀ ks, q.sstride = 0 → s.spanRead x.ctx (quadOf k) q.swz.toNat (q.elemSpan i).1 true w (q.elemSpan i).2.1 = .ok ks →
        let r := elemToLane q.fmt.toNat q.raw none (ofBytesLE (ks.map s.rdByte) / 2 ^ (q.elemSpan i).2.2 % 2 ^ q.eb)
        exec (.streamElementFetch k n) s = .next (s.setSeat k (x.setSq n { q with fetched := q.fetched ++ [⟨r.1, r.2, none⟩] })))
      ∧ (∀ c va, s.spanRead x.ctx (quadOf k) q.swz.toNat (q.elemSpan i).1 true w (q.elemSpan i).2.1 = .fault c va →
        exec (.streamElementFetch k n) s = .next (s.setSeat k (x.setSq n
          { q with fetched := q.fetched ++ [⟨0, 0, some (c, BitVec.ofNat 48 va)⟩], fcause := BitVec.ofNat 8 c, fva := BitVec.ofNat 48 va }))))
    ∧ (∀ p l, q.pushed = p :: l → s.pushReady k p = true → (∀ b ∈ p.bytes, s.Quiet (s.front x.ctx b.1) 1) →
      (p.bytes.map fun b => s.front x.ctx b.1).Nodup →
      ∃ t, exec (.streamElementWrite k n) s = .next t
        ∧ (∀ b ∈ p.bytes, let m := s.front x.ctx b.1; t.rdByte m = (s.rdByte m &&& ~~~b.2.1) ||| (b.2.2 &&& b.2.1))
        ∧ (∀ m, (∀ b ∈ p.bytes, m ≠ s.front x.ctx b.1) → t.rdByte m = s.rdByte m)
        ∧ t.seat k = { x.setSq n { q with pushed := l } with fflags := x.fflags ||| p.flags }
        ∧ (∀ j, j ≠ k → t.seat j = s.seat j))

/-- R145, R146, R147, R148, R149, R150, R152, R157, R158, R159, R160, R161: the forms on streams, and their units. -/
def Obligations.StreamsActAndMove : Prop := StreamFormsActOnTheirStream ∧ StreamUnitsFetchAndWrite

/-- The state after an M form of the seat: if it holds a run, its idle limit counts anew (R199). -/
def Sys2Proof.Claims.mIssued (s : State) : State :=
  s.modSeat s.cur fun x => { x with lease := x.lease.issued (s.cycle (coreOf s.cur)) }

/-- R66, R75 to R78, R121 to R141: the no-ops commit and do nothing, but that one of the M slot counts a run's idle limit anew (R199); a horizontal control word that is legal runs its three units, pops the
streams of its operands and writes or pushes its results, lane by lane under its mask, and OR-s its flags; an illegal word traps. -/
def Sys2Proof.Claims.HorizontalWordsRunTheirUnits : Prop :=
  ∀ (s : State) (idx : BitVec 9) (k : BitVec 3) (inv : Bool) (base : BitVec 3),
    let i : Instr := .hcw idx k inv base
    let x := s.seat s.cur
    let h := SMap.get 0 x.hcw idx.toNat
    let en := if inv then ~~~(x.kreg 0 k.toNat) else x.kreg 0 k.toNat
    let b := base.toNat
    (s.Issuable .vNop → Commits s .vNop s 0) ∧ (s.Issuable .mNop → Commits s .mNop (mIssued s) 0) ∧ (s.Issuable .xNop → Commits s .xNop s 0)
    ∧ (s.Issuable i → s.hcwLate s.cur idx.toNat (s.cycle (coreOf s.cur)) = false →
      (∀ va, SMap.find x.hcwErr idx.toNat = some va → Traps s i 0x70 va 0x80)
      ∧ (SMap.find x.hcwErr idx.toNat = none → hcwLegal h b (fun r => (x.boundTo r).isSome) = false →
          Traps s i 0x03 (BitVec.ofNat 64 idx.toNat) 0x80)
      ∧ (SMap.find x.hcwErr idx.toNat = none → hcwLegal h b (fun r => (x.boundTo r).isSome) = true →
          (∀ sel ∈ hcwSels h, 0x40 ≤ sel → sel < 0x48 → x.isEmpty (BitVec.ofNat 6 (sel - 0x40 + 8)) = false) →
          (∀ pops fl u v, s.memWaits s.cur = false → popAll s s.cur (hcwPops x h b) s [] 0 = .ok (pops, fl, u) →
            let o := hcwRun h en (x.opnd h 0 b pops)
            pushAll s (s.envOf i) ((hcwDests h b).filterMap fun d => (x.boundTo d.2.1).map fun q =>
              (q, (nats 16).map fun j => if en.getLsbD j then nth 0 (o.src d.2.2) j else nth 0 (x.opnd h 0 b pops (hcwFA h)) j)) u = .ok v →
            Commits s i (hcwWrite h (s.envOf i) en o ((hcwDests h b).filter fun d => !(x.boundTo d.2.1).isSome) v) (fl ||| o.fl))
          ∧ (∀ r ds, (∀ n, (x.sq n).be = false) → hcwDests h b = [(1, r, ds)] → hcwOp h 2 ≠ 0x50 →
            let o := hcwRun h en (x.opnd h 0 b [])
            ∃ t, exec i s = .next t
              ∧ (∀ j, j < 16 → SMap.get 0 (t.seat s.cur).vregs (16 * r + j)
                  = if en.getLsbD j then nth 0 (o.src ds) j else SMap.get 0 x.vregs (16 * r + j))
              ∧ (∀ n, n / 16 ≠ r → SMap.get 0 (t.seat s.cur).vregs n = SMap.get 0 x.vregs n)
              ∧ (∀ n j, n < 8 → 0 < n → j < 16 → ((t.seat s.cur).kreg 0 n).getLsbD j
                  = if hcwPD h = 8 + n ∧ en.getLsbD j = true then nth false o.cf j else (x.kreg 0 n).getLsbD j)
              ∧ (∀ n, (t.seat s.cur).reg n = x.reg n) ∧ (t.seat s.cur).fflags = x.fflags ||| o.fl ∧ SeatOnly s t s.cur)))

/-- R138, R139, R164, R140: an HCWLD within the table, at an aligned address that translates, is queued with its latency, and later writes
its entries and no other; a copy from another cluster is written, when due, to the enabled lanes of the clusters of its mask. -/
def Sys2Proof.Claims.TableLoadsAndCopiesArrive : Prop :=
  ∀ (s : State) (r : Reg) (first cnt : BitVec 9) (k core : Nat),
    let ea := pointed s r
    let n := cnt.toNat + 1
    (s.Issuable (.hcwld r first cnt) →
      (512 < first.toNat + n → Traps s (.hcwld r first cnt) 0x02 0 0x200)
      ∧ (first.toNat + n ≤ 512 → ea % 32 ≠ 0 → Traps s (.hcwld r first cnt) 0x08 (BitVec.ofNat 64 ea) 0x200)
      ∧ (∀ l, first.toNat + n ≤ 512 → ea % 32 = 0 → trSpan s (s.envOf (.hcwld r first cnt)) .rd ea (32 * n) = .ok l →
        Commits s (.hcwld r first cnt) ({ s with nextId := s.nextId + 1 }.modCore (coreOf s.cur) fun c =>
          { c with hcwp := c.hcwp ++ [(⟨s.nextId, s.cur, s.cycle (coreOf s.cur) + hcwldLatency s s.cur ea n, first.toNat, n,
              BitVec.ofNat 48 ea, l⟩ : HcwPend)] }) 0))
    ∧ (∀ w, ((s.core (coreOf k)).hcwp.filter fun y => y.seat == k) = [w] → s.hcwldReady w = true →
      let va := fun i => (w.va.toNat + 32 * i) % 2 ^ 48
      let key := fun i => s.heldKey (s.seat k).ctx w.refs (va i)
      (∀ i, i < w.cnt → s.badIn (key i) 32 = none) →
      ∃ t, exec (.hcwldWrite k) s = .next t
        ∧ (∀ i, i < w.cnt → SMap.get 0 (t.seat k).hcw (w.first + i) = BitVec.ofNat 256 (s.rdNat (key i) 32))
        ∧ (∀ i, i < w.first ∨ w.first + w.cnt ≤ i → SMap.get 0 (t.seat k).hcw i = SMap.get 0 (s.seat k).hcw i)
        ∧ (t.core (coreOf k)).hcwp = (s.core (coreOf k)).hcwp.filter (fun y => y.id != w.id) ∧ SeatOnly s t k)
    ∧ (∀ c, (s.core core).xcls = [c] → c.due ≤ s.cycle core →
      ∃ t, exec (.xclCopyLanding core) s = .next t ∧ (t.core core).xcls = []
        ∧ (∀ j v i, j < 8 → v < 64 → i < 16 → SMap.get 0 (t.seat c.seat).vregs (vKey j v i)
            = if c.mask.getLsbD j = true ∧ v = c.reg.toNat ∧ c.en.getLsbD i = true then nth 0 c.vals i
              else SMap.get 0 (s.seat c.seat).vregs (vKey j v i))
        ∧ (∀ j, j ≠ c.seat → t.seat j = s.seat j) ∧ t.mem = s.mem)

/-- R66, R75, R76, R77, R78, R121, R128, R138, R139, R140, R164, R199: horizontal words, their table, and copies between cores. -/
def Obligations.HorizontalWordsAndTables : Prop := HorizontalWordsRunTheirUnits ∧ TableLoadsAndCopiesArrive

namespace Sys2Proof.Claims

/-! ## The matrix array (R191 to R243) -/

/-- The seat holds a lease run, or one that expires, with the listed resources allocated, and its array's queue has room (R199, R204,
R207). -/
structure Leased (s : State) (rs : List Nat) : Prop where
  run : (s.seat s.cur).lease.st = .held ∨ (s.seat s.cur).lease.st = .expiring
  has : ∀ r ∈ rs, (s.arr (quadOf s.cur)).has (s.seat s.cur).cid r = true
  room : (s.arr (quadOf s.cur)).q.length < 16

/-- An M command is accepted: it joins the end of the queue of its array, and begins if it is alone there and waits for nothing; no register of a seat and no byte changes. -/
structure Joined (s t : State) (k : MKind) (refs : Held) : Prop where
  queue : ∃ c, (t.arr (quadOf s.cur)).q = (s.arr (quadOf s.cur)).q ++ [c] ∧ c.k = k ∧ c.refs = refs ∧ c.id = s.nextId
    ∧ c.carr = (s.seat s.cur).carr ∧ c.ctx = (s.seat s.cur).ctx ∧ c.seat = s.cur
    ∧ c.begun = (decide ((s.arr (quadOf s.cur)).q = []) && !k.awaits)
  bytes : ∀ a, t.rdByte a = s.rdByte a
  regs  : ∀ r, (t.seat s.cur).reg r = (s.seat s.cur).reg r
  seats : ∀ j, j ≠ s.cur → t.seat j = s.seat j

/-- The issue of an M form is accepted. -/
def Joins (s : State) (i : Instr) (k : MKind) (refs : Held) : Prop := ∃ t, exec i s = .next t ∧ Joined s t k refs

/-- The head of an array's queue is a command that executes, meets no error, and whose time is over, in a cycle that is not gated
(R19, R204). -/
structure Heads (s : State) (q : Nat) (c : MCmd) (l : List MCmd) : Prop where
  head  : (s.arr q).q = c :: l
  begun : c.begun = true
  sound : s.mError q c = false
  time  : (s.arr q).busyTo ≤ s.arrCycle q
  open_ : (s.quad q).gatedNow = false
  ids   : ∀ d ∈ l, d.id ≠ c.id

/-- The commands of an array's queue, but for whether they have begun. -/
def waiting (l : List MCmd) : List MCmd := l.map fun c => { c with begun := false }

/-- The factorisations with their parameter register (R226). -/
def factForms (zd pm zs : BitVec 2) (b : Reg) (x y z : Bool) : List Instr :=
  [.flu zd pm b x, .fchol zd pm b, .fqr zd pm zs b, .ftrs zd pm zs b x y z, .fperm zd pm b x y]

end Sys2Proof.Claims

/-- R199, R206 to R210: LEASE asks for the resources of its masks, once and not for none; MREL ends the lease, the run and the open planes;
MSYNC commits when no command of the carriage is queued; without a lease the M forms trap. -/
def Obligations.LeaseFormsMoveTheLease : Prop :=
  ∀ (s : State) (pm md h z : BitVec 4),
    let x := s.seat s.cur
    let m : BitVec 24 := BitVec.ofNat 24 (pm.toNat * 2 ^ 20 + md.toNat * 2 ^ 14 + h.toNat * 2 ^ 6 + z.toNat)
    let a := s.arr (quadOf s.cur)
    (s.Issuable (.lease pm md h z) →
      (m = 0 ∨ x.lease.st ≠ .idle → Traps s (.lease pm md h z) 0x02 0 0x400)
      ∧ (m ≠ 0 → x.lease.st = .idle → ∃ t, exec (.lease pm md h z) s = .next t
        ∧ (t.seat s.cur).lease.st = .requested ∧ (t.seat s.cur).lease.masks = m ∧ (t.seat s.cur).lease.granted = false
        ∧ (t.arr (quadOf s.cur)).holder = a.holder ∧ (t.arr (quadOf s.cur)).alloc = a.alloc ∧ t.mem = s.mem
        ∧ (∀ r, (t.seat s.cur).reg r = x.reg r) ∧ (∀ j, j ≠ s.cur → t.seat j = s.seat j)))
    ∧ (s.Issuable .mrel → (x.lease.st = .idle → Traps s .mrel 0x02 0 0x400)
      ∧ (x.lease.st ≠ .idle → ∃ t, exec .mrel s = .next t
        ∧ (t.seat s.cur).lease.st = .idle ∧ (t.arr (quadOf s.cur)).holder ≠ some x.cid
        ∧ (∀ n, n < 4 → a.has x.cid (0x10 + n) = true → SMap.get false (t.arr (quadOf s.cur)).zopen n = false)
        ∧ (t.arr (quadOf s.cur)).z = a.z ∧ t.mem = s.mem ∧ (∀ r, (t.seat s.cur).reg r = x.reg r)))
    ∧ (s.Issuable .msync → s.queued (quadOf s.cur) x.ctx x.carr = [] → Commits s .msync (mIssued s) 0)
    ∧ (∀ (n o : BitVec 2) (f w : BitVec 4) (u : BitVec 3) (r : Reg) (sel c : BitVec 6) (off : BitVec 16) (y : Bool),
      ∀ i ∈ [Instr.mzero n y, .mtrans n o, .hldc f n o, .hld f n r r u r off, .mdld u r off, .mdst u r off, .pmrd r w n, .pmwr w n r,
        .mma n w sel c f, .mmas n w sel c u o y, .cmpr sel sel c u o y], s.Issuable i → x.lease.st = .idle → Traps s i 0x02 0 0x400)

/-- R19, R192, R197, R199, R200: a free array, in a cycle that is not gated, grants the seat that arbitration chooses its run and, the first
time, its resources, and zeroes the planes that another context has written, which takes it 16 cycles for each; a run without an open reduction or a command for 256 cycles ends. -/
def Obligations.ArraysGrantAndEndRuns : Prop :=
  ∀ (s : State) (quad k seat : Nat),
    let x := s.seat (16 * quad + k)
    let a := s.arr quad
    let rs := if x.lease.granted then [] else maskRes x.lease.masks
    let now := s.arrCycle quad
    (a.holder = none → a.freeAt ≤ now → (s.quad quad).gatedNow = false → a.pick = none → s.arbitrate quad = some k → 0 < a.toZero x.ctx rs →
      exec (.leaseGrant quad) s = .next (s.modArr quad fun a => { a with pick := some (k, now + 16 * a.toZero x.ctx rs) }))
    ∧ (a.holder = none → a.freeAt ≤ now → (s.quad quad).gatedNow = false →
      (a.pick = none ∧ s.arbitrate quad = some k ∧ a.toZero x.ctx rs = 0) ∨ (∃ n, a.pick = some (k, n) ∧ n ≤ now ∧ s.mayGrant quad k = true) →
      ∃ t, exec (.leaseGrant quad) s = .next t
        ∧ (t.arr quad).holder = some x.cid ∧ (t.arr quad).last = k ∧ (t.arr quad).run = 0
        ∧ (t.seat (16 * quad + k)).lease.st = .held ∧ (t.seat (16 * quad + k)).lease.granted = true
        ∧ (∀ r ∈ rs, (t.arr quad).has x.cid r = true)
        ∧ (∀ n i, n < 4 → 0x10 + n ∈ rs → SMap.get 0 a.owner (0x10 + n) ≠ x.ctx + 1 → i < 16384 → SMap.get 0 (t.arr quad).z (16384 * n + i) = 0)
        ∧ t.mem = s.mem)
    ∧ (a.holder ≠ none → exec (.leaseGrant quad) s = .next s)
    ∧ (let y := s.seat seat
       y.lease.st = .held → (s.arr (quadOf seat)).openPlane y.cid = false → y.lease.lastCmd + 256 ≤ s.cycle (coreOf seat) → y.fact = none →
       ∃ t, exec (.leaseIdleExpiry seat) s = .next t
         ∧ (t.seat seat).lease.st = .requested ∧ (t.arr (quadOf seat)).holder ≠ some y.cid
         ∧ (t.arr (quadOf seat)).alloc = (s.arr (quadOf seat)).alloc ∧ t.mem = s.mem)

/-- R204, R207, R211, R212, R214, R220, R241, R242: the M commands on planes, hoops, metadata and permutation registers of a leased seat join the
queue of their array, with the tags of a plane or hoop changed at once; nothing else changes at the issue. A PMRD empties its destination. -/
def Obligations.MatrixCommandsJoinTheirQueue : Prop :=
  ∀ (s : State) (z zs h pm n : BitVec 2) (md : BitVec 3) (fmt w : BitVec 4) (i32 : Bool) (b r : Reg) (off : BitVec 16),
    let e := fun i => s.envOf i
    let arr := s.arr (quadOf s.cur)
    let va := offAddr s b off
    (s.Issuable (.mzero z i32) → Leased s [0x10 + z.toNat] → ∃ t, exec (.mzero z i32) s = .next t ∧ Joined s t (.mzero z.toNat) []
      ∧ SMap.get false (t.arr (quadOf s.cur)).zt z.toNat = i32 ∧ SMap.get false (t.arr (quadOf s.cur)).zopen z.toNat = false)
    ∧ (s.Issuable (.mtrans z zs) → Leased s [0x10 + z.toNat, 0x10 + zs.toNat] →
      (SMap.get false arr.zopen zs.toNat = true → Traps s (.mtrans z zs) 0x02 0 0x400)
      ∧ (SMap.get false arr.zopen zs.toNat = false → ∃ t, exec (.mtrans z zs) s = .next t ∧ Joined s t (.mtrans z.toNat zs.toNat) []
        ∧ SMap.get false (t.arr (quadOf s.cur)).zt z.toNat = SMap.get false arr.zt zs.toNat))
    ∧ (s.Issuable (.hldc fmt h n) → Leased s [h.toNat] → fmtOk fmt.toNat = true → fmt ≠ 9 → fmt ≠ 11 →
      ∃ t, exec (.hldc fmt h n) s = .next t ∧ Joined s t (.hldc h.toNat fmt.toNat (16 * 2 ^ n.toNat)) []
      ∧ SMap.get 0 (t.arr (quadOf s.cur)).hf h.toNat = fmt.toNat ∧ SMap.get false (t.arr (quadOf s.cur)).hs h.toNat = false)
    ∧ (s.Issuable (.mdld md b off) → Leased s [0x20 + md.toNat] →
      (va % 64 ≠ 0 → Traps s (.mdld md b off) 0x08 (BitVec.ofNat 64 va) 0x400)
      ∧ (∀ l, va % 64 = 0 → memChk s (e (.mdld md b off)) [⟨false, some 0, [(va, 2048)], false⟩] = .ok l →
        Joins s (.mdld md b off) (.mdld md.toNat (BitVec.ofNat 48 va)) l.flatten))
    ∧ (s.Issuable (.mdst md b off) → Leased s [0x20 + md.toNat] →
      (va % 64 ≠ 0 → Traps s (.mdst md b off) 0x08 (BitVec.ofNat 64 va) 0x400)
      ∧ (∀ l, va % 64 = 0 → memChk s (e (.mdst md b off)) [⟨true, some 0, [(va, 2048)], false⟩] = .ok l →
        Joins s (.mdst md b off) (.mdst md.toNat (BitVec.ofNat 48 va)) l.flatten))
    ∧ (s.Issuable (.pmwr w pm r) → Leased s [0x30 + pm.toNat] → Joins s (.pmwr w pm r) (.pmwr w.toNat pm.toNat ((s.seat s.cur).reg r)) [])
    ∧ (s.Issuable (.pmrd b w pm) → Leased s [0x30 + pm.toNat] → ∃ t, exec (.pmrd b w pm) s = .next t
      ∧ Joined s t (.pmrd b w.toNat pm.toNat) [] ∧ (∃ y ∈ (t.seat s.cur).items, y.id = s.nextId ∧ y.reg = b ∧ y.data = none)
      ∧ (b ≠ 0#6 → (t.seat s.cur).isEmpty b = true))

namespace Sys2Proof.Claims

/-- The A operand of a compression: two K-steps of a hoop, or a tile of 32 columns (R219). -/
def cmprSource (s : State) (e : Env) (a : Sel) (k : Nat) : AInfo :=
  match a with
  | .hoop h =>
    let f := SMap.get 0 (s.arr e.quad).hf h
    ⟨f, SMap.get false (s.arr e.quad).hs h, false, decide (hoopSteps f ≤ 2 * k + 1)⟩
  | .stream sq => aInfo s e (.stream sq) 0 0 32
  | .plane z => aInfo s e (.plane z) 0 0 32

/-- The destination of a compression takes 16 columns of the source's format (R219). -/
def cmprFits (s : State) (e : Env) (a d : Sel) (k : Nat) : Prop :=
  let ai := cmprSource s e a k
  match d with
  | .stream sq =>
    let q := tileStream s e sq
    tileFmtBad q 1#2 16 = false ∧ q.fmt.toNat = ai.fmt ∧ ai.scaled = false ∧ sq ∉ a.streams ∧ tileShort q = false
  | .hoop _ => k < hoopSteps ai.fmt
  | .plane _ => k < hoopSteps ai.fmt

/-- A B operand, and the type of the product, fit (R215, R216). -/
def productFits (s : State) (e : Env) (z sb : Nat) (a : Sel) (ai : AInfo) (cols : Nat) : Prop :=
  let q := tileStream s e sb
  ai.bad4 = false ∧ ai.bad5 = false ∧ tileFmtBad q 0#2 cols = false ∧ tileShort q = false ∧ sb ∉ a.streams
    ∧ SMap.get false (s.arr e.quad).zt z = (fmtInt ai.fmt && fmtInt q.fmt.toNat && !ai.scaled && q.sstride == 0)

end Sys2Proof.Claims

/-- R193, R194, R204, R215 to R219: a product and a compression of a leased seat whose operands fit join the queue of their array; a product
opens its plane, a compression gives a destination hoop its format. -/
def Sys2Proof.Claims.ProductsJoinTheirQueue : Prop :=
  ∀ (s : State) (z : BitVec 2) (md : BitVec 3) (sb fc : BitVec 4) (sel dsel c : BitVec 6) (seg : BitVec 2) (g8 : Bool),
    let arr := s.arr (quadOf s.cur)
    let a := selOf sel
    (s.Issuable (.mma z sb sel c fc) →
      let i := Instr.mma z sb sel c fc
      let e := s.envOf i
      let ai := aInfo s e a c.toNat fc.toNat 16
      Leased s ([0x10 + z.toNat] ++ a.res) → productFits s e z.toNat sb.toNat a ai 16 →
      let n := (a.ops s e 1).length
      ∀ hs, memChk s e (a.ops s e 1 ++ tileOps (tileStream s e sb.toNat) 1) = .ok hs →
      ∃ t, exec i s = .next t ∧ Joined s t (.mma z.toNat (aSrc s e a (hs.take n).flatten) c.toNat ai.fmt ai.scaled
          ⟨tileStream s e sb.toNat, (hs.drop n).flatten, sb.toNat⟩ (SMap.get false arr.zt z.toNat) (a == .plane z.toNat)) hs.flatten
        ∧ SMap.get false (t.arr (quadOf s.cur)).zopen z.toNat = true)
    ∧ (s.Issuable (.mmas z sb sel c md seg g8) →
      let i := Instr.mmas z sb sel c md seg g8
      let e := s.envOf i
      let ai := aInfo s e a c.toNat 0 16
      Leased s ([0x10 + z.toNat] ++ a.res ++ [0x20 + md.toNat]) → productFits s e z.toNat sb.toNat a ai 32 →
      let n := (a.ops s e 2).length
      ∀ hs, memChk s e (a.ops s e 2 ++ tileOps (tileStream s e sb.toNat) 2) = .ok hs →
      ∃ t, exec i s = .next t ∧ Joined s t (.mmas z.toNat (aSrc s e a (hs.take n).flatten) c.toNat ai.fmt ai.scaled
          ⟨tileStream s e sb.toNat, (hs.drop n).flatten, sb.toNat⟩ (SMap.get false arr.zt z.toNat) md.toNat
          (seg.toNat % if g8 then 2 else 4) g8) hs.flatten
        ∧ SMap.get false (t.arr (quadOf s.cur)).zopen z.toNat = true)
    ∧ (s.Issuable (.cmpr dsel sel c md seg g8) →
      let i := Instr.cmpr dsel sel c md seg g8
      let e := s.envOf i
      let d := selOf dsel
      let ai := cmprSource s e a c.toNat
      Leased s (d.res ++ a.res ++ [0x20 + md.toNat]) → ai.bad4 = false → ai.bad5 = false →
      let n := (a.ops s e 2).length
      cmprFits s e a d c.toNat → ∀ hs, memChk s e (a.ops s e 2 ++ d.outOps s e) = .ok hs →
      ∃ t, exec i s = .next t ∧ Joined s t (.cmpr (aSrc s e d (hs.drop n).flatten) (aSrc s e a (hs.take n).flatten) c.toNat ai.fmt ai.scaled
          md.toNat (seg.toNat % if g8 then 2 else 4) g8) hs.flatten
        ∧ ∀ n, d = .hoop n → SMap.get 0 (t.arr (quadOf s.cur)).hf n = ai.fmt ∧ SMap.get false (t.arr (quadOf s.cur)).hs n = ai.scaled)

/-- R204, R205, R213, R221 to R223: a hoop load and a DRAIN of a leased seat whose formats, regions, addresses and ranges pass their checks
join the queue of their array; a load gives its hoop its format and scaling, a DRAIN closes its plane. -/
def Sys2Proof.Claims.HoopLoadsAndDrainsJoinTheirQueue : Prop :=
  ∀ (s : State) (z h n : BitVec 2) (fmt : BitVec 4) (b r sx : Reg) (rtz sc had : Bool) (swz : BitVec 3) (sh : BitVec 7) (off : BitVec 16),
    let va := offAddr s b off
    let v := (s.seat s.cur).reg r
    let sv := addrOf ((s.seat s.cur).reg sx)
    (s.Issuable (.hld fmt h b r swz sx off) →
      let i := Instr.hld fmt h b r swz sx off
      Leased s [h.toNat] → fmtOk fmt.toNat = true → (sx ≠ 0#6 → 2 < fmt.toNat) → va % 16 = 0 → v.toNat % 16 = 0 →
      ∀ hs, memChk s (s.envOf i) [⟨false, some swz.toNat, (nats 128).map fun k => ((va + k * v.toNat) % 2 ^ 48, 256), false⟩,
        ⟨false, none, if sx = 0#6 then [] else [(sv.toNat, 8192)], false⟩] = .ok hs →
      ∃ t, exec i s = .next t ∧ Joined s t (.hld h.toNat fmt.toNat (BitVec.ofNat 48 va) (BitVec.ofNat 48 v.toNat) swz.toNat
          (if sx = 0#6 then none else some sv)) hs.flatten
        ∧ SMap.get 0 (t.arr (quadOf s.cur)).hf h.toNat = fmt.toNat ∧ SMap.get false (t.arr (quadOf s.cur)).hs h.toNat = decide (sx ≠ 0#6))
    ∧ (s.Issuable (.drain z fmt b r rtz sc swz sx n had sh off) →
      let i := Instr.drain z fmt b r rtz sc swz sx n had sh off
      let int := SMap.get false (s.arr (quadOf s.cur)).zt z.toNat
      let bits := fmtBits fmt.toNat
      ∀ fr nr c0 nc, regionOf r v = (fr, nr, c0, nc, false) → sc = decide (sx ≠ 0#6) → Leased s [0x10 + z.toNat] →
      let hd : Option Nat := if had then some (16 * 2 ^ n.toNat) else none
      (int = true → fmt = 0 → mulOne hd sh.toInt = true) → fmtOk fmt.toNat = true → (nc + 1) * bits % 8 = 0 →
      (sc = true → c0 % 16 = 0 ∧ (nc + 1) % 16 = 0 ∧ 2 < fmt.toNat) → fr + (nr + 1) ≤ 128 → c0 + (nc + 1) ≤ 128 → va % 16 = 0 →
      ∀ hs, memChk s (s.envOf i) (drainOps swz.toNat va sv.toNat (nr + 1) ((nc + 1) * bits / 8) ((nc + 1) / 16) sc) = .ok hs →
      ∃ t, exec i s = .next t ∧ Joined s t (.drain z.toNat fmt.toNat (BitVec.ofNat 48 va) fr nr c0 nc rtz sc swz.toNat
          (BitVec.ofNat 48 sv.toNat) hd sh.toInt int) hs.flatten
        ∧ SMap.get false (t.arr (quadOf s.cur)).zopen z.toNat = false)

/-- R193, R194, R204, R205, R213, R215, R216, R217, R219, R221, R222, R223: products, compressions, loads of hoops and drains join the queue of their array. -/
def Obligations.ProductsAndLoadsJoinTheirQueue : Prop := ProductsJoinTheirQueue ∧ HoopLoadsAndDrainsJoinTheirQueue

/-- R19, R204, R207: the head of an array's queue that may begin and meets no error begins, and the array is busy for its time. -/
def Sys2Proof.Claims.HeadsBegin : Prop :=
  ∀ (s : State) (q : Nat) (c : MCmd) (l : List MCmd), (s.arr q).q = c :: l → c.begun = false → s.mMayBegin q c = true →
    s.mError q c = false → (s.quad q).gatedNow = false →
    exec (.arrayCommandExecute q) s
      = .next (s.modArr q fun a => { a with q := { c with begun := true } :: l, busyTo := s.arrCycle q + c.k.cycles })

/-- R211, R212, R215, R220, R223, R241, R242: what the array does when the time of the head of its queue is over: MZERO zeroes its plane,
MTRANS transposes, MMA accumulates, MDLD loads, PMWR writes a word of a PM, PMRD answers with one; a DRAIN and an MDST leave the array with
what they have to write. The next command may begin. -/
def Sys2Proof.Claims.HeadsComplete : Prop :=
  ∀ (s : State) (q : Nat) (c : MCmd) (l : List MCmd), Heads s q c l →
    let a := s.arr q
    let run (p : State → Prop) : Prop := ∃ t, exec (.arrayCommandExecute q) s = .next t ∧ p t ∧ waiting (t.arr q).q = waiting l
    (∀ z, c.k = .mzero z → run fun t => t.mem = s.mem
      ∧ ∀ i, SMap.get 0 (t.arr q).z i = if 16384 * z ≤ i ∧ i < 16384 * z + 16384 then 0 else SMap.get 0 a.z i)
    ∧ (∀ zd zs, c.k = .mtrans zd zs → run fun t => t.mem = s.mem
      ∧ ∀ i j, i < 128 → j < 128 → (t.arr q).zAt zd i j = (a.plane zs).at j i)
    ∧ (∀ zd m k fa sa bt int same, c.k = .mma zd m k fa sa bt int same → run fun t => t.mem = s.mem
      ∧ (t.arr q).z = (a.setPlane zd (accPlane int (a.plane zd).at ((s.mmaA q c.ctx m k fa sa).1.map (·.map some))
          ((nats 128).map fun n => rowVals bt.q.fmt.toNat (s.tileScales c.ctx bt n 1) (s.tileCodes c.ctx bt n))).1).z)
    ∧ (∀ md va, c.k = .mdld md va → run fun t => t.mem = s.mem
      ∧ ∀ r, r < 128 → SMap.get 0 (t.arr q).md (128 * md + r)
          = BitVec.ofNat 128 (ofBytesLE (((s.readHeld c.ctx c.refs 0 va.toNat 2048).drop (16 * r)).take 16)))
    ∧ (∀ w pm v, c.k = .pmwr w pm v → run fun t => t.mem = s.mem
      ∧ (w < 14 → bitsAt (SMap.get 0 (t.arr q).pm pm).toNat (64 * w) 64 = v.toNat)
      ∧ ∀ m, m ≠ pm → SMap.get 0 (t.arr q).pm m = SMap.get 0 a.pm m)
    ∧ (∀ r w pm k i, c.k = .pmrd r w pm → s.itemSeat c.id = some (k, i) → i.id = c.id → i.landing = false → i.reg ≠ 0#6 →
      i.sh = (s.seat k).inShadow i.reg.toNat →
      run fun t => t.mem = s.mem ∧ (t.arr q).pm = a.pm ∧ (t.seat k).isEmpty i.reg = false
        ∧ (t.seat k).reg i.reg = BitVec.ofNat 64 (bitsAt (SMap.get 0 a.pm pm).toNat (64 * w) 64))
    ∧ (∀ z fmt va fr nr c0 nc rtz sc swz scl had sh int, c.k = .drain z fmt va fr nr c0 nc rtz sc swz scl had sh int →
      let d := a.drained z fmt va.toNat fr nr c0 nc rtz sc swz scl.toNat had sh int
      run fun t => t.mem = s.mem ∧ (t.arr q).z = a.z ∧ (t.arr q).outs = a.outs ++ [⟨c, d.1, d.2⟩])
    ∧ (∀ md va, c.k = .mdst md va → run fun t => t.mem = s.mem ∧ (t.arr q).outs = a.outs ++ [⟨c, [(0, va.toNat, a.mdBytes md)], 0⟩])

/-- R180, R205, R220, R223: what the oldest DRAIN or MDST that has left the array has to write is written once its exposed latency has passed,
and every earlier event of its seat is performed: a DRAIN writes to the shadow of a publishable buffer, an MDST to the front; every other
byte, and the array, are as before. -/
def Sys2Proof.Claims.LeftCommandsWrite : Prop :=
  ∀ (s : State) (q : Nat) (o : ArrOut) (l : List ArrOut), (s.arr q).outs = o :: l → s.mReady o.cmd = true →
    s.mayWrite (coreOf o.cmd.seat) o.cmd.id = true →
    let place (a : Nat) : Nat := match o.cmd.k with
      | .mdst .. => s.heldKey o.cmd.ctx o.cmd.refs a
      | _ => s.heldShadow o.cmd.ctx o.cmd.refs a
    let parts (w : Nat × Nat × List Byte) : List (Nat × List Byte) := pieces (fun a => place (swzAddr w.1 a)) w.2.1 w.2.2
    ∃ t, exec (.drainRetire q) s = .next t ∧ (t.arr q).outs = l ∧ (t.arr q).q = (s.arr q).q ∧ (t.arr q).z = (s.arr q).z
      ∧ ((∀ w ∈ o.writes, ∀ p ∈ parts w, s.Quiet p.1 p.2.length) →
        (∀ a, (∀ w ∈ o.writes, ∀ p ∈ parts w, a < p.1 ∨ p.1 + p.2.length ≤ a) → t.rdByte a = s.rdByte a)
        ∧ ∀ w, o.writes = [w] → (parts w).Pairwise (fun p p' => p.1 + p.2.length ≤ p'.1 ∨ p'.1 + p'.2.length ≤ p.1) →
          ∀ p ∈ parts w, ∀ i, i < p.2.length → t.rdByte (p.1 + i) = nth 0 p.2 i)

/-- R19, R180, R204, R205, R207, R211, R212, R215, R220, R223, R241, R242: the array begins and completes the commands of its queue, and writes what they leave to be written. -/
def Obligations.ArraysExecuteTheirQueue : Prop := HeadsBegin ∧ HeadsComplete ∧ LeftCommandsWrite

/-- R226 to R233, R240: a factorisation of a leased seat whose checks pass begins: its PM is RUNNING from step 0 under its signature, or
its seat traps; the array runs it step by step, a step that completes counts in PROG, a pivot that stops it is a trap; and the issue commits
when the array has ended the form. -/
def Obligations.FactorisationsRunStepByStep : Prop :=
  ∀ (s : State) (zd pm zs : BitVec 2) (b : Reg) (x y z : Bool) (i : Instr), i ∈ factForms zd pm zs b x y z →
    let k := s.cur
    let sb := (s.seat k).reg b
    let q := quadOf k
    (s.Issuable i →
      (∀ f, (s.seat k).fact = some f → f.ended = true → Commits s i s 0)
      ∧ (∀ f, (s.seat k).fact = none → formOf i sb = some f → Leased s f.res → (s.arr q).openPlane (s.seat k).cid = false →
        f.intPlane (s.arr q) = false → f.badParam sb = false → (s.arr q).cmds = [] →
        (f.opk ≠ 5 → pmStatus (s.pmOf q f.pm) ∉ [1, 4, 5] → ∃ t, exec i s = .next t
          ∧ (t.seat k).fact = some ⟨i, sb, true, false, s.cycle (coreOf k)⟩ ∧ (t.seat k).pc = (s.seat k).pc
          ∧ pmStatus (t.pmOf q f.pm) = 1 ∧ pmProg (t.pmOf q f.pm) = 0 ∧ pmSing (t.pmOf q f.pm) = 0xFF ∧ pmSig (t.pmOf q f.pm) = f.sig
          ∧ (∀ r, (t.seat k).reg r = (s.seat k).reg r) ∧ (t.arr q).z = (s.arr q).z ∧ t.mem = s.mem)
        ∧ (f.opk ≠ 5 → pmStatus (s.pmOf q f.pm) ∈ [1, 4, 5] → pmSig (s.pmOf q f.pm) ≠ f.sig → Traps s i 0x02 0 0x400)
        ∧ (f.opk = 5 → ∀ j, permBad (pmEnt (s.pmOf q f.pm)) f.n = some j → Traps s i 0x45 (BitVec.ofNat 64 j) 0x400)))
    ∧ (∀ n j w f, s.factSeat n = some (j, w) → w.instr = i → formOf i w.sb = some f → (s.arr n).busyTo ≤ s.arrCycle n → quadOf j = n →
      (s.quad n).gatedNow = false → f.meets (s.arr n) = false →
      let v := s.pmOf n f.pm
      (f.opk = 5 → ∃ t, exec (.factorisationStep n) s = .next t
        ∧ (t.arr n).z = ((s.arr n).setPlane f.zd (permPl ((s.arr n).plane f.zd) (pmEnt v) f.n (f.fl / 2 == 1) (f.fl % 2 == 1))).z
        ∧ (t.arr n).pm = (s.arr n).pm ∧ t.mem = s.mem ∧ ∃ g, (t.seat j).fact = some g ∧ g.ended = true)
      ∧ (f.opk ≠ 5 → pmProg v < f.n → f.n ≤ 128 →
        (∀ r, f.run (pmProg v) (s.factSt n f v) = .ok r → ∃ t, exec (.factorisationStep n) s = .next t
          ∧ pmProg (t.pmOf n f.pm) = pmProg v + 1 ∧ (t.seat j).fflags = (s.seat j).fflags ||| r.fl ∧ t.mem = s.mem)
        ∧ (∀ st col, f.run (pmProg v) (s.factSt n f v) = .stop st col →
          ∃ u : State, exec (.factorisationStep n) s = .next (u.faultIssue j 0x50 (BitVec.ofNat 64 col) 0x400)
          ∧ pmStatus (u.pmOf n f.pm) = st % 16 ∧ pmProg (u.pmOf n f.pm) = pmProg v ∧ (u.arr n).z = (s.arr n).z)))

/-! ## Tiles, count queues and transfers -/

/-- R165, R166, R300, R306: TILEARM of an admitted tile writes its descriptor with the next generation, a COUNT of zero and the state ARMED;
TILEDIS empties its tile; CQPUSH appends to its count queue; an index of 256 or more and a queue of another context trap. -/
def Sys2Proof.Claims.TileFormsAndCountQueues : Prop :=
  ∀ (s : State) (b c : Reg) (n : BitVec 3),
    let x := s.seat s.cur
    let i := (x.reg c).toNat
    let q := quadOf s.cur
    let key := s.tileKey x.ctx q i
    let ea := pointed s b
    (s.Issuable (.tilearm b c) →
      (256 ≤ i → Traps s (.tilearm b c) 0x45 (Config.freeWord s.free) 0x200)
      ∧ (∀ l, i < 256 → (s.ctx x.ctx).spLen q ≠ 0 → ea % 32 = 0 → s.tileBusy (s.envOf (.tilearm b c)) key = false →
        earlyRead s (s.envOf (.tilearm b c)) ea 32 ea = .ok l → s.Quiet key 32 →
        let w := fun n : Nat => BitVec.ofNat 64 (ofBytesLE ((l.drop (8 * n)).take 8))
        tileFits s (s.envOf (.tilearm b c)) (w 0) (w 3) = true →
        ∃ t, exec (.tilearm b c) s = .next t
          ∧ (t.rdWord key).toNat = ((s.rdWord key).toNat / 2 ^ 40 + 1) % 2 ^ 24 * 2 ^ 40 + (w 0).toNat % 2 ^ 32
          ∧ (t.rdWord (key + 8)).toNat = (w 1).toNat / 16 * 16 ∧ t.rdWord (key + 16) = 0
          ∧ (t.rdWord (key + 24)).toNat = (w 3).toNat / 256 * 256 + 1
          ∧ (∀ a, a < key ∨ key + 32 ≤ a → t.rdByte a = s.rdByte a) ∧ (∀ r, (t.seat s.cur).reg r = x.reg r)
          ∧ ∀ y ∈ t.curds, ¬ (y.1 = x.ctx ∧ y.2.1 = q ∧ y.2.2.1 = i)))
    ∧ (s.Issuable (.tiledis c) →
      (256 ≤ i → Traps s (.tiledis c) 0x45 (Config.freeWord s.free) 0x200)
      ∧ (i < 256 → (s.ctx x.ctx).spLen q ≠ 0 → s.tileBusy (s.envOf (.tiledis c)) key = false →
        ∃ t, exec (.tiledis c) s = .next t ∧ t.tState key = 0 ∧ (t.rdWord (key + 24)).toNat = (s.rdWord (key + 24)).toNat / 8 * 8
          ∧ (∀ a, a < key + 24 ∨ key + 32 ≤ a → t.rdByte a = s.rdByte a)
          ∧ ∀ y ∈ t.curds, ¬ (y.1 = x.ctx ∧ y.2.1 = q ∧ y.2.2.1 = i)))
    ∧ (s.Issuable (.cqpush n c) →
      (s.cqForeign q x.ctx = true → Traps s (.cqpush n c) 0x21 (BitVec.ofNat 64 (2 ^ 62 + 0x40 + n.toNat)) 0x200)
      ∧ (let l := SMap.get [] (s.quad q).cqs n.toNat
         s.cqForeign q x.ctx = false → l.length < 64 → (∀ y ∈ l, y.1 ≤ 2 * s.dieCycle + 1) →
         ∃ t, exec (.cqpush n c) s = .next t ∧ SMap.get [] (t.quad q).cqs n.toNat = l ++ [(2 * s.dieCycle + 1, (x.reg c).setWidth 32)]
          ∧ (∀ m, m ≠ n.toNat → SMap.get [] (t.quad q).cqs m = SMap.get [] (s.quad q).cqs m) ∧ (t.quad q).cqCtx = x.ctx
          ∧ t.mem = s.mem ∧ SeatOnly { s with quads := t.quads } t s.cur))

/-- R168, R461: the injection of a set curd whose record can be read, or was read at an earlier try, publishes it as one entry of its queue, resident and with room, and ends;
one that names a queue that is free or not for devices makes a fault record. -/
def Sys2Proof.Claims.SetCurdsAreInjected : Prop :=
  ∀ (s : State) (ctx quad tile : Nat),
    let key := s.tileKey ctx quad tile
    let w := (s.rdWord (key + 8)).toNat
    let h := w / 16 % 2 ^ 12
    let q := s.queue ctx h
    (ctx, quad, tile, none) ∈ s.curds → (s.ctx ctx).st = .runnable →
    (∀ l, q.st = 3 → hasRoom q → (s.ctx ctx).rcd = false → (s.ctx ctx).replay = false →
      (s.curdBytes ctx quad tile = some l
        ∨ s.curdBytes ctx quad tile = none ∧ q.nodev = false ∧ s.devRead ctx (w / 2 ^ 16) 64 = .ok l) →
      s.Quiet (s.qKey ctx h q.t) 64 → SMap.get false q.cb (q.t.toNat % 2 ^ q.log2n) = false → q.p ≠ q.t →
      (q.t - q.p).toNat < 2 ^ q.log2n → SMap.get false q.cb (q.idx q.p) = false →
      ∃ t, exec (.curdInjection ctx quad tile) s = .next t ∧ (ctx, quad, tile, none) ∉ t.curds
        ∧ (t.queue ctx h).t = q.t + 1 ∧ SMap.get false (t.queue ctx h).cb (q.t.toNat % 2 ^ q.log2n) = true
        ∧ SMap.get false (t.queue ctx h).inj (q.t.toNat % 2 ^ q.log2n) = true)
    ∧ (q.st = 0 ∨ q.nodev = true ∧ s.curdBytes ctx quad tile = none → (s.die (quad / 28)).faults.length < 1024 →
      ∃ t, exec (.curdInjection ctx quad tile) s = .next t ∧ t.mem = s.mem ∧ (ctx, quad, tile, none) ∉ t.curds
        ∧ ∃ f ∈ (t.die (quad / 28)).faults, f.src = 4 ∧ f.ctx = ctx ∧ f.cause = 0x21 ∧ f.rid = (s.die (quad / 28)).nextRid)

/-- R165, R166, R168, R300, R306, R461: tiles, count queues and the injection of curds. -/
def Obligations.TilesCountAndInject : Prop := TileFormsAndCountQueues ∧ SetCurdsAreInjected

namespace Sys2Proof.Claims

/-- The transfers of a register of bytes, with kind (R153, R163). -/
def copies (a b c : Reg) (ssw : BitVec 3) (x : Xfer) (out : Bool) : List (Instr × TKind) :=
  [(.copy a b c ssw x, .copy), (.copyh a b c out ssw x, .copyh out), (.mcast a b c ssw x, .mcast (x.form.setWidth 15))]

/-- A transfer command of the issuing carriage (R153). -/
def command (s : State) (i : Instr) (k : TKind) (src dst len rb : Nat) (idx : List Nat) (ssw : BitVec 3) (dsw : BitVec 3) (x : Xfer)
    (l : Held) : Trans :=
  newTrans s.nextId (s.seat s.cur).carr (s.seat s.cur).ctx s.cur (quadOf s.cur) (s.envOf i).syl (s.envOf i).ext k src dst len rb idx ssw dsw
    x.cmode ((s.seat s.cur).reg x.cw) l false

/-- The checks of a transfer pass, the wait for the check of its tags is over, and its queue has room. -/
def admitted (s : State) (i : Instr) (x : Xfer) (l : Held) (t : Trans) : Prop :=
  wordChk s (s.envOf i) x.cmode (pointed s x.cw) = .ok l ∧ regionFault s t = none ∧ s.tagFault t = none ∧ tagWait s (s.envOf i) (s.srcSecs t) = none
    ∧ (s.quad (quadOf s.cur)).trans.length < 32

/-- A transfer with the state that its queue holds it (R359). -/
structure Moving (s : State) (id : Nat) (c : Trans) : Prop where
  found : s.trans? id = some c
  own   : c ∈ (s.quad c.home).trans
  num   : c.id = id
  ready : s.transReady c = true

end Sys2Proof.Claims

/-- R153, R154, R162, R163: a transfer form whose length, completion word, regions and tags pass their checks commits with its command at the
end of the transfer queue of its quad; no byte moves at the issue. A length of 2^40 or more traps, and so does an interrupt without UIVEC. -/
def Obligations.TransfersEnterTheirQueue : Prop :=
  ∀ (s : State) (a b c f : Reg) (ssw : BitVec 3) (x : Xfer) (out : Bool),
    let n := ((s.seat s.cur).reg a).toNat
    (x.cmode ≠ 3#2 ∨ fld (s.seat s.cur).uivec 47 2 ≠ 0 → n < 2 ^ 40 →
      (∀ e ∈ copies a b c ssw x out, s.Issuable e.1 → ∀ l,
        let t := command s e.1 e.2 (pointed s c) (pointed s b) n 0 [] ssw x.swz x l
        admitted s e.1 x l t → Commits s e.1 ({ s with nextId := s.nextId + 1 }.enqueue t) 0)
      ∧ (n ≠ 0 ∨ x.cmode ≠ 0#2 → s.Issuable (.gld a b c f x) → ∀ l idx, readIdx s (s.envOf (.gld a b c f x)) (pointed s c) n = .ok idx →
        let t := command s (.gld a b c f x) .gld (pointed s b) (pointed s f) n x.form.toNat idx 0 x.swz x l
        admitted s (.gld a b c f x) x l t → Commits s (.gld a b c f x) ({ s with nextId := s.nextId + 1 }.enqueue t) 0)
      ∧ (n ≠ 0 ∨ x.cmode ≠ 0#2 → s.Issuable (.sct a b c f x) → ∀ l idx, readIdx s (s.envOf (.sct a b c f x)) (pointed s c) n = .ok idx →
        let t := command s (.sct a b c f x) .sct (pointed s b) (pointed s f) n x.form.toNat idx x.swz 0 x l
        admitted s (.sct a b c f x) x l t → Commits s (.sct a b c f x) ({ s with nextId := s.nextId + 1 }.enqueue t) 0))
    ∧ (∀ i ∈ [Instr.copy a b c ssw x, .copyh a b c out ssw x, .mcast a b c ssw x, .gld a b c f x, .sct a b c f x], s.Issuable i →
        (x.cmode = 3#2 → fld (s.seat s.cur).uivec 47 2 = 0 → Traps s i 0x02 0 0x200)
        ∧ (x.cmode ≠ 3#2 → 2 ^ 40 ≤ n → Traps s i 0x45 (Config.freeWord s.free) 0x200))

namespace Sys2Proof.Claims

/-- The writes of a sector of a command, in pieces. -/
def secParts (s : State) (c : Trans) (sec : Nat) (l : List Byte) : List (Nat × List Byte) :=
  (runsOf (s.secKept c sec l)).flatMap fun r => pieces (s.engineLoc c) r.1 r.2

/-- The command of a number leaves its queue. -/
def Gone (s t : State) (id : Nat) (c : Trans) : Prop :=
  (t.quad c.home).trans = (s.quad c.home).trans.filter fun y => y.id != id

/-- The command of a number has stopped. -/
def Stopped (t : State) (id : Nat) (c : Trans) : Prop := ∀ y ∈ (t.quad c.home).trans, y.id = id → y.stopped = true

/-- The context of a command neither records nor replays, and the eight bytes of a word of its, in no tile's COUNT and in no line in
error, are waited on by nothing. -/
def plainWord (s : State) (c : Trans) (k : Nat) : Prop :=
  (s.ctx c.ctx).rcd = false ∧ (s.ctx c.ctx).replay = false ∧ s.badIn k 8 = none ∧ s.countOf k = none ∧ s.Quiet k 8

end Sys2Proof.Claims

/-- R154, R359, R360: a sector of a command that may move is written, byte by byte where it lies and nowhere else, and is then no longer to
be tried; one that fails goes into a fault record of its die. -/
def Sys2Proof.Claims.SectorsAreWritten : Prop :=
  ∀ (s : State) (id sec : Nat) (c : Trans), Moving s id c → c.isTodo sec = true → c.inOrder sec = true →
    let done (t : State) : Prop := ∀ y ∈ (t.quad c.home).trans, y.id = id → y.isTodo sec = false
    (∀ l, s.secTry c sec = .ok l →
      (∃ t, exec (.transferSectorWrite id sec) s = .next t ∧ t = (s.logSector c sec l).secWrite c sec l ∧ done t)
      ∧ ((s.ctx c.ctx).rcd = false → (s.ctx c.ctx).replay = false → (∀ p ∈ secParts s c sec l, s.Quiet p.1 p.2.length) →
        ∃ t, exec (.transferSectorWrite id sec) s = .next t ∧ t.seats = s.seats
          ∧ (∀ y ∈ (t.quad c.home).trans, y.id = id → ∃ z ∈ (s.quad c.home).trans, z.id = id
              ∧ y = { z with todo := dropSec sec z.todo, written := z.written + (c.placed sec l).length })
          ∧ (∀ a, (∀ p ∈ secParts s c sec l, a < p.1 ∨ p.1 + p.2.length ≤ a) → t.rdByte a = s.rdByte a)
          ∧ ((secParts s c sec l).Pairwise (fun p p' => p.1 + p.2.length ≤ p'.1 ∨ p'.1 + p'.2.length ≤ p.1) →
              ∀ p ∈ secParts s c sec l, ∀ i, i < p.2.length → t.rdByte (p.1 + i) = nth 0 p.2 i)))
    ∧ (∀ cause side va, s.secTry c sec = .fault cause side va → (s.die (c.home / 28)).faults.length < 1024 →
      ∃ t, exec (.transferSectorWrite id sec) s = .next t ∧ t.mem = s.mem
      ∧ (∃ f ∈ (t.die (c.home / 28)).faults, f.tid = id ∧ sec ∈ f.secs ∧ f.cause = cause ∧ f.side = side) ∧ done t)

/-- R154, R155: a command all of whose other sectors are written, while some have faulted, stops with its signal, under each CMODE: nothing,
an addition of what it has written, a report word with bit 63 set, or a user-level interrupt of cause 2. -/
def Sys2Proof.Claims.FaultedCommandsStop : Prop :=
  ∀ (s : State) (id : Nat) (c : Trans), Moving s id c → c.todo = [] → s.recsOf c ≠ [] → c.stopped = false →
    let run (p : State → Prop) : Prop := ∃ t, exec (.transferFaultStop id) s = .next t ∧ Stopped t id c ∧ p t
    (c.cmode = 0#2 → run fun t => t.mem = s.mem ∧ t.seats = s.seats)
    ∧ (∀ k, c.cmode = 1#2 → s.wordOf c 0 = some k → plainWord s c k → c.counted < c.written ∨ c.written = 0 →
      run fun t => t.rdNat k 8 = ((s.rdWord k).toNat + (c.written - c.counted)) % 2 ^ 64 ∧ (∀ a, a < k ∨ k + 8 ≤ a → t.rdByte a = s.rdByte a)
        ∧ ∀ y ∈ (t.quad c.home).trans, y.id = id → y.counted = c.written)
    ∧ (∀ k, c.cmode = 1#2 → s.wordOf c 0 = some k → plainWord s c k → c.counted = c.written → c.written ≠ 0 → run fun t => t.mem = s.mem)
    ∧ (∀ k, c.cmode = 2#2 → s.wordOf c 8 = some k → s.Quiet k 8 →
      run fun t => t.rdNat k 8 = 2 ^ 63 + c.written % 2 ^ 48 ∧ ∀ a, a < k ∨ k + 8 ≤ a → t.rdByte a = s.rdByte a)
    ∧ (∀ k, c.cmode = 3#2 → s.seatOf c.ctx c.carr = some k → (s.seat k).st = .occupied → (s.seat k).uis.length < 16 →
      run fun t => t.mem = s.mem ∧ t.seat k = { s.seat k with uis := (s.seat k).uis ++ [⟨2, c.w, BitVec.ofNat 48 c.written⟩] }
        ∧ ∀ j, j ≠ k → t.seat j = s.seat j)

/-- R154, R155, R310: a command with nothing left completes and leaves its queue, under each CMODE: with nothing, with the addition of what it
has written and not yet added, with its report word and an arrival, or with a user-level interrupt of cause 1. -/
def Sys2Proof.Claims.FinishedCommandsComplete : Prop :=
  ∀ (s : State) (id : Nat) (c : Trans), Moving s id c → c.todo = [] → s.recsOf c = [] → c.aband = none →
    let run (p : State → Prop) : Prop := ∃ t, exec (.transferCompletion id) s = .next t ∧ Gone s t id c ∧ p t
    (c.cmode = 0#2 → run fun t => t.mem = s.mem ∧ t.seats = s.seats)
    ∧ (∀ k, c.cmode = 1#2 → s.wordOf c 0 = some k → plainWord s c k → c.counted < c.written ∨ c.written = 0 →
      run fun t => t.rdNat k 8 = ((s.rdWord k).toNat + (c.written - c.counted)) % 2 ^ 64 ∧ ∀ a, a < k ∨ k + 8 ≤ a → t.rdByte a = s.rdByte a)
    ∧ (∀ k, c.cmode = 1#2 → s.wordOf c 0 = some k → plainWord s c k → c.counted = c.written → c.written ≠ 0 → run fun t => t.mem = s.mem)
    ∧ (∀ k j, c.cmode = 2#2 → s.wordOf c 0 = some k → plainWord s c k → s.wordOf c 8 = some j → s.Quiet j 8 →
      k + 8 ≤ j ∨ j + 8 ≤ k → bOwn (s.rdWord k) = 0 →
      run fun t => t.rdWord k = bArrive (s.rdWord k) ∧ t.rdNat j 8 = c.written % 2 ^ 48
        ∧ ∀ a, (a < k ∨ k + 8 ≤ a) → (a < j ∨ j + 8 ≤ a) → t.rdByte a = s.rdByte a)
    ∧ (∀ k, c.cmode = 3#2 → s.seatOf c.ctx c.carr = some k → (s.seat k).st = .occupied → (s.seat k).uis.length < 16 →
      run fun t => t.mem = s.mem ∧ t.seat k = { s.seat k with uis := (s.seat k).uis ++ [⟨1, c.w, BitVec.ofNat 48 c.written⟩] }
        ∧ ∀ j, j ≠ k → t.seat j = s.seat j)

/-- R153, R154, R155, R310, R359, R360: the sectors of a command move, and the command stops or completes. -/
def Obligations.TransfersMoveSectorBySector : Prop := SectorsAreWritten ∧ FaultedCommandsStop ∧ FinishedCommandsComplete

namespace Sys2Proof.Claims

/-! ## Launches, device requests and the fabric -/

/-- The device requests with their numbers (R347). -/
def requests : List (Instr × Nat) := [(.svcPing, 0), (.svcQstat, 1), (.svcLstat, 2), (.svcTime, 3), (.svcLog, 4)]

/-- The context neither records nor replays (R379). -/
def unlogged (s : State) (ctx : Nat) : Prop := (s.ctx ctx).rcd = false ∧ (s.ctx ctx).replay = false

/-- The seat's core has an access of a fabric form, which its engine may send at once (R427). -/
def sentOut (s : State) (i : Instr) (u : State) : Prop := Commits s i (u.pump (dieOf s.cur)) 0

/-- An access of a fabric form: pointer, offset, operand, new value and address at the target. -/
def fabric (s : State) (k : AKind) (w : Wd) (op : Nat) (ptr o v new : W64) (va : Nat) (id : Nat) : Acc :=
  { access s k op (bits w / 8) (decide (w = .w32)) (o.toNat % 2 ^ 48) [] v ptr id with rcd := bytesLE 8 new.toNat ++ bytesLE 8 va }

/-- The forms on remote pointers with a result, with kind, KIND, operation, offset, operand and new value (R427). -/
def remoteReads (s : State) (w : Wd) (a b c x : Reg) (p q r : Bool) (arr off : BitVec 16) (op : BitVec 4) :
    List (Instr × AKind × Nat × Nat × W64 × W64 × W64) :=
  let y := s.seat s.cur
  [(.fld w a b c p q arr off, .fld, 4, 0, y.reg c + off.signExtend 64, 0, 0),
   (.fatom w a b c p q arr op x r, .fatom, 7, op.toNat, y.reg c, y.reg x, y.reg (x + 1))]

end Sys2Proof.Claims

/-- R302 to R304, R347: a LAUNCH that names a resident queue with room, for which nothing waits that came before, commits with its packet to be sent; TRIG commits, and PDONE does
for a carriage of a frontier launch and traps for any other; a device request empties S8 and takes S9 to S11 to the firmware of its die. -/
def Sys2Proof.Claims.LaunchFormsAndDeviceRequests : Prop :=
  ∀ (s : State) (b c : Reg) (p q : Bool),
    let x := s.seat s.cur
    let h := x.reg c
    let va := pointed s b
    (s.Issuable (.launch b c p q) →
      (4096 ≤ h.toNat → Traps s (.launch b c p q) 0x45 h 0x100)
      ∧ (h.toNat < 4096 → va % 64 ≠ 0 → Traps s (.launch b c p q) 0x08 (BitVec.ofNat 64 va) 0x100)
      ∧ (∀ l, h.toNat < 4096 → va % 64 = 0 → trSpan s (s.envOf (.launch b c p q)) .rd va 64 = .ok l →
        let y := s.queue x.ctx h.toNat
        (y.st = 0 ∨ y.nodev = true → Traps s (.launch b c p q) 0x21 h 0x100)
        ∧ (y.st = 3 → y.nodev = false → hasRoom y → s.qMay x.ctx h.toNat x.tok = true →
          Commits s (.launch b c p q) (posted (s.qEnter x.ctx h.toNat x.tok) fun id =>
            { access s .launch h.toNat 0 false va [] 0 ((s.envOf (.launch b c p q)).syl.setWidth 64) id with rref := l }) 0)))
    ∧ (s.Issuable .trig → Commits s .trig (posted s (access s .trig 0 0 false 0 [] 0 0)) 0)
    ∧ (s.Issuable .pdone →
      (∀ l, s.launchOf s.cur = some l → l.p.isFront = true → Commits s .pdone (posted s (access s .pdone 0 0 false 0 [] 0 0)) 0)
      ∧ ((∀ l, s.launchOf s.cur = some l → l.p.isFront = false) → Traps s .pdone 0x02 0 0x100))
    ∧ (∀ e ∈ requests, s.Issuable e.1 → ∃ t, exec e.1 s = .next t
        ∧ t.accs = s.accs ++ [{ access s .svc e.2 0 false 0 [] (x.reg 9) (x.reg 10) s.nextId with rcd := bytesLE 8 (x.reg 11).toNat }]
        ∧ (t.die (dieOf s.cur)).svcs = (s.die (dieOf s.cur)).svcs ++ [s.nextId]
        ∧ (t.seat s.cur).isEmpty 8 = true ∧ (∃ y ∈ (t.seat s.cur).items, y.id = s.nextId ∧ y.reg = 8) ∧ t.mem = s.mem
        ∧ (∀ r, (t.seat s.cur).reg r = x.reg r) ∧ (∀ j, j ≠ s.cur → t.seat j = s.seat j))

/-- R287, R289, R295, R297, R298, R302 to R304: a launch that takes effect publishes its 64 bytes in its queue; a trigger counts, and a point
of a frontier launch completes and is told to the other dies; packets and notices that come in are taken into the launch table or the rind,
and a rind comes back. -/
def Sys2Proof.Claims.LaunchesMoveOnTheirDies : Prop :=
  ∀ (s : State) (id d : Nat),
    (∀ a, s.postOf id .launch = some a → a.id = id → unlogged s a.ctx →
      let q := s.queue a.ctx a.op
      let l := s.gather (s.heldKey a.ctx a.rref) a.va.toNat 64
      q.st = 3 → q.nodev = false → hasRoom q → s.qMay a.ctx a.op (.acc id) = true → s.gatherBad (s.heldKey a.ctx a.rref) a.va.toNat 64 = none → s.Quiet (s.qKey a.ctx a.op q.t) 64 →
      SMap.get false q.cb (q.t.toNat % 2 ^ q.log2n) = false → (q.t - q.p).toNat < 2 ^ q.log2n → (∀ v ∈ s.waits, v.kind ≠ 3) →
      ∃ t, exec (.launchTakesEffect id) s = .next t ∧ t.rdBytes (s.qKey a.ctx a.op q.t) 64 = l ∧ (t.queue a.ctx a.op).t = q.t + 1
        ∧ t.accs = s.accs.filter fun b => b.id != id)
    ∧ (∀ a e, s.postOf id .trig = some a → a.id = id → unlogged s a.ctx → s.lent (dieOf a.seat) a.ctx (s.seat a.seat).lid = some e → e.p.tcnt ≠ 0 →
      ∃ u : State, exec (.trigTakesEffect id) s = .next (u.settle (dieOf a.seat))
        ∧ (u.lent (dieOf a.seat) a.ctx (s.seat a.seat).lid).map LEnt.trigs = some (e.trigs + 1)
        ∧ u.accs = s.accs.filter (fun b => b.id != id) ∧ u.mem = s.mem ∧ u.seats = s.seats)
    ∧ (∀ a r l x, s.postOf id .pdone = some a → a.id = id → unlogged s a.ctx → s.rind (dieOf a.seat) a.ctx (s.seat a.seat).lid = some r →
      (r.pts.find? fun y => y.2.2 == a.carr) = some (l, x, a.carr) → SMap.get 0 r.f l = x →
      ∃ u : State, exec (.pdoneTakesEffect id) s = .next (u.settle (dieOf a.seat))
        ∧ (u.rind (dieOf a.seat) a.ctx (s.seat a.seat).lid).map (fun y => SMap.get 0 y.f l) = some (x + 1)
        ∧ ∀ o, o < 4 → o ≠ dieOf a.seat → (a.ctx, (s.seat a.seat).lid, l, x + 1) ∈ (u.die o).rnotices)
    ∧ (∀ p l, (s.die d).inbox = p :: l → ∃ u : State, exec (.launchPacketReceived d) s = .next (u.settle d)
        ∧ (u.die d).inbox = l ∧ u.mem = s.mem
        ∧ ∃ e ∈ (u.die d).launches, e.p = p ∧ e.st = .waiting ∧ e.lid = p.lid ∧ e.eff = p.cls ∧ e.trigs = 0 ∧ e.next = 0)
    ∧ (∀ n l e, (s.die d).notices = n :: l → ((s.die d).inbox.any fun p => p.ctx == n.ctx && p.lid == n.lid) = false →
        s.lent d n.ctx n.lid = some e →
        ∃ u : State, exec (.completionNotice d) s = .next (u.settle d) ∧ (u.die d).notices = l ∧ u.mem = s.mem
        ∧ ∃ g, u.lent d n.ctx n.lid = some g ∧ SMap.get 0 g.seen n.die = Nat.max n.cnt (SMap.get 0 e.seen n.die)
          ∧ (n.fin = true → n.die ∈ g.dones) ∧ g.err = (e.err || n.err))
    ∧ (∀ n l r, (s.die d).rnotices = n :: l → ((s.die d).inbox.any fun p => p.ctx == n.1 && p.lid == n.2.1) = false →
        (∀ e, s.lent d n.1 n.2.1 = some e → e.st ≠ .waiting) → s.rind d n.1 n.2.1 = some r →
        ∃ u : State, exec (.rindNotice d) s = .next (u.settle d)
        ∧ (u.rind d n.1 n.2.1).map (fun y => SMap.get 0 y.f n.2.2.1) = some n.2.2.2)
    ∧ (∀ r l e, s.heldRinds d < 2 → (s.die d).rinds = r :: l → (∀ y ∈ l, y.held = true) → r.held = false → (s.ctx r.ctx).st = .runnable →
        s.lent d r.ctx r.lid = some e →
        ∃ t, exec (.rindRestore d) s = .next t ∧ ∃ g, t.rind d r.ctx r.lid = some g ∧ g.held = true ∧ g.saved = false)

/-- R287, R289, R295, R297, R298, R302, R303, R304, R347: launches and the requests of a device. -/
def Obligations.LaunchesGoToTheirDies : Prop := LaunchFormsAndDeviceRequests ∧ LaunchesMoveOnTheirDies

/-- R425 to R427, R431, R432: a fabric form whose pointer, offset, alignment and key pass their checks commits with its access, FLD and FATOM
with their destination awaited, and traps where a check fails; NWR commits with its work request at the end of the die's list. -/
def Obligations.FabricFormsAreSent : Prop :=
  ∀ (s : State) (w : Wd) (a b c x : Reg) (p q r : Bool) (arr off : BitVec 16) (op : BitVec 4),
    let y := s.seat s.cur
    let ptr := y.reg b
    let n := bits w / 8
    let d := dieOf s.cur
    (∀ e ∈ remoteReads s w a b c x p q r arr off op, s.Issuable e.1 →
      let o := e.2.2.2.2.1
      (fld ptr 47 44 ≠ 0 ∨ 8192 ≤ fld ptr 63 48 → Traps s e.1 0x45 ptr 0x100)
      ∧ (fld ptr 47 44 = 0 → fld ptr 63 48 < 8192 →
        (2 ^ 40 ≤ o.toNat → Traps s e.1 0x45 o 0x100)
        ∧ (o.toNat < 2 ^ 40 → o.toNat % n ≠ 0 → Traps s e.1 0x08 o 0x100)
        ∧ (o.toNat < 2 ^ 40 → o.toNat % n = 0 →
          (∀ z, s.keyCheck d ptr o.toNat n e.2.2.1 = .bad z → Traps s e.1 0x22 (keyXva ptr z o.toNat) 0x100)
          ∧ (∀ base, s.keyCheck d ptr o.toNat n e.2.2.1 = .ok base →
            sentOut s e.1 (awaited s a (decide (arr ≠ 0)) (s.cycle (coreOf s.cur) + arr.toNat)
              (fabric s e.2.1 w e.2.2.2.1 ptr o e.2.2.2.2.2.1 e.2.2.2.2.2.2 ((base + o.toNat) % 2 ^ 48)))))))
    ∧ (s.Issuable (.fst w b c p q x r) → fld ptr 47 44 = 0 → fld ptr 63 48 < 8192 → (y.reg c).toNat < 2 ^ 40 → (y.reg c).toNat % n = 0 →
      ∀ base, s.keyCheck d ptr (y.reg c).toNat n 6 = .ok base →
      sentOut s (.fst w b c p q x r) (posted s (fabric s .fst w 0 ptr (y.reg c) (y.reg x) 0 ((base + (y.reg c).toNat) % 2 ^ 48))))
    ∧ (s.Issuable (.nwr b p) →
      (pointed s b % 64 ≠ 0 → Traps s (.nwr b p) 0x08 (BitVec.ofNat 64 (pointed s b)) 0x100)
      ∧ (∀ l, pointed s b % 64 = 0 → earlyRead s (s.envOf (.nwr b p)) (pointed s b) 64 (pointed s b) true = .ok l →
        (wrCheck s (s.envOf (.nwr b p)) (pointed s b) l).isNone = true → (wrKey s d l).isNone = true →
        ((s.die d).wreqs.filter fun v => v.kind != 6).length < 4096 →
        Commits s (.nwr b p) ({ s with nextId := s.nextId + 1 }.modDie d fun z =>
          { z with wreqs := z.wreqs ++ [wrOf s.nextId y.ctx y.carr d l false (s.envOf (.nwr b p)).syl] }) 0))

/-- R433, R437, R438: a work request that may start takes a message id on its connection, which is open, and is started; KEYSET writes a valid
entry of the next generation and the key at LADDR, KEYDEL makes its entry invalid under the next generation; a completed request adds what its
counter word has not yet been given, and ends. -/
def Obligations.WorkRequestsStartAndEnd : Prop :=
  ∀ (s : State) (id d : Nat) (w : WReq),
    (∀ i k, (i, k) ∈ [(Instr.wrWrite id, 1), (.wrRead id, 2), (.wrVat id, 3)] → s.wrReady id k = some (d, w) → w.id = id →
      ∃ u : State, exec i s = .next (u.pump d) ∧ u.mem = s.mem ∧ u.seats = s.seats ∧ u.accs = s.accs
        ∧ (∃ c, u.conn d true w.connId = some c ∧ ∀ v ∈ (u.die d).wreqs, v.id = id → v.started = true ∧ v.msgid + 1 = c.msgid))
    ∧ (∀ k l, s.wrReady id 4 = some (d, w) → w.id = id → s.keyLoc w.ctx (fld w.ptr 31 16) = some k →
      transPages (fun a => s.look w.ctx .wr a) (pagesOf w.laddr.toNat 8) = .ok l →
      let g := (s.rdNat k 32 / 2 ^ 224 % 2 ^ 16 + 1) % 2 ^ 16
      let e := newKey w g
      ∃ u t : State, exec (.wrKeyset id) s = .next t ∧ u = s.wrNat k 32 e.toNat ∧ e.getLsbD 63 = true ∧ kGen e = g
        ∧ t.mem = (u.applyPieces (pieces (fun a => match heldPlace l a with
            | some p => u.front w.ctx p
            | none => 0) w.laddr.toNat (bytesLE 8 (fld w.ptr 31 16 * 65536 + g)))).mem
        ∧ (∀ v ∈ (t.die d).wreqs, v.id = id → v.done = true ∧ v.acked = 8))
    ∧ (∀ k, s.wrReady id 5 = some (d, w) → w.id = id → s.keyLoc w.ctx (fld w.ptr 31 16) = some k →
      ∃ t, exec (.wrKeydel id) s = .next t
        ∧ t.rdNat k 32 / 2 ^ 224 % 2 ^ 16 = (s.rdNat k 32 / 2 ^ 224 % 2 ^ 16 + 1) % 2 ^ 16 ∧ (t.rdNat k 32).testBit 63 = false
        ∧ (∀ a, a < k ∨ k + 32 ≤ a → t.rdByte a = s.rdByte a) ∧ (∀ v ∈ (t.die d).wreqs, v.id = id → v.done = true))
    ∧ ((nats 4).findSome? (fun e => ((s.die e).wreqs.find? fun v => v.id == id && v.done && !s.wrHeld e v.ctx).map fun v => (e, v)) = some (d, w) →
      (w.acked = w.counted ∨ w.lctr = 0 → ∃ t, exec (.workRequestComplete id) s = .next t ∧ t.mem = s.mem
        ∧ (t.die d).wreqs = (s.die d).wreqs.filter fun v => v.id != id)
      ∧ (∀ k, w.kind ≠ 6 → w.counted < w.acked → w.lctr ≠ 0 → s.wordKey w.ctx .red w.lctr.toNat = some k → s.badIn k 8 = none →
        s.countOf k = none → s.Quiet k 8 → unlogged s w.ctx →
        ∃ t, exec (.workRequestComplete id) s = .next t
          ∧ t.rdNat k 8 = ((s.rdWord k).toNat + (w.acked - w.counted)) % 2 ^ 64
          ∧ (∀ a, a < k ∨ k + 8 ≤ a → t.rdByte a = s.rdByte a) ∧ (t.die d).wreqs = (s.die d).wreqs.filter fun v => v.id != id))

namespace Sys2Proof.Claims

/-! ## Cores and seats -/

/-- A seat has taken a trap at an issue boundary, at the level above that of `x` (R271, R272). -/
def Trapped (s t : State) (k : Nat) (x : Seat) (cause : Nat) (va : W64) : Prop :=
  (t.seat k).lvl = x.lvl + 1 ∧ (t.seat k).pc = (s.ctx x.ctx).xvec ∧ (t.seat k).rep = 0 ∧ (t.seat k).frame = Frame.clear
  ∧ (t.seat k).bank (x.lvl.toNat + 1) = { cause := BitVec.ofNat 8 cause, pc := xpcOf x.pc, va := va, mask := 0, rep := x.rep, frame := x.frame }
  ∧ (∀ r, (t.seat k).reg r = x.reg r) ∧ (∀ a, t.rdByte a = s.rdByte a)

/-- No gang launch record wants a seat of the quad, and no rind of the die is leaving (R262, R298). -/
def Unclaimed (s : State) (k : Nat) : Prop := s.wantsSeat (quadOf k) = none ∧ ∀ r ∈ (s.die (dieOf k)).rinds, r.leaving = false

end Sys2Proof.Claims

/-- R90, R91, R253: a landing that is due is written to its register where its data has come, and freezes its core for the cycle where
it has not; where one seat of a core is OCCUPIED and can issue, BUNDLE_ISSUE is its issue; a bundle in memory that does not exist stops the
machine, and nothing issues in the second cycle of a split issue (R15) or while the package is not ACTIVE. -/
def Sys2Proof.Claims.CoresLandAndIssue : Prop :=
  ∀ (s : State) (core k : Nat),
    ((∃ j ∈ seatsOfCore core, ∃ i ∈ (s.seat j).items, (s.seat j).landsNow (s.cycle core) i = true ∧ i.data = none) →
      exec (.landing core) s = .next (s.modCore core fun c => { c with frozen := c.frozen + 1 }))
    ∧ (∀ i v, k ∈ seatsOfCore core → (∀ j ∈ seatsOfCore core, (s.seat j).items.filter ((s.seat j).landsNow (s.cycle core)) = if j = k then [i] else []) →
      i.data = some v → i.sh = (s.seat k).inShadow i.reg.toNat →
      ∃ t, exec (.landing core) s = .next t
        ∧ (t.seat k).reg i.reg = (if i.reg = 0#6 then 0 else v)
        ∧ (∀ r, r ≠ i.reg → (t.seat k).reg r = (s.seat k).reg r) ∧ (∀ r, (t.seat k).isEmpty r = (s.seat k).isEmpty r)
        ∧ (t.seat k).items = (s.seat k).items.filter (fun y => y.id != i.id) ∧ SeatOnly s t k)
    ∧ (s.power = .active ∨ s.power = .gated → s.occupied core = [k] → s.inHole k = false → (s.core core).running = none →
      s.secondPass core = false →
      (∀ t, s.tryIssue evalOf k = .go t ∨ s.tryIssue evalOf k = .flt t → exec (.bundleIssue core) s = .next t)
      ∧ (s.tryIssue evalOf k = .freeze →
        exec (.bundleIssue core) s = .next (s.modCore core fun c => { c with frozen := c.frozen + 1 })))
    ∧ (s.power = .active ∨ s.power = .gated → s.inHole k = false → s.occupied core = [k] → s.secondPass core = true →
      exec (.bundleIssue core) s = .next s)
    ∧ (s.power = .active ∨ s.power = .gated → k ∈ s.occupied core → s.inHole k = true → exec (.bundleIssue core) s = .fault .hbmHole)
    ∧ (s.power = .off ∨ s.power = .boot → exec (.bundleIssue core) s = .next s)

/-- R115, R155, R201, R266, R272: at an issue boundary of a seat below trap level 2, a late read that met an error, a reduction that is too
long and a watchdog that has run out each take their trap; and the oldest pending user-level interrupt enters its handler. -/
def Sys2Proof.Claims.BoundaryCausesAreTaken : Prop :=
  ∀ (s : State) (k : Nat), (s.seat k).lvl = 0 ∨ (s.seat k).lvl = 1 →
    let x := s.seat k
    (∀ id i a, s.itemSeat id = some (k, i) → i.id = id → i ∈ x.items → x.lateDue (s.cycle (coreOf k)) i = true → s.atBoundary k = true →
      i.data = some a → i.sh = x.inShadow i.reg.toNat → i.landing = false →
      ∃ t, exec (.lateUncorrectableRead id) s = .next t
        ∧ Trapped s t k x 0x70 (BitVec.ofNat 64 (2 ^ 62 + i.reg.toNat * 2 ^ 56 + a.toNat % 2 ^ 48))
        ∧ (t.seat k).isEmpty i.reg = false ∧ (t.seat k).items = x.items.filter (fun y => y.id != id))
    ∧ (s.redDue k = true → s.atBoundary k = true → ∃ t, exec (.reductionDepthExpiry k) s = .next t
        ∧ Trapped s t k x 0x61 (BitVec.ofNat 64 (s.redLimit k)) ∧ (t.seat k).lease.openAt = none
        ∧ (t.arr (quadOf k)).holder ≠ some x.cid ∧ (t.arr (quadOf k)).z = (s.arr (quadOf k)).z
        ∧ (∀ n, n < 4 → (s.arr (quadOf k)).has x.cid (0x10 + n) = true → SMap.get false (t.arr (quadOf k)).zopen n = false))
    ∧ (s.wdDue k = true → s.redDue k = false → s.atBoundary k = true → ∃ t, exec (.watchdogExpiry k) s = .next t
        ∧ Trapped s t k x 0x60 (BitVec.ofNat 64 (2 ^ (s.ctx x.ctx).wdint)) ∧ (t.seat k).wdcnt = 0)
    ∧ (∀ u l, x.uis = u :: l → x.lvl = 0 → x.uiActive = false → x.uiBlocked = false → s.atBoundary k = true →
        ∃ t, exec (.userInterruptEntry k) s = .next t
        ∧ (t.seat k).uiActive = true ∧ (t.seat k).uipc = x.pc ∧ (t.seat k).uiRep = x.rep ∧ (t.seat k).uiFrame = x.frame
        ∧ (t.seat k).pc = addrOf x.uivec ∧ (t.seat k).rep = 0 ∧ (t.seat k).frame = Frame.clear ∧ (t.seat k).uiCause = u.cause
        ∧ (t.seat k).reg 56 = u.w ∧ (t.seat k).reg 57 = u.bytes.setWidth 64 ∧ (t.seat k).uis = l
        ∧ (∀ r : Reg, ¬ (56 ≤ r.toNat ∧ r.toNat ≤ 59) → (t.seat k).reg r = x.reg r) ∧ SeatOnly s t k)

/-- R90, R91, R115, R155, R201, R253, R266, R272: what happens at an issue boundary: landings that are due come first and freeze the core where
their data has not come; the causes that are taken at a boundary take their traps and interrupts; and a core with one seat that can issue issues it. -/
def Obligations.BoundariesLandTakeAndIssue : Prop :=
  CoresLandAndIssue ∧ BoundaryCausesAreTaken

/-- R271, R377: a precise trap at level 2 kills the context of its seat, whose reservations are then 0. -/
def Sys2Proof.Claims.TrapsAtLevelTwoKillTheContext : Prop :=
  ∀ (s : State) (k cause : Nat) (va : W64) (mask : BitVec 14), (s.seat k).lvl = 2 →
    let t := s.faultIssue k cause va mask
    let c := (s.seat k).ctx
    (t.ctx c).st = .killed ∧ (t.ctx c).killed = 1 ∧ (t.ctx c).rsvSeats = 0 ∧ (t.ctx c).splen = [] ∧ (∀ w ∈ t.waits, w.ctx ≠ c)

/-- R108, R271, R272, R377: TRAP, precise traps, and a precise trap at level 2. -/
def Obligations.TrapsEnterTheNextLevel : Prop := TrapEntersTheNextLevel ∧ PreciseTrapsSaveTheirBank ∧ TrapsAtLevelTwoKillTheContext

/-- R245, R249 to R252, R264, R268: a seat that is free takes a carriage and LOADs it, is OCCUPIED with its initial state, leaves for a
save at a boundary, and is FREE again when what it has written is performed, keeping its HCW table under the tag of its kernel. -/
def Obligations.SeatsLoadSaveAndBecomeFree : Prop :=
  ∀ (s : State) (k : Nat),
    let x := s.seat k
    (∀ carr r i, s.recs.find? (fun r => r.carr == carr && r.die == dieOf k && s.seatable r && r.quads.contains (quadOf k)
        && s.avail none (s.within r.die r.ctx r.lid 1) k) = some r → s.isFull r.ctx r.carr = false → (s.ctx r.ctx).poolSlots 1 = some [i] →
      ∃ t, exec (.seating carr k) s = .next t
        ∧ (t.seat k).st = .loading ∧ (t.seat k).carr = carr ∧ (t.seat k).ctx = r.ctx ∧ (t.seat k).lid = r.lid
        ∧ (t.seat k).until_ = s.dieCycle + 16 ∧ (t.seat k).sregs = [] ∧ (t.seat k).fflags = 0 ∧ (t.seat k).lvl = 0
        ∧ SMap.get 0 (t.ctx r.ctx).pool i = 1 ∧ (∀ y ∈ t.recs, y.ctx = r.ctx → y.carr = carr → y.st = .seated ∧ y.pool = some i)
        ∧ (∀ j, j ≠ k → t.seat j = s.seat j))
    ∧ (∀ r, x.st = .loading → x.until_ ≤ s.dieCycle → s.recOf x.ctx x.carr = some r → s.isFull x.ctx x.carr = false → x.late = none →
      ∃ t, exec (.seatingLoaded k) s = .next t
        ∧ (t.seat k).st = .occupied ∧ (t.seat k).pc = addrOf (s.carrWord x.ctx x.carr 0) ∧ (t.seat k).wid = s.carrWord x.ctx x.carr 1
        ∧ (t.seat k).frameReg = s.carrWord x.ctx x.carr 2
        ∧ (∀ n, SMap.get 0 (t.seat k).sregs n = if 60 ≤ n ∧ n < 64 then s.carrWord x.ctx x.carr (4 + (n - 60)) else 0)
        ∧ t.mem = s.mem ∧ (∀ j, j ≠ k → t.seat j = s.seat j))
    ∧ (x.st = .occupied → x.mark ≠ .none → s.redOpen k = false → x.fact = none → ∃ t, exec (.preemptionSave k) s = .next t
        ∧ t.seat k = { x with st := .saving, until_ := 0 } ∧ (t.core (coreOf k)).running ≠ some k ∧ SeatOnly s t k)
    ∧ (x.st = .writing → s.unperformed k = false → Unclaimed s k → ∃ t, exec (.seatWritePerformed k) s = .next t
        ∧ (t.seat k).st = .free ∧ (t.seat k).tag = some x.kernel ∧ (t.seat k).hcw = x.hcw ∧ (t.seat k).items = [] ∧ (t.seat k).owned = []
        ∧ (t.seat k).lease = Lease.none ∧ t.mem = s.mem ∧ (∀ j, j ≠ k → t.seat j = s.seat j))
    ∧ (∀ r i, x.st = .saving → x.until_ ≠ 0 → x.until_ ≤ s.dieCycle → s.recOf x.ctx x.carr = some r → r.pool = some i → Unclaimed s k →
      ∃ t, exec (.seatWritePerformed k) s = .next t ∧ (t.seat k).st = .free ∧ (t.seat k).tag = some x.kernel
        ∧ RunnableIn t x.ctx x.carr ∧ SMap.get 0 (t.ctx x.ctx).pool i = 2 ∧ (t.arr (quadOf k)).holder ≠ some x.cid
        ∧ (∀ j, j ≠ k → t.seat j = s.seat j))
    ∧ (x.st = .draining → s.drained k = true → ∃ t, exec (.seatDrainComplete k) s = .next t
        ∧ ((t.seat k).st = .free ∨ (t.seat k).st = .reserved) ∧ (t.seat k).tag = some x.kernel)

/-- R274 to R278: a containing fault of an OCCUPIED seat of a context that is not QUIESCING cancels its streams and frees the seat; one of a
seat that is LOADING waits until it is OCCUPIED; one of a carriage off its seat cancels its transfers and waits. -/
def Obligations.ContainmentCancelsTheWork : Prop :=
  ∀ (s : State) (k cause : Nat) (va : W64),
    let x := s.seat k
    (x.st = .occupied → (s.ctx x.ctx).st ≠ .quiescing → ∃ t, exec (.containment k cause va) s = .next t
      ∧ ((t.seat k).st = .free ∨ (t.seat k).st = .reserved)
      ∧ (∀ n, n < 16 → ((t.seat k).sq n).st = .cancelled ∧ ((t.seat k).sq n).fcause = BitVec.ofNat 8 cause)
      ∧ (∀ w ∈ t.waits, ¬ (w.ctx = x.ctx ∧ w.carr = x.carr)))
    ∧ (x.st = .loading → (s.ctx x.ctx).st ≠ .quiescing → x.late = none →
      exec (.containment k cause va) s = .next (s.setSeat k { x with late := some (cause, va.toNat) }))
    ∧ (∀ r, s.recs.find? (fun r => r.carr == k && (s.seatOf r.ctx r.carr).isNone) = some r →
      ∃ t, exec (.offSeatContainment k cause va) s = .next t
      ∧ (∀ w ∈ t.waits, ¬ (w.ctx = r.ctx ∧ w.carr = r.carr))
      ∧ (∀ q, ∀ c ∈ (t.quad q).trans, c.ctx = r.ctx → c.carr = r.carr → c.fired = true))

/-- R259, R260, R261, R262, R263, R267, R286: the allocator of a die, once the records that are due are created, seats the one carriage that is pending on a seat that it may have; a gang launch record that
has been PENDING for 2^16 die cycles keeps seats in reserve; at the end of a quantum of a team swap with a group that is not seated, the
groups seated for a whole quantum are marked. -/
def Obligations.AllocatorsServeAndReserve : Prop :=
  ∀ (s : State) (d : Nat),
    (∀ u, u = s.createDue d → (∀ c ∈ u.coaches, c.swapping = false) →
      (u.pending d = [] → exec (.allocatorServe d) s = .next u)
      ∧ (∀ r, u.pending d = [.one r] → (u.isFull r.ctx r.carr = true ∨ ((u.ctx r.ctx).poolSlots 1).isSome = true) →
        let l := (r.quads.flatMap seatsOfQuad).filter fun k => u.avail none (u.within r.die r.ctx r.lid 1) k
        l ≠ [] → ∃ k ∈ l, exec (.allocatorServe d) s = .next { (u.seatOn r k) with free := u.free + 1 }))
    ∧ ((∀ e ∈ (s.die d).launches, e.st = .active → e.p.isFront = false ∧ e.p.total d ≤ e.next) → s.createDue d = s)
    ∧ (∀ c, s.coaches.find? (fun c => c.die == d && c.cst == 0 && !c.swapping && decide (c.since + 2 ^ 16 ≤ s.dieCycle)) = some c →
      ∃ t, exec (.coachReserving d) s = .next t
        ∧ ∃ g ∈ t.coaches, g.idx = c.idx ∧ g.cst = 1 ∧ ∀ k ∈ g.resv, (t.seat k).st = .reserved ∧ s.avail (some c.idx) false k = true)
    ∧ (∀ ctx lid e n, s.lent d ctx lid = some e → e.swapAt = some n → n + 2 ^ 18 ≤ s.dieCycle →
      ∃ t, exec (.teamSwapQuantum d lid ctx) s = .next t
        ∧ (t.lent d ctx lid).map LEnt.swapAt = some (some (n + (s.dieCycle - n) / 2 ^ 18 * 2 ^ 18)) ∧ t.mem = s.mem
        ∧ ∀ b ∈ s.coaches, b.die = d → b.ctx = ctx → b.lid = lid → b.cst < 2 →
          ∀ c ∈ s.coaches, c.die = d → c.ctx = ctx → c.lid = lid → c.cst = 2 → c.swapping = false → c.seatedAt + 2 ^ 18 ≤ s.dieCycle →
          ∃ g ∈ t.coaches, g.idx = c.idx ∧ g.swapping = true)

namespace Sys2Proof.Claims

/-! ## Commands of the firmware (R339 to R348) -/

/-- A command stands in the buffer of its die, carries the code, and passes the checks that come before its execution. -/
structure Stands (s : State) (c : Cmd) (op : Nat) : Prop where
  held  : c ∈ (s.die c.die).cmds
  code  : cmdOp c = op
  clear : s.cmdCheck c = none

/-- The command leaves the buffer, and its report goes to its queue: `u` is the state with its own effect. -/
def Answers (s : State) (i : Instr) (c : Cmd) (u : State) (st : Nat) (detail : W64) : Prop :=
  exec i s = .next ((u.dropCmd c).report c st 0 detail)

/-- The command leaves the buffer, and reports later or not at all. -/
def Begins (s : State) (i : Instr) (c : Cmd) (u : State) : Prop := exec i s = .next (u.dropCmd c)

/-- The pages of a command with their right are all translated. -/
def lies (s : State) (ctx : Nat) (r : Right) (va n : Nat) (h : Held) : Prop := transPages (s.look ctx r) (pagesOf va n) = .ok h

/-- A page command has changed leaves: its context's caches lose the pages, and its report waits for what uses the old leaves. -/
def Settles (s u : State) (i : Instr) (c : Cmd) (page n : Nat) : Prop :=
  ∃ t, exec i s = .next t
    ∧ (∀ p, (t.ctx c.ctx).leafAt p = (u.ctx c.ctx).leafAt p)
    ∧ (∀ q, ∀ e ∈ (t.quad q).tlb, e.2.2 = false → e.1 = c.ctx → ¬(page ≤ e.2.1 ∧ e.2.1 < page + n))
    ∧ (∃ j ∈ (t.die c.die).jobs, j.cmd = c ∧ j.lo = page ∧ j.hi = page + n)

end Sys2Proof.Claims

/-- R279 to R281, R342 to R345: NOP does nothing; LOADIMG fills its slot from a good image, extends CM and clears the residency tags that
name the slot; UNLOADIMG empties it; INVOKE sends a checked header to D0; WAITL of a launch that is COMPLETE reports, and of one
that is not waits in its entry; a report where RQ names no queue is none. -/
def Obligations.ImageAndLaunchCommands : Prop :=
  ∀ (s : State) (c : Cmd),
    let n := c.ctx
    let slot := fld c.e.w1 7 0
    let m := (s.ctx n).slot slot
    (cmdRq c = 4095 → ∀ st lid detail, s.report c st lid detail = s)
    ∧ (Stands s c 0x00 → Begins s (.cmdNop c) c s)
    ∧ (∀ l h, Stands s c 0x02 → s.slotInUse n slot = false → s.fwRead n (fld c.e.w2 47 0) (fld c.e.w3 39 0) = .ok l → headerOk l = true →
      sigOk (s.ctx n) l = true → let base := if m.full then m.base.toNat else fld c.e.w2 47 0
      lies s n .dev base (fld c.e.w3 39 0) h →
      ∃ u, Answers s (.loadimg c) c u stOk 0 ∧ (u.ctx n).slot slot = slotOf l base (fld c.e.w3 39 0) (m.gen.toNat + 1)
        ∧ (u.ctx n).cm = measured (s.ctx n).cm l ∧ (∀ j, j ≠ slot → (u.ctx n).slot j = (s.ctx n).slot j)
        ∧ (∀ k t, (u.seat k).tag = some t → ¬(t.1 = n ∧ t.2.1 = slot)))
    ∧ (Stands s c 0x03 → s.slotInUse n slot = false →
      ∃ u, Answers s (.unloadimg c) c u stOk 0 ∧ (u.ctx n).slot slot = { MSlot.empty with gen := m.gen }
        ∧ (∀ k t, (u.seat k).tag = some t → ¬(t.1 = n ∧ t.2.1 = slot)) ∧ u.mem = s.mem)
    ∧ (∀ a, Stands s c 0x01 → let m := (s.ctx n).slot (fld c.e.w1 63 56)
      let p := packetOf c m a
      m.full = true → fld c.e.w5 47 0 % 64 = 0 → s.fwRead n (fld c.e.w5 47 0) 128 = .ok a → argsBad a = false →
      p.ok282 = true → (p.isFront = true → p.ok294 = true) →
      Begins s (.invoke c) c (s.modDie 0 fun x => { x with launchq := x.launchq ++ [p] }))
    ∧ (Stands s c 0x01 → ((s.ctx n).slot (fld c.e.w1 63 56)).full = false →
      Answers s (.invoke c) c s stNoslot (BitVec.ofNat 64 (fld c.e.w1 63 56)))
    ∧ (∀ e, Stands s c 0x07 → fld c.e.w1 31 0 < (s.ctx n).nextLid → fld c.e.w1 31 0 ≠ 0 → s.lent c.die n (fld c.e.w1 31 0) = some e →
      (e.st = .complete → exec (.waitl c) s = .next ((s.report c (if e.err then stError else stComplete) (fld c.e.w1 31 0) 0).dropCmd c))
      ∧ (e.st ≠ .complete → cmdRq c ≠ 4095 → ∃ t, exec (.waitl c) s = .next t
        ∧ ∃ e' ∈ (t.die c.die).launches, e'.lid = e.lid ∧ e'.p.ctx = n ∧ (n, cmdRq c, cmdTag c, 0) ∈ e'.waiters))

/-- R329 to R331, R342: QCREATE makes a queue of a FREE handle, its ring on its die HOME, resident where an entry is free; QDESTROY makes it FREE again, and no carriage
waits on it; QPIN changes PIN alone; a queue that is loaded is RESIDENT, and one that is evicted SWAPPED. -/
def Obligations.QueueCommandsMoveTheirQueue : Prop :=
  ∀ (s : State) (c : Cmd),
    let n := c.ctx
    let h := fld c.e.w2 11 0
    (∀ l, Stands s c 0x04 → (s.queue n h).st = qFree → queueArgs c.e.w1 = true →
      transPages (s.lookRing n) (pagesOf (fld c.e.w1 47 0) (64 * 2 ^ fld c.e.w1 51 48)) = .ok l →
      (s.ringHome n c.e.w1 l = false → Answers s (.qcreate c) c s stBadarg 0) ∧ (s.ringHome n c.e.w1 l = true →
      (bit c.e.w1 58 = true → s.pinFull (fld c.e.w1 57 56) (fld c.e.w1 55 54) = false) →
      (∀ i, s.freeEntry (fld c.e.w1 57 56) = some i → Answers s (.qcreate c) c (s.modQueue n h fun _ => newQueue c.e.w1 l i s.dieCycle) stOk 0)
      ∧ (s.freeEntry (fld c.e.w1 57 56) = none → bit c.e.w1 58 = false →
        Answers s (.qcreate c) c (s.modQueue n h fun _ => newQueue c.e.w1 l 0 s.dieCycle) stOk 0)))
    ∧ (∀ w l i now, let q := newQueue w l i now
      q.h = 0 ∧ q.p = 0 ∧ q.t = 0 ∧ q.f = 0 ∧ q.badc = 0 ∧ q.st = (if i = 0 then qSwapped else qResident))
    ∧ (Stands s c 0x05 → (s.queue n h).st ≠ qFree → cmdRq c ≠ h → (s.queue n h).st ≠ qLoading → (s.queue n h).st ≠ qEvicting →
      ∃ u, Answers s (.qdestroy c) c u stOk 0 ∧ u.queue n h = Queue.free
        ∧ (∀ w ∈ u.waits, ¬(w.kind = 3 ∧ w.ctx = n ∧ w.addr.toNat = h)) ∧ (∀ j, j ≠ h → u.queue n j = s.queue n j))
    ∧ (Stands s c 0x06 → (s.queue n h).st ≠ qFree →
      (bit c.e.w2 12 = false → Answers s (.qpin c) c (s.modQueue n h fun q => q.setPin false) stOk 0)
      ∧ (bit c.e.w2 12 = true → (s.queue n h).pin = true → Answers s (.qpin c) c s stOk 0)
      ∧ (bit c.e.w2 12 = true → (s.queue n h).pin = false → s.pinFull (s.queue n h).home (s.queue n h).cls = true →
          Answers s (.qpin c) c s stNores (BitVec.ofNat 64 h))
      ∧ (bit c.e.w2 12 = true → (s.queue n h).pin = false → s.pinFull (s.queue n h).home (s.queue n h).cls = false →
          (s.queue n h).st = qResident → Answers s (.qpin c) c (s.modQueue n h fun q => q.setPin true) stOk 0))
    ∧ (∀ n h, (s.queue n h).st = qLoading → (s.queue n h).ridx ≠ 0 →
      exec (.queueLoadComplete n h) s = .next (s.modQueue n h fun q => { q with st := qResident, bmap := 0 }))
    ∧ (∀ d n h, s.evicting d = some (n, h) →
      exec (.queueEviction d) s = .next ({ s with free := s.free + 1 }.modQueue n h fun q =>
        { q with st := qSwapped, ridx := 0, bmap := addrOf (Config.freeWord s.free) }))

/-- R348: the host's reads and writes of a queue's window, of a context that neither records nor replays: a queue that is not resident answers
RETRY to a read, and a write is held in the adapter, and so is one behind accesses held before. -/
def Sys2Proof.Claims.HostWindowServesItsQueue : Prop :=
  ∀ (s : State) (n h : Nat) (v : W64), (s.ctx n).rcd = false → (s.ctx n).replay = false →
    let q := s.queue n h
    (q.st = qFree ∨ q.nohost = true → exec (.hostResRead n h) s = .next (s.answer (BitVec.allOnes 64))
      ∧ exec (.hostCommitWrite n h v) s = .next s)
    ∧ (q.st = qFree ∨ q.cons ≠ 2 → exec (.hostTakeRead n h) s = .next (s.answer (BitVec.allOnes 64))
      ∧ exec (.hostReleaseWrite n h v) s = .next s)
    ∧ (q.st ≠ qFree → q.st ≠ qResident → q.nohost = false → exec (.hostResRead n h) s = .next (((s.qMiss n h).qTouch n h).answer 0x4000000000000000)
      ∧ ∃ t, exec (.hostCommitWrite n h v) s = .next t ∧ t.hostHeld = s.hostHeld ++ [(n, h, v, 0)])
    ∧ (q.st ≠ qFree → q.st ≠ qResident → q.cons = 2 → exec (.hostTakeRead n h) s = .next (((s.qMiss n h).qTouch n h).answer 0x4000000000000000)
      ∧ ∃ t, exec (.hostReleaseWrite n h v) s = .next t ∧ t.hostHeld = s.hostHeld ++ [(n, h, v, 1)])
    ∧ (q.st = qResident → q.nohost = false → q.cons = 2 → s.hostLater n h = true → ∀ i k, (i, k) ∈ [(Instr.hostCommitWrite n h v, 0),
        (.hostReleaseWrite n h v, 1)] → ∃ t, exec i s = .next t ∧ t.hostHeld = s.hostHeld ++ [(n, h, v, k)] ∧ t.mem = s.mem)
    ∧ (q.st = qResident → q.nohost = false → s.hostLater n h = false →
      (q.n ≤ (q.t - q.f).toNat → exec (.hostResRead n h) s = .next ((s.qTouch n h).answer 0x8000000000000000))
      ∧ ((q.t - q.f).toNat < q.n → ∃ t, exec (.hostResRead n h) s = .next t ∧ t.hostOut = q.t.setWidth 64 :: s.hostOut
        ∧ (t.queue n h).t = q.t + 1 ∧ t.mem = s.mem)
      ∧ ((∀ e ∈ s.hostRing, ¬(e.1 = n ∧ e.2.1 = h)) →
          exec (.hostCommitWrite n h v) s = .next ((s.qTouch n h).qCommit n h (v.setWidth 32))))
    ∧ (q.st = qResident → q.cons = 2 → s.hostLater n h = false →
      (q.h = q.p → exec (.hostTakeRead n h) s = .next ((s.qTouch n h).answer 0x8000000000000000))
      ∧ (q.h ≠ q.p → ∃ t, exec (.hostTakeRead n h) s = .next t ∧ t.hostOut = q.h.setWidth 64 :: s.hostOut
        ∧ (t.queue n h).h = q.h + 1 ∧ t.mem = s.mem)
      ∧ exec (.hostReleaseWrite n h v) s = .next ((s.qTouch n h).qRelease n h (v.setWidth 32)))
    ∧ (∀ off, exec (.hostWindowOther n off none) s = .next (s.answer 0) ∧ exec (.hostWindowOther n off (some v)) s = .next s)

/-- R339, R340: a period's slot runs its job, and the next slot is due 128 die cycles later; a poll of a queue whose head is a command
that needs no report takes the entry and releases its ticket. -/
def Sys2Proof.Claims.PeriodsRunTheirSlots : Prop :=
  ∀ (s : State) (d : Nat), s.power = .active ∨ s.power = .gated → (s.die d).fwSlot * 128 ≤ s.dieCycle →
    let k := (s.die d).fwSlot % 64
    (∃ u, exec (.firmwarePeriodSlot d) s = .next (u.modDie d fun x => { x with fwSlot := (s.die d).fwSlot + 1 })
      ∧ (k = 0 ∨ k = 32 → u = s.pollClass0 d) ∧ (1 ≤ k ∧ k ≤ 16 → u = s.pollResident d k)
      ∧ ((17 ≤ k ∧ k ≤ 31) ∨ (33 ≤ k ∧ k ≤ 47) → u = s.execSlot d))
    ∧ (∀ n h, let q := s.queue n h
      q.st = qResident → q.cons = 0 → q.h ≠ q.p → unlogged s n → (s.ctx n).st = .runnable → (s.die d).cmds.length < 256 →
      s.badIn (s.qKey n h q.h) 64 = none → fld (entryOf (s.rdBytes (s.qKey n h q.h) 64)).w0 55 44 = 4095 →
      ∃ t, s.pollOne d n h = some t ∧ (t.queue n h).h = q.h + 1 ∧ t.mem = s.mem
        ∧ (t.die d).cmds = (s.die d).cmds ++ [⟨d, n, h, none, SMap.get false q.inj (q.idx q.h), entryOf (s.rdBytes (s.qKey n h q.h) 64)⟩])

/-- R339, R340, R348: the window of the host, and the firmware period. -/
def Obligations.HostWindowsAndPeriods : Prop := HostWindowServesItsQueue ∧ PeriodsRunTheirSlots

/-- R351 to R356, R362, R366, R459: MAP writes its leaves, UNMAP removes them, PROTECT replaces the rights of those that are valid, on pages
none of which moves; an error of a line of leaves goes only with a command that writes all of it; the caches lose the pages; a ring on the
pages refuses the command. -/
def Sys2Proof.Claims.PageCommandsChangeTheirLeaves : Prop :=
  ∀ (s : State) (c : Cmd) (page n : Nat) (large : Bool),
    let x := s.ctx c.ctx
    pageArgs c = some (page, n, large) → x.moving page n = false →
    ((Stands s c 0x10 → mapLeafOk x (leafOf c.e.w3) c.e.w3 page n large = true →
      (∀ h, x.ringOn page (page + n) = some h → Answers s (.map c) c s stBusy (BitVec.ofNat 64 h))
      ∧ (x.ringOn page (page + n) = none → (x.needsTable page n large = true → Config.freeBool s.free = false) →
        ∃ u, Settles s u (.map c) c page n
          ∧ (∀ i, i < n → ∃ b, (u.ctx c.ctx).leafAt ((page + i) * 2 ^ 16)
              = ({ leafOf c.e.w3 with
                     frame := (leafOf c.e.w3).frame + BitVec.ofNat 32 (if large then i / 512 * 512 else i), err := b }, large)
              ∧ (large = false → page ≤ (page + i) / 8 * 8 → (page + i) / 8 * 8 + 8 ≤ page + n → b = false))
          ∧ (∀ p, p < page ∨ page + n ≤ p → x.splits page n large = false → (u.ctx c.ctx).leafAt (p * 2 ^ 16) = x.leafAt (p * 2 ^ 16))))
    ∧ (Stands s c 0x11 → x.ringOn page (page + n) = none → (x.splits page n large = true → Config.freeBool s.free = false) →
        ∃ u, Settles s u (.unmap c) c page n
          ∧ (∀ i, i < n → ∃ b, ((u.ctx c.ctx).leafAt ((page + i) * 2 ^ 16)).1 = { Leaf.absent with err := b }
              ∧ (large = false → page ≤ (page + i) / 8 * 8 → (page + i) / 8 * 8 + 8 ≤ page + n → b = false))
          ∧ (∀ p, p < page ∨ page + n ≤ p → x.splits page n large = false → (u.ctx c.ctx).leafAt (p * 2 ^ 16) = x.leafAt (p * 2 ^ 16)))
    ∧ (Stands s c 0x12 → x.ringOn page (page + n) = none → (x.splits page n large = true → Config.freeBool s.free = false) →
        ∃ u, Settles s u (.protect c) c page n
          ∧ (x.splits page n large = false → ∀ i, i < n →
              ((u.ctx c.ctx).leafAt ((page + i) * 2 ^ 16)).1 = (x.leafAt ((page + i) * 2 ^ 16)).1.protect c.e.w3)
          ∧ (∀ p, p < page ∨ page + n ≤ p → x.splits page n large = false → (u.ctx c.ctx).leafAt (p * 2 ^ 16) = x.leafAt (p * 2 ^ 16))))

/-- R355, R359 to R361, R363, R364: a walk that ends enters a valid leaf in the caches of the quads that asked, or tells them; a fault record
goes to the fault queue; MIGRATE takes its first page out of use, its large leaf split if it has one; RESOLVE removes its record; PBCREATE zeroes both copies and makes
copy A the front, and PBDESTROY forgets the buffer. -/
def Sys2Proof.Claims.WalksRecordsAndBuffers : Prop :=
  ∀ (s : State) (c : Cmd) (d : Nat),
    let x := s.ctx c.ctx
    ((∃ w ∈ (s.die d).walks, w.2.2.2 = false) → ∃ w ∈ (s.die d).walks, w.2.2.2 = false ∧ ∃ t, exec (.pageWalkComplete d) s = .next t ∧
      (let l := (s.ctx w.1).leafAt (w.2.1 * 2 ^ 16)
       ∀ q, (w.1, w.2.1, q, false) ∈ (s.die d).walks →
        if l.1.v && !l.1.mig && !l.1.err then (w.1, if l.2 then w.2.1 / 512 else w.2.1, l.2) ∈ (t.quad q).tlb
        else (w.1, w.2.1, q, true) ∈ (t.die d).walks))
    ∧ (∀ r, (s.die d).faults.find? (s.recReady d) = some r → unlogged s r.ctx → let q := s.queue r.ctx (s.ctx r.ctx).fqh
      (q.st = qResident → (q.t - q.f).toNat < q.n → ∃ nsec u, s.qPut r.ctx (s.ctx r.ctx).fqh (agentFirmware d) (Entry.bytes (r.entry d nsec)) = some u
        ∧ exec (.faultRecordDelivery d) s = .next (u.modDie d fun x =>
            { x with faults := x.faults.map fun (f : FRec) => if f.rid = r.rid then { f with sent := true } else f }))
      ∧ (q.st ≠ qResident → exec (.faultRecordDelivery d) s = .next (s.qMiss r.ctx (s.ctx r.ctx).fqh)))
    ∧ (Stands s c 0x13 → let page := fld c.e.w1 47 0 / 2 ^ 16
      let n := fld c.e.w2 31 0 + 1
      n ≤ 65536 → fld c.e.w1 47 0 % 2 ^ 16 = 0 → fld c.e.w1 47 0 + n * 2 ^ 16 ≤ 0x800000000000 → fld c.e.w4 47 16 + n ≤ 2 ^ 32 →
      (bit c.e.w3 0 = true → x.granted (fld c.e.w4 47 16) n = true) → (natsFrom page n).all (x.migOk (bit c.e.w3 0)) = true →
      x.moving page n = false → x.ringOn page (page + n) = none → (x.splits page n false = true → Config.freeBool s.free = false) →
      ∃ t, exec (.migrate c) s = .next t
        ∧ (t.ctx c.ctx).leafAt (page * 2 ^ 16) = ({ ((x.splitAll page 1).leafAt (page * 2 ^ 16)).1 with mig := true }, false)
        ∧ (x.splits page n false = false → x.splitAll page 1 = x)
        ∧ ∃ j ∈ (t.die c.die).jobs, j.cmd = c ∧ j.page = some page)
    ∧ (∀ r, Stands s c 0x14 →
      (s.die (fld c.e.w1 33 32)).faults.find? (fun f => f.rid % 2 ^ 32 == fld c.e.w1 31 0 && f.ctx == c.ctx) = some r →
      Answers s (.resolve c) c (s.resolveRec (fld c.e.w1 33 32) r (bit c.e.w2 0)) stOk 0
      ∧ ∀ f ∈ ((s.resolveRec (fld c.e.w1 33 32) r (bit c.e.w2 0)).die (fld c.e.w1 33 32)).faults, f.rid ≠ r.rid)
    ∧ (Stands s c 0x15 → let va := fld c.e.w1 47 0
      let n := fld c.e.w2 15 0 + 1
      let fa := fld c.e.w3 47 16
      let fb := fld c.e.w4 47 16
      va % 2 ^ 16 = 0 → va + n * 2 ^ 16 ≤ 0x800000000000 → SMap.find x.pbs (fld c.e.w2 23 16) = none → x.granted fa n = true →
      x.granted fb n = true → x.moving (va / 2 ^ 16) n = false → x.ringOn (va / 2 ^ 16) (va / 2 ^ 16 + n) = none →
      (x.needsTable (va / 2 ^ 16) n false = true → Config.freeBool s.free = false) →
      ∃ t, exec (.pbcreate c) s = .next t
        ∧ SMap.find (t.ctx c.ctx).pbs (fld c.e.w2 23 16) = some ⟨BitVec.ofNat 48 va, n, BitVec.ofNat 32 fa, BitVec.ofNat 32 fb, false, []⟩
        ∧ (∀ a, (fa * 2 ^ 16 ≤ a ∧ a < (fa + n) * 2 ^ 16) ∨ (fb * 2 ^ 16 ≤ a ∧ a < (fb + n) * 2 ^ 16) → t.rdByte a = 0)
        ∧ (∀ a, (a < fa * 2 ^ 16 ∨ (fa + n) * 2 ^ 16 ≤ a) → (a < fb * 2 ^ 16 ∨ (fb + n) * 2 ^ 16 ≤ a) → t.rdByte a = s.rdByte a))
    ∧ (∀ b, Stands s c 0x16 → SMap.find x.pbs (fld c.e.w1 7 0) = some b →
      x.ringOn (b.va.toNat / 2 ^ 16) (b.va.toNat / 2 ^ 16 + b.pages) = none →
      ∃ t, exec (.pbdestroy c) s = .next t ∧ SMap.find (t.ctx c.ctx).pbs (fld c.e.w1 7 0) = none ∧ t.mem = s.mem)

/-- R351, R352, R355, R356, R359, R360, R361, R362, R363, R364, R366, R459: page commands, walks, fault records and publishable buffers. -/
def Obligations.PagesAndTheirRecords : Prop := PageCommandsChangeTheirLeaves ∧ WalksRecordsAndBuffers

/-- R368, R370, R371, R373, R374, R375, R376, R377, R378, R379, R381, R382: CTXCREATE records an admitted descriptor; CTXLOAD takes a key slot, zeroes the windows and maps the regions; CTXRUN makes a
LOADED or restored context RUNNABLE; CTXQUIESCE marks the seats, and the context is QUIESCED once four dies have saved; CTXKILL and a
divergence kill; CTXDESTROY leaves nothing; CTXRES sets the reservations; ATTEST writes the evidence; RECORD arms or ends a mode. -/
def Obligations.ContextCommandsMoveTheirContext : Prop :=
  ∀ (s : State) (c : Cmd),
    let n := cmdCtx c
    let x := s.ctx n
    (∀ l p, Stands s c 0x20 → x.st = .none ∨ x.st = .destroyed → s.fwRead c.ctx (fld c.e.w2 47 0) 128 = .ok l →
      let w (i : Nat) : W64 := BitVec.ofNat 64 (wordAt l (8 * i) 8)
      descOk w n = true → s.fwRead c.ctx (fld (w 7) 47 0) 112 = .ok p → (∀ b ∈ p, b.toNat ≤ 48) →
      ∃ u, Answers s (.ctxcreate c) c u stOk 0 ∧ (u.ctx n).st = .created ∧ (u.ctx n).desc = descOf w ∧ (u.ctx n).key = none
        ∧ (u.ctx n).rsvSeats = fld (w 4) 63 57 ∧ (u.ctx n).rsvBw = fld (w 4) 56 49 ∧ (∀ j, j ≠ n → u.ctx j = s.ctx j) ∧ u.mem = s.mem)
    ∧ (∀ k, Stands s c 0x21 → x.st = .created → (s.queue n x.logh).st = qFree ∨ (s.queue n x.logh).cons = 2 → s.freeKeySlot = some k →
      s.resFits n x.rsvSeats x.rsvBw = true → (∀ q, q < 112 → s.spadFits n q = true) →
      ∃ u, Answers s (.ctxload c) c u stOk 0 ∧ (u.ctx n).st = .loaded ∧ (u.ctx n).key = some k ∧ (u.ctx n).cm = 0
        ∧ (u.ctx n).splen = x.spTab ∧ SMap.get 0 u.keySlots k = n + 1
        ∧ (∀ q a, q < 112 → a < 4 * 2 ^ 20 → u.rdByte (spKey n q a) = 0)
        ∧ (∀ i, i < x.pooln → (u.ctx n).leafAt (x.poolVa + i * 2 ^ 16) = (deviceLeaf (x.poolVa / 2 ^ 16 + i), false)))
    ∧ (Stands s c 0x22 → x.st = .loaded → Answers s (.ctxrun c) c (s.modCtx n fun y => { y with st := .runnable }) stOk 0)
    ∧ (Stands s c 0x22 → x.st = .quiesced →
      let r := (nats 112).foldl (fun s q => s.restoreQuad n q) s
      ((r.ctx n).back.length = 112 * quadParts → ∃ u, Answers s (.ctxrun c) c u stOk 0 ∧ (u.ctx n).st = .runnable
          ∧ (u.ctx n).rcd = x.rcdArm ∧ (u.ctx n).replay = x.replayArm)
      ∧ ((r.ctx n).back.length ≠ 112 * quadParts → exec (.ctxrun c) s = .next r))
    ∧ (Stands s c 0x23 → x.st = .runnable → ∃ t, exec (.ctxquiesce c) s = .next t ∧ (t.ctx n).st = .quiescing ∧ (t.ctx n).cmd = some c
        ∧ ∀ k, ((s.seat k).st = .occupied ∨ (s.seat k).st = .loading) → (s.seat k).ctx = n → (t.seat k).mark = .quiesce)
    ∧ (∀ j k, (s.ctx j).st = .quiescing → (∀ d, d < 4 → d ∈ (s.ctx j).saving) → (s.ctx j).cmd = some k →
      exec (.quiesceComplete j) s
        = .next ((s.modCtx j fun y => { y with st := .quiesced, saving := [], cmd := none, back := [] }).report k stOk 0 0))
    ∧ (Stands s c 0x24 → x.st.live = true → n ≠ 0 → ∃ u, Answers s (.ctxkill c) c u stOk 0 ∧ (u.ctx n).st = .killed ∧ (u.ctx n).killed = 3
        ∧ (∀ w ∈ u.waits, w.ctx ≠ n) ∧ (u.ctx n).splen = [] ∧ (∀ q a, q < 112 → a < x.spLen q → u.rdByte (spKey n q a) = 0))
    ∧ (Stands s c 0x25 → x.st = .created ∨ x.st = .loaded ∨ x.st = .quiesced ∨ x.st = .killed →
      ∃ u, Answers s (.ctxdestroy c) c u stOk 0 ∧ (u.ctx n) = { Ctx.fresh with st := .destroyed } ∧ (∀ r ∈ u.recs, r.ctx ≠ n)
        ∧ (∀ k, x.key = some k → SMap.get 0 u.keySlots k = 0) ∧ ∀ a, a < spadBase → u.rdByte a = s.rdByte a)
    ∧ (let seats := fld c.e.w2 63 57
      let bw := fld c.e.w2 56 49
      let fits := (seats ≤ x.rsvSeats ∧ bw ≤ x.rsvBw) ∨ s.resFits n seats bw = true
      Stands s c 0x26 → x.st = .created ∨ x.st.live = true →
      (fits → Answers s (.ctxres c) c (s.modCtx n fun y => { y with rsvSeats := seats, rsvBw := bw }) stOk 0)
      ∧ (¬fits → Answers s (.ctxres c) c s stNores 0))
    ∧ (∀ h, Stands s c 0x27 → x.st ≠ .destroyed → fld c.e.w2 47 0 % 64 = 0 → lies s c.ctx .wr (fld c.e.w2 47 0) 256 h →
      Answers s (.attest c) c
        (s.frontWrite c.ctx h 0 (fld c.e.w2 47 0)
          (s.evidence n ([c.e.w3, c.e.w4, c.e.w5, c.e.w6].flatMap fun w => bytesLE 8 w.toNat))) stOk 0)
    ∧ (Stands s c 0x28 → x.st.live = true → ∃ u, Answers s (.record c) c u stOk 0
        ∧ (bit c.e.w4 0 = true → (u.ctx n).rcdArm = !bit c.e.w4 1 ∧ (u.ctx n).replayArm = bit c.e.w4 1
            ∧ (u.ctx n).logBase = BitVec.ofNat 48 (fld c.e.w2 47 0) ∧ (u.ctx n).logLen = fld c.e.w3 39 0)
        ∧ (bit c.e.w4 0 = false → (u.ctx n).rcd = false ∧ (u.ctx n).replay = false ∧ (u.ctx n).rcdArm = false ∧ (u.ctx n).replayArm = false))
    ∧ (∀ j, (s.ctx j).replay = true → (s.ctx j).diverged = true →
      ∃ t, exec (.replayDivergence j) s = .next t ∧ (t.ctx j).st = .killed ∧ (t.ctx j).killed = 4)

/-- R387, R389 to R391, R409, R410: PLOAD replaces the parser of the vats it names; SLOAD gives them a program from a new epoch on and extends
CM, and SUNLOAD ends it; TCREATE, TWRITE and TDESTROY make, fill and remove a table; RREAD and VSTAT write registers and counters. -/
def Obligations.StageCommandsServeTheVats : Prop :=
  ∀ (s : State) (c : Cmd),
    let n := cmdCtx c
    let vats := vatsOf (fld c.e.w2 15 0)
    (∀ l, Stands s c 0x30 → s.fwRead c.ctx (fld c.e.w3 47 0) 2112 = .ok l → parserOk l = true →
      ∃ u, Answers s (.pload c) c u stOk 0
        ∧ (∀ v ∈ vats, (∀ i, i < 64 → SMap.get 0 (u.vat v).words i = BitVec.ofNat 256 (wordAt l (64 + 32 * i) 32))
            ∧ ∀ i, i < 8 → SMap.get 0 (u.vat v).starts i = wordAt l i 1)
        ∧ ∀ v, v ∉ vats → u.vat v = s.vat v)
    ∧ (∀ a l, Stands s c 0x31 → s.fwRead c.ctx (fld c.e.w3 47 0) 0x80 = .ok a → wordAt a 6 2 ≤ 255 →
      s.fwRead c.ctx (fld c.e.w3 47 0) (stageLen a) = .ok l → let g := stageOf n l
      s.stageOk l g vats = true →
      ∃ u, Answers s (.sload c) c u stOk 0 ∧ (u.ctx n).cm = measured (s.ctx n).cm l
        ∧ (∀ v ∈ vats, (u.vat v).epoch = (s.vat v).epoch + 1 ∧ ∀ e ∈ (u.vat v).progs,
            e.2.1 = none → e.2.2.ctx = n → e.2.2.stage = g.stage → e = ((s.vat v).epoch + 1, none, g))
        ∧ (∀ v ∈ vats, ((s.vat v).epoch + 1, none, g) ∈ (u.vat v).progs) ∧ ∀ v, v ∉ vats → u.vat v = s.vat v)
    ∧ (Stands s c 0x32 → ∃ u, Answers s (.sunload c) c u stOk 0
        ∧ (∀ v ∈ vats, (u.vat v).epoch = (s.vat v).epoch + 1
            ∧ ∀ e ∈ (u.vat v).progs, e.2.1 = none → ¬(e.2.2.ctx = n ∧ e.2.2.stage = fld c.e.w2 19 16))
        ∧ ∀ v, v ∉ vats → u.vat v = s.vat v)
    ∧ (∀ h, Stands s c 0x33 → tableOk (fld c.e.w2 1 0) (fld c.e.w2 7 2 + 1) (fld c.e.w2 47 16 + 1) = true → s.freeHandle = some h →
      let short := s.tablesShort (fld c.e.w2 13 12) (Table.bytes (fld c.e.w2 1 0) (fld c.e.w2 7 2 + 1) (fld c.e.w2 47 16 + 1))
      (short = false → ∃ u, Answers s (.tcreate c) c u stOk (BitVec.ofNat 64 h)
        ∧ (u.die (fld c.e.w2 13 12)).tables = (s.die (fld c.e.w2 13 12)).tables
            ++ [{ ctx := n, handle := h, stage := fld c.e.w2 11 8, kind := fld c.e.w2 1 0, klen := fld c.e.w2 7 2 + 1,
                  cap := fld c.e.w2 47 16 + 1, entries := [], errs := [] }])
      ∧ (short = true → ∃ u, Answers s (.tcreate c) c u stNores 0))
    ∧ (∀ d t l, Stands s c 0x34 → s.tableOf n (fld c.e.w2 11 0) = some (d, t) →
      s.fwRead c.ctx (fld c.e.w3 47 0) (64 * (fld c.e.w4 15 0 + 1)) = .ok l →
      let es := (nats (fld c.e.w4 15 0 + 1)).map fun i => (l.drop (64 * i)).take 64
      es.all t.entryOk = true →
      Answers s (.twrite c) c (s.modDie d fun x => { x with tables := x.tables.map fun y => if y.handle = t.handle then (writeAll es t).1 else y })
        (if (writeAll es t).2 then stOk else stNores) (if (writeAll es t).2 then 0 else BitVec.ofNat 64 t.handle))
    ∧ (∀ d t, Stands s c 0x35 → s.tableOf n (fld c.e.w2 11 0) = some (d, t) →
      (s.tableBound d t = true → Answers s (.tdestroy c) c s stBusy (BitVec.ofNat 64 t.handle))
      ∧ (s.tableBound d t = false → ∃ u, Answers s (.tdestroy c) c u stOk 0 ∧ ∀ y ∈ (u.die d).tables, y.handle ≠ t.handle))
    ∧ (∀ g h, Stands s c 0x36 → s.progOf (fld c.e.w2 3 0) (s.vat (fld c.e.w2 3 0)).epoch n (fld c.e.w2 7 4) = some g →
      (g.regs = 0 → Answers s (.rread c) c s stOk 0)
      ∧ (g.regs ≠ 0 → lies s c.ctx .wr (fld c.e.w3 47 0) (8 * g.regs) h →
        Answers s (.rread c) c (s.frontWrite c.ctx h 0 (fld c.e.w3 47 0)
          ((nats g.regs).flatMap fun r => bytesLE 8 (SMap.get 0 g.reg r).toNat)) stOk 0))
    ∧ (∀ h, Stands s c 0x37 → lies s c.ctx .wr (fld c.e.w3 47 0) 2176 h → let v := s.vat (fld c.e.w2 3 0)
      Answers s (.vstat c) c (s.frontWrite c.ctx h 0 (fld c.e.w3 47 0)
        (((nats 16).flatMap fun i => bytesLE 8 (SMap.get 0 v.ctrs i).toNat)
          ++ (nats 256).flatMap fun i => bytesLE 8 (SMap.get 0 v.reasons i).toNat)) stOk 0)

namespace Sys2Proof.Claims

/-! ## Packet pipelines (R383 to R409) -/

/-- A packet stands first at a stage of the vat `curVat`, its context is RUNNABLE, and the stage has a program for it. -/
structure AtStage (s : State) (p : VPkt) (n : Nat) (g : Prog) : Prop where
  first : ∃ l, stageReady none (s.vat s.curVat).pkts = (p, n) :: l
  runs  : (s.ctx p.ctx).st = .runnable
  prog  : s.progOf s.curVat p.epoch p.ctx n = some g

/-- The stage that holds a micro-operation alone makes `u` of the state and `q` of the packet, and lets it pass. -/
def Passes (s : State) (i : Instr) (u : State) (q : VPkt) (n : Nat) : Prop :=
  fieldsOk i = true → exec i s = .next (u.putPkt s.curVat (q.passed n))

/-- The stage that holds a micro-operation alone stops the packet. -/
def StopsAt (s : State) (i : Instr) (p : VPkt) (why : VStop) : Prop := fieldsOk i = true → exec i s = .next (s.stopPkt s.curVat p why)

/-- Where its micro-operations execute. -/
def menv (s : State) (p : VPkt) (n : Nat) (g : Prog) : MEnv := ⟨s.curVat, p.ctx, n, g, p.epoch⟩

/-- The packet with a field of the header vector written. -/
def VPkt.field (p : VPkt) (off n v : Nat) : VPkt := { p with hv := hvNum p.hv off n v }

/-- Every byte of a field may be written by SETF and ADDF. -/
def settable (off n : Nat) : Prop := ∀ i, i < n → setByte (off + i) = true ∧ off + i ≠ 4

end Sys2Proof.Claims

/-- R384 to R386, R393 to R398: what the micro-operations that work on the header vector alone leave in it, and when they stop the packet. -/
def Obligations.MicroOperationsWorkOnTheHeaderVector : Prop :=
  ∀ (s : State) (p : VPkt) (n : Nat) (g : Prog) (h k : BitVec 9) (len : BitVec 5) (off : BitVec 13) (w m b : BitVec 2) (imm : BitVec 16)
    (im15 : BitVec 15) (slot : BitVec 3),
    AtStage s p n g →
    let l := len.toNat + 1
    let f := 2 ^ w.toNat
    Passes s .nopa s p n
    ∧ (0x38 ≤ h.toNat → h.toNat + l ≤ 512 → p.ploff + off.toNat + l ≤ p.frame.length - 4 →
      Passes s (.ext h len off) s
        { p with hv := putBytes p.hv h.toNat ((p.frame.drop (p.ploff + off.toNat)).take l), recs := p.recs ++ [(h.toNat, p.ploff + off.toNat, l)] } n)
    ∧ (¬(0x38 ≤ h.toNat ∧ h.toNat + l ≤ 512) → StopsAt s (.ext h len off) p .act)
    ∧ (settable h.toNat f → Passes s (.setf h w imm) s (VPkt.field p h.toNat f (imm.toNat % 2 ^ (8 * f))) n)
    ∧ (settable h.toNat f → Passes s (.addfImm h w im15) s
        (VPkt.field p h.toNat f (((hvNat p.hv h.toNat f + im15.toInt) % 2 ^ (8 * f)).toNat)) n)
    ∧ (settable h.toNat f → k.toNat + f ≤ 512 → Passes s (.addfField h w k) s
        (VPkt.field p h.toNat f ((hvNat p.hv h.toNat f + hvNat p.hv k.toNat f) % 2 ^ (8 * f))) n)
    ∧ (h = 4#9 → p.ctx ≠ 0 → StopsAt s (.setf h 1 imm) p .act)
    ∧ (∀ t, (menv s p n g).table s b.toNat = some t → h.toNat + t.klen ≤ 512 → 0x38 ≤ k.toNat → k.toNat + 16 ≤ 512 →
      (t.hit (hvBytes p.hv h.toNat t.klen) = none → Passes s (.lkp b h k) s { p with hv := setLkr p.hv b.toNat false } n)
      ∧ (∀ x, t.hit (hvBytes p.hv h.toNat t.klen) = some x → x ∉ t.errs → entryByte x 0x31 / 2 % 2 = 0 →
        Passes s (.lkp b h k) s { p with hv := setLkr (putBytes p.hv k.toNat ((x.drop 0x20).take 16)) b.toNat true } n))
    ∧ ((menv s p n g).table s b.toNat = none → StopsAt s (.lkp b h k) p .act)
    ∧ (h.toNat + l ≤ 512 → Passes s (.hash h len) s (VPkt.field p 0x14 4 (crc32c (hvBytes p.hv h.toNat l)).toNat) n)
    ∧ (let chip := hvNat p.hv 0x0A 2
      let rs := s.routes (s.curVat / 4) chip
      (chip = s.chip ∨ rs = [] → m.toNat ≤ 1 → Passes s (.rte m) s (VPkt.field p 0x08 2 0xFFFF) n)
      ∧ (chip ≠ s.chip → rs ≠ [] → Passes s (.rte 0) s (VPkt.field p 0x08 2 (nth 0 rs (hvNat p.hv 0x14 4 % rs.length))) n)
      ∧ (chip ≠ s.chip → rs ≠ [] → Passes s (.rte 1) s (VPkt.field p 0x08 2 (nth 0 rs 0)) n))
    ∧ (∀ key size, (menv s p n g).region b.toNat = some (key, size) → let x := hvNat p.hv (0x18 + slot.toNat) 1
      x ≠ 0xFF → s.badIn (key + 8 * x) 8 = none → let v := s.rdNat (key + 8 * x) 8
      (h = 0#9 → Passes s (.rewr b slot h) s (VPkt.field p 0x0A 2 (v / 2 ^ 48)) n)
      ∧ (0x38 ≤ h.toNat → h.toNat + 6 ≤ 512 →
        Passes s (.rewr b slot h) s (VPkt.field (VPkt.field p 0x0A 2 (v / 2 ^ 48)) h.toNat 6 (v % 2 ^ 48)) n))

/-- R398 to R404, R407: what the micro-operations do that score, that act on memory, registers and count queues, and that decide where the
packet goes. -/
def Obligations.MicroOperationsActAndDecide : Prop :=
  ∀ (s : State) (p : VPkt) (n : Nat) (g : Prog) (h : BitVec 9) (b m cls : BitVec 2) (d1 : BitVec 10) (g1 : BitVec 6) (k1 cq : BitVec 3)
    (quad : BitVec 5) (tile reason : BitVec 8) (amt : BitVec 14) (r : BitVec 12) (sh stage : BitVec 4) (port : BitVec 7) (tr ce sc : Bool),
    AtStage s p n g →
    let e := menv s p n g
    let o := hvNat p.hv h.toNat 4
    (∀ key size l t, e.region b.toNat = some (key, size) → 2 * (d1.toNat + 1) ≤ p.plen →
      s.badIn key (2 * (d1.toNat + 1) * (g1.toNat + 1)) = none → p.payload s = (l, t) →
      let sc := (nats (g1.toNat + 1)).map fun x => (x, gateScore l (s.rdBytes (key + 2 * (d1.toNat + 1) * x) (2 * (d1.toNat + 1))) (d1.toNat + 1))
      let top := (scoreOrder (sc.map fun x => (x.1, x.2.1))).take (k1.toNat + 1)
      let hv := ((nats 8).zip top).foldl
        (fun hv x => hvNum (hvNum hv (0x18 + x.1) 1 x.2.1) (0x20 + 2 * x.1) 2 (bfBF16.round .rne false (f32 x.2.2)).1)
        (putBytes p.hv 0x18 (List.replicate 8 0xFF ++ List.replicate 16 0))
      Passes s (.score b d1 g1 k1) (t.raiseFlags s.curVat p.id (sc.foldl (fun f x => f ||| x.2.2) 0)) { p with hv := hv } n)
    ∧ (∀ key size l t, e.region b.toNat = some (key, size) → h.toNat + 4 ≤ 512 → p.payload s = (l, t) →
      (m.toNat ≤ 1 → 0 < p.plen → p.plen ≤ 4096 → p.plen % 4 = 0 → o % 4 = 0 → o + p.plen ≤ size →
        Passes s (.addt b m h) (t.postLines e p .pline m.toNat (key + o) ((e.bind b.toNat).2.1 + o) l) (p.setFlag 4) n)
      ∧ (m = 2#2 → 0 < p.plen → p.plen ≤ 4096 → p.plen % 2 = 0 → o % 4 = 0 → o + 2 * p.plen ≤ size →
        Passes s (.addt b m h) (t.postLines e p .pline 2 (key + o) ((e.bind b.toNat).2.1 + o) (widenBf l)) (p.setFlag 4) n)
      ∧ (o + p.plen ≤ size → Passes s (.depo b h) (t.postLines e p .pdepo 0 (key + o) ((e.bind b.toNat).2.1 + o) l) (p.setFlag 4) n)
      ∧ (size < o + p.plen → StopsAt s (.depo b h) p .act))
    ∧ (quad.toNat < 28 → (s.ctx p.ctx).spLen (s.curVat / 4 * 28 + quad.toNat) ≠ 0 →
      ∃ u a, Passes s (.bump quad tile amt) u (p.setFlag 4) n ∧ u.accs = s.accs ++ [a] ∧ a.k = .pbump ∧ a.op = amt.toNat ∧ a.seat = s.curVat
        ∧ a.locs = [⟨s.tileKey p.ctx (s.curVat / 4 * 28 + quad.toNat) tile.toNat + 16, none⟩] ∧ u.mem = s.mem)
    ∧ (g.regs ≤ r.toNat → StopsAt s (.rgaAdd r h) p .act ∧ StopsAt s (.rgaSwap r h) p .act ∧ StopsAt s (.rgaUmax r h) p .act)
    ∧ (r.toNat < g.regs → r.toNat ∉ g.errs → let old := SMap.get 0 g.reg r.toNat
      let x := BitVec.ofNat 64 (hvNat p.hv h.toNat 8)
      let q := (VPkt.field p h.toNat 8 old.toNat).setFlag 4
      (0x38 ≤ h.toNat → h.toNat + 8 ≤ 512 →
        Passes s (.rgaAdd r h) (s.setVreg s.curVat p.epoch p.ctx n r.toNat (old + x)) q n
        ∧ Passes s (.rgaSwap r h) (s.setVreg s.curVat p.epoch p.ctx n r.toNat x) q n
        ∧ Passes s (.rgaUmax r h) (s.setVreg s.curVat p.epoch p.ctx n r.toNat (if old.toNat < x.toNat then x else old)) q n)
      ∧ (let qd := s.curVat / 4 * 28 + quad.toNat
        let z := s.setVreg s.curVat p.epoch p.ctx n r.toNat 0
        quad.toNat < 28 → s.cqForeign qd p.ctx = false →
        ((SMap.get [] (s.quad qd).cqs cq.toNat).length < 64 →
          Passes s (.rgaPush r quad cq sh) (z.cqAdd qd p.ctx cq.toNat true (BitVec.ofNat 32 ((old.toNat + 2 ^ sh.toNat - 1) / 2 ^ sh.toNat))) (p.setFlag 4) n)
        ∧ (64 ≤ (SMap.get [] (s.quad qd).cqs cq.toNat).length → Passes s (.rgaPush r quad cq sh) (z.vatCount s.curVat 10) (p.setFlag 4) n)))
    ∧ Passes s (.fwd false port) s ((VPkt.field p 0x08 2 port.toNat).setFlag 3) n
    ∧ (hvNat p.hv 0x08 2 ≠ 0xFFFF → Passes s (.fwd true port) s (p.setFlag 3) n)
    ∧ (hvNat p.hv 0x08 2 = 0xFFFF → StopsAt s (.fwd true port) p .act)
    ∧ Passes s .absorb s (p.setFlag 2) n
    ∧ (p.ctx = 0 → Passes s (.mirr port tr) s { p with mirrors := p.mirrors ++ [(port.toNat, tr)] } n)
    ∧ (p.ctx ≠ 0 → StopsAt s (.mirr port tr) p .act)
    ∧ StopsAt s (.drop reason) p (.user reason.toNat)
    ∧ (hvNat p.hv 0x07 1 < 4 → Passes s (.recirc stage) s { p with again := some stage.toNat } n)
    ∧ (4 ≤ hvNat p.hv 0x07 1 → StopsAt s (.recirc stage) p .act)
    ∧ (let q := if ce then p.setFlag 1 else p
      (sc = false → Passes s (.mark ce sc cls) s q n)
      ∧ (sc = true → p.ctx = 0 ∨ hvNat p.hv 0x06 1 % 4 ≤ cls.toNat → Passes s (.mark ce sc cls) s (VPkt.field q 0x06 1 cls.toNat) n)
      ∧ (sc = true → p.ctx ≠ 0 → cls.toNat < hvNat p.hv 0x06 1 % 4 → StopsAt s (.mark ce sc cls) p .act))
    ∧ (h.toNat + 4 ≤ 512 → let id := BitVec.ofNat 32 o
      (s.connAway id = false → Passes s (.hold h) s p n)
      ∧ (s.connAway id = true → hvFlag p.hv 4 = false → StopsAt s (.hold h) p (.park id))
      ∧ (s.connAway id = true → hvFlag p.hv 4 = true → StopsAt s (.hold h) p .act))

namespace Sys2Proof.Claims

/-- The bytes at `k` are `l`, and every other byte is as before. -/
structure Holds (s t : State) (k : Nat) (l : List Byte) : Prop where
  value : t.rdBytes k l.length = l
  bytes : ∀ a, a < k ∨ k + l.length ≤ a → t.rdByte a = s.rdByte a

/-- A frame of a size that a port takes, on a port that carries packets (R412, R415). -/
def arrives (s : State) (port : Nat) (l : List Byte) : Prop := port < 128 ∧ s.usable port = true ∧ 64 ≤ l.length ∧ l.length ≤ 9216

end Sys2Proof.Claims

/-- R383, R387, R388, R391, R403 to R405, R407, R417: a frame enters its vat, the parser accepts or rejects it, a stage runs the program of its
context, and the verdict forwards, absorbs or drops it; recirculated and parked packets come back; the actions reach memory. -/
def Sys2Proof.Claims.PacketsPassTheirVat : Prop :=
  ∀ (s : State) (v : Nat),
    (∀ port l, arrives s port l → let h := (pktOf l).h
      (isSkf l = false ∨ (h.kind ≠ 0x20 ∧ (s.fabTime (port / 32) + 65536 - h.ts.toNat) % 65536 ≤ 1900 ∧ (h.hop ≠ 4 ∨ h.dchip.toNat = s.chip)) →
        ∃ t, exec (.frameArrival port l) s = .next t ∧ ∃ p ∈ (t.vat (port / 8)).pkts,
          p.phase = .parse ∧ p.port = port ∧ p.frame = l ∧ p.hv = hvStart port l.length s.dieCycle ∧ t.mem = s.mem)
      ∧ (isSkf l = true → h.kind ≠ 0x20 → 1900 < (s.fabTime (port / 32) + 65536 - h.ts.toNat) % 65536 →
        exec (.frameArrival port l) s = .next (s.modPort port fun p => { p with ageDrop := p.ageDrop + 1 }))
      ∧ (isSkf l = true → h.kind ≠ 0x20 → (s.fabTime (port / 32) + 65536 - h.ts.toNat) % 65536 ≤ 1900 → h.hop = 4 → h.dchip.toNat ≠ s.chip →
        exec (.frameArrival port l) s = .next (s.modPort port fun p => { p with hopDrop := p.hopDrop + 1 })))
    ∧ (∀ p, (s.vat v).pkts.find? (fun p => p.phase == .parse) = some p →
      let r := parseGo (s.vat v).words (Nat.min 256 (p.frame.length - 4)) 16 (SMap.get 0 (s.vat v).starts (p.port % 8)) ⟨0, p, 0⟩
      (r = none → exec (.parse v) s = .next ((s.pktGone v p.id).vatCount v 4))
      ∧ (∀ x, r = some x → ∃ t, exec (.parse v) s = .next t ∧ t.mem = s.mem ∧ ∃ q ∈ (t.vat v).pkts, q.id = p.id ∧ q.phase = .stage 0
          ∧ q.epoch = (s.vat v).epoch ∧ q.recs = x.p.recs
          ∧ q.hv = hvNum (hvNum x.p.hv 0x0C 2 (Nat.min x.cur (p.frame.length - 4))) 0x0E 2
              (p.frame.length - 4 - Nat.min x.cur (p.frame.length - 4))))
    ∧ (∀ p n, stageReady none (s.vat v).pkts = [(p, n)] →
      ((s.ctx p.ctx).st ≠ .runnable → exec (.stageExecute v) s = .next (s.stopPkt v p .notRun))
      ∧ ((s.ctx p.ctx).st = .runnable → s.progOf v p.epoch p.ctx n = none → exec (.stageExecute v) s = .next (s.putPkt v (p.passed n)))
      ∧ (∀ g, (s.ctx p.ctx).st = .runnable → s.progOf v p.epoch p.ctx n = some g →
        (∀ u w, stageGo ⟨v, p.ctx, n, g, p.epoch⟩ 4 (microsOf (nth 0 g.acts g.entry)) s ⟨p, 0, none⟩ = .go u w →
          exec (.stageExecute v) s = .next (u.putPkt v (w.p.passed n)))
        ∧ (∀ u w y, stageGo ⟨v, p.ctx, n, g, p.epoch⟩ 4 (microsOf (nth 0 g.acts g.entry)) s ⟨p, 0, none⟩ = .stop u w y →
          exec (.stageExecute v) s = .next (u.stopPkt v w.p y))))
    ∧ (∀ p, (s.vat v).pkts.find? (fun p => p.phase == .finish) = some p → p.mirrors = [] →
      let u := s.pktGone v p.id
      (hvFlag p.hv 3 = true → hvFlag p.hv 2 = false → exec (.verdict v) s
          = .next ((u.sendFrame (hvNat p.hv 0x08 2) (hopFrame p.deparsed (hvFlag p.hv 1)) (hvNat p.hv 0x06 1 % 4) p).vatCount v 1))
      ∧ (hvFlag p.hv 3 = false → hvFlag p.hv 2 = true → isSkf p.deparsed = true → exec (.verdict v) s
          = .next ((u.modDie (v / 4) fun x => { x with loopb := x.loopb ++ [pktOf p.deparsed] }).vatCount v 2))
      ∧ (hvFlag p.hv 3 = false → hvFlag p.hv 2 = false → exec (.verdict v) s = .next (u.vatHalf v 6 true)))
    ∧ (∀ p n, (s.vat v).pkts.find? (fun p => match p.phase with | .recirc _ => true | _ => false) = some p → p.phase = .recirc n →
      ∃ t, exec (.recircReentry v) s = .next t ∧ ∃ l q, (t.vat v).pkts = l ++ [q] ∧ q.id = p.id ∧ q.phase = .stage n ∧ q.again = none
        ∧ q.hv = hvSetFlag (hvNum p.hv 0x07 1 (hvNat p.hv 0x07 1 + 1)) 6)
    ∧ (∀ d c, c ∈ (s.die d).holdMiss → (s.serveHold d c).connAway c = true → exec (.holdRelease d c) s = .next s)
    ∧ (∀ d c, c ∈ (s.die d).holdMiss → (s.serveHold d c).connAway c = false →
      ∃ u, exec (.holdRelease d c) s = .next (((s.die d).holds.filter fun h => h.2.2 == c).foldl (fun s h => s.unpark h.1) u)
        ∧ (u.die d).holds = (s.die d).holds.filter (fun h => h.2.2 != c) ∧ (u.die d).holdMiss = (s.die d).holdMiss.erase c
        ∧ u.vats = s.vats ∧ u.mem = s.mem)
    ∧ (∀ d h, (s.die d).holds.find? (fun h => decide (h.2.1 + 2000000 ≤ s.dieCycle)) = some h →
      exec (.holdTimeout d) s
        = .next (((s.modDie d fun x => { x with holds := x.holds.erase h }).vatCount (h.1.port / 8) 8).tidyRaised (h.1.port / 8)))
    ∧ (∀ c e, (s.ctx c).replay = true → (s.ctx c).st = .runnable → (s.ctx c).rlog.find? (fun e =>
        fld (nth 0 e.2 0) 63 56 == 1 && decide ((fld (nth 0 e.2 0) 47 0 + 2 ^ 48 - (s.ctx c).rcdAt % 2 ^ 48) % 2 ^ 48
          ≤ (s.dieCycle - (s.ctx c).playAt) % 2 ^ 48)) = some e →
      ∃ t, exec (.recordedPacketDelivery c) s = .next t ∧ (t.ctx c).rlog = (s.ctx c).rlog.erase e
        ∧ ∃ p ∈ (t.vat (fld (nth 0 e.2 1) 6 0 / 8)).pkts, p.replayed = true ∧ p.phase = .parse ∧ p.port = fld (nth 0 e.2 1) 6 0)
    ∧ (∀ id a key, s.accs.find? (fun a => a.id == id) = some a → s.accReady a = true → s.pipeReady a = true → (s.ctx a.ctx).rcd = false →
      (s.ctx a.ctx).replay = false → a.locs = [⟨key, none⟩] →
      (a.k = .pdepo → s.Quiet key a.rcd.length → ∃ t, exec (.pipelineLineApply id) s = .next t ∧ Holds s t key a.rcd
        ∧ t.accs = s.accs.filter fun b => b.id != id)
      ∧ (a.k = .pline → s.badIn key a.n = none → s.Quiet key a.n → a.rcd.length = a.n → a.n % 4 = 0 →
        ∃ t, exec (.pipelineLineApply id) s = .next t ∧ Holds s t key (addElems (a.op != 0) (s.rdBytes key a.n) a.rcd).1
        ∧ t.accs = s.accs.filter fun b => b.id != id)
      ∧ (a.k = .pbump → s.badIn key 8 = none → exec (.pipelineBumpApply id) s = .next (((s.dropAcc id).addCount key a.op).tidyRaised a.seat)))

/-- R399: an ADDT of 32-bit integers adds each element mod 2^32 in ascending address. -/
def Sys2Proof.Claims.LineAddsAddEachElement : Prop :=
  ∀ (l r : List Byte), l.length = r.length → l.length % 4 = 0 →
    (addElems false l r).1.length = l.length ∧ (addElems false l r).2 = 0
    ∧ ∀ i, 4 * i < l.length → ofBytesLE (((addElems false l r).1.drop (4 * i)).take 4)
        = (ofBytesLE ((l.drop (4 * i)).take 4) + ofBytesLE ((r.drop (4 * i)).take 4)) % 2 ^ 32

/-- R383, R387, R388, R391, R399, R403, R404, R405, R407, R408, R409, R417: packets in their vat, and the element adds of a line. -/
def Obligations.PacketsPassTheirPipeline : Prop := PacketsPassTheirVat ∧ LineAddsAddEachElement

namespace Sys2Proof.Claims

/-! ## The engines of the fabric (R421 to R442) -/

/-- A packet of a live generation that has not come before, of a context that is neither saving nor saved; `u` is the state with its
connection. -/
structure Fresh (s u : State) (d : Nat) (p : Pkt) : Prop where
  conn : s.inConn d p.h = some u
  once : u.isDup d false p.h = false
  here : u.ctxAway p.h.ctag.toNat = false

/-- The address that a packet names by its key. -/
def keyVa (s : State) (h : Skf) : Nat := (kBase (s.packetKey h) + h.offset.toNat) % 2 ^ 48

/-- The location that a packet names by its key, 0 where there is none. -/
def fabKey (s : State) (h : Skf) (right : Right) : Nat :=
  match (s.ctx h.ctag.toNat).look h.ctag.toNat right (keyVa s h) with
  | .ok q => s.front h.ctag.toNat q
  | _ => 0

/-- The state after a fabric form has been applied at a place with `old` there and `new`, if anything, to be written. -/
def fabWritten (u : State) (h : Skf) (kind op n va : Nat) (l : Held) (new : Option W64) : State :=
  match new with
  | some w =>
    let t := u.applyPieces (pieces (u.heldKey h.ctag.toNat l) va (bytesLE n w.toNat))
    if kind = 7 ∧ op = 1 ∧ n = 8 then t.tileTest (fabKey u h .atom) else t
  | none => u

end Sys2Proof.Claims

/-- R421, R425, R428, R433 to R436, R439, R442: what the engine at the target of a packet does: a generation that is not live is dropped and
counted; a context that is saving answers RETRY; a key violation answers NACK; else the packet is served once and answered. -/
def Obligations.TargetsServePackets : Prop :=
  ∀ (s u : State) (d : Nat) (p : Pkt),
    let h := p.h
    let n := h.ctag.toNat
    (s.inConn d h = none → ∀ i ∈ [Instr.writeData d p, .readRequest d p, .loadRequest d p, .store d p, .atomicRequest d p, .vatMessage d p,
        .keyreq d p, .cancel d p], exec i s = .next (s.modDie d fun x => { x with genDrop := x.genDrop + 1 }))
    ∧ (s.inConn d h = some u → u.isDup d false h = false → u.ctxAway n = true →
      exec (.writeData d p) s = .next (u.reply d h 0x11 0 []) ∧ exec (.readRequest d p) s = .next (u.reply d h 0x11 0 []))
    ∧ (∀ r, Fresh s u d p → u.targetKey h p.data.length 1 = r → r ≠ 0 → exec (.writeData d p) s = .next (u.nackKey d h r h.offset.toNat))
    ∧ (s.inConn d h = some u → u.isDup d false h = true →
      exec (.writeData d p) s = .next ((u.received d false h).sackDue d false h) ∧ exec (.readRequest d p) s = .next u)
    ∧ (∀ l, Fresh s u d p → u.targetKey h p.data.length 1 = 0 → u.placeOf d h .wr (keyVa u h) p.data.length = .ok l →
      (u.ctx n).onTile (keyVa u h) p.data.length = false → u.lctrTurn d n (kCctr (u.packetKey h)) = true →
      let loc (a : Nat) : Nat := match heldPlace l a with | some q => u.shadow n q | none => 0
      exec (.writeData d p) s
        = .next (((((u.applyPieces (pieces loc (keyVa u h) p.data)).addLctr d n (kCctr (u.packetKey h)) p.data.length).received d false h).sackDue d false h)))
    ∧ (∀ l, Fresh s u d p → u.targetKey h (ofBytesBE p.data) 2 = 0 → u.placeOf d h .rd (keyVa u h) (ofBytesBE p.data) = .ok l →
      ∃ (w : WReq) (t : State), exec (.readRequest d p) s = .next (t.pump d) ∧ (t.die d).wreqs = ((u.received d false h).die d).wreqs ++ [w] ∧ w.kind = 6
        ∧ w.started = true ∧ w.laddr = BitVec.ofNat 48 (keyVa u h) ∧ w.len = ofBytesBE p.data ∧ w.msgid = h.msgid ∧ w.ts = h.ts)
    ∧ (∀ i kind op k v new data, (i, kind, op, v, new) ∈
        [(Instr.loadRequest d p, 4, 0, 0, 0), (.store d p, 6, 0, BitVec.ofNat 64 (ofBytesLE (p.data.drop 1)), 0),
         (.atomicRequest d p, 7, (nth 0 p.data 1).toNat, BitVec.ofNat 64 (ofBytesLE ((p.data.drop 2).take 8)),
          BitVec.ofNat 64 (ofBytesLE (p.data.drop 10)))] →
      k = (if nth 0 p.data 0 = 8 then 8 else 4) → s.inConn d h = some u →
      (∀ c, u.conn d false (skfId h) = some c → SMap.find c.replies h.msgid.toNat = some data →
        exec i s = .next (u.reply d h (answerKind kind) 0 data))
      ∧ ((u.conn d false (skfId h)).bind (fun c => SMap.find c.replies h.msgid.toNat) = none →
        (u.ctxAway n = true → exec i s = .next (u.reply d h 0x11 0 []))
        ∧ (∀ r, u.ctxAway n = false → u.targetKey h k kind = r → r ≠ 0 → exec i s = .next (u.nackKey d h r h.offset.toNat))
        ∧ (∀ l, let right : Right := if kind = 4 then .rd else if kind = 6 then .wr else .atom
          let va := keyVa u h
          unlogged u n → u.ctxAway n = false → u.targetKey h k kind = 0 → (∀ q, (u.ctx n).look n right va = .ok q → u.lentAt (u.front n q) = false) →
          u.placeOf d h right va k = .ok l →
          ((u.ctx n).onTile va k && right != .rd && !(kind == 7 && op == 1 && k == 8 && (u.ctx n).onCount va)) = false →
          u.gatherBad (u.heldKey n l) va k = none →
          let old := BitVec.ofNat 64 (ofBytesLE (u.gather (u.heldKey n l) va k))
          let key := fabKey u h right
          let t := (fabWritten u h kind op k va l (fabNewOf kind op k old v new)).bumpCont n va h.schip.toNat
          let lend := kind != 6 && t.lendMode n va && h.schip.toNat != t.chip && decide (va % 64 + k ≤ 64) && !t.bad (key / 64)
          let line := if lend then bytesBE 8 (va / 64) ++ t.rdBytes (key / 64 * 64) 64 else []
          let t' := if lend then t.modDie d fun x => { x with lentOut := x.lentOut ++ [⟨h.schip, h.ctag, va / 64, key / 64, [], 0⟩] } else t
          let data := (if kind = 6 then sackData [h.pidx.toNat] else bytesLE k old.toNat) ++ line
          exec i s = .next ((t'.answered d h data).reply d h (answerKind kind) 0 data))))
    ∧ (s.inConn d h = some u →
      (u.accs.any (fun a => a.ctx == n && (a.k == .pline || a.k == .pdepo || a.k == .pbump)) = true →
        exec (.vatMessage d p) s = .next (u.modDie d fun x => { x with loopb := x.loopb ++ [p] }))
      ∧ (u.accs.any (fun a => a.ctx == n && (a.k == .pline || a.k == .pdepo || a.k == .pbump)) = false →
        exec (.vatMessage d p) s = .next ((u.received d false h).sack d false (skfId h) h.msgid))
      ∧ (u.ctxAway n = false → (∀ e, s.keyEntry n (h.rkey.toNat / 65536) = some e →
          exec (.keyreq d p) s = .next (u.reply d h 0x16 0 (bytesLE 32 e.toNat)))
        ∧ (s.keyEntry n (h.rkey.toNat / 65536) = none → exec (.keyreq d p) s = .next (u.reply d h 0x16 0 [])))
      ∧ (u.ctxAway n = true → exec (.keyreq d p) s = .next u))
    ∧ (s.inConn d h = some u → h.pidx = 0 → (∀ e, u.keyEntry n (h.rkey.toNat / 65536) = some e → kCctr e ≠ 0 →
        exec (.cancel d p) s = .next (u.errReleaseVa n .counter (kCctr e) h.offset.toNat 2))
      ∧ (u.keyEntry n (h.rkey.toNat / 65536) = none → exec (.cancel d p) s = .next u))
    ∧ (s.inConn d h = some u → h.pidx ≠ 0 → ∃ t, exec (.cancel d p) s = .next t ∧ t.mem = s.mem
      ∧ (∀ w ∈ (t.die d).wreqs, ¬(w.kind = 6 ∧ w.connId = skfId h ∧ w.msgid = h.msgid))
      ∧ ∀ k, k < 4 → ∀ c ∈ (t.die k).conns, ∀ y ∈ c.sent, y.dataFor h = false)
    ∧ (s.genOk d false h = false → exec (.lineReturn d p) s = .next (s.modDie d fun x => { x with genDrop := x.genDrop + 1 }))
    ∧ (∀ l, s.genOk d false h = true → (s.die d).lentOut.find? (fun l => l.chip == h.schip && l.ctag == h.ctag && l.line == ofBytesBE (p.data.take 8)) = some l →
      s.Quiet (64 * l.key) (p.data.length - 8) →
      ∃ t, exec (.lineReturn d p) s = .next t ∧ Holds s t (64 * l.key) (p.data.drop 8) ∧ l ∉ (t.die d).lentOut
        ∧ ∀ w ∈ (t.die d).lineWaits, w.key ≠ l.key)

/-- R422, R423, R425, R427, R430, R434 to R437, R439, R442: what the engine at the source of a packet does with what comes back, and its
timers. -/
def Obligations.SourcesTakeAnswers : Prop :=
  ∀ (s : State) (d : Nat) (p : Pkt),
    let h := p.h
    (s.genOk d true h = false → ∀ i ∈ [Instr.readResponseData d p, .loadResponse d p, .atomicResponse d p, .nack d p, .keyrsp d p], exec i s = .next (s.modDie d fun x => { x with genDrop := x.genDrop + 1 }))
    ∧ (∀ w l, s.genOk d true h = true → s.isDup d true h = false →
      (s.die d).wreqs.find? (fun w => w.kind == 2 && w.connId == skfId h && w.msgid == h.msgid && w.started) = some w →
      let va := (w.laddr.toNat + 4096 * h.pidx.toNat) % 2 ^ 48
      s.placeOf d { h with ctag := BitVec.ofNat 12 w.ctx } .wr va p.data.length = .ok l → s.lctrTurn d w.ctx w.lctr.toNat = true →
      let loc (a : Nat) : Nat := match heldPlace l a with | some q => s.shadow w.ctx q | none => 0
      ∃ t : State, exec (.readResponseData d p) s = .next (((t.received d true h).sackDue d true h).pump d)
        ∧ t = (((s.applyPieces (pieces loc va p.data)).addLctr d w.ctx w.lctr.toNat p.data.length).modWreq d w.id fun w =>
            { w with acked := w.acked + p.data.length, counted := w.counted + p.data.length
                     done := w.done || decide (w.len ≤ w.acked + p.data.length) }).ackWhere d true { h with grant := 0 }
              fun y => y.pkt.h.kind == 2)
    ∧ (∀ q a, s.genOk d true h = true → s.sentOf d h = some q → let n := if nth 0 q.pkt.data 0 = 8 then 8 else 4
      let u := (s.ackWhere d true h fun y => y.pkt.h.pidx == h.pidx).takeLine d h (p.data.drop n)
      u.accs.find? (fun a => a.id == q.wr) = some a →
      ∀ i ∈ [Instr.loadResponse d p, .atomicResponse d p], exec i s
        = .next ((u.fabDone a (BitVec.ofNat 64 (ofBytesLE (p.data.take n)))).pump d))
    ∧ (∀ c, s.genOk d (h.offset != 1) h = true → s.conn d (h.offset != 1) (skfId h) = some c →
      let u := s.ackWhere d (h.offset != 1) h fun y => sackHas p.data y.pkt.h.pidx.toNat
      let ids := (c.sent.filter fun y => y.answeredBy h && sackHas p.data y.pkt.h.pidx.toNat && y.pkt.h.kind == 6).map Sent.wr
      exec (.sack d p) s = .next ((((u.accs.filter fun a => a.k == .fst && ids.contains a.id).foldl (fun s a => s.fabDone a 0) u).fastResend
        d (h.offset != 1) h p.data).pump d))
    ∧ (∀ c q, s.genOk d (h.offset != 1) h = true → s.conn d (h.offset != 1) (skfId h) = some c →
      c.sent.find? (fun y => y.answeredBy h && y.pkt.h.pidx == h.pidx) = some q →
      (q.parked = true → exec (.retry d p) s = .next s)
      ∧ (q.parked = false → ∃ t : State, exec (.retry d p) s = .next (t.pump d) ∧ (t.die d).replayq = (s.die d).replayq ++ [(skfId h, q.id)]
        ∧ ∃ c', t.conn d (h.offset != 1) (skfId h) = some c' ∧ c'.slots = c.slots + h.grant.toNat + (if takesSlot q.pkt.h.kind.toNat then 1 else 0)
          ∧ ∃ y ∈ c'.sent, y.id = q.id ∧ y.parked = true ∧ y.resend = s.dieCycle + Nat.min 512 (8 * 2 ^ q.retries) * 2000))
    ∧ (∀ q, s.genOk d true h = true → s.sentOf d h = some q →
      let u := s.takeBack d true h fun y => y.pkt.h.pidx == h.pidx
      let va := ofBytesBE ((p.data.drop 2).take 8) % 2 ^ 48
      (∀ a, u.accs.find? (fun a => a.id == q.wr) = some a →
        exec (.nack d p) s = .next (((u.dropAcc a.id).containCarr a.ctx a.carr (nth 0 p.data 0).toNat va).pump d))
      ∧ (∀ w, u.accs.find? (fun a => a.id == q.wr) = none → (u.die d).wreqs.find? (fun w => w.id == q.wr) = some w →
        exec (.nack d p) s = .next ((u.failWreq d w (nth 0 p.data 0).toNat va).pump d)))
    ∧ (∀ w, s.genOk d true h = true → s.sentOf d h = none →
      (s.die d).wreqs.find? (fun w => w.kind == 2 && w.connId == skfId h && w.msgid == h.msgid && w.started) = some w →
      exec (.nack d p) s = .next ((s.failWreq d w (nth 0 p.data 0).toNat (ofBytesBE ((p.data.drop 2).take 8) % 2 ^ 48)).pump d))
    ∧ (s.genOk d true h = true → ∃ t, exec (.keyrsp d p) s = .next t
      ∧ ∀ k, k < 4 → (h.schip, h.ctag, BitVec.ofNat 16 (h.rkey.toNat / 65536)) ∉ (t.die k).keyWaits
        ∧ ((h.schip, h.ctag, BitVec.ofNat 16 (h.rkey.toNat / 65536)) ∈ (s.die k).keyWaits →
          ⟨h.schip, h.ctag, BitVec.ofNat 16 (h.rkey.toNat / 65536), BitVec.ofNat 256 (ofBytesLE p.data)⟩ ∈ (t.die k).keys))
    ∧ (∀ k l, s.loanOf (h.schip.toNat, h.ctag.toNat, ofBytesBE p.data / 64) = some (k, l) →
      ∃ u : State, exec (.lineRecall d p) s = .next (u.emit d h.ctag.toNat
          ⟨{ h with dchip := h.schip, vcls := true, kind := 0x18 }, bytesBE 8 l.line ++ l.bytes⟩) ∧ l ∉ (u.die k).lentIn ∧ u.mem = s.mem)
    ∧ (∀ id c m, s.conn d false id = some c → (c.msg m).2.1 ≠ 0 → (c.msg m).2.2.1 + 16000 ≤ s.dieCycle →
      exec (.sackTimer d id m) s = .next (s.sack d false id m))
    ∧ (∀ id c q, (s.die d).conns.findSome? (fun c => (c.sent.find? fun p => p.id == id).map fun p => (c, p)) = some (c, q) →
      q.parked = false → q.sentAt + c.timeout ≤ s.dieCycle → exec (.retransmitTimeout d id) s = .next (s.resendPkt d c q))
    ∧ (∀ c q, (s.die d).conns.findSome? (fun c => (c.sent.find? fun p => p.parked && decide (p.resend ≤ s.dieCycle)
        && (!takesSlot p.pkt.h.kind.toNat || decide (0 < c.slots))).map fun p => (c, p)) = some (c, q) →
      ∃ u : State, exec (.retryResend d) s = .next (u.resendPkt d c q) ∧ (u.die d).replayq = (s.die d).replayq.filter fun e => !(e.2 == q.id))
    ∧ (∀ id, ∃ t, exec (.genQuarantineExpiry id) s = .next t ∧ t.mem = s.mem
      ∧ ∀ k, k < 4 → ∀ q ∈ (t.die k).quar, q ∈ (s.die k).quar ∧ ¬(q.id = id ∧ q.until_ ≤ s.dieCycle))
    ∧ (∀ id m c, s.conn d false id = some c → (c.msg m).1 ≠ [] → (c.msg m).2.1 = 0 → (c.msg m).2.2.2 + 4000000 ≤ s.dieCycle →
      ∃ t, exec (.sackBitmapExpiry d id m) s = .next t ∧ ∃ c', t.conn d false id = some c'
        ∧ c'.msg m = ([], 0, 0, 0) ∧ SMap.find c'.replies m.toNat = none)
    ∧ (s.dieCycle % 2 ^ 20 = 0 → ∃ t, exec .contentionHalving s = .next t
      ∧ ∀ c va l b, (s.ctx c).leafAt va = (l, b) → l.v = true → (t.ctx c).leafAt va = (l.halve, b))

/-- R412, R413, R417, R419, R420: training, loss and credits of a port, and what leaves it. -/
def Obligations.PortsTrainAndTransmit : Prop :=
  ∀ (s : State) (k : Nat),
    let p := s.port k
    (p.st = .training → p.mode = 2 ∨ p.heard = true →
      ∃ t, exec (.lanesLocked k) s = .next t ∧ (t.port k).st = .up ∧ ∀ v, v < 10 → SMap.get 0 (t.port k).credits v = 256)
    ∧ (p.st = .training → p.mode ≠ 2 → p.heard = false →
        exec (.lanesLocked k) s = .next ((s.sendHello k).modPort k fun p => { p with locked := true }))
    ∧ (p.st = .training → ∃ t, exec (.lanesLocked k) s = .next t
        ∧ t.wire = (if p.mode = 1 then (k, s.helloFrame k) :: s.wire else s.wire))
    ∧ (p.st = .training → (∃ t, exec (.trainingTimeout k true) s = .next t ∧ (t.port k).st = .degraded)
      ∧ ∃ t, exec (.trainingTimeout k false) s = .next t ∧ (t.port k).st = .training ∧ (t.port k).trainFail = p.trainFail + 1)
    ∧ (p.st = .degraded → ∃ t, exec (.secondLaneLock k) s = .next t ∧ (t.port k).st = .up)
    ∧ (p.st = .up ∨ p.st = .degraded → ∃ t, exec (.lossOfLock k) s = .next t ∧ (t.port k).st = .training ∧ (t.port k).egress = []
        ∧ (t.port k).credits = [] ∧ (t.port k).linkDrop = p.linkDrop + p.egress.length
        ∧ ∀ bad total, (total < bad * 4096 → exec (.fecErrorWindow k bad total) s = .next t)
          ∧ (bad * 4096 ≤ total → exec (.fecErrorWindow k bad total) s = .next s))
    ∧ (∀ chip time, p.mode = 1 → p.st ≠ .off → ∃ t, exec (.hello k chip time) s = .next t ∧ (t.port k).heard = true
        ∧ (t.port k).peer = chip.toNat ∧ (t.die (k / 32)).ftime = Nat.max (s.die (k / 32)).ftime time
        ∧ (p.st = .training → p.locked = true → (t.port k).st = .up))
    ∧ (∀ vc n, s.usable k = true → vc < 10 → ∃ t, exec (.creditReturn k vc n) s = .next t
        ∧ SMap.get 0 (t.port k).credits vc = Nat.min 256 (SMap.get 0 p.credits vc + n)
        ∧ ∀ j, j ≠ vc → SMap.get 0 (t.port k).credits j = SMap.get 0 p.credits j)
    ∧ (∀ f, s.usable k = true → nextFrame p.credits [] p.served = some f →
      f ∈ p.egress ∧ f.needs ≤ SMap.get 0 p.credits f.vc
      ∧ ∃ t, exec (.egressTransmit k) s = .next t ∧ t.wire = (k, f.bytes) :: s.wire ∧ (t.port k).egress = p.egress.erase f
        ∧ SMap.get 0 (t.port k).credits f.vc = SMap.get 0 p.credits f.vc - f.flits)
    ∧ (∀ f, p.egress.find? (fun f => decide (f.at_ + 2000000 < s.dieCycle)) = some f →
      exec (.egressAgeDrop k) s = .next (s.modPort k fun p => { p with egress := p.egress.erase f, ageDrop := p.ageDrop + 1 }))

/-- R12, R14, R18, R19, R22, R376, R381: the power states, what boot leaves, and the gating of quads. -/
def Obligations.PowerStatesChange : Prop :=
  ∀ (s : State),
    (s.power = .off → ∃ t, exec .powerOn s = .next t ∧ t.power = .boot ∧ t.seats = [] ∧ t.accs = [] ∧ t.vats = [] ∧ t.ctxs = []
        ∧ t.cdi0 = Config.fuseSecret ∧ ∀ a, a < hostBase ∨ spadBase ≤ a → t.rdByte a = 0)
    ∧ (∀ cfg, s.power = .boot → BootCfg.ok cfg = false → exec (.bootComplete cfg) s = .next s)
    ∧ (∀ cfg, s.power = .boot → BootCfg.ok cfg = true → ∃ t, exec (.bootComplete cfg) s = .next t ∧ t.power = .active ∧ t.dieCycle = 0 ∧ t.chip = cfg.chip.toNat
        ∧ t.bootCfg = cfg.record ∧ t.keySlots = [(0, 1)] ∧ (t.ctx 0).st = .runnable ∧ (t.ctx 0).key = some 0
        ∧ t.cdi0 = 0 ∧ t.cdi1 = bits512 (hmac512 (bytes512 s.cdi0) (sha512 cfg.record)))
    ∧ (∀ code, s.power = .boot → ∃ t, exec (.bootFail code) s = .next t ∧ t.power = .off ∧ t.hostOut = BitVec.ofNat 64 code :: s.hostOut)
    ∧ (s.power = .active ∨ s.power = .gated → ∃ t, exec .powerDown s = .next t ∧ t.power = .off ∧ t.ctxs = [] ∧ t.seats = [] ∧ t.recs = []
        ∧ ∀ a, a < hostBase ∨ spadBase ≤ a → t.rdByte a = 0)
    ∧ (∀ mw, (s.power = .active → 4200000 < mw → exec (.powerWindow mw) s = .next { s with power := .gated })
        ∧ (s.power = .gated → mw ≤ 4000000 → exec (.powerWindow mw) s = .next { s with power := .active })
        ∧ (s.power = .active → mw ≤ 4200000 → exec (.powerWindow mw) s = .next s))
    ∧ (∀ q, s.gateTurn q = true → ∃ t, exec (.gatedCycle q) s = .next t ∧ (t.quad q).gated = (s.quad q).gated + 1
        ∧ (t.quad q).gatedNow = true ∧ (∀ c ∈ t.turn, c / 4 ≠ q) ∧ t.seats = s.seats ∧ t.mem = s.mem)

namespace Sys2Proof.Claims

/-! ## The machine as a whole -/

/-- The words at the program counter of a seat are those of a bundle that holds the syllable of an instruction alone (R50 to R53). -/
structure HoldsSyllable (s : State) (k : Nat) (i : Instr) (c : SlotClass) (w e : W32) : Prop where
  place   : (s.seat k).pc.toNat % 4 = 0
  head    : s.fetchWord k (s.seat k).pc.toNat = .ok (BitVec.ofNat 32 (2 ^ (soloPos c + 10)))
  word    : s.fetchWord k ((s.seat k).pc.toNat + 4) = .ok w
  ext     : if c ≠ .slotV ∧ w.getLsbD 31 = true then s.fetchWord k ((s.seat k).pc.toNat + 8) = .ok e else e = 0
  decoded : decodeWord c w e = some i
  encoded : encode i = some (c, w, e)
  slot    : c ≠ .micro
  fields  : fieldsOk i = true

/-- A seat stands before the first issue of a bundle, with no sticky slot, no issue of it held and none split under way, its core's width is
its own, and nothing spaces the issue. -/
structure Stands1 (s : State) (k : Nat) : Prop where
  active   : s.power = .active ∨ s.power = .gated
  mapped   : ∀ j ∈ s.occupied (coreOf k), s.inHole j = false
  running  : (s.core (coreOf k)).running = some k
  occupied : (s.seat k).st = .occupied
  first    : (s.seat k).rep = 0
  clear    : (s.seat k).frame.m = none ∧ (s.seat k).frame.x = none ∧ (s.seat k).frame.v = []
  spaced   : (s.seat k).spaced (s.cycle (coreOf k)) 0 = false
  held     : s.heldOf k = none
  pass     : s.secondPass (coreOf k) = false

end Sys2Proof.Claims

/-- A step runs the decoded instruction: an input is run as it came; where a core issues, and the words at the program counter of its running
seat decode to a well-formed syllable, the step is exec of that syllable on that seat; a stage whose entry word holds one micro-operation runs
it; and with no input, what happens next is one of the things that may happen, or time goes on. -/
def Obligations.StepsRunTheDecodedInstruction : Prop :=
  ∀ (s : State),
    (∀ i l, s.inputs = i :: l → step s = exec i { s with inputs := l })
    ∧ (∀ k l i c w e, s.inputs = .bundleIssue (coreOf k) :: l → let u : State := { s with inputs := l }
      u.cur = k → Stands1 u k → HoldsSyllable u k i c w e → (u.tryIssue evalOf k).keeps = true → step s = exec i u)
    ∧ (∀ v l i w p n g, s.inputs = .stageExecute v :: l → let u : State := { s with inputs := l }
      u.curVat = v → stageReady none (u.vat v).pkts = [(p, n)] → u.progOf v p.epoch p.ctx n = some g →
      microsOf (nth 0 g.acts g.entry) = [w, 0, 0, 0] → decodeMicro w = some i → encodeMicro i = some w → fieldsOk i = true →
      step s = exec i u)
    ∧ (s.inputs = [] → s.power = .active ∨ s.power = .gated →
      ∃ h, (h = Happening.clock ∨ h ∈ s.happenings) ∧ step s = h.run { s with free := s.free + 2 })
    ∧ (s.inputs = [] → s.power ≠ .active → s.power ≠ .gated → step s = .next s)

/-- R56, R57: both slots of a bundle read their sources before either writes; two slots that write one register other than S0 take trap 0x01
with both slots in the mask. -/
def Obligations.BundlesReadBeforeTheyWrite : Prop :=
  ∀ (s : State) (k : Nat) (a b c a' b' c' : Reg) (w0 w1 : W32),
    Stands1 s k → encode (.add .d64 a b c false false) = some (.slotS, w0, 0) → encode (.sub .d64 a' b' c' false false) = some (.slotS, w1, 0) →
    s.fetchBundle k (s.seat k).pc = .ok ⟨false, 0, 0, [(12, w0, 0), (11, w1, 0)], 3, false⟩ →
    (∀ r ∈ [b, c, b', c'], (s.seat k).isEmpty r = false) → (s.seat k).destBlocked a = false → (s.seat k).destBlocked a' = false →
    (a ≠ a' → ∃ t, s.tryIssue evalOf k = .go t
      ∧ (t.seat k).reg a = (if a = 0 then 0 else (s.seat k).reg b + (s.seat k).reg c)
      ∧ (t.seat k).reg a' = (if a' = 0 then 0 else (s.seat k).reg b' - (s.seat k).reg c')
      ∧ (∀ r, r ≠ a → r ≠ a' → (t.seat k).reg r = (s.seat k).reg r) ∧ SeatOnly s t k)
    ∧ (a = a' → a ≠ 0 → ∃ t, s.tryIssue evalOf k = .flt t ∧ t = s.faultIssue k 0x01 0 0x1800)

/-- R50 to R53, R66, R68 to R75: words written out from the tables decode to the instructions that they stand for. -/
def Obligations.WrittenWordsDecode : Prop :=
  decodeWord .slotC 0x07000005#32 0 = some (.trap 5)
  ∧ decodeWord .slotC 0x82001080#32 0xFFFFFFFC#32 = some (.beq 1 2 false false 0xFFFFFFFC#32)
  ∧ decodeWord .slotS 0x010C1081#32 0 = some (.add .w32 3 1 2 false false)
  ∧ decodeWord .slotS 0x8E105020#32 0x00AA0008#32 = some (.ldd 4 5 true 0x00A#12 ⟨true, 2, 8⟩)
  ∧ decodeWord .slotM 0x02000000#32 0 = some .mrel
  ∧ decodeWord .slotX 0x02003000#32 0 = some (.sstart 3)
  ∧ decodeWord .slotY 0x010C1080#32 0 = some (.aadd .d64 3 1 2 false false)
  ∧ decodeWord .slotV 0x000000D5#32 0 = some (.hcw 1 5 false 5)
  ∧ decodeWord .slotV 0x0000FF80#32 0 = some .vNop
  ∧ decodeMicro 0x08E0200E#32 = some (.ext 0x38 1 0xE)
  ∧ decodeMicro 0x70000000#32 = some .absorb
  ∧ decodeSlot 11 0x8E105000#32 0 = none

/-- The decoder and the encoder agree: the words of every well-formed instruction that has an encoding decode to it, and every word that
decodes is the one that its instruction is encoded as, so that no bit is dropped. -/
def Obligations.EncodingsReadBack : Prop :=
  (∀ (i : Instr) (c : SlotClass) (w e : W32), fieldsOk i = true → encode i = some (c, w, e) → decodeWord c w e = some i)
  ∧ (∀ (i : Instr) (c : SlotClass) (w e : W32), decodeWord c w e = some i → (c = .slotV → w.toNat < 2 ^ 16) →
      encode i = some (c, w, if c ≠ .slotV ∧ c ≠ .micro ∧ w.getLsbD 31 = true then e else 0))

/-- Every step keeps the canonical form of memory: addresses strictly rising, no byte listed that reads as it would unlisted. -/
def Obligations.StepsKeepMemoryCanonical : Prop := ∀ (s t : State), s.Canonical → step s = .next t → t.Canonical

/-- R12, R18: at reset the power state is OFF, memory is in its canonical form, every seat is FREE, no context exists and no port is UP; nothing
happens of itself until power comes. Zero in HBM and host memory is the model's choice (log 4). -/
def Obligations.ResetLeavesThePackageOff : Prop :=
  State.reset.Canonical ∧ State.reset.power = .off ∧ (∀ k, (State.reset.seat k).st = .free) ∧ (∀ c, (State.reset.ctx c).st = .none)
  ∧ (∀ p, State.reset.usable p = false) ∧ (∀ a, State.reset.rdByte a = 0) ∧ step State.reset = .next State.reset
end

