-- ==== Sys2Proof/Laws/Maps.lean ====
section
/-!
SUPPORT. Sparse maps: what is read after a write, and that the operations keep the canonical form.
-/

namespace Sys2Proof.SMap

variable {α : Type}

@[simp] theorem get_nil (d : α) (k : Nat) : get d ([] : SMap α) k = d := rfl
@[simp] theorem erase_nil (k : Nat) : erase ([] : SMap α) k = [] := rfl
@[simp] theorem find_nil (k : Nat) : find ([] : SMap α) k = none := rfl

/-- After its removal a key reads as the default. -/
@[simp] theorem get_erase_same (d : α) (m : SMap α) (k : Nat) : get d (erase m k) k = d := by
  induction m with
  | nil => rfl
  | cons e m ih =>
    obtain ⟨a, v⟩ := e
    by_cases h : k = a
    · simp [erase, h]; rw [← h]; exact ih
    · simp [erase, get, h, ih]

/-- The removal of a key leaves every other key alone. -/
theorem get_erase_other (d : α) (m : SMap α) {k i : Nat} (h : i ≠ k) : get d (erase m k) i = get d m i := by
  induction m with
  | nil => rfl
  | cons e m ih =>
    obtain ⟨a, v⟩ := e
    by_cases hk : k = a
    · subst hk; simp [erase, get, h, ih]
    · simp [erase, get, hk, ih]

/-- A listed value reads back. -/
@[simp] theorem get_insert_same (d : α) (m : SMap α) (k : Nat) (v : α) : get d (insert m k v) k = v := by
  induction m with
  | nil => simp [insert, get]
  | cons e m ih =>
    obtain ⟨a, w⟩ := e
    by_cases h : k = a
    · simp [insert, get, h]
    · by_cases hl : k < a
      · simp [insert, get, h, hl]
      · simp [insert, get, h, hl, ih]

/-- A listed value leaves every other key alone. -/
theorem get_insert_other (d : α) (m : SMap α) {k i : Nat} (v : α) (h : i ≠ k) : get d (insert m k v) i = get d m i := by
  induction m with
  | nil => simp [insert, get, h]
  | cons e m ih =>
    obtain ⟨a, w⟩ := e
    by_cases hk : k = a
    · subst hk; simp [insert, get, h]
    · by_cases hl : k < a
      · simp [insert, get, h, hk, hl]
      · simp [insert, get, hk, hl, ih]

/-! ## Keys above a bound -/

theorem above_of_le {b c : Nat} {m : SMap α} (h : above c m = true) (hbc : b ≤ c) : above b m = true := by
  simp only [above, List.all_eq_true, decide_eq_true_eq] at *
  exact fun e he => Nat.lt_of_le_of_lt hbc (h e he)

theorem above_erase {b k : Nat} {m : SMap α} (h : above b m = true) : above b (erase m k) = true := by
  induction m with
  | nil => rfl
  | cons e m ih =>
    obtain ⟨a, v⟩ := e
    simp only [above, List.all_cons, Bool.and_eq_true] at h
    unfold erase; split
    · exact ih h.2
    · simp only [above, List.all_cons, Bool.and_eq_true]
      exact ⟨h.1, ih h.2⟩

theorem above_insert {b k : Nat} {v : α} {m : SMap α} (h : above b m = true) (hk : b < k) : above b (insert m k v) = true := by
  induction m with
  | nil => simp [insert, above, hk]
  | cons e m ih =>
    obtain ⟨a, w⟩ := e
    simp only [above, List.all_cons, Bool.and_eq_true, decide_eq_true_eq] at h
    unfold insert; split
    · simp only [above, List.all_cons, Bool.and_eq_true, decide_eq_true_eq]; exact ⟨hk, h.2⟩
    · split
      · simp only [above, List.all_cons, Bool.and_eq_true, decide_eq_true_eq]; exact ⟨hk, h.1, h.2⟩
      · simp only [above, List.all_cons, Bool.and_eq_true, decide_eq_true_eq]; exact ⟨h.1, ih h.2⟩

theorem above_keep {b : Nat} {p : Nat → Bool} {m : SMap α} (h : above b m = true) : above b (keep p m) = true := by
  simp only [above, keep, List.all_eq_true, List.mem_filter, decide_eq_true_eq] at *
  exact fun e he => h e he.1

variable [DecidableEq α]

/-- What is written reads back. -/
@[simp] theorem get_set_same (d : α) (m : SMap α) (k : Nat) (v : α) : get d (set d m k v) k = v := by
  unfold set; split
  · next h => simp [h]
  · simp

/-- A write leaves every other key alone. -/
theorem get_set_other (d : α) (m : SMap α) {k i : Nat} (v : α) (h : i ≠ k) : get d (set d m k v) i = get d m i := by
  unfold set; split
  · exact get_erase_other d m h
  · exact get_insert_other d m v h

/-- A read after a write, whatever the keys. -/
theorem get_set (d : α) (m : SMap α) (k i : Nat) (v : α) : get d (set d m k v) i = if i = k then v else get d m i := by
  split
  · next h => subst h; simp
  · next h => exact get_set_other d m v h

/-! ## The canonical form -/

@[simp] theorem wf_nil (d : α) : wf d ([] : SMap α) = true := rfl

theorem wf_erase {d : α} {m : SMap α} (h : wf d m = true) (k : Nat) : wf d (erase m k) = true := by
  induction m with
  | nil => rfl
  | cons e m ih =>
    obtain ⟨a, v⟩ := e
    simp only [wf, Bool.and_eq_true] at h
    unfold erase; split
    · exact ih h.2
    · simp only [wf, Bool.and_eq_true]
      exact ⟨⟨h.1.1, above_erase h.1.2⟩, ih h.2⟩

theorem wf_insert {d : α} {m : SMap α} (h : wf d m = true) (k : Nat) {v : α} (hv : v ≠ d) : wf d (insert m k v) = true := by
  induction m with
  | nil => simp [insert, wf, above, hv]
  | cons e m ih =>
    obtain ⟨a, w⟩ := e
    simp only [wf, Bool.and_eq_true, decide_eq_true_eq] at h
    unfold insert; split
    · next hk => subst hk; simp only [wf, Bool.and_eq_true, decide_eq_true_eq]; exact ⟨⟨hv, h.1.2⟩, h.2⟩
    · split
      · next hl =>
        simp only [wf, Bool.and_eq_true, decide_eq_true_eq]
        refine ⟨⟨hv, ?_⟩, h⟩
        simp only [above, List.all_cons, Bool.and_eq_true, decide_eq_true_eq]
        exact ⟨hl, above_of_le h.1.2 (Nat.le_of_lt hl)⟩
      · next hne hl =>
        simp only [wf, Bool.and_eq_true, decide_eq_true_eq]
        exact ⟨⟨h.1.1, above_insert h.1.2 (by omega)⟩, ih h.2⟩

/-- A write keeps the canonical form. -/
theorem wf_set {d : α} {m : SMap α} (h : wf d m = true) (k : Nat) (v : α) : wf d (set d m k v) = true := by
  unfold set; split
  · exact wf_erase h k
  · next hv => exact wf_insert h k hv

/-- Keeping some keys keeps the canonical form. -/
theorem wf_keep {d : α} {m : SMap α} (h : wf d m = true) (p : Nat → Bool) : wf d (keep p m) = true := by
  induction m with
  | nil => rfl
  | cons e m ih =>
    obtain ⟨a, v⟩ := e
    simp only [wf, Bool.and_eq_true] at h
    by_cases hp : p a = true
    · simp only [keep, List.filter_cons, hp, if_true, wf, Bool.and_eq_true]
      exact ⟨⟨h.1.1, above_keep (p := p) h.1.2⟩, ih h.2⟩
    · simpa [keep, List.filter_cons, hp] using ih h.2

theorem wf_append {d : α} {m n : SMap α} (hm : wf d m = true) (hn : wf d n = true)
    (hmn : ∀ e ∈ m, above e.1 n = true) : wf d (m ++ n) = true := by
  induction m with
  | nil => exact hn
  | cons e m ih =>
    obtain ⟨a, v⟩ := e
    simp only [wf, Bool.and_eq_true] at hm
    simp only [List.cons_append, wf, Bool.and_eq_true]
    refine ⟨⟨hm.1.1, ?_⟩, ih hm.2 fun e he => hmn e (List.mem_cons_of_mem _ he)⟩
    have h2 := hmn (a, v) List.mem_cons_self
    simp only [above, List.all_append, Bool.and_eq_true] at *
    exact ⟨hm.1.2, h2⟩

end Sys2Proof.SMap
end

