-- ==== Sys2Proof/Laws/State.lean ====
section
/-!
SUPPORT. What each update of a part of the state leaves alone and what it changes: one lemma for each field and each update.
-/

namespace Sys2Proof.Machine

/-! ## setSeat -/

@[simp] theorem setSeat_power (s : State) (i : Nat) (x : Seat) : (s.setSeat i x).power = s.power := rfl
@[simp] theorem setSeat_dieCycle (s : State) (i : Nat) (x : Seat) : (s.setSeat i x).dieCycle = s.dieCycle := rfl
@[simp] theorem setSeat_turn (s : State) (i : Nat) (x : Seat) : (s.setSeat i x).turn = s.turn := rfl
@[simp] theorem setSeat_inputs (s : State) (i : Nat) (x : Seat) : (s.setSeat i x).inputs = s.inputs := rfl
@[simp] theorem setSeat_free (s : State) (i : Nat) (x : Seat) : (s.setSeat i x).free = s.free := rfl
@[simp] theorem setSeat_nextId (s : State) (i : Nat) (x : Seat) : (s.setSeat i x).nextId = s.nextId := rfl
@[simp] theorem setSeat_cur (s : State) (i : Nat) (x : Seat) : (s.setSeat i x).cur = s.cur := rfl
@[simp] theorem setSeat_curVat (s : State) (i : Nat) (x : Seat) : (s.setSeat i x).curVat = s.curVat := rfl
@[simp] theorem setSeat_mem (s : State) (i : Nat) (x : Seat) : (s.setSeat i x).mem = s.mem := rfl
@[simp] theorem setSeat_poison (s : State) (i : Nat) (x : Seat) : (s.setSeat i x).poison = s.poison := rfl
@[simp] theorem setSeat_tags (s : State) (i : Nat) (x : Seat) : (s.setSeat i x).tags = s.tags := rfl
@[simp] theorem setSeat_cores (s : State) (i : Nat) (x : Seat) : (s.setSeat i x).cores = s.cores := rfl
@[simp] theorem setSeat_quads (s : State) (i : Nat) (x : Seat) : (s.setSeat i x).quads = s.quads := rfl
@[simp] theorem setSeat_dies (s : State) (i : Nat) (x : Seat) : (s.setSeat i x).dies = s.dies := rfl
@[simp] theorem setSeat_accs (s : State) (i : Nat) (x : Seat) : (s.setSeat i x).accs = s.accs := rfl
@[simp] theorem setSeat_waits (s : State) (i : Nat) (x : Seat) : (s.setSeat i x).waits = s.waits := rfl
@[simp] theorem setSeat_recs (s : State) (i : Nat) (x : Seat) : (s.setSeat i x).recs = s.recs := rfl
@[simp] theorem setSeat_coaches (s : State) (i : Nat) (x : Seat) : (s.setSeat i x).coaches = s.coaches := rfl
@[simp] theorem setSeat_ctxs (s : State) (i : Nat) (x : Seat) : (s.setSeat i x).ctxs = s.ctxs := rfl
@[simp] theorem setSeat_vats (s : State) (i : Nat) (x : Seat) : (s.setSeat i x).vats = s.vats := rfl
@[simp] theorem setSeat_ports (s : State) (i : Nat) (x : Seat) : (s.setSeat i x).ports = s.ports := rfl
@[simp] theorem setSeat_chip (s : State) (i : Nat) (x : Seat) : (s.setSeat i x).chip = s.chip := rfl
@[simp] theorem setSeat_spad (s : State) (i : Nat) (x : Seat) : (s.setSeat i x).spad = s.spad := rfl
@[simp] theorem setSeat_bootCfg (s : State) (i : Nat) (x : Seat) : (s.setSeat i x).bootCfg = s.bootCfg := rfl
@[simp] theorem setSeat_cdi1 (s : State) (i : Nat) (x : Seat) : (s.setSeat i x).cdi1 = s.cdi1 := rfl
@[simp] theorem setSeat_cdi0 (s : State) (i : Nat) (x : Seat) : (s.setSeat i x).cdi0 = s.cdi0 := rfl
@[simp] theorem setSeat_deviceKey (s : State) (i : Nat) (x : Seat) : (s.setSeat i x).deviceKey = s.deviceKey := rfl
@[simp] theorem setSeat_aliasCert (s : State) (i : Nat) (x : Seat) : (s.setSeat i x).aliasCert = s.aliasCert := rfl
@[simp] theorem setSeat_keySlots (s : State) (i : Nat) (x : Seat) : (s.setSeat i x).keySlots = s.keySlots := rfl
@[simp] theorem setSeat_curds (s : State) (i : Nat) (x : Seat) : (s.setSeat i x).curds = s.curds := rfl
@[simp] theorem setSeat_hostOut (s : State) (i : Nat) (x : Seat) : (s.setSeat i x).hostOut = s.hostOut := rfl
@[simp] theorem setSeat_hostHeld (s : State) (i : Nat) (x : Seat) : (s.setSeat i x).hostHeld = s.hostHeld := rfl
@[simp] theorem setSeat_hostRing (s : State) (i : Nat) (x : Seat) : (s.setSeat i x).hostRing = s.hostRing := rfl
@[simp] theorem setSeat_hostCmds (s : State) (i : Nat) (x : Seat) : (s.setSeat i x).hostCmds = s.hostCmds := rfl
@[simp] theorem setSeat_curdTry (s : State) (i : Nat) (x : Seat) : (s.setSeat i x).curdTry = s.curdTry := rfl
@[simp] theorem setSeat_wire (s : State) (i : Nat) (x : Seat) : (s.setSeat i x).wire = s.wire := rfl
@[simp] theorem setSeat_core (s : State) (i : Nat) (x : Seat) (j : Nat) : (s.setSeat i x).core j = s.core j := rfl
@[simp] theorem setSeat_quad (s : State) (i : Nat) (x : Seat) (j : Nat) : (s.setSeat i x).quad j = s.quad j := rfl
@[simp] theorem setSeat_die (s : State) (i : Nat) (x : Seat) (j : Nat) : (s.setSeat i x).die j = s.die j := rfl
@[simp] theorem setSeat_ctx (s : State) (i : Nat) (x : Seat) (j : Nat) : (s.setSeat i x).ctx j = s.ctx j := rfl
@[simp] theorem setSeat_vat (s : State) (i : Nat) (x : Seat) (j : Nat) : (s.setSeat i x).vat j = s.vat j := rfl
@[simp] theorem setSeat_port (s : State) (i : Nat) (x : Seat) (j : Nat) : (s.setSeat i x).port j = s.port j := rfl
@[simp] theorem setSeat_rdByte (s : State) (i : Nat) (x : Seat) (k : Nat) : (s.setSeat i x).rdByte k = s.rdByte k := rfl
@[simp] theorem setSeat_queue (s : State) (i : Nat) (x : Seat) (t2 h2 : Nat) : (s.setSeat i x).queue t2 h2 = s.queue t2 h2 := rfl

/-! ## modSeat -/

@[simp] theorem modSeat_power (s : State) (i : Nat) (f : Seat → Seat) : (s.modSeat i f).power = s.power := rfl
@[simp] theorem modSeat_dieCycle (s : State) (i : Nat) (f : Seat → Seat) : (s.modSeat i f).dieCycle = s.dieCycle := rfl
@[simp] theorem modSeat_turn (s : State) (i : Nat) (f : Seat → Seat) : (s.modSeat i f).turn = s.turn := rfl
@[simp] theorem modSeat_inputs (s : State) (i : Nat) (f : Seat → Seat) : (s.modSeat i f).inputs = s.inputs := rfl
@[simp] theorem modSeat_free (s : State) (i : Nat) (f : Seat → Seat) : (s.modSeat i f).free = s.free := rfl
@[simp] theorem modSeat_nextId (s : State) (i : Nat) (f : Seat → Seat) : (s.modSeat i f).nextId = s.nextId := rfl
@[simp] theorem modSeat_cur (s : State) (i : Nat) (f : Seat → Seat) : (s.modSeat i f).cur = s.cur := rfl
@[simp] theorem modSeat_curVat (s : State) (i : Nat) (f : Seat → Seat) : (s.modSeat i f).curVat = s.curVat := rfl
@[simp] theorem modSeat_mem (s : State) (i : Nat) (f : Seat → Seat) : (s.modSeat i f).mem = s.mem := rfl
@[simp] theorem modSeat_poison (s : State) (i : Nat) (f : Seat → Seat) : (s.modSeat i f).poison = s.poison := rfl
@[simp] theorem modSeat_tags (s : State) (i : Nat) (f : Seat → Seat) : (s.modSeat i f).tags = s.tags := rfl
@[simp] theorem modSeat_cores (s : State) (i : Nat) (f : Seat → Seat) : (s.modSeat i f).cores = s.cores := rfl
@[simp] theorem modSeat_quads (s : State) (i : Nat) (f : Seat → Seat) : (s.modSeat i f).quads = s.quads := rfl
@[simp] theorem modSeat_dies (s : State) (i : Nat) (f : Seat → Seat) : (s.modSeat i f).dies = s.dies := rfl
@[simp] theorem modSeat_accs (s : State) (i : Nat) (f : Seat → Seat) : (s.modSeat i f).accs = s.accs := rfl
@[simp] theorem modSeat_waits (s : State) (i : Nat) (f : Seat → Seat) : (s.modSeat i f).waits = s.waits := rfl
@[simp] theorem modSeat_recs (s : State) (i : Nat) (f : Seat → Seat) : (s.modSeat i f).recs = s.recs := rfl
@[simp] theorem modSeat_coaches (s : State) (i : Nat) (f : Seat → Seat) : (s.modSeat i f).coaches = s.coaches := rfl
@[simp] theorem modSeat_ctxs (s : State) (i : Nat) (f : Seat → Seat) : (s.modSeat i f).ctxs = s.ctxs := rfl
@[simp] theorem modSeat_vats (s : State) (i : Nat) (f : Seat → Seat) : (s.modSeat i f).vats = s.vats := rfl
@[simp] theorem modSeat_ports (s : State) (i : Nat) (f : Seat → Seat) : (s.modSeat i f).ports = s.ports := rfl
@[simp] theorem modSeat_chip (s : State) (i : Nat) (f : Seat → Seat) : (s.modSeat i f).chip = s.chip := rfl
@[simp] theorem modSeat_spad (s : State) (i : Nat) (f : Seat → Seat) : (s.modSeat i f).spad = s.spad := rfl
@[simp] theorem modSeat_bootCfg (s : State) (i : Nat) (f : Seat → Seat) : (s.modSeat i f).bootCfg = s.bootCfg := rfl
@[simp] theorem modSeat_cdi1 (s : State) (i : Nat) (f : Seat → Seat) : (s.modSeat i f).cdi1 = s.cdi1 := rfl
@[simp] theorem modSeat_cdi0 (s : State) (i : Nat) (f : Seat → Seat) : (s.modSeat i f).cdi0 = s.cdi0 := rfl
@[simp] theorem modSeat_deviceKey (s : State) (i : Nat) (f : Seat → Seat) : (s.modSeat i f).deviceKey = s.deviceKey := rfl
@[simp] theorem modSeat_aliasCert (s : State) (i : Nat) (f : Seat → Seat) : (s.modSeat i f).aliasCert = s.aliasCert := rfl
@[simp] theorem modSeat_keySlots (s : State) (i : Nat) (f : Seat → Seat) : (s.modSeat i f).keySlots = s.keySlots := rfl
@[simp] theorem modSeat_curds (s : State) (i : Nat) (f : Seat → Seat) : (s.modSeat i f).curds = s.curds := rfl
@[simp] theorem modSeat_hostOut (s : State) (i : Nat) (f : Seat → Seat) : (s.modSeat i f).hostOut = s.hostOut := rfl
@[simp] theorem modSeat_hostHeld (s : State) (i : Nat) (f : Seat → Seat) : (s.modSeat i f).hostHeld = s.hostHeld := rfl
@[simp] theorem modSeat_hostRing (s : State) (i : Nat) (f : Seat → Seat) : (s.modSeat i f).hostRing = s.hostRing := rfl
@[simp] theorem modSeat_hostCmds (s : State) (i : Nat) (f : Seat → Seat) : (s.modSeat i f).hostCmds = s.hostCmds := rfl
@[simp] theorem modSeat_curdTry (s : State) (i : Nat) (f : Seat → Seat) : (s.modSeat i f).curdTry = s.curdTry := rfl
@[simp] theorem modSeat_wire (s : State) (i : Nat) (f : Seat → Seat) : (s.modSeat i f).wire = s.wire := rfl
@[simp] theorem modSeat_core (s : State) (i : Nat) (f : Seat → Seat) (j : Nat) : (s.modSeat i f).core j = s.core j := rfl
@[simp] theorem modSeat_quad (s : State) (i : Nat) (f : Seat → Seat) (j : Nat) : (s.modSeat i f).quad j = s.quad j := rfl
@[simp] theorem modSeat_die (s : State) (i : Nat) (f : Seat → Seat) (j : Nat) : (s.modSeat i f).die j = s.die j := rfl
@[simp] theorem modSeat_ctx (s : State) (i : Nat) (f : Seat → Seat) (j : Nat) : (s.modSeat i f).ctx j = s.ctx j := rfl
@[simp] theorem modSeat_vat (s : State) (i : Nat) (f : Seat → Seat) (j : Nat) : (s.modSeat i f).vat j = s.vat j := rfl
@[simp] theorem modSeat_port (s : State) (i : Nat) (f : Seat → Seat) (j : Nat) : (s.modSeat i f).port j = s.port j := rfl
@[simp] theorem modSeat_rdByte (s : State) (i : Nat) (f : Seat → Seat) (k : Nat) : (s.modSeat i f).rdByte k = s.rdByte k := rfl
@[simp] theorem modSeat_queue (s : State) (i : Nat) (f : Seat → Seat) (t2 h2 : Nat) : (s.modSeat i f).queue t2 h2 = s.queue t2 h2 := rfl

/-! ## setCore -/

@[simp] theorem setCore_power (s : State) (i : Nat) (x : Core) : (s.setCore i x).power = s.power := rfl
@[simp] theorem setCore_dieCycle (s : State) (i : Nat) (x : Core) : (s.setCore i x).dieCycle = s.dieCycle := rfl
@[simp] theorem setCore_turn (s : State) (i : Nat) (x : Core) : (s.setCore i x).turn = s.turn := rfl
@[simp] theorem setCore_inputs (s : State) (i : Nat) (x : Core) : (s.setCore i x).inputs = s.inputs := rfl
@[simp] theorem setCore_free (s : State) (i : Nat) (x : Core) : (s.setCore i x).free = s.free := rfl
@[simp] theorem setCore_nextId (s : State) (i : Nat) (x : Core) : (s.setCore i x).nextId = s.nextId := rfl
@[simp] theorem setCore_cur (s : State) (i : Nat) (x : Core) : (s.setCore i x).cur = s.cur := rfl
@[simp] theorem setCore_curVat (s : State) (i : Nat) (x : Core) : (s.setCore i x).curVat = s.curVat := rfl
@[simp] theorem setCore_mem (s : State) (i : Nat) (x : Core) : (s.setCore i x).mem = s.mem := rfl
@[simp] theorem setCore_poison (s : State) (i : Nat) (x : Core) : (s.setCore i x).poison = s.poison := rfl
@[simp] theorem setCore_tags (s : State) (i : Nat) (x : Core) : (s.setCore i x).tags = s.tags := rfl
@[simp] theorem setCore_seats (s : State) (i : Nat) (x : Core) : (s.setCore i x).seats = s.seats := rfl
@[simp] theorem setCore_quads (s : State) (i : Nat) (x : Core) : (s.setCore i x).quads = s.quads := rfl
@[simp] theorem setCore_dies (s : State) (i : Nat) (x : Core) : (s.setCore i x).dies = s.dies := rfl
@[simp] theorem setCore_accs (s : State) (i : Nat) (x : Core) : (s.setCore i x).accs = s.accs := rfl
@[simp] theorem setCore_waits (s : State) (i : Nat) (x : Core) : (s.setCore i x).waits = s.waits := rfl
@[simp] theorem setCore_recs (s : State) (i : Nat) (x : Core) : (s.setCore i x).recs = s.recs := rfl
@[simp] theorem setCore_coaches (s : State) (i : Nat) (x : Core) : (s.setCore i x).coaches = s.coaches := rfl
@[simp] theorem setCore_ctxs (s : State) (i : Nat) (x : Core) : (s.setCore i x).ctxs = s.ctxs := rfl
@[simp] theorem setCore_vats (s : State) (i : Nat) (x : Core) : (s.setCore i x).vats = s.vats := rfl
@[simp] theorem setCore_ports (s : State) (i : Nat) (x : Core) : (s.setCore i x).ports = s.ports := rfl
@[simp] theorem setCore_chip (s : State) (i : Nat) (x : Core) : (s.setCore i x).chip = s.chip := rfl
@[simp] theorem setCore_spad (s : State) (i : Nat) (x : Core) : (s.setCore i x).spad = s.spad := rfl
@[simp] theorem setCore_bootCfg (s : State) (i : Nat) (x : Core) : (s.setCore i x).bootCfg = s.bootCfg := rfl
@[simp] theorem setCore_cdi1 (s : State) (i : Nat) (x : Core) : (s.setCore i x).cdi1 = s.cdi1 := rfl
@[simp] theorem setCore_cdi0 (s : State) (i : Nat) (x : Core) : (s.setCore i x).cdi0 = s.cdi0 := rfl
@[simp] theorem setCore_deviceKey (s : State) (i : Nat) (x : Core) : (s.setCore i x).deviceKey = s.deviceKey := rfl
@[simp] theorem setCore_aliasCert (s : State) (i : Nat) (x : Core) : (s.setCore i x).aliasCert = s.aliasCert := rfl
@[simp] theorem setCore_keySlots (s : State) (i : Nat) (x : Core) : (s.setCore i x).keySlots = s.keySlots := rfl
@[simp] theorem setCore_curds (s : State) (i : Nat) (x : Core) : (s.setCore i x).curds = s.curds := rfl
@[simp] theorem setCore_hostOut (s : State) (i : Nat) (x : Core) : (s.setCore i x).hostOut = s.hostOut := rfl
@[simp] theorem setCore_hostHeld (s : State) (i : Nat) (x : Core) : (s.setCore i x).hostHeld = s.hostHeld := rfl
@[simp] theorem setCore_hostRing (s : State) (i : Nat) (x : Core) : (s.setCore i x).hostRing = s.hostRing := rfl
@[simp] theorem setCore_hostCmds (s : State) (i : Nat) (x : Core) : (s.setCore i x).hostCmds = s.hostCmds := rfl
@[simp] theorem setCore_curdTry (s : State) (i : Nat) (x : Core) : (s.setCore i x).curdTry = s.curdTry := rfl
@[simp] theorem setCore_wire (s : State) (i : Nat) (x : Core) : (s.setCore i x).wire = s.wire := rfl
@[simp] theorem setCore_seat (s : State) (i : Nat) (x : Core) (j : Nat) : (s.setCore i x).seat j = s.seat j := rfl
@[simp] theorem setCore_quad (s : State) (i : Nat) (x : Core) (j : Nat) : (s.setCore i x).quad j = s.quad j := rfl
@[simp] theorem setCore_die (s : State) (i : Nat) (x : Core) (j : Nat) : (s.setCore i x).die j = s.die j := rfl
@[simp] theorem setCore_ctx (s : State) (i : Nat) (x : Core) (j : Nat) : (s.setCore i x).ctx j = s.ctx j := rfl
@[simp] theorem setCore_vat (s : State) (i : Nat) (x : Core) (j : Nat) : (s.setCore i x).vat j = s.vat j := rfl
@[simp] theorem setCore_port (s : State) (i : Nat) (x : Core) (j : Nat) : (s.setCore i x).port j = s.port j := rfl
@[simp] theorem setCore_rdByte (s : State) (i : Nat) (x : Core) (k : Nat) : (s.setCore i x).rdByte k = s.rdByte k := rfl
@[simp] theorem setCore_queue (s : State) (i : Nat) (x : Core) (t2 h2 : Nat) : (s.setCore i x).queue t2 h2 = s.queue t2 h2 := rfl

/-! ## modCore -/

@[simp] theorem modCore_power (s : State) (i : Nat) (f : Core → Core) : (s.modCore i f).power = s.power := rfl
@[simp] theorem modCore_dieCycle (s : State) (i : Nat) (f : Core → Core) : (s.modCore i f).dieCycle = s.dieCycle := rfl
@[simp] theorem modCore_turn (s : State) (i : Nat) (f : Core → Core) : (s.modCore i f).turn = s.turn := rfl
@[simp] theorem modCore_inputs (s : State) (i : Nat) (f : Core → Core) : (s.modCore i f).inputs = s.inputs := rfl
@[simp] theorem modCore_free (s : State) (i : Nat) (f : Core → Core) : (s.modCore i f).free = s.free := rfl
@[simp] theorem modCore_nextId (s : State) (i : Nat) (f : Core → Core) : (s.modCore i f).nextId = s.nextId := rfl
@[simp] theorem modCore_cur (s : State) (i : Nat) (f : Core → Core) : (s.modCore i f).cur = s.cur := rfl
@[simp] theorem modCore_curVat (s : State) (i : Nat) (f : Core → Core) : (s.modCore i f).curVat = s.curVat := rfl
@[simp] theorem modCore_mem (s : State) (i : Nat) (f : Core → Core) : (s.modCore i f).mem = s.mem := rfl
@[simp] theorem modCore_poison (s : State) (i : Nat) (f : Core → Core) : (s.modCore i f).poison = s.poison := rfl
@[simp] theorem modCore_tags (s : State) (i : Nat) (f : Core → Core) : (s.modCore i f).tags = s.tags := rfl
@[simp] theorem modCore_seats (s : State) (i : Nat) (f : Core → Core) : (s.modCore i f).seats = s.seats := rfl
@[simp] theorem modCore_quads (s : State) (i : Nat) (f : Core → Core) : (s.modCore i f).quads = s.quads := rfl
@[simp] theorem modCore_dies (s : State) (i : Nat) (f : Core → Core) : (s.modCore i f).dies = s.dies := rfl
@[simp] theorem modCore_accs (s : State) (i : Nat) (f : Core → Core) : (s.modCore i f).accs = s.accs := rfl
@[simp] theorem modCore_waits (s : State) (i : Nat) (f : Core → Core) : (s.modCore i f).waits = s.waits := rfl
@[simp] theorem modCore_recs (s : State) (i : Nat) (f : Core → Core) : (s.modCore i f).recs = s.recs := rfl
@[simp] theorem modCore_coaches (s : State) (i : Nat) (f : Core → Core) : (s.modCore i f).coaches = s.coaches := rfl
@[simp] theorem modCore_ctxs (s : State) (i : Nat) (f : Core → Core) : (s.modCore i f).ctxs = s.ctxs := rfl
@[simp] theorem modCore_vats (s : State) (i : Nat) (f : Core → Core) : (s.modCore i f).vats = s.vats := rfl
@[simp] theorem modCore_ports (s : State) (i : Nat) (f : Core → Core) : (s.modCore i f).ports = s.ports := rfl
@[simp] theorem modCore_chip (s : State) (i : Nat) (f : Core → Core) : (s.modCore i f).chip = s.chip := rfl
@[simp] theorem modCore_spad (s : State) (i : Nat) (f : Core → Core) : (s.modCore i f).spad = s.spad := rfl
@[simp] theorem modCore_bootCfg (s : State) (i : Nat) (f : Core → Core) : (s.modCore i f).bootCfg = s.bootCfg := rfl
@[simp] theorem modCore_cdi1 (s : State) (i : Nat) (f : Core → Core) : (s.modCore i f).cdi1 = s.cdi1 := rfl
@[simp] theorem modCore_cdi0 (s : State) (i : Nat) (f : Core → Core) : (s.modCore i f).cdi0 = s.cdi0 := rfl
@[simp] theorem modCore_deviceKey (s : State) (i : Nat) (f : Core → Core) : (s.modCore i f).deviceKey = s.deviceKey := rfl
@[simp] theorem modCore_aliasCert (s : State) (i : Nat) (f : Core → Core) : (s.modCore i f).aliasCert = s.aliasCert := rfl
@[simp] theorem modCore_keySlots (s : State) (i : Nat) (f : Core → Core) : (s.modCore i f).keySlots = s.keySlots := rfl
@[simp] theorem modCore_curds (s : State) (i : Nat) (f : Core → Core) : (s.modCore i f).curds = s.curds := rfl
@[simp] theorem modCore_hostOut (s : State) (i : Nat) (f : Core → Core) : (s.modCore i f).hostOut = s.hostOut := rfl
@[simp] theorem modCore_hostHeld (s : State) (i : Nat) (f : Core → Core) : (s.modCore i f).hostHeld = s.hostHeld := rfl
@[simp] theorem modCore_hostRing (s : State) (i : Nat) (f : Core → Core) : (s.modCore i f).hostRing = s.hostRing := rfl
@[simp] theorem modCore_hostCmds (s : State) (i : Nat) (f : Core → Core) : (s.modCore i f).hostCmds = s.hostCmds := rfl
@[simp] theorem modCore_curdTry (s : State) (i : Nat) (f : Core → Core) : (s.modCore i f).curdTry = s.curdTry := rfl
@[simp] theorem modCore_wire (s : State) (i : Nat) (f : Core → Core) : (s.modCore i f).wire = s.wire := rfl
@[simp] theorem modCore_seat (s : State) (i : Nat) (f : Core → Core) (j : Nat) : (s.modCore i f).seat j = s.seat j := rfl
@[simp] theorem modCore_quad (s : State) (i : Nat) (f : Core → Core) (j : Nat) : (s.modCore i f).quad j = s.quad j := rfl
@[simp] theorem modCore_die (s : State) (i : Nat) (f : Core → Core) (j : Nat) : (s.modCore i f).die j = s.die j := rfl
@[simp] theorem modCore_ctx (s : State) (i : Nat) (f : Core → Core) (j : Nat) : (s.modCore i f).ctx j = s.ctx j := rfl
@[simp] theorem modCore_vat (s : State) (i : Nat) (f : Core → Core) (j : Nat) : (s.modCore i f).vat j = s.vat j := rfl
@[simp] theorem modCore_port (s : State) (i : Nat) (f : Core → Core) (j : Nat) : (s.modCore i f).port j = s.port j := rfl
@[simp] theorem modCore_rdByte (s : State) (i : Nat) (f : Core → Core) (k : Nat) : (s.modCore i f).rdByte k = s.rdByte k := rfl
@[simp] theorem modCore_queue (s : State) (i : Nat) (f : Core → Core) (t2 h2 : Nat) : (s.modCore i f).queue t2 h2 = s.queue t2 h2 := rfl

/-! ## setQuad -/

@[simp] theorem setQuad_power (s : State) (i : Nat) (x : Quad) : (s.setQuad i x).power = s.power := rfl
@[simp] theorem setQuad_dieCycle (s : State) (i : Nat) (x : Quad) : (s.setQuad i x).dieCycle = s.dieCycle := rfl
@[simp] theorem setQuad_turn (s : State) (i : Nat) (x : Quad) : (s.setQuad i x).turn = s.turn := rfl
@[simp] theorem setQuad_inputs (s : State) (i : Nat) (x : Quad) : (s.setQuad i x).inputs = s.inputs := rfl
@[simp] theorem setQuad_free (s : State) (i : Nat) (x : Quad) : (s.setQuad i x).free = s.free := rfl
@[simp] theorem setQuad_nextId (s : State) (i : Nat) (x : Quad) : (s.setQuad i x).nextId = s.nextId := rfl
@[simp] theorem setQuad_cur (s : State) (i : Nat) (x : Quad) : (s.setQuad i x).cur = s.cur := rfl
@[simp] theorem setQuad_curVat (s : State) (i : Nat) (x : Quad) : (s.setQuad i x).curVat = s.curVat := rfl
@[simp] theorem setQuad_mem (s : State) (i : Nat) (x : Quad) : (s.setQuad i x).mem = s.mem := rfl
@[simp] theorem setQuad_poison (s : State) (i : Nat) (x : Quad) : (s.setQuad i x).poison = s.poison := rfl
@[simp] theorem setQuad_tags (s : State) (i : Nat) (x : Quad) : (s.setQuad i x).tags = s.tags := rfl
@[simp] theorem setQuad_seats (s : State) (i : Nat) (x : Quad) : (s.setQuad i x).seats = s.seats := rfl
@[simp] theorem setQuad_cores (s : State) (i : Nat) (x : Quad) : (s.setQuad i x).cores = s.cores := rfl
@[simp] theorem setQuad_dies (s : State) (i : Nat) (x : Quad) : (s.setQuad i x).dies = s.dies := rfl
@[simp] theorem setQuad_accs (s : State) (i : Nat) (x : Quad) : (s.setQuad i x).accs = s.accs := rfl
@[simp] theorem setQuad_waits (s : State) (i : Nat) (x : Quad) : (s.setQuad i x).waits = s.waits := rfl
@[simp] theorem setQuad_recs (s : State) (i : Nat) (x : Quad) : (s.setQuad i x).recs = s.recs := rfl
@[simp] theorem setQuad_coaches (s : State) (i : Nat) (x : Quad) : (s.setQuad i x).coaches = s.coaches := rfl
@[simp] theorem setQuad_ctxs (s : State) (i : Nat) (x : Quad) : (s.setQuad i x).ctxs = s.ctxs := rfl
@[simp] theorem setQuad_vats (s : State) (i : Nat) (x : Quad) : (s.setQuad i x).vats = s.vats := rfl
@[simp] theorem setQuad_ports (s : State) (i : Nat) (x : Quad) : (s.setQuad i x).ports = s.ports := rfl
@[simp] theorem setQuad_chip (s : State) (i : Nat) (x : Quad) : (s.setQuad i x).chip = s.chip := rfl
@[simp] theorem setQuad_spad (s : State) (i : Nat) (x : Quad) : (s.setQuad i x).spad = s.spad := rfl
@[simp] theorem setQuad_bootCfg (s : State) (i : Nat) (x : Quad) : (s.setQuad i x).bootCfg = s.bootCfg := rfl
@[simp] theorem setQuad_cdi1 (s : State) (i : Nat) (x : Quad) : (s.setQuad i x).cdi1 = s.cdi1 := rfl
@[simp] theorem setQuad_cdi0 (s : State) (i : Nat) (x : Quad) : (s.setQuad i x).cdi0 = s.cdi0 := rfl
@[simp] theorem setQuad_deviceKey (s : State) (i : Nat) (x : Quad) : (s.setQuad i x).deviceKey = s.deviceKey := rfl
@[simp] theorem setQuad_aliasCert (s : State) (i : Nat) (x : Quad) : (s.setQuad i x).aliasCert = s.aliasCert := rfl
@[simp] theorem setQuad_keySlots (s : State) (i : Nat) (x : Quad) : (s.setQuad i x).keySlots = s.keySlots := rfl
@[simp] theorem setQuad_curds (s : State) (i : Nat) (x : Quad) : (s.setQuad i x).curds = s.curds := rfl
@[simp] theorem setQuad_hostOut (s : State) (i : Nat) (x : Quad) : (s.setQuad i x).hostOut = s.hostOut := rfl
@[simp] theorem setQuad_hostHeld (s : State) (i : Nat) (x : Quad) : (s.setQuad i x).hostHeld = s.hostHeld := rfl
@[simp] theorem setQuad_hostRing (s : State) (i : Nat) (x : Quad) : (s.setQuad i x).hostRing = s.hostRing := rfl
@[simp] theorem setQuad_hostCmds (s : State) (i : Nat) (x : Quad) : (s.setQuad i x).hostCmds = s.hostCmds := rfl
@[simp] theorem setQuad_curdTry (s : State) (i : Nat) (x : Quad) : (s.setQuad i x).curdTry = s.curdTry := rfl
@[simp] theorem setQuad_wire (s : State) (i : Nat) (x : Quad) : (s.setQuad i x).wire = s.wire := rfl
@[simp] theorem setQuad_seat (s : State) (i : Nat) (x : Quad) (j : Nat) : (s.setQuad i x).seat j = s.seat j := rfl
@[simp] theorem setQuad_core (s : State) (i : Nat) (x : Quad) (j : Nat) : (s.setQuad i x).core j = s.core j := rfl
@[simp] theorem setQuad_die (s : State) (i : Nat) (x : Quad) (j : Nat) : (s.setQuad i x).die j = s.die j := rfl
@[simp] theorem setQuad_ctx (s : State) (i : Nat) (x : Quad) (j : Nat) : (s.setQuad i x).ctx j = s.ctx j := rfl
@[simp] theorem setQuad_vat (s : State) (i : Nat) (x : Quad) (j : Nat) : (s.setQuad i x).vat j = s.vat j := rfl
@[simp] theorem setQuad_port (s : State) (i : Nat) (x : Quad) (j : Nat) : (s.setQuad i x).port j = s.port j := rfl
@[simp] theorem setQuad_rdByte (s : State) (i : Nat) (x : Quad) (k : Nat) : (s.setQuad i x).rdByte k = s.rdByte k := rfl
@[simp] theorem setQuad_queue (s : State) (i : Nat) (x : Quad) (t2 h2 : Nat) : (s.setQuad i x).queue t2 h2 = s.queue t2 h2 := rfl

/-! ## modQuad -/

@[simp] theorem modQuad_power (s : State) (i : Nat) (f : Quad → Quad) : (s.modQuad i f).power = s.power := rfl
@[simp] theorem modQuad_dieCycle (s : State) (i : Nat) (f : Quad → Quad) : (s.modQuad i f).dieCycle = s.dieCycle := rfl
@[simp] theorem modQuad_turn (s : State) (i : Nat) (f : Quad → Quad) : (s.modQuad i f).turn = s.turn := rfl
@[simp] theorem modQuad_inputs (s : State) (i : Nat) (f : Quad → Quad) : (s.modQuad i f).inputs = s.inputs := rfl
@[simp] theorem modQuad_free (s : State) (i : Nat) (f : Quad → Quad) : (s.modQuad i f).free = s.free := rfl
@[simp] theorem modQuad_nextId (s : State) (i : Nat) (f : Quad → Quad) : (s.modQuad i f).nextId = s.nextId := rfl
@[simp] theorem modQuad_cur (s : State) (i : Nat) (f : Quad → Quad) : (s.modQuad i f).cur = s.cur := rfl
@[simp] theorem modQuad_curVat (s : State) (i : Nat) (f : Quad → Quad) : (s.modQuad i f).curVat = s.curVat := rfl
@[simp] theorem modQuad_mem (s : State) (i : Nat) (f : Quad → Quad) : (s.modQuad i f).mem = s.mem := rfl
@[simp] theorem modQuad_poison (s : State) (i : Nat) (f : Quad → Quad) : (s.modQuad i f).poison = s.poison := rfl
@[simp] theorem modQuad_tags (s : State) (i : Nat) (f : Quad → Quad) : (s.modQuad i f).tags = s.tags := rfl
@[simp] theorem modQuad_seats (s : State) (i : Nat) (f : Quad → Quad) : (s.modQuad i f).seats = s.seats := rfl
@[simp] theorem modQuad_cores (s : State) (i : Nat) (f : Quad → Quad) : (s.modQuad i f).cores = s.cores := rfl
@[simp] theorem modQuad_dies (s : State) (i : Nat) (f : Quad → Quad) : (s.modQuad i f).dies = s.dies := rfl
@[simp] theorem modQuad_accs (s : State) (i : Nat) (f : Quad → Quad) : (s.modQuad i f).accs = s.accs := rfl
@[simp] theorem modQuad_waits (s : State) (i : Nat) (f : Quad → Quad) : (s.modQuad i f).waits = s.waits := rfl
@[simp] theorem modQuad_recs (s : State) (i : Nat) (f : Quad → Quad) : (s.modQuad i f).recs = s.recs := rfl
@[simp] theorem modQuad_coaches (s : State) (i : Nat) (f : Quad → Quad) : (s.modQuad i f).coaches = s.coaches := rfl
@[simp] theorem modQuad_ctxs (s : State) (i : Nat) (f : Quad → Quad) : (s.modQuad i f).ctxs = s.ctxs := rfl
@[simp] theorem modQuad_vats (s : State) (i : Nat) (f : Quad → Quad) : (s.modQuad i f).vats = s.vats := rfl
@[simp] theorem modQuad_ports (s : State) (i : Nat) (f : Quad → Quad) : (s.modQuad i f).ports = s.ports := rfl
@[simp] theorem modQuad_chip (s : State) (i : Nat) (f : Quad → Quad) : (s.modQuad i f).chip = s.chip := rfl
@[simp] theorem modQuad_spad (s : State) (i : Nat) (f : Quad → Quad) : (s.modQuad i f).spad = s.spad := rfl
@[simp] theorem modQuad_bootCfg (s : State) (i : Nat) (f : Quad → Quad) : (s.modQuad i f).bootCfg = s.bootCfg := rfl
@[simp] theorem modQuad_cdi1 (s : State) (i : Nat) (f : Quad → Quad) : (s.modQuad i f).cdi1 = s.cdi1 := rfl
@[simp] theorem modQuad_cdi0 (s : State) (i : Nat) (f : Quad → Quad) : (s.modQuad i f).cdi0 = s.cdi0 := rfl
@[simp] theorem modQuad_deviceKey (s : State) (i : Nat) (f : Quad → Quad) : (s.modQuad i f).deviceKey = s.deviceKey := rfl
@[simp] theorem modQuad_aliasCert (s : State) (i : Nat) (f : Quad → Quad) : (s.modQuad i f).aliasCert = s.aliasCert := rfl
@[simp] theorem modQuad_keySlots (s : State) (i : Nat) (f : Quad → Quad) : (s.modQuad i f).keySlots = s.keySlots := rfl
@[simp] theorem modQuad_curds (s : State) (i : Nat) (f : Quad → Quad) : (s.modQuad i f).curds = s.curds := rfl
@[simp] theorem modQuad_hostOut (s : State) (i : Nat) (f : Quad → Quad) : (s.modQuad i f).hostOut = s.hostOut := rfl
@[simp] theorem modQuad_hostHeld (s : State) (i : Nat) (f : Quad → Quad) : (s.modQuad i f).hostHeld = s.hostHeld := rfl
@[simp] theorem modQuad_hostRing (s : State) (i : Nat) (f : Quad → Quad) : (s.modQuad i f).hostRing = s.hostRing := rfl
@[simp] theorem modQuad_hostCmds (s : State) (i : Nat) (f : Quad → Quad) : (s.modQuad i f).hostCmds = s.hostCmds := rfl
@[simp] theorem modQuad_curdTry (s : State) (i : Nat) (f : Quad → Quad) : (s.modQuad i f).curdTry = s.curdTry := rfl
@[simp] theorem modQuad_wire (s : State) (i : Nat) (f : Quad → Quad) : (s.modQuad i f).wire = s.wire := rfl
@[simp] theorem modQuad_seat (s : State) (i : Nat) (f : Quad → Quad) (j : Nat) : (s.modQuad i f).seat j = s.seat j := rfl
@[simp] theorem modQuad_core (s : State) (i : Nat) (f : Quad → Quad) (j : Nat) : (s.modQuad i f).core j = s.core j := rfl
@[simp] theorem modQuad_die (s : State) (i : Nat) (f : Quad → Quad) (j : Nat) : (s.modQuad i f).die j = s.die j := rfl
@[simp] theorem modQuad_ctx (s : State) (i : Nat) (f : Quad → Quad) (j : Nat) : (s.modQuad i f).ctx j = s.ctx j := rfl
@[simp] theorem modQuad_vat (s : State) (i : Nat) (f : Quad → Quad) (j : Nat) : (s.modQuad i f).vat j = s.vat j := rfl
@[simp] theorem modQuad_port (s : State) (i : Nat) (f : Quad → Quad) (j : Nat) : (s.modQuad i f).port j = s.port j := rfl
@[simp] theorem modQuad_rdByte (s : State) (i : Nat) (f : Quad → Quad) (k : Nat) : (s.modQuad i f).rdByte k = s.rdByte k := rfl
@[simp] theorem modQuad_queue (s : State) (i : Nat) (f : Quad → Quad) (t2 h2 : Nat) : (s.modQuad i f).queue t2 h2 = s.queue t2 h2 := rfl

/-! ## modArr -/

@[simp] theorem modArr_power (s : State) (i : Nat) (f : Arr → Arr) : (s.modArr i f).power = s.power := rfl
@[simp] theorem modArr_dieCycle (s : State) (i : Nat) (f : Arr → Arr) : (s.modArr i f).dieCycle = s.dieCycle := rfl
@[simp] theorem modArr_turn (s : State) (i : Nat) (f : Arr → Arr) : (s.modArr i f).turn = s.turn := rfl
@[simp] theorem modArr_inputs (s : State) (i : Nat) (f : Arr → Arr) : (s.modArr i f).inputs = s.inputs := rfl
@[simp] theorem modArr_free (s : State) (i : Nat) (f : Arr → Arr) : (s.modArr i f).free = s.free := rfl
@[simp] theorem modArr_nextId (s : State) (i : Nat) (f : Arr → Arr) : (s.modArr i f).nextId = s.nextId := rfl
@[simp] theorem modArr_cur (s : State) (i : Nat) (f : Arr → Arr) : (s.modArr i f).cur = s.cur := rfl
@[simp] theorem modArr_curVat (s : State) (i : Nat) (f : Arr → Arr) : (s.modArr i f).curVat = s.curVat := rfl
@[simp] theorem modArr_mem (s : State) (i : Nat) (f : Arr → Arr) : (s.modArr i f).mem = s.mem := rfl
@[simp] theorem modArr_poison (s : State) (i : Nat) (f : Arr → Arr) : (s.modArr i f).poison = s.poison := rfl
@[simp] theorem modArr_tags (s : State) (i : Nat) (f : Arr → Arr) : (s.modArr i f).tags = s.tags := rfl
@[simp] theorem modArr_seats (s : State) (i : Nat) (f : Arr → Arr) : (s.modArr i f).seats = s.seats := rfl
@[simp] theorem modArr_cores (s : State) (i : Nat) (f : Arr → Arr) : (s.modArr i f).cores = s.cores := rfl
@[simp] theorem modArr_dies (s : State) (i : Nat) (f : Arr → Arr) : (s.modArr i f).dies = s.dies := rfl
@[simp] theorem modArr_accs (s : State) (i : Nat) (f : Arr → Arr) : (s.modArr i f).accs = s.accs := rfl
@[simp] theorem modArr_waits (s : State) (i : Nat) (f : Arr → Arr) : (s.modArr i f).waits = s.waits := rfl
@[simp] theorem modArr_recs (s : State) (i : Nat) (f : Arr → Arr) : (s.modArr i f).recs = s.recs := rfl
@[simp] theorem modArr_coaches (s : State) (i : Nat) (f : Arr → Arr) : (s.modArr i f).coaches = s.coaches := rfl
@[simp] theorem modArr_ctxs (s : State) (i : Nat) (f : Arr → Arr) : (s.modArr i f).ctxs = s.ctxs := rfl
@[simp] theorem modArr_vats (s : State) (i : Nat) (f : Arr → Arr) : (s.modArr i f).vats = s.vats := rfl
@[simp] theorem modArr_ports (s : State) (i : Nat) (f : Arr → Arr) : (s.modArr i f).ports = s.ports := rfl
@[simp] theorem modArr_chip (s : State) (i : Nat) (f : Arr → Arr) : (s.modArr i f).chip = s.chip := rfl
@[simp] theorem modArr_spad (s : State) (i : Nat) (f : Arr → Arr) : (s.modArr i f).spad = s.spad := rfl
@[simp] theorem modArr_bootCfg (s : State) (i : Nat) (f : Arr → Arr) : (s.modArr i f).bootCfg = s.bootCfg := rfl
@[simp] theorem modArr_cdi1 (s : State) (i : Nat) (f : Arr → Arr) : (s.modArr i f).cdi1 = s.cdi1 := rfl
@[simp] theorem modArr_cdi0 (s : State) (i : Nat) (f : Arr → Arr) : (s.modArr i f).cdi0 = s.cdi0 := rfl
@[simp] theorem modArr_deviceKey (s : State) (i : Nat) (f : Arr → Arr) : (s.modArr i f).deviceKey = s.deviceKey := rfl
@[simp] theorem modArr_aliasCert (s : State) (i : Nat) (f : Arr → Arr) : (s.modArr i f).aliasCert = s.aliasCert := rfl
@[simp] theorem modArr_keySlots (s : State) (i : Nat) (f : Arr → Arr) : (s.modArr i f).keySlots = s.keySlots := rfl
@[simp] theorem modArr_curds (s : State) (i : Nat) (f : Arr → Arr) : (s.modArr i f).curds = s.curds := rfl
@[simp] theorem modArr_hostOut (s : State) (i : Nat) (f : Arr → Arr) : (s.modArr i f).hostOut = s.hostOut := rfl
@[simp] theorem modArr_hostHeld (s : State) (i : Nat) (f : Arr → Arr) : (s.modArr i f).hostHeld = s.hostHeld := rfl
@[simp] theorem modArr_hostRing (s : State) (i : Nat) (f : Arr → Arr) : (s.modArr i f).hostRing = s.hostRing := rfl
@[simp] theorem modArr_hostCmds (s : State) (i : Nat) (f : Arr → Arr) : (s.modArr i f).hostCmds = s.hostCmds := rfl
@[simp] theorem modArr_curdTry (s : State) (i : Nat) (f : Arr → Arr) : (s.modArr i f).curdTry = s.curdTry := rfl
@[simp] theorem modArr_wire (s : State) (i : Nat) (f : Arr → Arr) : (s.modArr i f).wire = s.wire := rfl
@[simp] theorem modArr_seat (s : State) (i : Nat) (f : Arr → Arr) (j : Nat) : (s.modArr i f).seat j = s.seat j := rfl
@[simp] theorem modArr_core (s : State) (i : Nat) (f : Arr → Arr) (j : Nat) : (s.modArr i f).core j = s.core j := rfl
@[simp] theorem modArr_die (s : State) (i : Nat) (f : Arr → Arr) (j : Nat) : (s.modArr i f).die j = s.die j := rfl
@[simp] theorem modArr_ctx (s : State) (i : Nat) (f : Arr → Arr) (j : Nat) : (s.modArr i f).ctx j = s.ctx j := rfl
@[simp] theorem modArr_vat (s : State) (i : Nat) (f : Arr → Arr) (j : Nat) : (s.modArr i f).vat j = s.vat j := rfl
@[simp] theorem modArr_port (s : State) (i : Nat) (f : Arr → Arr) (j : Nat) : (s.modArr i f).port j = s.port j := rfl
@[simp] theorem modArr_rdByte (s : State) (i : Nat) (f : Arr → Arr) (k : Nat) : (s.modArr i f).rdByte k = s.rdByte k := rfl
@[simp] theorem modArr_queue (s : State) (i : Nat) (f : Arr → Arr) (t2 h2 : Nat) : (s.modArr i f).queue t2 h2 = s.queue t2 h2 := rfl

/-! ## setDie -/

@[simp] theorem setDie_power (s : State) (i : Nat) (x : Die) : (s.setDie i x).power = s.power := rfl
@[simp] theorem setDie_dieCycle (s : State) (i : Nat) (x : Die) : (s.setDie i x).dieCycle = s.dieCycle := rfl
@[simp] theorem setDie_turn (s : State) (i : Nat) (x : Die) : (s.setDie i x).turn = s.turn := rfl
@[simp] theorem setDie_inputs (s : State) (i : Nat) (x : Die) : (s.setDie i x).inputs = s.inputs := rfl
@[simp] theorem setDie_free (s : State) (i : Nat) (x : Die) : (s.setDie i x).free = s.free := rfl
@[simp] theorem setDie_nextId (s : State) (i : Nat) (x : Die) : (s.setDie i x).nextId = s.nextId := rfl
@[simp] theorem setDie_cur (s : State) (i : Nat) (x : Die) : (s.setDie i x).cur = s.cur := rfl
@[simp] theorem setDie_curVat (s : State) (i : Nat) (x : Die) : (s.setDie i x).curVat = s.curVat := rfl
@[simp] theorem setDie_mem (s : State) (i : Nat) (x : Die) : (s.setDie i x).mem = s.mem := rfl
@[simp] theorem setDie_poison (s : State) (i : Nat) (x : Die) : (s.setDie i x).poison = s.poison := rfl
@[simp] theorem setDie_tags (s : State) (i : Nat) (x : Die) : (s.setDie i x).tags = s.tags := rfl
@[simp] theorem setDie_seats (s : State) (i : Nat) (x : Die) : (s.setDie i x).seats = s.seats := rfl
@[simp] theorem setDie_cores (s : State) (i : Nat) (x : Die) : (s.setDie i x).cores = s.cores := rfl
@[simp] theorem setDie_quads (s : State) (i : Nat) (x : Die) : (s.setDie i x).quads = s.quads := rfl
@[simp] theorem setDie_accs (s : State) (i : Nat) (x : Die) : (s.setDie i x).accs = s.accs := rfl
@[simp] theorem setDie_waits (s : State) (i : Nat) (x : Die) : (s.setDie i x).waits = s.waits := rfl
@[simp] theorem setDie_recs (s : State) (i : Nat) (x : Die) : (s.setDie i x).recs = s.recs := rfl
@[simp] theorem setDie_coaches (s : State) (i : Nat) (x : Die) : (s.setDie i x).coaches = s.coaches := rfl
@[simp] theorem setDie_ctxs (s : State) (i : Nat) (x : Die) : (s.setDie i x).ctxs = s.ctxs := rfl
@[simp] theorem setDie_vats (s : State) (i : Nat) (x : Die) : (s.setDie i x).vats = s.vats := rfl
@[simp] theorem setDie_ports (s : State) (i : Nat) (x : Die) : (s.setDie i x).ports = s.ports := rfl
@[simp] theorem setDie_chip (s : State) (i : Nat) (x : Die) : (s.setDie i x).chip = s.chip := rfl
@[simp] theorem setDie_spad (s : State) (i : Nat) (x : Die) : (s.setDie i x).spad = s.spad := rfl
@[simp] theorem setDie_bootCfg (s : State) (i : Nat) (x : Die) : (s.setDie i x).bootCfg = s.bootCfg := rfl
@[simp] theorem setDie_cdi1 (s : State) (i : Nat) (x : Die) : (s.setDie i x).cdi1 = s.cdi1 := rfl
@[simp] theorem setDie_cdi0 (s : State) (i : Nat) (x : Die) : (s.setDie i x).cdi0 = s.cdi0 := rfl
@[simp] theorem setDie_deviceKey (s : State) (i : Nat) (x : Die) : (s.setDie i x).deviceKey = s.deviceKey := rfl
@[simp] theorem setDie_aliasCert (s : State) (i : Nat) (x : Die) : (s.setDie i x).aliasCert = s.aliasCert := rfl
@[simp] theorem setDie_keySlots (s : State) (i : Nat) (x : Die) : (s.setDie i x).keySlots = s.keySlots := rfl
@[simp] theorem setDie_curds (s : State) (i : Nat) (x : Die) : (s.setDie i x).curds = s.curds := rfl
@[simp] theorem setDie_hostOut (s : State) (i : Nat) (x : Die) : (s.setDie i x).hostOut = s.hostOut := rfl
@[simp] theorem setDie_hostHeld (s : State) (i : Nat) (x : Die) : (s.setDie i x).hostHeld = s.hostHeld := rfl
@[simp] theorem setDie_hostRing (s : State) (i : Nat) (x : Die) : (s.setDie i x).hostRing = s.hostRing := rfl
@[simp] theorem setDie_hostCmds (s : State) (i : Nat) (x : Die) : (s.setDie i x).hostCmds = s.hostCmds := rfl
@[simp] theorem setDie_curdTry (s : State) (i : Nat) (x : Die) : (s.setDie i x).curdTry = s.curdTry := rfl
@[simp] theorem setDie_wire (s : State) (i : Nat) (x : Die) : (s.setDie i x).wire = s.wire := rfl
@[simp] theorem setDie_seat (s : State) (i : Nat) (x : Die) (j : Nat) : (s.setDie i x).seat j = s.seat j := rfl
@[simp] theorem setDie_core (s : State) (i : Nat) (x : Die) (j : Nat) : (s.setDie i x).core j = s.core j := rfl
@[simp] theorem setDie_quad (s : State) (i : Nat) (x : Die) (j : Nat) : (s.setDie i x).quad j = s.quad j := rfl
@[simp] theorem setDie_ctx (s : State) (i : Nat) (x : Die) (j : Nat) : (s.setDie i x).ctx j = s.ctx j := rfl
@[simp] theorem setDie_vat (s : State) (i : Nat) (x : Die) (j : Nat) : (s.setDie i x).vat j = s.vat j := rfl
@[simp] theorem setDie_port (s : State) (i : Nat) (x : Die) (j : Nat) : (s.setDie i x).port j = s.port j := rfl
@[simp] theorem setDie_rdByte (s : State) (i : Nat) (x : Die) (k : Nat) : (s.setDie i x).rdByte k = s.rdByte k := rfl
@[simp] theorem setDie_queue (s : State) (i : Nat) (x : Die) (t2 h2 : Nat) : (s.setDie i x).queue t2 h2 = s.queue t2 h2 := rfl

/-! ## modDie -/

@[simp] theorem modDie_power (s : State) (i : Nat) (f : Die → Die) : (s.modDie i f).power = s.power := rfl
@[simp] theorem modDie_dieCycle (s : State) (i : Nat) (f : Die → Die) : (s.modDie i f).dieCycle = s.dieCycle := rfl
@[simp] theorem modDie_turn (s : State) (i : Nat) (f : Die → Die) : (s.modDie i f).turn = s.turn := rfl
@[simp] theorem modDie_inputs (s : State) (i : Nat) (f : Die → Die) : (s.modDie i f).inputs = s.inputs := rfl
@[simp] theorem modDie_free (s : State) (i : Nat) (f : Die → Die) : (s.modDie i f).free = s.free := rfl
@[simp] theorem modDie_nextId (s : State) (i : Nat) (f : Die → Die) : (s.modDie i f).nextId = s.nextId := rfl
@[simp] theorem modDie_cur (s : State) (i : Nat) (f : Die → Die) : (s.modDie i f).cur = s.cur := rfl
@[simp] theorem modDie_curVat (s : State) (i : Nat) (f : Die → Die) : (s.modDie i f).curVat = s.curVat := rfl
@[simp] theorem modDie_mem (s : State) (i : Nat) (f : Die → Die) : (s.modDie i f).mem = s.mem := rfl
@[simp] theorem modDie_poison (s : State) (i : Nat) (f : Die → Die) : (s.modDie i f).poison = s.poison := rfl
@[simp] theorem modDie_tags (s : State) (i : Nat) (f : Die → Die) : (s.modDie i f).tags = s.tags := rfl
@[simp] theorem modDie_seats (s : State) (i : Nat) (f : Die → Die) : (s.modDie i f).seats = s.seats := rfl
@[simp] theorem modDie_cores (s : State) (i : Nat) (f : Die → Die) : (s.modDie i f).cores = s.cores := rfl
@[simp] theorem modDie_quads (s : State) (i : Nat) (f : Die → Die) : (s.modDie i f).quads = s.quads := rfl
@[simp] theorem modDie_accs (s : State) (i : Nat) (f : Die → Die) : (s.modDie i f).accs = s.accs := rfl
@[simp] theorem modDie_waits (s : State) (i : Nat) (f : Die → Die) : (s.modDie i f).waits = s.waits := rfl
@[simp] theorem modDie_recs (s : State) (i : Nat) (f : Die → Die) : (s.modDie i f).recs = s.recs := rfl
@[simp] theorem modDie_coaches (s : State) (i : Nat) (f : Die → Die) : (s.modDie i f).coaches = s.coaches := rfl
@[simp] theorem modDie_ctxs (s : State) (i : Nat) (f : Die → Die) : (s.modDie i f).ctxs = s.ctxs := rfl
@[simp] theorem modDie_vats (s : State) (i : Nat) (f : Die → Die) : (s.modDie i f).vats = s.vats := rfl
@[simp] theorem modDie_ports (s : State) (i : Nat) (f : Die → Die) : (s.modDie i f).ports = s.ports := rfl
@[simp] theorem modDie_chip (s : State) (i : Nat) (f : Die → Die) : (s.modDie i f).chip = s.chip := rfl
@[simp] theorem modDie_spad (s : State) (i : Nat) (f : Die → Die) : (s.modDie i f).spad = s.spad := rfl
@[simp] theorem modDie_bootCfg (s : State) (i : Nat) (f : Die → Die) : (s.modDie i f).bootCfg = s.bootCfg := rfl
@[simp] theorem modDie_cdi1 (s : State) (i : Nat) (f : Die → Die) : (s.modDie i f).cdi1 = s.cdi1 := rfl
@[simp] theorem modDie_cdi0 (s : State) (i : Nat) (f : Die → Die) : (s.modDie i f).cdi0 = s.cdi0 := rfl
@[simp] theorem modDie_deviceKey (s : State) (i : Nat) (f : Die → Die) : (s.modDie i f).deviceKey = s.deviceKey := rfl
@[simp] theorem modDie_aliasCert (s : State) (i : Nat) (f : Die → Die) : (s.modDie i f).aliasCert = s.aliasCert := rfl
@[simp] theorem modDie_keySlots (s : State) (i : Nat) (f : Die → Die) : (s.modDie i f).keySlots = s.keySlots := rfl
@[simp] theorem modDie_curds (s : State) (i : Nat) (f : Die → Die) : (s.modDie i f).curds = s.curds := rfl
@[simp] theorem modDie_hostOut (s : State) (i : Nat) (f : Die → Die) : (s.modDie i f).hostOut = s.hostOut := rfl
@[simp] theorem modDie_hostHeld (s : State) (i : Nat) (f : Die → Die) : (s.modDie i f).hostHeld = s.hostHeld := rfl
@[simp] theorem modDie_hostRing (s : State) (i : Nat) (f : Die → Die) : (s.modDie i f).hostRing = s.hostRing := rfl
@[simp] theorem modDie_hostCmds (s : State) (i : Nat) (f : Die → Die) : (s.modDie i f).hostCmds = s.hostCmds := rfl
@[simp] theorem modDie_curdTry (s : State) (i : Nat) (f : Die → Die) : (s.modDie i f).curdTry = s.curdTry := rfl
@[simp] theorem modDie_wire (s : State) (i : Nat) (f : Die → Die) : (s.modDie i f).wire = s.wire := rfl
@[simp] theorem modDie_seat (s : State) (i : Nat) (f : Die → Die) (j : Nat) : (s.modDie i f).seat j = s.seat j := rfl
@[simp] theorem modDie_core (s : State) (i : Nat) (f : Die → Die) (j : Nat) : (s.modDie i f).core j = s.core j := rfl
@[simp] theorem modDie_quad (s : State) (i : Nat) (f : Die → Die) (j : Nat) : (s.modDie i f).quad j = s.quad j := rfl
@[simp] theorem modDie_ctx (s : State) (i : Nat) (f : Die → Die) (j : Nat) : (s.modDie i f).ctx j = s.ctx j := rfl
@[simp] theorem modDie_vat (s : State) (i : Nat) (f : Die → Die) (j : Nat) : (s.modDie i f).vat j = s.vat j := rfl
@[simp] theorem modDie_port (s : State) (i : Nat) (f : Die → Die) (j : Nat) : (s.modDie i f).port j = s.port j := rfl
@[simp] theorem modDie_rdByte (s : State) (i : Nat) (f : Die → Die) (k : Nat) : (s.modDie i f).rdByte k = s.rdByte k := rfl
@[simp] theorem modDie_queue (s : State) (i : Nat) (f : Die → Die) (t2 h2 : Nat) : (s.modDie i f).queue t2 h2 = s.queue t2 h2 := rfl

/-! ## setCtx -/

@[simp] theorem setCtx_power (s : State) (t : Nat) (x : Ctx) : (s.setCtx t x).power = s.power := rfl
@[simp] theorem setCtx_dieCycle (s : State) (t : Nat) (x : Ctx) : (s.setCtx t x).dieCycle = s.dieCycle := rfl
@[simp] theorem setCtx_turn (s : State) (t : Nat) (x : Ctx) : (s.setCtx t x).turn = s.turn := rfl
@[simp] theorem setCtx_inputs (s : State) (t : Nat) (x : Ctx) : (s.setCtx t x).inputs = s.inputs := rfl
@[simp] theorem setCtx_free (s : State) (t : Nat) (x : Ctx) : (s.setCtx t x).free = s.free := rfl
@[simp] theorem setCtx_nextId (s : State) (t : Nat) (x : Ctx) : (s.setCtx t x).nextId = s.nextId := rfl
@[simp] theorem setCtx_cur (s : State) (t : Nat) (x : Ctx) : (s.setCtx t x).cur = s.cur := rfl
@[simp] theorem setCtx_curVat (s : State) (t : Nat) (x : Ctx) : (s.setCtx t x).curVat = s.curVat := rfl
@[simp] theorem setCtx_mem (s : State) (t : Nat) (x : Ctx) : (s.setCtx t x).mem = s.mem := rfl
@[simp] theorem setCtx_poison (s : State) (t : Nat) (x : Ctx) : (s.setCtx t x).poison = s.poison := rfl
@[simp] theorem setCtx_tags (s : State) (t : Nat) (x : Ctx) : (s.setCtx t x).tags = s.tags := rfl
@[simp] theorem setCtx_seats (s : State) (t : Nat) (x : Ctx) : (s.setCtx t x).seats = s.seats := rfl
@[simp] theorem setCtx_cores (s : State) (t : Nat) (x : Ctx) : (s.setCtx t x).cores = s.cores := rfl
@[simp] theorem setCtx_quads (s : State) (t : Nat) (x : Ctx) : (s.setCtx t x).quads = s.quads := rfl
@[simp] theorem setCtx_dies (s : State) (t : Nat) (x : Ctx) : (s.setCtx t x).dies = s.dies := rfl
@[simp] theorem setCtx_accs (s : State) (t : Nat) (x : Ctx) : (s.setCtx t x).accs = s.accs := rfl
@[simp] theorem setCtx_waits (s : State) (t : Nat) (x : Ctx) : (s.setCtx t x).waits = s.waits := rfl
@[simp] theorem setCtx_recs (s : State) (t : Nat) (x : Ctx) : (s.setCtx t x).recs = s.recs := rfl
@[simp] theorem setCtx_coaches (s : State) (t : Nat) (x : Ctx) : (s.setCtx t x).coaches = s.coaches := rfl
@[simp] theorem setCtx_vats (s : State) (t : Nat) (x : Ctx) : (s.setCtx t x).vats = s.vats := rfl
@[simp] theorem setCtx_ports (s : State) (t : Nat) (x : Ctx) : (s.setCtx t x).ports = s.ports := rfl
@[simp] theorem setCtx_chip (s : State) (t : Nat) (x : Ctx) : (s.setCtx t x).chip = s.chip := rfl
@[simp] theorem setCtx_spad (s : State) (t : Nat) (x : Ctx) : (s.setCtx t x).spad = s.spad := rfl
@[simp] theorem setCtx_bootCfg (s : State) (t : Nat) (x : Ctx) : (s.setCtx t x).bootCfg = s.bootCfg := rfl
@[simp] theorem setCtx_cdi1 (s : State) (t : Nat) (x : Ctx) : (s.setCtx t x).cdi1 = s.cdi1 := rfl
@[simp] theorem setCtx_cdi0 (s : State) (t : Nat) (x : Ctx) : (s.setCtx t x).cdi0 = s.cdi0 := rfl
@[simp] theorem setCtx_deviceKey (s : State) (t : Nat) (x : Ctx) : (s.setCtx t x).deviceKey = s.deviceKey := rfl
@[simp] theorem setCtx_aliasCert (s : State) (t : Nat) (x : Ctx) : (s.setCtx t x).aliasCert = s.aliasCert := rfl
@[simp] theorem setCtx_keySlots (s : State) (t : Nat) (x : Ctx) : (s.setCtx t x).keySlots = s.keySlots := rfl
@[simp] theorem setCtx_curds (s : State) (t : Nat) (x : Ctx) : (s.setCtx t x).curds = s.curds := rfl
@[simp] theorem setCtx_hostOut (s : State) (t : Nat) (x : Ctx) : (s.setCtx t x).hostOut = s.hostOut := rfl
@[simp] theorem setCtx_hostHeld (s : State) (t : Nat) (x : Ctx) : (s.setCtx t x).hostHeld = s.hostHeld := rfl
@[simp] theorem setCtx_hostRing (s : State) (t : Nat) (x : Ctx) : (s.setCtx t x).hostRing = s.hostRing := rfl
@[simp] theorem setCtx_hostCmds (s : State) (t : Nat) (x : Ctx) : (s.setCtx t x).hostCmds = s.hostCmds := rfl
@[simp] theorem setCtx_curdTry (s : State) (t : Nat) (x : Ctx) : (s.setCtx t x).curdTry = s.curdTry := rfl
@[simp] theorem setCtx_wire (s : State) (t : Nat) (x : Ctx) : (s.setCtx t x).wire = s.wire := rfl
@[simp] theorem setCtx_seat (s : State) (t : Nat) (x : Ctx) (j : Nat) : (s.setCtx t x).seat j = s.seat j := rfl
@[simp] theorem setCtx_core (s : State) (t : Nat) (x : Ctx) (j : Nat) : (s.setCtx t x).core j = s.core j := rfl
@[simp] theorem setCtx_quad (s : State) (t : Nat) (x : Ctx) (j : Nat) : (s.setCtx t x).quad j = s.quad j := rfl
@[simp] theorem setCtx_die (s : State) (t : Nat) (x : Ctx) (j : Nat) : (s.setCtx t x).die j = s.die j := rfl
@[simp] theorem setCtx_vat (s : State) (t : Nat) (x : Ctx) (j : Nat) : (s.setCtx t x).vat j = s.vat j := rfl
@[simp] theorem setCtx_port (s : State) (t : Nat) (x : Ctx) (j : Nat) : (s.setCtx t x).port j = s.port j := rfl
@[simp] theorem setCtx_rdByte (s : State) (t : Nat) (x : Ctx) (k : Nat) : (s.setCtx t x).rdByte k = s.rdByte k := rfl

/-! ## modCtx -/

@[simp] theorem modCtx_power (s : State) (t : Nat) (f : Ctx → Ctx) : (s.modCtx t f).power = s.power := rfl
@[simp] theorem modCtx_dieCycle (s : State) (t : Nat) (f : Ctx → Ctx) : (s.modCtx t f).dieCycle = s.dieCycle := rfl
@[simp] theorem modCtx_turn (s : State) (t : Nat) (f : Ctx → Ctx) : (s.modCtx t f).turn = s.turn := rfl
@[simp] theorem modCtx_inputs (s : State) (t : Nat) (f : Ctx → Ctx) : (s.modCtx t f).inputs = s.inputs := rfl
@[simp] theorem modCtx_free (s : State) (t : Nat) (f : Ctx → Ctx) : (s.modCtx t f).free = s.free := rfl
@[simp] theorem modCtx_nextId (s : State) (t : Nat) (f : Ctx → Ctx) : (s.modCtx t f).nextId = s.nextId := rfl
@[simp] theorem modCtx_cur (s : State) (t : Nat) (f : Ctx → Ctx) : (s.modCtx t f).cur = s.cur := rfl
@[simp] theorem modCtx_curVat (s : State) (t : Nat) (f : Ctx → Ctx) : (s.modCtx t f).curVat = s.curVat := rfl
@[simp] theorem modCtx_mem (s : State) (t : Nat) (f : Ctx → Ctx) : (s.modCtx t f).mem = s.mem := rfl
@[simp] theorem modCtx_poison (s : State) (t : Nat) (f : Ctx → Ctx) : (s.modCtx t f).poison = s.poison := rfl
@[simp] theorem modCtx_tags (s : State) (t : Nat) (f : Ctx → Ctx) : (s.modCtx t f).tags = s.tags := rfl
@[simp] theorem modCtx_seats (s : State) (t : Nat) (f : Ctx → Ctx) : (s.modCtx t f).seats = s.seats := rfl
@[simp] theorem modCtx_cores (s : State) (t : Nat) (f : Ctx → Ctx) : (s.modCtx t f).cores = s.cores := rfl
@[simp] theorem modCtx_quads (s : State) (t : Nat) (f : Ctx → Ctx) : (s.modCtx t f).quads = s.quads := rfl
@[simp] theorem modCtx_dies (s : State) (t : Nat) (f : Ctx → Ctx) : (s.modCtx t f).dies = s.dies := rfl
@[simp] theorem modCtx_accs (s : State) (t : Nat) (f : Ctx → Ctx) : (s.modCtx t f).accs = s.accs := rfl
@[simp] theorem modCtx_waits (s : State) (t : Nat) (f : Ctx → Ctx) : (s.modCtx t f).waits = s.waits := rfl
@[simp] theorem modCtx_recs (s : State) (t : Nat) (f : Ctx → Ctx) : (s.modCtx t f).recs = s.recs := rfl
@[simp] theorem modCtx_coaches (s : State) (t : Nat) (f : Ctx → Ctx) : (s.modCtx t f).coaches = s.coaches := rfl
@[simp] theorem modCtx_vats (s : State) (t : Nat) (f : Ctx → Ctx) : (s.modCtx t f).vats = s.vats := rfl
@[simp] theorem modCtx_ports (s : State) (t : Nat) (f : Ctx → Ctx) : (s.modCtx t f).ports = s.ports := rfl
@[simp] theorem modCtx_chip (s : State) (t : Nat) (f : Ctx → Ctx) : (s.modCtx t f).chip = s.chip := rfl
@[simp] theorem modCtx_spad (s : State) (t : Nat) (f : Ctx → Ctx) : (s.modCtx t f).spad = s.spad := rfl
@[simp] theorem modCtx_bootCfg (s : State) (t : Nat) (f : Ctx → Ctx) : (s.modCtx t f).bootCfg = s.bootCfg := rfl
@[simp] theorem modCtx_cdi1 (s : State) (t : Nat) (f : Ctx → Ctx) : (s.modCtx t f).cdi1 = s.cdi1 := rfl
@[simp] theorem modCtx_cdi0 (s : State) (t : Nat) (f : Ctx → Ctx) : (s.modCtx t f).cdi0 = s.cdi0 := rfl
@[simp] theorem modCtx_deviceKey (s : State) (t : Nat) (f : Ctx → Ctx) : (s.modCtx t f).deviceKey = s.deviceKey := rfl
@[simp] theorem modCtx_aliasCert (s : State) (t : Nat) (f : Ctx → Ctx) : (s.modCtx t f).aliasCert = s.aliasCert := rfl
@[simp] theorem modCtx_keySlots (s : State) (t : Nat) (f : Ctx → Ctx) : (s.modCtx t f).keySlots = s.keySlots := rfl
@[simp] theorem modCtx_curds (s : State) (t : Nat) (f : Ctx → Ctx) : (s.modCtx t f).curds = s.curds := rfl
@[simp] theorem modCtx_hostOut (s : State) (t : Nat) (f : Ctx → Ctx) : (s.modCtx t f).hostOut = s.hostOut := rfl
@[simp] theorem modCtx_hostHeld (s : State) (t : Nat) (f : Ctx → Ctx) : (s.modCtx t f).hostHeld = s.hostHeld := rfl
@[simp] theorem modCtx_hostRing (s : State) (t : Nat) (f : Ctx → Ctx) : (s.modCtx t f).hostRing = s.hostRing := rfl
@[simp] theorem modCtx_hostCmds (s : State) (t : Nat) (f : Ctx → Ctx) : (s.modCtx t f).hostCmds = s.hostCmds := rfl
@[simp] theorem modCtx_curdTry (s : State) (t : Nat) (f : Ctx → Ctx) : (s.modCtx t f).curdTry = s.curdTry := rfl
@[simp] theorem modCtx_wire (s : State) (t : Nat) (f : Ctx → Ctx) : (s.modCtx t f).wire = s.wire := rfl
@[simp] theorem modCtx_seat (s : State) (t : Nat) (f : Ctx → Ctx) (j : Nat) : (s.modCtx t f).seat j = s.seat j := rfl
@[simp] theorem modCtx_core (s : State) (t : Nat) (f : Ctx → Ctx) (j : Nat) : (s.modCtx t f).core j = s.core j := rfl
@[simp] theorem modCtx_quad (s : State) (t : Nat) (f : Ctx → Ctx) (j : Nat) : (s.modCtx t f).quad j = s.quad j := rfl
@[simp] theorem modCtx_die (s : State) (t : Nat) (f : Ctx → Ctx) (j : Nat) : (s.modCtx t f).die j = s.die j := rfl
@[simp] theorem modCtx_vat (s : State) (t : Nat) (f : Ctx → Ctx) (j : Nat) : (s.modCtx t f).vat j = s.vat j := rfl
@[simp] theorem modCtx_port (s : State) (t : Nat) (f : Ctx → Ctx) (j : Nat) : (s.modCtx t f).port j = s.port j := rfl
@[simp] theorem modCtx_rdByte (s : State) (t : Nat) (f : Ctx → Ctx) (k : Nat) : (s.modCtx t f).rdByte k = s.rdByte k := rfl

/-! ## modVat -/

@[simp] theorem modVat_power (s : State) (v : Nat) (f : Vat → Vat) : (s.modVat v f).power = s.power := rfl
@[simp] theorem modVat_dieCycle (s : State) (v : Nat) (f : Vat → Vat) : (s.modVat v f).dieCycle = s.dieCycle := rfl
@[simp] theorem modVat_turn (s : State) (v : Nat) (f : Vat → Vat) : (s.modVat v f).turn = s.turn := rfl
@[simp] theorem modVat_inputs (s : State) (v : Nat) (f : Vat → Vat) : (s.modVat v f).inputs = s.inputs := rfl
@[simp] theorem modVat_free (s : State) (v : Nat) (f : Vat → Vat) : (s.modVat v f).free = s.free := rfl
@[simp] theorem modVat_nextId (s : State) (v : Nat) (f : Vat → Vat) : (s.modVat v f).nextId = s.nextId := rfl
@[simp] theorem modVat_cur (s : State) (v : Nat) (f : Vat → Vat) : (s.modVat v f).cur = s.cur := rfl
@[simp] theorem modVat_curVat (s : State) (v : Nat) (f : Vat → Vat) : (s.modVat v f).curVat = s.curVat := rfl
@[simp] theorem modVat_mem (s : State) (v : Nat) (f : Vat → Vat) : (s.modVat v f).mem = s.mem := rfl
@[simp] theorem modVat_poison (s : State) (v : Nat) (f : Vat → Vat) : (s.modVat v f).poison = s.poison := rfl
@[simp] theorem modVat_tags (s : State) (v : Nat) (f : Vat → Vat) : (s.modVat v f).tags = s.tags := rfl
@[simp] theorem modVat_seats (s : State) (v : Nat) (f : Vat → Vat) : (s.modVat v f).seats = s.seats := rfl
@[simp] theorem modVat_cores (s : State) (v : Nat) (f : Vat → Vat) : (s.modVat v f).cores = s.cores := rfl
@[simp] theorem modVat_quads (s : State) (v : Nat) (f : Vat → Vat) : (s.modVat v f).quads = s.quads := rfl
@[simp] theorem modVat_dies (s : State) (v : Nat) (f : Vat → Vat) : (s.modVat v f).dies = s.dies := rfl
@[simp] theorem modVat_accs (s : State) (v : Nat) (f : Vat → Vat) : (s.modVat v f).accs = s.accs := rfl
@[simp] theorem modVat_waits (s : State) (v : Nat) (f : Vat → Vat) : (s.modVat v f).waits = s.waits := rfl
@[simp] theorem modVat_recs (s : State) (v : Nat) (f : Vat → Vat) : (s.modVat v f).recs = s.recs := rfl
@[simp] theorem modVat_coaches (s : State) (v : Nat) (f : Vat → Vat) : (s.modVat v f).coaches = s.coaches := rfl
@[simp] theorem modVat_ctxs (s : State) (v : Nat) (f : Vat → Vat) : (s.modVat v f).ctxs = s.ctxs := rfl
@[simp] theorem modVat_ports (s : State) (v : Nat) (f : Vat → Vat) : (s.modVat v f).ports = s.ports := rfl
@[simp] theorem modVat_chip (s : State) (v : Nat) (f : Vat → Vat) : (s.modVat v f).chip = s.chip := rfl
@[simp] theorem modVat_spad (s : State) (v : Nat) (f : Vat → Vat) : (s.modVat v f).spad = s.spad := rfl
@[simp] theorem modVat_bootCfg (s : State) (v : Nat) (f : Vat → Vat) : (s.modVat v f).bootCfg = s.bootCfg := rfl
@[simp] theorem modVat_cdi1 (s : State) (v : Nat) (f : Vat → Vat) : (s.modVat v f).cdi1 = s.cdi1 := rfl
@[simp] theorem modVat_cdi0 (s : State) (v : Nat) (f : Vat → Vat) : (s.modVat v f).cdi0 = s.cdi0 := rfl
@[simp] theorem modVat_deviceKey (s : State) (v : Nat) (f : Vat → Vat) : (s.modVat v f).deviceKey = s.deviceKey := rfl
@[simp] theorem modVat_aliasCert (s : State) (v : Nat) (f : Vat → Vat) : (s.modVat v f).aliasCert = s.aliasCert := rfl
@[simp] theorem modVat_keySlots (s : State) (v : Nat) (f : Vat → Vat) : (s.modVat v f).keySlots = s.keySlots := rfl
@[simp] theorem modVat_curds (s : State) (v : Nat) (f : Vat → Vat) : (s.modVat v f).curds = s.curds := rfl
@[simp] theorem modVat_hostOut (s : State) (v : Nat) (f : Vat → Vat) : (s.modVat v f).hostOut = s.hostOut := rfl
@[simp] theorem modVat_hostHeld (s : State) (v : Nat) (f : Vat → Vat) : (s.modVat v f).hostHeld = s.hostHeld := rfl
@[simp] theorem modVat_hostRing (s : State) (v : Nat) (f : Vat → Vat) : (s.modVat v f).hostRing = s.hostRing := rfl
@[simp] theorem modVat_hostCmds (s : State) (v : Nat) (f : Vat → Vat) : (s.modVat v f).hostCmds = s.hostCmds := rfl
@[simp] theorem modVat_curdTry (s : State) (v : Nat) (f : Vat → Vat) : (s.modVat v f).curdTry = s.curdTry := rfl
@[simp] theorem modVat_wire (s : State) (v : Nat) (f : Vat → Vat) : (s.modVat v f).wire = s.wire := rfl
@[simp] theorem modVat_seat (s : State) (v : Nat) (f : Vat → Vat) (j : Nat) : (s.modVat v f).seat j = s.seat j := rfl
@[simp] theorem modVat_core (s : State) (v : Nat) (f : Vat → Vat) (j : Nat) : (s.modVat v f).core j = s.core j := rfl
@[simp] theorem modVat_quad (s : State) (v : Nat) (f : Vat → Vat) (j : Nat) : (s.modVat v f).quad j = s.quad j := rfl
@[simp] theorem modVat_die (s : State) (v : Nat) (f : Vat → Vat) (j : Nat) : (s.modVat v f).die j = s.die j := rfl
@[simp] theorem modVat_ctx (s : State) (v : Nat) (f : Vat → Vat) (j : Nat) : (s.modVat v f).ctx j = s.ctx j := rfl
@[simp] theorem modVat_port (s : State) (v : Nat) (f : Vat → Vat) (j : Nat) : (s.modVat v f).port j = s.port j := rfl
@[simp] theorem modVat_rdByte (s : State) (v : Nat) (f : Vat → Vat) (k : Nat) : (s.modVat v f).rdByte k = s.rdByte k := rfl
@[simp] theorem modVat_queue (s : State) (v : Nat) (f : Vat → Vat) (t2 h2 : Nat) : (s.modVat v f).queue t2 h2 = s.queue t2 h2 := rfl

/-! ## modPort -/

@[simp] theorem modPort_power (s : State) (p : Nat) (f : Port → Port) : (s.modPort p f).power = s.power := rfl
@[simp] theorem modPort_dieCycle (s : State) (p : Nat) (f : Port → Port) : (s.modPort p f).dieCycle = s.dieCycle := rfl
@[simp] theorem modPort_turn (s : State) (p : Nat) (f : Port → Port) : (s.modPort p f).turn = s.turn := rfl
@[simp] theorem modPort_inputs (s : State) (p : Nat) (f : Port → Port) : (s.modPort p f).inputs = s.inputs := rfl
@[simp] theorem modPort_free (s : State) (p : Nat) (f : Port → Port) : (s.modPort p f).free = s.free := rfl
@[simp] theorem modPort_nextId (s : State) (p : Nat) (f : Port → Port) : (s.modPort p f).nextId = s.nextId := rfl
@[simp] theorem modPort_cur (s : State) (p : Nat) (f : Port → Port) : (s.modPort p f).cur = s.cur := rfl
@[simp] theorem modPort_curVat (s : State) (p : Nat) (f : Port → Port) : (s.modPort p f).curVat = s.curVat := rfl
@[simp] theorem modPort_mem (s : State) (p : Nat) (f : Port → Port) : (s.modPort p f).mem = s.mem := rfl
@[simp] theorem modPort_poison (s : State) (p : Nat) (f : Port → Port) : (s.modPort p f).poison = s.poison := rfl
@[simp] theorem modPort_tags (s : State) (p : Nat) (f : Port → Port) : (s.modPort p f).tags = s.tags := rfl
@[simp] theorem modPort_seats (s : State) (p : Nat) (f : Port → Port) : (s.modPort p f).seats = s.seats := rfl
@[simp] theorem modPort_cores (s : State) (p : Nat) (f : Port → Port) : (s.modPort p f).cores = s.cores := rfl
@[simp] theorem modPort_quads (s : State) (p : Nat) (f : Port → Port) : (s.modPort p f).quads = s.quads := rfl
@[simp] theorem modPort_dies (s : State) (p : Nat) (f : Port → Port) : (s.modPort p f).dies = s.dies := rfl
@[simp] theorem modPort_accs (s : State) (p : Nat) (f : Port → Port) : (s.modPort p f).accs = s.accs := rfl
@[simp] theorem modPort_waits (s : State) (p : Nat) (f : Port → Port) : (s.modPort p f).waits = s.waits := rfl
@[simp] theorem modPort_recs (s : State) (p : Nat) (f : Port → Port) : (s.modPort p f).recs = s.recs := rfl
@[simp] theorem modPort_coaches (s : State) (p : Nat) (f : Port → Port) : (s.modPort p f).coaches = s.coaches := rfl
@[simp] theorem modPort_ctxs (s : State) (p : Nat) (f : Port → Port) : (s.modPort p f).ctxs = s.ctxs := rfl
@[simp] theorem modPort_vats (s : State) (p : Nat) (f : Port → Port) : (s.modPort p f).vats = s.vats := rfl
@[simp] theorem modPort_chip (s : State) (p : Nat) (f : Port → Port) : (s.modPort p f).chip = s.chip := rfl
@[simp] theorem modPort_spad (s : State) (p : Nat) (f : Port → Port) : (s.modPort p f).spad = s.spad := rfl
@[simp] theorem modPort_bootCfg (s : State) (p : Nat) (f : Port → Port) : (s.modPort p f).bootCfg = s.bootCfg := rfl
@[simp] theorem modPort_cdi1 (s : State) (p : Nat) (f : Port → Port) : (s.modPort p f).cdi1 = s.cdi1 := rfl
@[simp] theorem modPort_cdi0 (s : State) (p : Nat) (f : Port → Port) : (s.modPort p f).cdi0 = s.cdi0 := rfl
@[simp] theorem modPort_deviceKey (s : State) (p : Nat) (f : Port → Port) : (s.modPort p f).deviceKey = s.deviceKey := rfl
@[simp] theorem modPort_aliasCert (s : State) (p : Nat) (f : Port → Port) : (s.modPort p f).aliasCert = s.aliasCert := rfl
@[simp] theorem modPort_keySlots (s : State) (p : Nat) (f : Port → Port) : (s.modPort p f).keySlots = s.keySlots := rfl
@[simp] theorem modPort_curds (s : State) (p : Nat) (f : Port → Port) : (s.modPort p f).curds = s.curds := rfl
@[simp] theorem modPort_hostOut (s : State) (p : Nat) (f : Port → Port) : (s.modPort p f).hostOut = s.hostOut := rfl
@[simp] theorem modPort_hostHeld (s : State) (p : Nat) (f : Port → Port) : (s.modPort p f).hostHeld = s.hostHeld := rfl
@[simp] theorem modPort_hostRing (s : State) (p : Nat) (f : Port → Port) : (s.modPort p f).hostRing = s.hostRing := rfl
@[simp] theorem modPort_hostCmds (s : State) (p : Nat) (f : Port → Port) : (s.modPort p f).hostCmds = s.hostCmds := rfl
@[simp] theorem modPort_curdTry (s : State) (p : Nat) (f : Port → Port) : (s.modPort p f).curdTry = s.curdTry := rfl
@[simp] theorem modPort_wire (s : State) (p : Nat) (f : Port → Port) : (s.modPort p f).wire = s.wire := rfl
@[simp] theorem modPort_seat (s : State) (p : Nat) (f : Port → Port) (j : Nat) : (s.modPort p f).seat j = s.seat j := rfl
@[simp] theorem modPort_core (s : State) (p : Nat) (f : Port → Port) (j : Nat) : (s.modPort p f).core j = s.core j := rfl
@[simp] theorem modPort_quad (s : State) (p : Nat) (f : Port → Port) (j : Nat) : (s.modPort p f).quad j = s.quad j := rfl
@[simp] theorem modPort_die (s : State) (p : Nat) (f : Port → Port) (j : Nat) : (s.modPort p f).die j = s.die j := rfl
@[simp] theorem modPort_ctx (s : State) (p : Nat) (f : Port → Port) (j : Nat) : (s.modPort p f).ctx j = s.ctx j := rfl
@[simp] theorem modPort_vat (s : State) (p : Nat) (f : Port → Port) (j : Nat) : (s.modPort p f).vat j = s.vat j := rfl
@[simp] theorem modPort_rdByte (s : State) (p : Nat) (f : Port → Port) (k : Nat) : (s.modPort p f).rdByte k = s.rdByte k := rfl
@[simp] theorem modPort_queue (s : State) (p : Nat) (f : Port → Port) (t2 h2 : Nat) : (s.modPort p f).queue t2 h2 = s.queue t2 h2 := rfl

/-! ## modQueue -/

@[simp] theorem modQueue_power (s : State) (t h : Nat) (f : Queue → Queue) : (s.modQueue t h f).power = s.power := rfl
@[simp] theorem modQueue_dieCycle (s : State) (t h : Nat) (f : Queue → Queue) : (s.modQueue t h f).dieCycle = s.dieCycle := rfl
@[simp] theorem modQueue_turn (s : State) (t h : Nat) (f : Queue → Queue) : (s.modQueue t h f).turn = s.turn := rfl
@[simp] theorem modQueue_inputs (s : State) (t h : Nat) (f : Queue → Queue) : (s.modQueue t h f).inputs = s.inputs := rfl
@[simp] theorem modQueue_free (s : State) (t h : Nat) (f : Queue → Queue) : (s.modQueue t h f).free = s.free := rfl
@[simp] theorem modQueue_nextId (s : State) (t h : Nat) (f : Queue → Queue) : (s.modQueue t h f).nextId = s.nextId := rfl
@[simp] theorem modQueue_cur (s : State) (t h : Nat) (f : Queue → Queue) : (s.modQueue t h f).cur = s.cur := rfl
@[simp] theorem modQueue_curVat (s : State) (t h : Nat) (f : Queue → Queue) : (s.modQueue t h f).curVat = s.curVat := rfl
@[simp] theorem modQueue_mem (s : State) (t h : Nat) (f : Queue → Queue) : (s.modQueue t h f).mem = s.mem := rfl
@[simp] theorem modQueue_poison (s : State) (t h : Nat) (f : Queue → Queue) : (s.modQueue t h f).poison = s.poison := rfl
@[simp] theorem modQueue_tags (s : State) (t h : Nat) (f : Queue → Queue) : (s.modQueue t h f).tags = s.tags := rfl
@[simp] theorem modQueue_seats (s : State) (t h : Nat) (f : Queue → Queue) : (s.modQueue t h f).seats = s.seats := rfl
@[simp] theorem modQueue_cores (s : State) (t h : Nat) (f : Queue → Queue) : (s.modQueue t h f).cores = s.cores := rfl
@[simp] theorem modQueue_quads (s : State) (t h : Nat) (f : Queue → Queue) : (s.modQueue t h f).quads = s.quads := rfl
@[simp] theorem modQueue_dies (s : State) (t h : Nat) (f : Queue → Queue) : (s.modQueue t h f).dies = s.dies := rfl
@[simp] theorem modQueue_accs (s : State) (t h : Nat) (f : Queue → Queue) : (s.modQueue t h f).accs = s.accs := rfl
@[simp] theorem modQueue_waits (s : State) (t h : Nat) (f : Queue → Queue) : (s.modQueue t h f).waits = s.waits := rfl
@[simp] theorem modQueue_recs (s : State) (t h : Nat) (f : Queue → Queue) : (s.modQueue t h f).recs = s.recs := rfl
@[simp] theorem modQueue_coaches (s : State) (t h : Nat) (f : Queue → Queue) : (s.modQueue t h f).coaches = s.coaches := rfl
@[simp] theorem modQueue_vats (s : State) (t h : Nat) (f : Queue → Queue) : (s.modQueue t h f).vats = s.vats := rfl
@[simp] theorem modQueue_ports (s : State) (t h : Nat) (f : Queue → Queue) : (s.modQueue t h f).ports = s.ports := rfl
@[simp] theorem modQueue_chip (s : State) (t h : Nat) (f : Queue → Queue) : (s.modQueue t h f).chip = s.chip := rfl
@[simp] theorem modQueue_spad (s : State) (t h : Nat) (f : Queue → Queue) : (s.modQueue t h f).spad = s.spad := rfl
@[simp] theorem modQueue_bootCfg (s : State) (t h : Nat) (f : Queue → Queue) : (s.modQueue t h f).bootCfg = s.bootCfg := rfl
@[simp] theorem modQueue_cdi1 (s : State) (t h : Nat) (f : Queue → Queue) : (s.modQueue t h f).cdi1 = s.cdi1 := rfl
@[simp] theorem modQueue_cdi0 (s : State) (t h : Nat) (f : Queue → Queue) : (s.modQueue t h f).cdi0 = s.cdi0 := rfl
@[simp] theorem modQueue_deviceKey (s : State) (t h : Nat) (f : Queue → Queue) : (s.modQueue t h f).deviceKey = s.deviceKey := rfl
@[simp] theorem modQueue_aliasCert (s : State) (t h : Nat) (f : Queue → Queue) : (s.modQueue t h f).aliasCert = s.aliasCert := rfl
@[simp] theorem modQueue_keySlots (s : State) (t h : Nat) (f : Queue → Queue) : (s.modQueue t h f).keySlots = s.keySlots := rfl
@[simp] theorem modQueue_curds (s : State) (t h : Nat) (f : Queue → Queue) : (s.modQueue t h f).curds = s.curds := rfl
@[simp] theorem modQueue_hostOut (s : State) (t h : Nat) (f : Queue → Queue) : (s.modQueue t h f).hostOut = s.hostOut := rfl
@[simp] theorem modQueue_hostHeld (s : State) (t h : Nat) (f : Queue → Queue) : (s.modQueue t h f).hostHeld = s.hostHeld := rfl
@[simp] theorem modQueue_hostRing (s : State) (t h : Nat) (f : Queue → Queue) : (s.modQueue t h f).hostRing = s.hostRing := rfl
@[simp] theorem modQueue_hostCmds (s : State) (t h : Nat) (f : Queue → Queue) : (s.modQueue t h f).hostCmds = s.hostCmds := rfl
@[simp] theorem modQueue_curdTry (s : State) (t h : Nat) (f : Queue → Queue) : (s.modQueue t h f).curdTry = s.curdTry := rfl
@[simp] theorem modQueue_wire (s : State) (t h : Nat) (f : Queue → Queue) : (s.modQueue t h f).wire = s.wire := rfl
@[simp] theorem modQueue_seat (s : State) (t h : Nat) (f : Queue → Queue) (j : Nat) : (s.modQueue t h f).seat j = s.seat j := rfl
@[simp] theorem modQueue_core (s : State) (t h : Nat) (f : Queue → Queue) (j : Nat) : (s.modQueue t h f).core j = s.core j := rfl
@[simp] theorem modQueue_quad (s : State) (t h : Nat) (f : Queue → Queue) (j : Nat) : (s.modQueue t h f).quad j = s.quad j := rfl
@[simp] theorem modQueue_die (s : State) (t h : Nat) (f : Queue → Queue) (j : Nat) : (s.modQueue t h f).die j = s.die j := rfl
@[simp] theorem modQueue_vat (s : State) (t h : Nat) (f : Queue → Queue) (j : Nat) : (s.modQueue t h f).vat j = s.vat j := rfl
@[simp] theorem modQueue_port (s : State) (t h : Nat) (f : Queue → Queue) (j : Nat) : (s.modQueue t h f).port j = s.port j := rfl
@[simp] theorem modQueue_rdByte (s : State) (t h : Nat) (f : Queue → Queue) (k : Nat) : (s.modQueue t h f).rdByte k = s.rdByte k := rfl

/-- A part that is replaced reads as the new one, and the others as before. -/
theorem setSeat_seat (s : State) (i j : Nat) (x : Seat) : (s.setSeat i x).seat j = if j = i then x else s.seat j := SMap.get_set _ _ _ _ _
@[simp] theorem setSeat_seat_same (s : State) (i : Nat) (x : Seat) : (s.setSeat i x).seat i = x := SMap.get_set_same _ _ _ _
/-- A part that is changed reads as changed, and the others as before. -/
theorem modSeat_seat (s : State) (i j : Nat) (f : Seat → Seat) : (s.modSeat i f).seat j = if j = i then f (s.seat i) else s.seat j :=
  SMap.get_set _ _ _ _ _
@[simp] theorem modSeat_seat_same (s : State) (i : Nat) (f : Seat → Seat) : (s.modSeat i f).seat i = f (s.seat i) := SMap.get_set_same _ _ _ _

/-- A part that is replaced reads as the new one, and the others as before. -/
theorem setCore_core (s : State) (i j : Nat) (x : Core) : (s.setCore i x).core j = if j = i then x else s.core j := SMap.get_set _ _ _ _ _
@[simp] theorem setCore_core_same (s : State) (i : Nat) (x : Core) : (s.setCore i x).core i = x := SMap.get_set_same _ _ _ _
/-- A part that is changed reads as changed, and the others as before. -/
theorem modCore_core (s : State) (i j : Nat) (f : Core → Core) : (s.modCore i f).core j = if j = i then f (s.core i) else s.core j :=
  SMap.get_set _ _ _ _ _
@[simp] theorem modCore_core_same (s : State) (i : Nat) (f : Core → Core) : (s.modCore i f).core i = f (s.core i) := SMap.get_set_same _ _ _ _

/-- A part that is replaced reads as the new one, and the others as before. -/
theorem setQuad_quad (s : State) (i j : Nat) (x : Quad) : (s.setQuad i x).quad j = if j = i then x else s.quad j := SMap.get_set _ _ _ _ _
@[simp] theorem setQuad_quad_same (s : State) (i : Nat) (x : Quad) : (s.setQuad i x).quad i = x := SMap.get_set_same _ _ _ _
/-- A part that is changed reads as changed, and the others as before. -/
theorem modQuad_quad (s : State) (i j : Nat) (f : Quad → Quad) : (s.modQuad i f).quad j = if j = i then f (s.quad i) else s.quad j :=
  SMap.get_set _ _ _ _ _
@[simp] theorem modQuad_quad_same (s : State) (i : Nat) (f : Quad → Quad) : (s.modQuad i f).quad i = f (s.quad i) := SMap.get_set_same _ _ _ _

/-- A part that is replaced reads as the new one, and the others as before. -/
theorem setDie_die (s : State) (i j : Nat) (x : Die) : (s.setDie i x).die j = if j = i then x else s.die j := SMap.get_set _ _ _ _ _
@[simp] theorem setDie_die_same (s : State) (i : Nat) (x : Die) : (s.setDie i x).die i = x := SMap.get_set_same _ _ _ _
/-- A part that is changed reads as changed, and the others as before. -/
theorem modDie_die (s : State) (i j : Nat) (f : Die → Die) : (s.modDie i f).die j = if j = i then f (s.die i) else s.die j :=
  SMap.get_set _ _ _ _ _
@[simp] theorem modDie_die_same (s : State) (i : Nat) (f : Die → Die) : (s.modDie i f).die i = f (s.die i) := SMap.get_set_same _ _ _ _

/-- A part that is replaced reads as the new one, and the others as before. -/
theorem setCtx_ctx (s : State) (i j : Nat) (x : Ctx) : (s.setCtx i x).ctx j = if j = i then x else s.ctx j := SMap.get_set _ _ _ _ _
@[simp] theorem setCtx_ctx_same (s : State) (i : Nat) (x : Ctx) : (s.setCtx i x).ctx i = x := SMap.get_set_same _ _ _ _
/-- A part that is changed reads as changed, and the others as before. -/
theorem modCtx_ctx (s : State) (i j : Nat) (f : Ctx → Ctx) : (s.modCtx i f).ctx j = if j = i then f (s.ctx i) else s.ctx j :=
  SMap.get_set _ _ _ _ _
@[simp] theorem modCtx_ctx_same (s : State) (i : Nat) (f : Ctx → Ctx) : (s.modCtx i f).ctx i = f (s.ctx i) := SMap.get_set_same _ _ _ _

/-- A part that is changed reads as changed, and the others as before. -/
theorem modVat_vat (s : State) (i j : Nat) (f : Vat → Vat) : (s.modVat i f).vat j = if j = i then f (s.vat i) else s.vat j :=
  SMap.get_set _ _ _ _ _
@[simp] theorem modVat_vat_same (s : State) (i : Nat) (f : Vat → Vat) : (s.modVat i f).vat i = f (s.vat i) := SMap.get_set_same _ _ _ _

/-- A part that is changed reads as changed, and the others as before. -/
theorem modPort_port (s : State) (i j : Nat) (f : Port → Port) : (s.modPort i f).port j = if j = i then f (s.port i) else s.port j :=
  SMap.get_set _ _ _ _ _
@[simp] theorem modPort_port_same (s : State) (i : Nat) (f : Port → Port) : (s.modPort i f).port i = f (s.port i) := SMap.get_set_same _ _ _ _

@[simp] theorem modArr_arr_same (s : State) (i : Nat) (f : Arr → Arr) : (s.modArr i f).arr i = f (s.arr i) := by
  simp [State.arr, State.modArr]

@[simp] theorem modQueue_queue_same (s : State) (t h : Nat) (f : Queue → Queue) : (s.modQueue t h f).queue t h = f (s.queue t h) := by
  simp [State.queue, State.modQueue]

/-! ## A number not used before -/

@[simp] theorem freshId_power (s : State) : s.freshId.2.power = s.power := rfl
@[simp] theorem freshId_dieCycle (s : State) : s.freshId.2.dieCycle = s.dieCycle := rfl
@[simp] theorem freshId_turn (s : State) : s.freshId.2.turn = s.turn := rfl
@[simp] theorem freshId_inputs (s : State) : s.freshId.2.inputs = s.inputs := rfl
@[simp] theorem freshId_free (s : State) : s.freshId.2.free = s.free := rfl
@[simp] theorem freshId_cur (s : State) : s.freshId.2.cur = s.cur := rfl
@[simp] theorem freshId_curVat (s : State) : s.freshId.2.curVat = s.curVat := rfl
@[simp] theorem freshId_mem (s : State) : s.freshId.2.mem = s.mem := rfl
@[simp] theorem freshId_poison (s : State) : s.freshId.2.poison = s.poison := rfl
@[simp] theorem freshId_tags (s : State) : s.freshId.2.tags = s.tags := rfl
@[simp] theorem freshId_seats (s : State) : s.freshId.2.seats = s.seats := rfl
@[simp] theorem freshId_cores (s : State) : s.freshId.2.cores = s.cores := rfl
@[simp] theorem freshId_quads (s : State) : s.freshId.2.quads = s.quads := rfl
@[simp] theorem freshId_dies (s : State) : s.freshId.2.dies = s.dies := rfl
@[simp] theorem freshId_accs (s : State) : s.freshId.2.accs = s.accs := rfl
@[simp] theorem freshId_waits (s : State) : s.freshId.2.waits = s.waits := rfl
@[simp] theorem freshId_recs (s : State) : s.freshId.2.recs = s.recs := rfl
@[simp] theorem freshId_coaches (s : State) : s.freshId.2.coaches = s.coaches := rfl
@[simp] theorem freshId_ctxs (s : State) : s.freshId.2.ctxs = s.ctxs := rfl
@[simp] theorem freshId_vats (s : State) : s.freshId.2.vats = s.vats := rfl
@[simp] theorem freshId_ports (s : State) : s.freshId.2.ports = s.ports := rfl
@[simp] theorem freshId_chip (s : State) : s.freshId.2.chip = s.chip := rfl
@[simp] theorem freshId_spad (s : State) : s.freshId.2.spad = s.spad := rfl
@[simp] theorem freshId_bootCfg (s : State) : s.freshId.2.bootCfg = s.bootCfg := rfl
@[simp] theorem freshId_cdi1 (s : State) : s.freshId.2.cdi1 = s.cdi1 := rfl
@[simp] theorem freshId_cdi0 (s : State) : s.freshId.2.cdi0 = s.cdi0 := rfl
@[simp] theorem freshId_deviceKey (s : State) : s.freshId.2.deviceKey = s.deviceKey := rfl
@[simp] theorem freshId_aliasCert (s : State) : s.freshId.2.aliasCert = s.aliasCert := rfl
@[simp] theorem freshId_keySlots (s : State) : s.freshId.2.keySlots = s.keySlots := rfl
@[simp] theorem freshId_curds (s : State) : s.freshId.2.curds = s.curds := rfl
@[simp] theorem freshId_hostOut (s : State) : s.freshId.2.hostOut = s.hostOut := rfl
@[simp] theorem freshId_hostHeld (s : State) : s.freshId.2.hostHeld = s.hostHeld := rfl
@[simp] theorem freshId_hostRing (s : State) : s.freshId.2.hostRing = s.hostRing := rfl
@[simp] theorem freshId_hostCmds (s : State) : s.freshId.2.hostCmds = s.hostCmds := rfl
@[simp] theorem freshId_curdTry (s : State) : s.freshId.2.curdTry = s.curdTry := rfl
@[simp] theorem freshId_wire (s : State) : s.freshId.2.wire = s.wire := rfl
@[simp] theorem freshId_seat (s : State) (j : Nat) : s.freshId.2.seat j = s.seat j := rfl
@[simp] theorem freshId_core (s : State) (j : Nat) : s.freshId.2.core j = s.core j := rfl
@[simp] theorem freshId_quad (s : State) (j : Nat) : s.freshId.2.quad j = s.quad j := rfl
@[simp] theorem freshId_die (s : State) (j : Nat) : s.freshId.2.die j = s.die j := rfl
@[simp] theorem freshId_ctx (s : State) (j : Nat) : s.freshId.2.ctx j = s.ctx j := rfl
@[simp] theorem freshId_vat (s : State) (j : Nat) : s.freshId.2.vat j = s.vat j := rfl
@[simp] theorem freshId_port (s : State) (j : Nat) : s.freshId.2.port j = s.port j := rfl
@[simp] theorem freshId_nextId (s : State) : s.freshId.2.nextId = s.nextId + 1 := rfl
@[simp] theorem freshId_fst (s : State) : s.freshId.1 = s.nextId := rfl

/-! ## Writes of memory -/

@[simp] theorem wrBytes_power (s : State) (k : Nat) (l : List Byte) : (s.wrBytes k l).power = s.power := rfl
@[simp] theorem wrBytes_dieCycle (s : State) (k : Nat) (l : List Byte) : (s.wrBytes k l).dieCycle = s.dieCycle := rfl
@[simp] theorem wrBytes_turn (s : State) (k : Nat) (l : List Byte) : (s.wrBytes k l).turn = s.turn := rfl
@[simp] theorem wrBytes_inputs (s : State) (k : Nat) (l : List Byte) : (s.wrBytes k l).inputs = s.inputs := rfl
@[simp] theorem wrBytes_free (s : State) (k : Nat) (l : List Byte) : (s.wrBytes k l).free = s.free := rfl
@[simp] theorem wrBytes_nextId (s : State) (k : Nat) (l : List Byte) : (s.wrBytes k l).nextId = s.nextId := rfl
@[simp] theorem wrBytes_cur (s : State) (k : Nat) (l : List Byte) : (s.wrBytes k l).cur = s.cur := rfl
@[simp] theorem wrBytes_curVat (s : State) (k : Nat) (l : List Byte) : (s.wrBytes k l).curVat = s.curVat := rfl
@[simp] theorem wrBytes_tags (s : State) (k : Nat) (l : List Byte) : (s.wrBytes k l).tags = s.tags := rfl
@[simp] theorem wrBytes_seats (s : State) (k : Nat) (l : List Byte) : (s.wrBytes k l).seats = s.seats := rfl
@[simp] theorem wrBytes_cores (s : State) (k : Nat) (l : List Byte) : (s.wrBytes k l).cores = s.cores := rfl
@[simp] theorem wrBytes_quads (s : State) (k : Nat) (l : List Byte) : (s.wrBytes k l).quads = s.quads := rfl
@[simp] theorem wrBytes_dies (s : State) (k : Nat) (l : List Byte) : (s.wrBytes k l).dies = s.dies := rfl
@[simp] theorem wrBytes_accs (s : State) (k : Nat) (l : List Byte) : (s.wrBytes k l).accs = s.accs := rfl
@[simp] theorem wrBytes_waits (s : State) (k : Nat) (l : List Byte) : (s.wrBytes k l).waits = s.waits := rfl
@[simp] theorem wrBytes_recs (s : State) (k : Nat) (l : List Byte) : (s.wrBytes k l).recs = s.recs := rfl
@[simp] theorem wrBytes_coaches (s : State) (k : Nat) (l : List Byte) : (s.wrBytes k l).coaches = s.coaches := rfl
@[simp] theorem wrBytes_ctxs (s : State) (k : Nat) (l : List Byte) : (s.wrBytes k l).ctxs = s.ctxs := rfl
@[simp] theorem wrBytes_vats (s : State) (k : Nat) (l : List Byte) : (s.wrBytes k l).vats = s.vats := rfl
@[simp] theorem wrBytes_ports (s : State) (k : Nat) (l : List Byte) : (s.wrBytes k l).ports = s.ports := rfl
@[simp] theorem wrBytes_chip (s : State) (k : Nat) (l : List Byte) : (s.wrBytes k l).chip = s.chip := rfl
@[simp] theorem wrBytes_spad (s : State) (k : Nat) (l : List Byte) : (s.wrBytes k l).spad = s.spad := rfl
@[simp] theorem wrBytes_bootCfg (s : State) (k : Nat) (l : List Byte) : (s.wrBytes k l).bootCfg = s.bootCfg := rfl
@[simp] theorem wrBytes_cdi1 (s : State) (k : Nat) (l : List Byte) : (s.wrBytes k l).cdi1 = s.cdi1 := rfl
@[simp] theorem wrBytes_cdi0 (s : State) (k : Nat) (l : List Byte) : (s.wrBytes k l).cdi0 = s.cdi0 := rfl
@[simp] theorem wrBytes_deviceKey (s : State) (k : Nat) (l : List Byte) : (s.wrBytes k l).deviceKey = s.deviceKey := rfl
@[simp] theorem wrBytes_aliasCert (s : State) (k : Nat) (l : List Byte) : (s.wrBytes k l).aliasCert = s.aliasCert := rfl
@[simp] theorem wrBytes_keySlots (s : State) (k : Nat) (l : List Byte) : (s.wrBytes k l).keySlots = s.keySlots := rfl
@[simp] theorem wrBytes_curds (s : State) (k : Nat) (l : List Byte) : (s.wrBytes k l).curds = s.curds := rfl
@[simp] theorem wrBytes_hostOut (s : State) (k : Nat) (l : List Byte) : (s.wrBytes k l).hostOut = s.hostOut := rfl
@[simp] theorem wrBytes_hostHeld (s : State) (k : Nat) (l : List Byte) : (s.wrBytes k l).hostHeld = s.hostHeld := rfl
@[simp] theorem wrBytes_hostRing (s : State) (k : Nat) (l : List Byte) : (s.wrBytes k l).hostRing = s.hostRing := rfl
@[simp] theorem wrBytes_hostCmds (s : State) (k : Nat) (l : List Byte) : (s.wrBytes k l).hostCmds = s.hostCmds := rfl
@[simp] theorem wrBytes_curdTry (s : State) (k : Nat) (l : List Byte) : (s.wrBytes k l).curdTry = s.curdTry := rfl
@[simp] theorem wrBytes_wire (s : State) (k : Nat) (l : List Byte) : (s.wrBytes k l).wire = s.wire := rfl
@[simp] theorem wrBytes_seat (s : State) (k : Nat) (l : List Byte) (j : Nat) : (s.wrBytes k l).seat j = s.seat j := rfl
@[simp] theorem wrBytes_core (s : State) (k : Nat) (l : List Byte) (j : Nat) : (s.wrBytes k l).core j = s.core j := rfl
@[simp] theorem wrBytes_quad (s : State) (k : Nat) (l : List Byte) (j : Nat) : (s.wrBytes k l).quad j = s.quad j := rfl
@[simp] theorem wrBytes_die (s : State) (k : Nat) (l : List Byte) (j : Nat) : (s.wrBytes k l).die j = s.die j := rfl
@[simp] theorem wrBytes_ctx (s : State) (k : Nat) (l : List Byte) (j : Nat) : (s.wrBytes k l).ctx j = s.ctx j := rfl
@[simp] theorem wrBytes_vat (s : State) (k : Nat) (l : List Byte) (j : Nat) : (s.wrBytes k l).vat j = s.vat j := rfl
@[simp] theorem wrBytes_port (s : State) (k : Nat) (l : List Byte) (j : Nat) : (s.wrBytes k l).port j = s.port j := rfl

/-! ## The registers of a seat -/

@[simp] theorem setReg_st (x : Seat) (r : Reg) (v : W64) : (x.setReg r v).st = x.st := by
  unfold Seat.setReg; (repeat' split) <;> rfl
@[simp] theorem setReg_ctx (x : Seat) (r : Reg) (v : W64) : (x.setReg r v).ctx = x.ctx := by
  unfold Seat.setReg; (repeat' split) <;> rfl
@[simp] theorem setReg_carr (x : Seat) (r : Reg) (v : W64) : (x.setReg r v).carr = x.carr := by
  unfold Seat.setReg; (repeat' split) <;> rfl
@[simp] theorem setReg_lid (x : Seat) (r : Reg) (v : W64) : (x.setReg r v).lid = x.lid := by
  unfold Seat.setReg; (repeat' split) <;> rfl
@[simp] theorem setReg_tag (x : Seat) (r : Reg) (v : W64) : (x.setReg r v).tag = x.tag := by
  unfold Seat.setReg; (repeat' split) <;> rfl
@[simp] theorem setReg_kernel (x : Seat) (r : Reg) (v : W64) : (x.setReg r v).kernel = x.kernel := by
  unfold Seat.setReg; (repeat' split) <;> rfl
@[simp] theorem setReg_mark (x : Seat) (r : Reg) (v : W64) : (x.setReg r v).mark = x.mark := by
  unfold Seat.setReg; (repeat' split) <;> rfl
@[simp] theorem setReg_markFor (x : Seat) (r : Reg) (v : W64) : (x.setReg r v).markFor = x.markFor := by
  unfold Seat.setReg; (repeat' split) <;> rfl
@[simp] theorem setReg_late (x : Seat) (r : Reg) (v : W64) : (x.setReg r v).late = x.late := by
  unfold Seat.setReg; (repeat' split) <;> rfl
@[simp] theorem setReg_until_ (x : Seat) (r : Reg) (v : W64) : (x.setReg r v).until_ = x.until_ := by
  unfold Seat.setReg; (repeat' split) <;> rfl
@[simp] theorem setReg_seatedAt (x : Seat) (r : Reg) (v : W64) : (x.setReg r v).seatedAt = x.seatedAt := by
  unfold Seat.setReg; (repeat' split) <;> rfl
@[simp] theorem setReg_lastIssue (x : Seat) (r : Reg) (v : W64) : (x.setReg r v).lastIssue = x.lastIssue := by
  unfold Seat.setReg; (repeat' split) <;> rfl
@[simp] theorem setReg_lastFirst (x : Seat) (r : Reg) (v : W64) : (x.setReg r v).lastFirst = x.lastFirst := by
  unfold Seat.setReg; (repeat' split) <;> rfl
@[simp] theorem setReg_pc (x : Seat) (r : Reg) (v : W64) : (x.setReg r v).pc = x.pc := by
  unfold Seat.setReg; (repeat' split) <;> rfl
@[simp] theorem setReg_rep (x : Seat) (r : Reg) (v : W64) : (x.setReg r v).rep = x.rep := by
  unfold Seat.setReg; (repeat' split) <;> rfl
@[simp] theorem setReg_empty (x : Seat) (r : Reg) (v : W64) : (x.setReg r v).empty = x.empty := by
  unfold Seat.setReg; (repeat' split) <;> rfl
@[simp] theorem setReg_shEmpty (x : Seat) (r : Reg) (v : W64) : (x.setReg r v).shEmpty = x.shEmpty := by
  unfold Seat.setReg; (repeat' split) <;> rfl
@[simp] theorem setReg_kregs (x : Seat) (r : Reg) (v : W64) : (x.setReg r v).kregs = x.kregs := by
  unfold Seat.setReg; (repeat' split) <;> rfl
@[simp] theorem setReg_vregs (x : Seat) (r : Reg) (v : W64) : (x.setReg r v).vregs = x.vregs := by
  unfold Seat.setReg; (repeat' split) <;> rfl
@[simp] theorem setReg_streams (x : Seat) (r : Reg) (v : W64) : (x.setReg r v).streams = x.streams := by
  unfold Seat.setReg; (repeat' split) <;> rfl
@[simp] theorem setReg_fflags (x : Seat) (r : Reg) (v : W64) : (x.setReg r v).fflags = x.fflags := by
  unfold Seat.setReg; (repeat' split) <;> rfl
@[simp] theorem setReg_stepm (x : Seat) (r : Reg) (v : W64) : (x.setReg r v).stepm = x.stepm := by
  unfold Seat.setReg; (repeat' split) <;> rfl
@[simp] theorem setReg_stepx (x : Seat) (r : Reg) (v : W64) : (x.setReg r v).stepx = x.stepx := by
  unfold Seat.setReg; (repeat' split) <;> rfl
@[simp] theorem setReg_vstep (x : Seat) (r : Reg) (v : W64) : (x.setReg r v).vstep = x.vstep := by
  unfold Seat.setReg; (repeat' split) <;> rfl
@[simp] theorem setReg_waitd (x : Seat) (r : Reg) (v : W64) : (x.setReg r v).waitd = x.waitd := by
  unfold Seat.setReg; (repeat' split) <;> rfl
@[simp] theorem setReg_wid (x : Seat) (r : Reg) (v : W64) : (x.setReg r v).wid = x.wid := by
  unfold Seat.setReg; (repeat' split) <;> rfl
@[simp] theorem setReg_frameReg (x : Seat) (r : Reg) (v : W64) : (x.setReg r v).frameReg = x.frameReg := by
  unfold Seat.setReg; (repeat' split) <;> rfl
@[simp] theorem setReg_xsave (x : Seat) (r : Reg) (v : W64) : (x.setReg r v).xsave = x.xsave := by
  unfold Seat.setReg; (repeat' split) <;> rfl
@[simp] theorem setReg_uivec (x : Seat) (r : Reg) (v : W64) : (x.setReg r v).uivec = x.uivec := by
  unfold Seat.setReg; (repeat' split) <;> rfl
@[simp] theorem setReg_uipc (x : Seat) (r : Reg) (v : W64) : (x.setReg r v).uipc = x.uipc := by
  unfold Seat.setReg; (repeat' split) <;> rfl
@[simp] theorem setReg_uiActive (x : Seat) (r : Reg) (v : W64) : (x.setReg r v).uiActive = x.uiActive := by
  unfold Seat.setReg; (repeat' split) <;> rfl
@[simp] theorem setReg_uiCause (x : Seat) (r : Reg) (v : W64) : (x.setReg r v).uiCause = x.uiCause := by
  unfold Seat.setReg; (repeat' split) <;> rfl
@[simp] theorem setReg_uiRep (x : Seat) (r : Reg) (v : W64) : (x.setReg r v).uiRep = x.uiRep := by
  unfold Seat.setReg; (repeat' split) <;> rfl
@[simp] theorem setReg_uiFrame (x : Seat) (r : Reg) (v : W64) : (x.setReg r v).uiFrame = x.uiFrame := by
  unfold Seat.setReg; (repeat' split) <;> rfl
@[simp] theorem setReg_uis (x : Seat) (r : Reg) (v : W64) : (x.setReg r v).uis = x.uis := by
  unfold Seat.setReg; (repeat' split) <;> rfl
@[simp] theorem setReg_frame (x : Seat) (r : Reg) (v : W64) : (x.setReg r v).frame = x.frame := by
  unfold Seat.setReg; (repeat' split) <;> rfl
@[simp] theorem setReg_lvl (x : Seat) (r : Reg) (v : W64) : (x.setReg r v).lvl = x.lvl := by
  unfold Seat.setReg; (repeat' split) <;> rfl
@[simp] theorem setReg_bank1 (x : Seat) (r : Reg) (v : W64) : (x.setReg r v).bank1 = x.bank1 := by
  unfold Seat.setReg; (repeat' split) <;> rfl
@[simp] theorem setReg_bank2 (x : Seat) (r : Reg) (v : W64) : (x.setReg r v).bank2 = x.bank2 := by
  unfold Seat.setReg; (repeat' split) <;> rfl
@[simp] theorem setReg_wdcnt (x : Seat) (r : Reg) (v : W64) : (x.setReg r v).wdcnt = x.wdcnt := by
  unfold Seat.setReg; (repeat' split) <;> rfl
@[simp] theorem setReg_relDue (x : Seat) (r : Reg) (v : W64) : (x.setReg r v).relDue = x.relDue := by
  unfold Seat.setReg; (repeat' split) <;> rfl
@[simp] theorem setReg_items (x : Seat) (r : Reg) (v : W64) : (x.setReg r v).items = x.items := by
  unfold Seat.setReg; (repeat' split) <;> rfl
@[simp] theorem setReg_park (x : Seat) (r : Reg) (v : W64) : (x.setReg r v).park = x.park := by
  unfold Seat.setReg; (repeat' split) <;> rfl
@[simp] theorem setReg_parkmap (x : Seat) (r : Reg) (v : W64) : (x.setReg r v).parkmap = x.parkmap := by
  unfold Seat.setReg; (repeat' split) <;> rfl
@[simp] theorem setReg_vpark (x : Seat) (r : Reg) (v : W64) : (x.setReg r v).vpark = x.vpark := by
  unfold Seat.setReg; (repeat' split) <;> rfl
@[simp] theorem setReg_vparkmap (x : Seat) (r : Reg) (v : W64) : (x.setReg r v).vparkmap = x.vparkmap := by
  unfold Seat.setReg; (repeat' split) <;> rfl
@[simp] theorem setReg_hcw (x : Seat) (r : Reg) (v : W64) : (x.setReg r v).hcw = x.hcw := by
  unfold Seat.setReg; (repeat' split) <;> rfl
@[simp] theorem setReg_hcwErr (x : Seat) (r : Reg) (v : W64) : (x.setReg r v).hcwErr = x.hcwErr := by
  unfold Seat.setReg; (repeat' split) <;> rfl
@[simp] theorem setReg_lease (x : Seat) (r : Reg) (v : W64) : (x.setReg r v).lease = x.lease := by
  unfold Seat.setReg; (repeat' split) <;> rfl
@[simp] theorem setReg_owned (x : Seat) (r : Reg) (v : W64) : (x.setReg r v).owned = x.owned := by
  unfold Seat.setReg; (repeat' split) <;> rfl
@[simp] theorem setReg_fence (x : Seat) (r : Reg) (v : W64) : (x.setReg r v).fence = x.fence := by
  unfold Seat.setReg; (repeat' split) <;> rfl
@[simp] theorem setReg_fenceSys (x : Seat) (r : Reg) (v : W64) : (x.setReg r v).fenceSys = x.fenceSys := by
  unfold Seat.setReg; (repeat' split) <;> rfl
@[simp] theorem setReg_fact (x : Seat) (r : Reg) (v : W64) : (x.setReg r v).fact = x.fact := by
  unfold Seat.setReg; (repeat' split) <;> rfl

@[simp] theorem markEmpty_st (x : Seat) (r : Reg) (b : Bool) : (x.markEmpty r b).st = x.st := by
  unfold Seat.markEmpty; (repeat' split) <;> rfl
@[simp] theorem markEmpty_ctx (x : Seat) (r : Reg) (b : Bool) : (x.markEmpty r b).ctx = x.ctx := by
  unfold Seat.markEmpty; (repeat' split) <;> rfl
@[simp] theorem markEmpty_carr (x : Seat) (r : Reg) (b : Bool) : (x.markEmpty r b).carr = x.carr := by
  unfold Seat.markEmpty; (repeat' split) <;> rfl
@[simp] theorem markEmpty_lid (x : Seat) (r : Reg) (b : Bool) : (x.markEmpty r b).lid = x.lid := by
  unfold Seat.markEmpty; (repeat' split) <;> rfl
@[simp] theorem markEmpty_tag (x : Seat) (r : Reg) (b : Bool) : (x.markEmpty r b).tag = x.tag := by
  unfold Seat.markEmpty; (repeat' split) <;> rfl
@[simp] theorem markEmpty_kernel (x : Seat) (r : Reg) (b : Bool) : (x.markEmpty r b).kernel = x.kernel := by
  unfold Seat.markEmpty; (repeat' split) <;> rfl
@[simp] theorem markEmpty_mark (x : Seat) (r : Reg) (b : Bool) : (x.markEmpty r b).mark = x.mark := by
  unfold Seat.markEmpty; (repeat' split) <;> rfl
@[simp] theorem markEmpty_markFor (x : Seat) (r : Reg) (b : Bool) : (x.markEmpty r b).markFor = x.markFor := by
  unfold Seat.markEmpty; (repeat' split) <;> rfl
@[simp] theorem markEmpty_late (x : Seat) (r : Reg) (b : Bool) : (x.markEmpty r b).late = x.late := by
  unfold Seat.markEmpty; (repeat' split) <;> rfl
@[simp] theorem markEmpty_until_ (x : Seat) (r : Reg) (b : Bool) : (x.markEmpty r b).until_ = x.until_ := by
  unfold Seat.markEmpty; (repeat' split) <;> rfl
@[simp] theorem markEmpty_seatedAt (x : Seat) (r : Reg) (b : Bool) : (x.markEmpty r b).seatedAt = x.seatedAt := by
  unfold Seat.markEmpty; (repeat' split) <;> rfl
@[simp] theorem markEmpty_lastIssue (x : Seat) (r : Reg) (b : Bool) : (x.markEmpty r b).lastIssue = x.lastIssue := by
  unfold Seat.markEmpty; (repeat' split) <;> rfl
@[simp] theorem markEmpty_lastFirst (x : Seat) (r : Reg) (b : Bool) : (x.markEmpty r b).lastFirst = x.lastFirst := by
  unfold Seat.markEmpty; (repeat' split) <;> rfl
@[simp] theorem markEmpty_pc (x : Seat) (r : Reg) (b : Bool) : (x.markEmpty r b).pc = x.pc := by
  unfold Seat.markEmpty; (repeat' split) <;> rfl
@[simp] theorem markEmpty_rep (x : Seat) (r : Reg) (b : Bool) : (x.markEmpty r b).rep = x.rep := by
  unfold Seat.markEmpty; (repeat' split) <;> rfl
@[simp] theorem markEmpty_sregs (x : Seat) (r : Reg) (b : Bool) : (x.markEmpty r b).sregs = x.sregs := by
  unfold Seat.markEmpty; (repeat' split) <;> rfl
@[simp] theorem markEmpty_shadow (x : Seat) (r : Reg) (b : Bool) : (x.markEmpty r b).shadow = x.shadow := by
  unfold Seat.markEmpty; (repeat' split) <;> rfl
@[simp] theorem markEmpty_kregs (x : Seat) (r : Reg) (b : Bool) : (x.markEmpty r b).kregs = x.kregs := by
  unfold Seat.markEmpty; (repeat' split) <;> rfl
@[simp] theorem markEmpty_vregs (x : Seat) (r : Reg) (b : Bool) : (x.markEmpty r b).vregs = x.vregs := by
  unfold Seat.markEmpty; (repeat' split) <;> rfl
@[simp] theorem markEmpty_streams (x : Seat) (r : Reg) (b : Bool) : (x.markEmpty r b).streams = x.streams := by
  unfold Seat.markEmpty; (repeat' split) <;> rfl
@[simp] theorem markEmpty_fflags (x : Seat) (r : Reg) (b : Bool) : (x.markEmpty r b).fflags = x.fflags := by
  unfold Seat.markEmpty; (repeat' split) <;> rfl
@[simp] theorem markEmpty_stepm (x : Seat) (r : Reg) (b : Bool) : (x.markEmpty r b).stepm = x.stepm := by
  unfold Seat.markEmpty; (repeat' split) <;> rfl
@[simp] theorem markEmpty_stepx (x : Seat) (r : Reg) (b : Bool) : (x.markEmpty r b).stepx = x.stepx := by
  unfold Seat.markEmpty; (repeat' split) <;> rfl
@[simp] theorem markEmpty_vstep (x : Seat) (r : Reg) (b : Bool) : (x.markEmpty r b).vstep = x.vstep := by
  unfold Seat.markEmpty; (repeat' split) <;> rfl
@[simp] theorem markEmpty_waitd (x : Seat) (r : Reg) (b : Bool) : (x.markEmpty r b).waitd = x.waitd := by
  unfold Seat.markEmpty; (repeat' split) <;> rfl
@[simp] theorem markEmpty_wid (x : Seat) (r : Reg) (b : Bool) : (x.markEmpty r b).wid = x.wid := by
  unfold Seat.markEmpty; (repeat' split) <;> rfl
@[simp] theorem markEmpty_frameReg (x : Seat) (r : Reg) (b : Bool) : (x.markEmpty r b).frameReg = x.frameReg := by
  unfold Seat.markEmpty; (repeat' split) <;> rfl
@[simp] theorem markEmpty_xsave (x : Seat) (r : Reg) (b : Bool) : (x.markEmpty r b).xsave = x.xsave := by
  unfold Seat.markEmpty; (repeat' split) <;> rfl
@[simp] theorem markEmpty_uivec (x : Seat) (r : Reg) (b : Bool) : (x.markEmpty r b).uivec = x.uivec := by
  unfold Seat.markEmpty; (repeat' split) <;> rfl
@[simp] theorem markEmpty_uipc (x : Seat) (r : Reg) (b : Bool) : (x.markEmpty r b).uipc = x.uipc := by
  unfold Seat.markEmpty; (repeat' split) <;> rfl
@[simp] theorem markEmpty_uiActive (x : Seat) (r : Reg) (b : Bool) : (x.markEmpty r b).uiActive = x.uiActive := by
  unfold Seat.markEmpty; (repeat' split) <;> rfl
@[simp] theorem markEmpty_uiCause (x : Seat) (r : Reg) (b : Bool) : (x.markEmpty r b).uiCause = x.uiCause := by
  unfold Seat.markEmpty; (repeat' split) <;> rfl
@[simp] theorem markEmpty_uiRep (x : Seat) (r : Reg) (b : Bool) : (x.markEmpty r b).uiRep = x.uiRep := by
  unfold Seat.markEmpty; (repeat' split) <;> rfl
@[simp] theorem markEmpty_uiFrame (x : Seat) (r : Reg) (b : Bool) : (x.markEmpty r b).uiFrame = x.uiFrame := by
  unfold Seat.markEmpty; (repeat' split) <;> rfl
@[simp] theorem markEmpty_uis (x : Seat) (r : Reg) (b : Bool) : (x.markEmpty r b).uis = x.uis := by
  unfold Seat.markEmpty; (repeat' split) <;> rfl
@[simp] theorem markEmpty_frame (x : Seat) (r : Reg) (b : Bool) : (x.markEmpty r b).frame = x.frame := by
  unfold Seat.markEmpty; (repeat' split) <;> rfl
@[simp] theorem markEmpty_lvl (x : Seat) (r : Reg) (b : Bool) : (x.markEmpty r b).lvl = x.lvl := by
  unfold Seat.markEmpty; (repeat' split) <;> rfl
@[simp] theorem markEmpty_bank1 (x : Seat) (r : Reg) (b : Bool) : (x.markEmpty r b).bank1 = x.bank1 := by
  unfold Seat.markEmpty; (repeat' split) <;> rfl
@[simp] theorem markEmpty_bank2 (x : Seat) (r : Reg) (b : Bool) : (x.markEmpty r b).bank2 = x.bank2 := by
  unfold Seat.markEmpty; (repeat' split) <;> rfl
@[simp] theorem markEmpty_wdcnt (x : Seat) (r : Reg) (b : Bool) : (x.markEmpty r b).wdcnt = x.wdcnt := by
  unfold Seat.markEmpty; (repeat' split) <;> rfl
@[simp] theorem markEmpty_relDue (x : Seat) (r : Reg) (b : Bool) : (x.markEmpty r b).relDue = x.relDue := by
  unfold Seat.markEmpty; (repeat' split) <;> rfl
@[simp] theorem markEmpty_items (x : Seat) (r : Reg) (b : Bool) : (x.markEmpty r b).items = x.items := by
  unfold Seat.markEmpty; (repeat' split) <;> rfl
@[simp] theorem markEmpty_park (x : Seat) (r : Reg) (b : Bool) : (x.markEmpty r b).park = x.park := by
  unfold Seat.markEmpty; (repeat' split) <;> rfl
@[simp] theorem markEmpty_parkmap (x : Seat) (r : Reg) (b : Bool) : (x.markEmpty r b).parkmap = x.parkmap := by
  unfold Seat.markEmpty; (repeat' split) <;> rfl
@[simp] theorem markEmpty_vpark (x : Seat) (r : Reg) (b : Bool) : (x.markEmpty r b).vpark = x.vpark := by
  unfold Seat.markEmpty; (repeat' split) <;> rfl
@[simp] theorem markEmpty_vparkmap (x : Seat) (r : Reg) (b : Bool) : (x.markEmpty r b).vparkmap = x.vparkmap := by
  unfold Seat.markEmpty; (repeat' split) <;> rfl
@[simp] theorem markEmpty_hcw (x : Seat) (r : Reg) (b : Bool) : (x.markEmpty r b).hcw = x.hcw := by
  unfold Seat.markEmpty; (repeat' split) <;> rfl
@[simp] theorem markEmpty_hcwErr (x : Seat) (r : Reg) (b : Bool) : (x.markEmpty r b).hcwErr = x.hcwErr := by
  unfold Seat.markEmpty; (repeat' split) <;> rfl
@[simp] theorem markEmpty_lease (x : Seat) (r : Reg) (b : Bool) : (x.markEmpty r b).lease = x.lease := by
  unfold Seat.markEmpty; (repeat' split) <;> rfl
@[simp] theorem markEmpty_owned (x : Seat) (r : Reg) (b : Bool) : (x.markEmpty r b).owned = x.owned := by
  unfold Seat.markEmpty; (repeat' split) <;> rfl
@[simp] theorem markEmpty_fence (x : Seat) (r : Reg) (b : Bool) : (x.markEmpty r b).fence = x.fence := by
  unfold Seat.markEmpty; (repeat' split) <;> rfl
@[simp] theorem markEmpty_fenceSys (x : Seat) (r : Reg) (b : Bool) : (x.markEmpty r b).fenceSys = x.fenceSys := by
  unfold Seat.markEmpty; (repeat' split) <;> rfl
@[simp] theorem markEmpty_fact (x : Seat) (r : Reg) (b : Bool) : (x.markEmpty r b).fact = x.fact := by
  unfold Seat.markEmpty; (repeat' split) <;> rfl

/-- S0 reads as zero (R85). -/
@[simp] theorem reg_zero (x : Seat) : x.reg 0#6 = 0 := by simp [Seat.reg]

/-- A write to S0 is discarded (R85). -/
@[simp] theorem setReg_zero (x : Seat) (v : W64) : x.setReg 0#6 v = x := by simp [Seat.setReg]

@[simp] theorem setReg_inShadow (x : Seat) (r : Reg) (v : W64) (n : Nat) : (x.setReg r v).inShadow n = x.inShadow n := by
  simp [Seat.inShadow]

/-- A register other than S0 reads as what was written to it. -/
theorem reg_setReg_same (x : Seat) (r : Reg) (v : W64) (h : r ≠ 0#6) : (x.setReg r v).reg r = v := by
  by_cases hs : x.inShadow r.toNat = true
  · rw [Seat.reg, if_neg h, setReg_inShadow, if_pos hs]; simp [Seat.setReg, h, hs]
  · rw [Seat.reg, if_neg h, setReg_inShadow, if_neg hs]; simp [Seat.setReg, h, hs]

/-- A write of one register leaves the others alone. -/
theorem reg_setReg_other (x : Seat) (r q : Reg) (v : W64) (h : q ≠ r) : (x.setReg r v).reg q = x.reg q := by
  by_cases hr : r = 0#6
  · subst hr; simp
  by_cases hq : q = 0#6
  · subst hq; simp
  have hn : q.toNat ≠ r.toNat := fun e => h (BitVec.eq_of_toNat_eq e)
  unfold Seat.reg
  rw [if_neg hq, if_neg hq, setReg_inShadow]
  by_cases hs : x.inShadow r.toNat = true <;> by_cases ht : x.inShadow q.toNat = true <;>
    simp [Seat.setReg, hr, hs, ht, SMap.get_set_other, hn]

/-- Every register after a write of one. -/
theorem reg_setReg (x : Seat) (r q : Reg) (v : W64) : (x.setReg r v).reg q = if q = r ∧ r ≠ 0#6 then v else x.reg q := by
  by_cases h : q = r
  · subst h
    by_cases hz : q = 0#6
    · subst hz; simp
    · simp [reg_setReg_same, hz]
  · simp [h, reg_setReg_other]

/-- A write of a register marks none empty or full. -/
@[simp] theorem setReg_isEmpty (x : Seat) (r q : Reg) (v : W64) : (x.setReg r v).isEmpty q = x.isEmpty q := by
  simp [Seat.isEmpty]

end Sys2Proof.Machine
end

