-- ==== Sys2Proof/Laws/Issue.lean ====
section
/-!
SUPPORT. What the issue of a syllable on its own comes to: the commit of what the evaluation answers, a trap, or a wait.
-/

namespace Sys2Proof.Machine

@[simp] theorem soloEnv_seat (s : State) (c : SlotClass) (w e : W32) : (s.soloEnv c w e).seat = s.cur := rfl
@[simp] theorem soloEnv_quad (s : State) (c : SlotClass) (w e : W32) : (s.soloEnv c w e).quad = quadOf s.cur := rfl
@[simp] theorem soloEnv_core (s : State) (c : SlotClass) (w e : W32) : (s.soloEnv c w e).core = coreOf s.cur := rfl
@[simp] theorem soloEnv_cyc (s : State) (c : SlotClass) (w e : W32) : (s.soloEnv c w e).cyc = s.cycle (coreOf s.cur) := rfl
@[simp] theorem soloEnv_start (s : State) (c : SlotClass) (w e : W32) : (s.soloEnv c w e).start = s.cycle (coreOf s.cur) := rfl
@[simp] theorem soloEnv_iss (s : State) (c : SlotClass) (w e : W32) : (s.soloEnv c w e).iss = s.nextId := rfl
@[simp] theorem soloEnv_pc (s : State) (c : SlotClass) (w e : W32) : (s.soloEnv c w e).pc = (s.seat s.cur).pc := rfl
@[simp] theorem soloEnv_delta (s : State) (c : SlotClass) (w e : W32) : (s.soloEnv c w e).delta = 0 := rfl
@[simp] theorem sreg_solo (s : State) (c : SlotClass) (w e : W32) (r : Reg) : s.sreg (s.soloEnv c w e) r = (s.seat s.cur).reg r := rfl

/-- One slot clashes with nothing. -/
@[simp] theorem clashes_one (y : SlotIn) : clashes [y] = [] := by simp [clashes]

/-- An issuable syllable is not blocked. -/
theorem blocked_solo {s : State} {i : Instr} (h : s.Issuable i) (c : SlotClass) (w e : W32) :
    s.blocked s.cur [s.soloSlot i c w e] = false := by
  have hi : (s.soloSlot i c w e).info = infoOf i := by simp [State.soloSlot, SlotIn.info, h.fields]
  have h1 : ((infoOf i).srcs.any fun r => !r.2 && (s.seat s.cur).isEmpty r.1) = false := by
    simp only [List.any_eq_false, Bool.and_eq_true, not_and]
    intro r hr _; simp [h.srcs r hr]
  have h2 : (infoOf i).dests.any (s.seat s.cur).destBlocked = false := by
    simp only [List.any_eq_false]
    intro r hr; simp [h.dests r hr]
  have h3 : ((infoOf i).mem && s.memWaits s.cur) = false := by
    cases hm : (infoOf i).mem with
    | false => rfl
    | true => simp [h.mem hm]
  have h4 : ((infoOf i).items != 0 && decide (64 < (s.seat s.cur).items.length + (infoOf i).items)) = false := by
    by_cases hn : (infoOf i).items = 0
    · simp [hn]
    · have := h.items hn; simp [hn]; omega
  have h5 : ((infoOf i).lands != 0 && decide (s.landFree (coreOf s.cur) < (infoOf i).lands)) = false := by
    by_cases hn : (infoOf i).lands = 0
    · simp [hn]
    · have := h.lands hn; simp [hn]; omega
  simp only [State.blocked, List.any_cons, List.any_nil, List.foldl_cons, List.foldl_nil, hi, Bool.or_false, Nat.zero_add, h1, h2, h3, h4, h5]

/-- No source of an issuable syllable traps. -/
theorem find_srcs {s : State} {i : Instr} (h : s.Issuable i) :
    ((infoOf i).srcs.find? fun t => t.2 && (s.seat s.cur).isEmpty t.1) = none := by
  rw [List.find?_eq_none]
  intro t ht; simp [h.srcs t ht]

/-- An issuable syllable whose evaluation commits is committed. -/
theorem issueSolo_ok {s : State} {i : Instr} {ev : Eval} {c : SlotClass} {w e : W32} {cm : Commit} (h : s.Issuable i)
    (he : encode i = some (c, w, e)) (hev : ev s s (s.soloEnv c w e) = .ok cm) :
    issueSolo i ev s = commitIssue s.cur (s.cycle (coreOf s.cur)) (soloBundle c w e (s.seat s.cur).rep) [s.soloSlot i c w e]
      { done := [cm], a := cm.act s } (s.seat s.cur).pc (s.soloEnv c w e).next (s.seat s.cur).rep (s.cycle (coreOf s.cur)) := by
  simp only [issueSolo, he, h.occupied, if_true, issueSlots, blocked_solo h, Bool.false_eq_true, if_false, List.foldl_cons, List.foldl_nil]
  have hr : runSlot (fun _ => ev) s { a := s } (s.soloSlot i c w e) = { done := [cm], a := cm.act s } := by
    have hi : (s.soloSlot i c w e).info = infoOf i := by simp [State.soloSlot, SlotIn.info, h.fields]
    have hs : (s.soloSlot i c w e).instr = some i := by simp [State.soloSlot, h.fields]
    have henv : (s.soloSlot i c w e).env = s.soloEnv c w e := rfl
    have hseat : (s.soloEnv c w e).seat = s.cur := rfl
    simp only [runSlot, hs, hi, henv, hseat, find_srcs h, hev, Option.isSome_none, Bool.false_eq_true, if_false, List.nil_append]
  simp only [hr, clashes_one, List.isEmpty_nil, Bool.not_true, Bool.false_eq_true, if_false]
  rfl

/-- An issuable syllable whose evaluation answers a fault traps. -/
theorem issueSolo_fault {s : State} {i : Instr} {ev : Eval} {c : SlotClass} {w e : W32} {cause : Nat} {va : W64} (h : s.Issuable i)
    (he : encode i = some (c, w, e)) (hev : ev s s (s.soloEnv c w e) = .fault cause va) :
    issueSolo i ev s = s.faultIssue s.cur cause va (maskOf [soloPos c]) := by
  simp only [issueSolo, he, h.occupied, if_true, issueSlots, blocked_solo h, Bool.false_eq_true, if_false, List.foldl_cons, List.foldl_nil]
  have hr : runSlot (fun _ => ev) s { a := s } (s.soloSlot i c w e) = { faults := [(soloPos c, cause, va)], a := s } := by
    have hi : (s.soloSlot i c w e).info = infoOf i := by simp [State.soloSlot, SlotIn.info, h.fields]
    have hs : (s.soloSlot i c w e).instr = some i := by simp [State.soloSlot, h.fields]
    have henv : (s.soloSlot i c w e).env = s.soloEnv c w e := rfl
    have hpos : (s.soloSlot i c w e).pos = soloPos c := rfl
    have hseat : (s.soloEnv c w e).seat = s.cur := rfl
    simp only [runSlot, hs, hi, henv, hseat, hpos, find_srcs h, hev, Option.isSome_none, Bool.false_eq_true, if_false, List.nil_append]
  simp only [hr, clashes_one, List.isEmpty_nil, Bool.not_true, Bool.false_eq_true, if_false, List.map_cons, List.map_nil]
  rfl

/-! ## The commit of one slot -/

/-- The sticky state after one slot. -/
theorem frameAfter_solo {s : State} {i : Instr} {c : SlotClass} {w e : W32} (hf : fieldsOk i = true) (he : encode i = some (c, w, e))
    (hc : c ≠ .micro) (f : Frame) : frameAfter f [s.soloSlot i c w e] = stickyAfter f i := by
  cases c <;> simp [frameAfter, stickyAfter, State.soloSlot, soloPos, hf, he, State.soloEnv] at hc ⊢

/-- The words of the bundle of a syllable alone. -/
theorem soloLen_eq {i : Instr} {c : SlotClass} {w e : W32} (he : encode i = some (c, w, e)) (rep : BitVec 5) :
    (soloBundle c w e rep).words = soloLen i := by simp [soloLen, he, soloBundle]

/-- Where the seat goes on after a commit of one slot. -/
theorem commit_solo {s : State} {i : Instr} {c : SlotClass} {w e : W32} {cm : Commit} (hf : fieldsOk i = true)
    (he : encode i = some (c, w, e)) (hc : c ≠ .micro) :
    commitIssue s.cur (s.cycle (coreOf s.cur)) (soloBundle c w e (s.seat s.cur).rep) [s.soloSlot i c w e]
      { done := [cm], a := cm.act s } (s.seat s.cur).pc (s.soloEnv c w e).next (s.seat s.cur).rep (s.cycle (coreOf s.cur))
      = (cm.post.getD id) (match cm.npc with
          | none => s.gone (cm.act s) i cm.fl
          | some t => (((cm.act s).modSeat s.cur fun y => (s.seat s.cur).placed y (s.cycle (coreOf s.cur)) i cm.fl t
              (if cm.pops then popTo t y.frame.loop else y.frame.loop)).modCore (coreOf s.cur) fun c =>
                c.issued s.cur)) := by
  have h1 : ∀ (y : Seat) (n : Nat), (y.startDue n).frame = y.frame := by intro y n; unfold Seat.startDue; split <;> rfl
  have h2 : ∀ (y : Seat) (n : Nat), (y.startDue n).fflags = y.fflags := by intro y n; unfold Seat.startDue; split <;> rfl
  have h3 : ∀ (y : Seat) (n : Nat), (y.startDue n).lastFirst = y.lastFirst := by intro y n; unfold Seat.startDue; split <;> rfl
  have h4 : ∀ fl : Flags, 0 ||| fl = fl := by intro fl; simp
  have h5 : (s.soloEnv c w e).next = (s.seat s.cur).pc + BitVec.ofNat 48 (4 * soloLen i) := by rw [← soloLen_eq he (s.seat s.cur).rep]; rfl
  have h6 : ∀ f : Frame, frameAfter (frameBefore f (soloBundle c w e (s.seat s.cur).rep).clr (s.seat s.cur).rep) [s.soloSlot i c w e]
      = stickyAfter f i := by intro f; rw [← frameAfter_solo (s := s) hf he hc]; rfl
  have h7 : (soloBundle c w e (s.seat s.cur).rep).rep = (s.seat s.cur).rep := rfl
  cases hn : cm.npc with
  | none =>
    cases hp : cm.post <;>
      simp only [commitIssue, List.foldl_cons, List.foldl_nil, List.findSome?_cons, List.findSome?_nil, hn, hp, Seat.advance, ne_eq, not_true,
        if_true, if_false, h1, h2, h3, h4, h5, h6, h7, State.gone, Core.issued, Seat.placed, Option.getD_none, Option.getD_some, id]
  | some t =>
    cases hq : cm.pops <;> cases hp : cm.post <;>
      simp only [commitIssue, List.foldl_cons, List.foldl_nil, List.findSome?_cons, List.findSome?_nil, hn, hp, hq, Seat.advance, ne_eq, not_true,
        if_true, if_false, h1, h2, h3, h4, h6, h7, Core.issued, Seat.placed, Option.getD_none, Option.getD_some, id, Option.isSome_some,
        Bool.and_true, List.any_cons, List.any_nil, Bool.or_false, Bool.and_false, Bool.false_eq_true]

/-- A syllable that commits and goes on. -/
theorem commits_of {s : State} {i : Instr} {ev : Eval} {c : SlotClass} {w e : W32} {cm : Commit} (h : s.Issuable i)
    (hx : exec i s = solo i ev s) (he : encode i = some (c, w, e)) (hc : c ≠ .micro) (hev : ev s s (s.soloEnv c w e) = .ok cm)
    (hn : cm.npc = none) (hp : cm.post = none) : Commits s i (cm.act s) cm.fl := by
  unfold Commits
  rw [hx, solo, issueSolo_ok h he hev, commit_solo h.fields he hc, hn, hp]; rfl

/-- A syllable that commits and transfers control. -/
theorem transfers_of {s : State} {i : Instr} {ev : Eval} {c : SlotClass} {w e : W32} {cm : Commit} {t : Addr} (h : s.Issuable i)
    (hx : exec i s = solo i ev s) (he : encode i = some (c, w, e)) (hc : c ≠ .micro) (hev : ev s s (s.soloEnv c w e) = .ok cm)
    (hn : cm.npc = some t) (hp : cm.post = none) (hf : cm.fl = 0) : Transfers s i (cm.act s) t cm.pops := by
  unfold Transfers
  rw [hx, solo, issueSolo_ok h he hev, commit_solo h.fields he hc, hn, hp, hf]; rfl

/-- A syllable that commits, goes on, and then does something more. -/
theorem commits_post {s : State} {i : Instr} {ev : Eval} {c : SlotClass} {w e : W32} {cm : Commit} {f : State → State} (h : s.Issuable i)
    (hx : exec i s = solo i ev s) (he : encode i = some (c, w, e)) (hc : c ≠ .micro) (hev : ev s s (s.soloEnv c w e) = .ok cm)
    (hn : cm.npc = none) (hp : cm.post = some f) : exec i s = .next (f (s.gone (cm.act s) i cm.fl)) := by
  rw [hx, solo, issueSolo_ok h he hev, commit_solo h.fields he hc, hn, hp]; rfl

/-- A syllable whose evaluation faults takes the trap. -/
theorem traps_of {s : State} {i : Instr} {ev : Eval} {c : SlotClass} {w e : W32} {cause : Nat} {va : W64} {m : BitVec 14} (h : s.Issuable i)
    (hx : exec i s = solo i ev s) (he : encode i = some (c, w, e)) (hm : maskOf [soloPos c] = m)
    (hev : ev s s (s.soloEnv c w e) = .fault cause va) : Traps s i cause va m := by
  unfold Traps
  rw [hx, solo, issueSolo_fault h he hev, hm]

/-! ## What the commit of one slot leaves alone -/

/-- What it leaves of a seat. -/
theorem placed_regs (x y : Seat) (now : Nat) (i : Instr) (fl : Flags) (pc : Addr) (l : List LoopEnt) (r : Reg) :
    (x.placed y now i fl pc l).reg r = y.reg r ∧ (x.placed y now i fl pc l).isEmpty r = y.isEmpty r := by
  unfold Seat.placed Seat.startDue
  constructor <;> (split <;> rfl)

/-- A change of one seat, its core, and where it stands changes nothing else. -/
theorem seatOnly_commit (s : State) (k : Nat) (f g : Seat → Seat) (h : Core → Core) :
    SeatOnly s (((s.modSeat k f).modSeat k g).modCore (coreOf k) h) k where
  bytes _ := by simp
  seats j hj := by simp [modSeat_seat, hj]
  cores j hj := by simp [modCore_core, hj]
  rest := by simp only [State.modCore, State.setCore, State.modSeat, State.setSeat]

/-- A slot that writes one register writes that register and changes nothing else. -/
theorem writesReg_of {s : State} {i : Instr} {ev : Eval} {c : SlotClass} {w e : W32} {a : Reg} {v : W64} {fl : Flags} (h : s.Issuable i)
    (hx : exec i s = solo i ev s) (he : encode i = some (c, w, e)) (hc : c ≠ .micro)
    (hev : ev s s (s.soloEnv c w e) = okReg (s.soloEnv c w e) a v fl) : WritesReg s i a v fl := by
  have hs : exec i s = .next (s.gone (s.modSeat s.cur fun x => x.setReg a v) i fl) := commits_of h hx he hc hev rfl rfl
  refine ⟨_, hs, ?_, ?_, ?_, ?_⟩
  · rw [State.gone, modCore_seat, modSeat_seat_same, modSeat_seat_same, (placed_regs _ _ _ _ _ _ _ _).1, reg_setReg]
    by_cases ha : a = 0#6
    · subst ha; simp
    · simp [ha]
  · rw [State.gone, modCore_seat, modSeat_seat_same, modSeat_seat_same]
    refine ⟨fun r hr => ?_, fun r => ?_, ?_, fun hd => ?_, ?_⟩
    · rw [(placed_regs _ _ _ _ _ _ _ _).1, reg_setReg_other _ _ _ _ (by simpa using hr)]
    · rw [(placed_regs _ _ _ _ _ _ _ _).2, setReg_isEmpty]
    · simp [Seat.placed]
    · simp [Seat.placed, Seat.startDue, hd]
    · unfold Seat.placed Seat.startDue Seat.setReg
      (repeat' split) <;> rfl
  · rw [State.gone, modCore_seat, modSeat_seat_same, modSeat_seat_same]
    refine ⟨?_, ?_, ?_⟩
    · simp only [Seat.placed, setReg_frame]
    · simp [Seat.placed]
    · simp only [Seat.placed, setReg_frame]
  · rw [State.gone]; exact seatOnly_commit _ _ _ _ _

end Sys2Proof.Machine
end

