-- ==== Sys2Proof/Laws/Memory.lean ====
section
/-!
SUPPORT. Memory: what a byte reads as after each operation on it, and that every operation keeps the canonical form.
-/

namespace Sys2Proof.Machine

/-! ## Reads after writes -/

/-- A byte outside the bytes written reads as before. -/
theorem get_putBytes_outside (m : SMap Byte) (k : Nat) (l : List Byte) {a : Nat} (h : a < k ∨ k + l.length ≤ a) :
    SMap.get memDefault (putBytes m k l) a = SMap.get memDefault m a := by
  induction l generalizing m k with
  | nil => rfl
  | cons b l ih =>
    simp only [List.length_cons] at h
    rw [putBytes, ih _ _ (by omega), SMap.get_set_other _ _ _ (by omega)]

/-- A byte written reads as what was written. -/
theorem get_putBytes_inside (m : SMap Byte) (k : Nat) (l : List Byte) {i : Nat} (h : i < l.length) :
    SMap.get memDefault (putBytes m k l) (k + i) = l[i] := by
  induction l generalizing m k i with
  | nil => simp at h
  | cons b l ih =>
    rw [putBytes]
    cases i with
    | zero => rw [get_putBytes_outside _ _ _ (by omega)]; simp
    | succ i =>
      have := ih (SMap.set memDefault m k b) (k + 1) (i := i) (by simpa using h)
      simpa [Nat.add_assoc, Nat.add_comm 1] using this

/-- A write of bytes leaves every other byte alone. -/
theorem rdByte_wrBytes_outside (s : State) (k : Nat) (l : List Byte) {a : Nat} (h : a < k ∨ k + l.length ≤ a) :
    (s.wrBytes k l).rdByte a = s.rdByte a := get_putBytes_outside s.mem k l h

/-- A byte written reads back. -/
theorem rdByte_wrBytes_inside (s : State) (k : Nat) (l : List Byte) {i : Nat} (h : i < l.length) :
    (s.wrBytes k l).rdByte (k + i) = l[i] := get_putBytes_inside s.mem k l h

@[simp] theorem length_bytesLE (n v : Nat) : (bytesLE n v).length = n := by
  induction n generalizing v with
  | zero => rfl
  | succ n ih => simp [bytesLE, ih]

/-- A write of a number leaves every other byte alone. -/
theorem rdByte_wrNat_outside (s : State) (k n v : Nat) {a : Nat} (h : a < k ∨ k + n ≤ a) : (s.wrNat k n v).rdByte a = s.rdByte a :=
  rdByte_wrBytes_outside s k _ (by simpa using h)

/-- The bytes written are the number modulo 256^n. -/
theorem ofBytesLE_bytesLE (n v : Nat) : ofBytesLE (bytesLE n v) = v % 256 ^ n := by
  induction n generalizing v with
  | zero => simp [bytesLE, ofBytesLE, Nat.mod_one]
  | succ n ih =>
    rw [bytesLE, ofBytesLE, ih, Nat.pow_succ, Nat.mul_comm (256 ^ n), Nat.mod_mul]
    simp

@[simp] theorem length_rdBytes (s : State) (k n : Nat) : (s.rdBytes k n).length = n := by
  induction n generalizing k with
  | zero => rfl
  | succ n ih => simp [State.rdBytes, ih]

/-- Bytes outside those written read as before. -/
theorem rdBytes_wrBytes_outside (s : State) (k a n : Nat) (l : List Byte) (h : a + n ≤ k ∨ k + l.length ≤ a) :
    (s.wrBytes k l).rdBytes a n = s.rdBytes a n := by
  induction n generalizing a with
  | zero => rfl
  | succ n ih => rw [State.rdBytes, State.rdBytes, rdByte_wrBytes_outside _ _ _ (by omega), ih _ (by omega)]

/-- Bytes that are known one by one are read together. -/
theorem rdBytes_eq (s : State) (k n : Nat) (r : List Byte) (hr : r.length = n)
    (h : ∀ i, (hi : i < r.length) → s.rdByte (k + i) = r[i]) : s.rdBytes k n = r := by
  induction n generalizing k r with
  | zero => rw [List.length_eq_zero_iff.mp hr]; rfl
  | succ n ih =>
    cases r with
    | nil => simp at hr
    | cons b r =>
      rw [State.rdBytes, ih (k + 1) r (by simpa using hr)]
      · have := h 0 (by simp); simpa using this
      · intro i hi
        have := h (i + 1) (by simpa using hi)
        simpa [Nat.add_assoc, Nat.add_comm 1] using this

/-- Bytes written read back. -/
theorem rdBytes_wrBytes_same (s : State) (k : Nat) (l : List Byte) : (s.wrBytes k l).rdBytes k l.length = l :=
  rdBytes_eq _ _ _ _ rfl fun _ hi => rdByte_wrBytes_inside s k l hi

/-- A number written reads back, modulo 256^n (R24). -/
theorem rdNat_wrNat_same (s : State) (k n v : Nat) : (s.wrNat k n v).rdNat k n = v % 256 ^ n := by
  have := rdBytes_wrBytes_same s k (bytesLE n v)
  rw [length_bytesLE] at this
  rw [State.rdNat, State.wrNat, this, ofBytesLE_bytesLE]

/-! ## The canonical form -/

/-- A write of bytes keeps the canonical form. -/
theorem wf_putBytes {m : SMap Byte} (h : Memory.wf m = true) (k : Nat) (l : List Byte) : Memory.wf (putBytes m k l) = true := by
  induction l generalizing m k with
  | nil => exact h
  | cons b l ih => exact ih (SMap.wf_set h k b) (k + 1)

/-- Keeping some locations keeps the canonical form. -/
theorem wf_keepBytes {m : SMap Byte} (h : Memory.wf m = true) (p : Nat → Bool) : Memory.wf (SMap.keep p m) = true := SMap.wf_keep h p

theorem nats_from_eq (a n : Nat) : natsFrom a n = List.range' a n := by
  induction n generalizing a with
  | zero => rfl
  | succ n ih => simp [natsFrom, ih, List.range']

theorem wf_spliced {α : Type} [DecidableEq α] (d : α) (lo a n : Nat) (f : Nat → α) :
    SMap.wf d ((natsFrom a n).filterMap fun i => if f i = d then none else some (lo + i, f i)) = true
      ∧ ∀ e ∈ (natsFrom a n).filterMap (fun i => if f i = d then none else some (lo + i, f i)), lo + a ≤ e.1 ∧ e.1 < lo + a + n := by
  induction n generalizing a with
  | zero => simp [natsFrom]
  | succ n ih =>
    obtain ⟨h1, h2⟩ := ih (a + 1)
    simp only [natsFrom, List.filterMap_cons]
    split
    · next hf =>
      refine ⟨h1, fun e he => ?_⟩
      have := h2 e he; omega
    · next b hf =>
      split at hf
      · simp at hf
      · next hd =>
        simp only [Option.some.injEq] at hf
        subst hf
        refine ⟨?_, ?_⟩
        · simp only [SMap.wf, Bool.and_eq_true, decide_eq_true_eq]
          refine ⟨⟨hd, ?_⟩, h1⟩
          simp only [SMap.above, List.all_eq_true, decide_eq_true_eq]
          intro e he
          have := h2 e he; omega
        · intro e he
          rcases List.mem_cons.mp he with h | h
          · subst h; simp only; omega
          · have := h2 e h; omega

/-- Replacing a range of locations keeps the canonical form. -/
theorem wf_splice {α : Type} [DecidableEq α] {d : α} {m : SMap α} (h : SMap.wf d m = true) (lo n : Nat) (f : Nat → α) :
    SMap.wf d (splice d m lo n f) = true := by
  obtain ⟨h1, h2⟩ := wf_spliced d lo 0 n f
  unfold splice nats
  refine SMap.wf_append (SMap.wf_append (SMap.wf_keep h _) h1 ?_) (SMap.wf_keep h _) ?_
  · intro e he
    simp only [SMap.keep, List.mem_filter, decide_eq_true_eq] at he
    simp only [SMap.above, List.all_eq_true, decide_eq_true_eq]
    intro x hx
    have := h2 x hx; omega
  · intro e he
    simp only [SMap.above, List.all_eq_true, decide_eq_true_eq, SMap.keep, List.mem_filter]
    rintro x ⟨-, hx⟩
    rcases List.mem_append.mp he with h | h
    · simp only [SMap.keep, List.mem_filter, decide_eq_true_eq] at h; omega
    · have := h2 e h; omega

/-- A write of bytes to the package's memory keeps the canonical form. -/
theorem wf_wrBytes {s : State} (h : Memory.wf s.mem = true) (k : Nat) (l : List Byte) : Memory.wf (s.wrBytes k l).mem = true :=
  wf_putBytes h k l

/-- So does a write of a number. -/
theorem wf_wrNat {s : State} (h : Memory.wf s.mem = true) (k n v : Nat) : Memory.wf (s.wrNat k n v).mem = true := wf_wrBytes h k _

/-- So does the erasure of a range. -/
theorem wf_wipe {s : State} (h : Memory.wf s.mem = true) (k n : Nat) : Memory.wf (s.wipe k n).mem = true := by
  have := SMap.wf_keep h fun a => decide (a < k ∨ k + n ≤ a)
  simpa [State.wipe, Memory.wf] using this

/-- The memory of the package at power-up has the canonical form. -/
theorem wf_reset : Memory.wf State.reset.mem = true := rfl

end Sys2Proof.Machine
end

