-- ==== Sys2Proof/Laws/PerInstr.lean ====
section
/-!
SUPPORT. A family of statements with one lemma for each constructor of Instr: which instructions have an extension word (R53). Where bit 31 of
the first word is 0, and for every V syllable and micro-operation, no extension word follows; and a V syllable has 16 bits.
-/

namespace Sys2Proof.Laws.ExtensionWords

/-- The words of an instruction have an extension word that is not zero only where bit 31 of a 32-bit syllable is set (R53). -/
def Statement (i : Instr) : Prop :=
  ∀ c w e, encode i = some (c, w, e) →
    (c = .slotV → w.toNat < 2 ^ 16) ∧ (c = .slotV ∨ c = .micro ∨ w.getLsbD 31 = false → e = 0)

/-- Bit 31 of a syllable is the top bit of OP. -/
theorem syl_bit31 (op : BitVec 8) (a b c fl : BitVec 6) : (syl op a b c fl).getLsbD 31 = op.getLsbD 7 := by
  unfold syl; repeat rw [BitVec.getLsbD_append]
  rfl

/-- An instruction without an encoding (an event). -/
theorem noWord {i : Instr} (h : encode i = none) : Statement i := by
  intro c w e h'; simp [h] at h'

/-- A 32-bit syllable or micro-operation without an extension word. -/
theorem plain {i : Instr} {k : SlotClass} {x : W32} (h : encode i = some (k, x, 0)) (hk : k ≠ .slotV) : Statement i := by
  intro c w e h'
  obtain ⟨rfl, rfl, rfl⟩ : k = c ∧ x = w ∧ 0 = e := by simpa [h] using h'
  exact ⟨fun hc => absurd hc hk, fun _ => rfl⟩

/-- A syllable with an extension word. -/
theorem extended {i : Instr} {k : SlotClass} {op : BitVec 8} {a b d fl : BitVec 6} {y : W32}
    (h : encode i = some (k, syl op a b d fl, y)) (hk : k ≠ .slotV) (hm : k ≠ .micro) (ho : op.getLsbD 7 = true) : Statement i := by
  intro c w e h'
  obtain ⟨rfl, rfl, rfl⟩ : k = c ∧ syl op a b d fl = w ∧ y = e := by simpa [h] using h'
  refine ⟨fun hc => absurd hc hk, ?_⟩
  rintro (hc | hc | hc)
  · exact absurd hc hk
  · exact absurd hc hm
  · rw [syl_bit31, ho] at hc; cases hc

/-- A V syllable. -/
theorem short {i : Instr} {v : BitVec 16} (h : encode i = some (.slotV, v.setWidth 32, 0)) : Statement i := by
  intro c w e h'
  obtain ⟨rfl, rfl, rfl⟩ : SlotClass.slotV = c ∧ v.setWidth 32 = w ∧ 0 = e := by simpa [h] using h'
  exact ⟨fun _ => by simp only [BitVec.toNat_setWidth]; have := v.isLt; omega, fun _ => rfl⟩

end Sys2Proof.Laws.ExtensionWords

open Sys2Proof Sys2Proof.Laws


theorem Sys2Proof.Laws.ExtensionWords.bundleIssue (core : Nat) : ExtensionWords.Statement (.bundleIssue core) := ExtensionWords.noWord rfl
theorem Sys2Proof.Laws.ExtensionWords.landingDataReturn (id : Nat) : ExtensionWords.Statement (.landingDataReturn id) := ExtensionWords.noWord rfl
theorem Sys2Proof.Laws.ExtensionWords.producerResultArrival (id : Nat) : ExtensionWords.Statement (.producerResultArrival id) := ExtensionWords.noWord rfl
theorem Sys2Proof.Laws.ExtensionWords.streamElementFetch (seat sq : Nat) : ExtensionWords.Statement (.streamElementFetch seat sq) := ExtensionWords.noWord rfl
theorem Sys2Proof.Laws.ExtensionWords.streamElementWrite (seat sq : Nat) : ExtensionWords.Statement (.streamElementWrite seat sq) := ExtensionWords.noWord rfl
theorem Sys2Proof.Laws.ExtensionWords.jr (b : Reg) (p : Bool) : ExtensionWords.Statement (.jr b p) := ExtensionWords.plain rfl (by decide)
theorem Sys2Proof.Laws.ExtensionWords.jlr (a b : Reg) (p : Bool) : ExtensionWords.Statement (.jlr a b p) := ExtensionWords.plain rfl (by decide)
theorem Sys2Proof.Laws.ExtensionWords.ret (b : Reg) (p : Bool) : ExtensionWords.Statement (.ret b p) := ExtensionWords.plain rfl (by decide)
theorem Sys2Proof.Laws.ExtensionWords.trap (imm : BitVec 12) : ExtensionWords.Statement (.trap imm) := ExtensionWords.plain rfl (by decide)
theorem Sys2Proof.Laws.ExtensionWords.bra (off : W32) : ExtensionWords.Statement (.bra off) := ExtensionWords.extended rfl (by decide) (by decide) rfl
theorem Sys2Proof.Laws.ExtensionWords.bl (a : Reg) (off : W32) : ExtensionWords.Statement (.bl a off) := ExtensionWords.extended rfl (by decide) (by decide) rfl
theorem Sys2Proof.Laws.ExtensionWords.beq (b c : Reg) (p q : Bool) (off : W32) : ExtensionWords.Statement (.beq b c p q off) := ExtensionWords.extended rfl (by decide) (by decide) rfl
theorem Sys2Proof.Laws.ExtensionWords.bne (b c : Reg) (p q : Bool) (off : W32) : ExtensionWords.Statement (.bne b c p q off) := ExtensionWords.extended rfl (by decide) (by decide) rfl
theorem Sys2Proof.Laws.ExtensionWords.blt (b c : Reg) (p q : Bool) (off : W32) : ExtensionWords.Statement (.blt b c p q off) := ExtensionWords.extended rfl (by decide) (by decide) rfl
theorem Sys2Proof.Laws.ExtensionWords.bge (b c : Reg) (p q : Bool) (off : W32) : ExtensionWords.Statement (.bge b c p q off) := ExtensionWords.extended rfl (by decide) (by decide) rfl
theorem Sys2Proof.Laws.ExtensionWords.bltu (b c : Reg) (p q : Bool) (off : W32) : ExtensionWords.Statement (.bltu b c p q off) := ExtensionWords.extended rfl (by decide) (by decide) rfl
theorem Sys2Proof.Laws.ExtensionWords.bgeu (b c : Reg) (p q : Bool) (off : W32) : ExtensionWords.Statement (.bgeu b c p q off) := ExtensionWords.extended rfl (by decide) (by decide) rfl
theorem Sys2Proof.Laws.ExtensionWords.bkany (k : BitVec 3) (mask : BitVec 8) (off : BitVec 24) : ExtensionWords.Statement (.bkany k mask off) := ExtensionWords.extended rfl (by decide) (by decide) rfl
theorem Sys2Proof.Laws.ExtensionWords.loop (b : Reg) (p : Bool) (off : W32) : ExtensionWords.Statement (.loop b p off) := ExtensionWords.extended rfl (by decide) (by decide) rfl
theorem Sys2Proof.Laws.ExtensionWords.loopq (n : BitVec 3) (off : W32) : ExtensionWords.Statement (.loopq n off) := ExtensionWords.extended rfl (by decide) (by decide) rfl
theorem Sys2Proof.Laws.ExtensionWords.add (w : Wd) (a b c : Reg) (p q : Bool) : ExtensionWords.Statement (.add w a b c p q) := ExtensionWords.plain rfl (by decide)
theorem Sys2Proof.Laws.ExtensionWords.sub (w : Wd) (a b c : Reg) (p q : Bool) : ExtensionWords.Statement (.sub w a b c p q) := ExtensionWords.plain rfl (by decide)
theorem Sys2Proof.Laws.ExtensionWords.mul (w : Wd) (a b c : Reg) (p q : Bool) : ExtensionWords.Statement (.mul w a b c p q) := ExtensionWords.plain rfl (by decide)
theorem Sys2Proof.Laws.ExtensionWords.mulh (w : Wd) (a b c : Reg) (p q : Bool) : ExtensionWords.Statement (.mulh w a b c p q) := ExtensionWords.plain rfl (by decide)
theorem Sys2Proof.Laws.ExtensionWords.mulhu (w : Wd) (a b c : Reg) (p q : Bool) : ExtensionWords.Statement (.mulhu w a b c p q) := ExtensionWords.plain rfl (by decide)
theorem Sys2Proof.Laws.ExtensionWords.div (w : Wd) (a b c : Reg) (p q : Bool) : ExtensionWords.Statement (.div w a b c p q) := ExtensionWords.plain rfl (by decide)
theorem Sys2Proof.Laws.ExtensionWords.divu (w : Wd) (a b c : Reg) (p q : Bool) : ExtensionWords.Statement (.divu w a b c p q) := ExtensionWords.plain rfl (by decide)
theorem Sys2Proof.Laws.ExtensionWords.rem (w : Wd) (a b c : Reg) (p q : Bool) : ExtensionWords.Statement (.rem w a b c p q) := ExtensionWords.plain rfl (by decide)
theorem Sys2Proof.Laws.ExtensionWords.remu (w : Wd) (a b c : Reg) (p q : Bool) : ExtensionWords.Statement (.remu w a b c p q) := ExtensionWords.plain rfl (by decide)
theorem Sys2Proof.Laws.ExtensionWords.and (w : Wd) (a b c : Reg) (p q : Bool) : ExtensionWords.Statement (.and w a b c p q) := ExtensionWords.plain rfl (by decide)
theorem Sys2Proof.Laws.ExtensionWords.or (w : Wd) (a b c : Reg) (p q : Bool) : ExtensionWords.Statement (.or w a b c p q) := ExtensionWords.plain rfl (by decide)
theorem Sys2Proof.Laws.ExtensionWords.xor (w : Wd) (a b c : Reg) (p q : Bool) : ExtensionWords.Statement (.xor w a b c p q) := ExtensionWords.plain rfl (by decide)
theorem Sys2Proof.Laws.ExtensionWords.shl (w : Wd) (a b c : Reg) (p q : Bool) : ExtensionWords.Statement (.shl w a b c p q) := ExtensionWords.plain rfl (by decide)
theorem Sys2Proof.Laws.ExtensionWords.shr (w : Wd) (a b c : Reg) (p q : Bool) : ExtensionWords.Statement (.shr w a b c p q) := ExtensionWords.plain rfl (by decide)
theorem Sys2Proof.Laws.ExtensionWords.sar (w : Wd) (a b c : Reg) (p q : Bool) : ExtensionWords.Statement (.sar w a b c p q) := ExtensionWords.plain rfl (by decide)
theorem Sys2Proof.Laws.ExtensionWords.shli (w : Wd) (a b : Reg) (n : BitVec 6) (p : Bool) : ExtensionWords.Statement (.shli w a b n p) := ExtensionWords.plain rfl (by decide)
theorem Sys2Proof.Laws.ExtensionWords.shri (w : Wd) (a b : Reg) (n : BitVec 6) (p : Bool) : ExtensionWords.Statement (.shri w a b n p) := ExtensionWords.plain rfl (by decide)
theorem Sys2Proof.Laws.ExtensionWords.sari (w : Wd) (a b : Reg) (n : BitVec 6) (p : Bool) : ExtensionWords.Statement (.sari w a b n p) := ExtensionWords.plain rfl (by decide)
theorem Sys2Proof.Laws.ExtensionWords.clz (w : Wd) (a b : Reg) (p : Bool) : ExtensionWords.Statement (.clz w a b p) := ExtensionWords.plain rfl (by decide)
theorem Sys2Proof.Laws.ExtensionWords.ctz (w : Wd) (a b : Reg) (p : Bool) : ExtensionWords.Statement (.ctz w a b p) := ExtensionWords.plain rfl (by decide)
theorem Sys2Proof.Laws.ExtensionWords.popc (w : Wd) (a b : Reg) (p : Bool) : ExtensionWords.Statement (.popc w a b p) := ExtensionWords.plain rfl (by decide)
theorem Sys2Proof.Laws.ExtensionWords.min (w : Wd) (a b c : Reg) (p q : Bool) : ExtensionWords.Statement (.min w a b c p q) := ExtensionWords.plain rfl (by decide)
theorem Sys2Proof.Laws.ExtensionWords.max (w : Wd) (a b c : Reg) (p q : Bool) : ExtensionWords.Statement (.max w a b c p q) := ExtensionWords.plain rfl (by decide)
theorem Sys2Proof.Laws.ExtensionWords.minu (w : Wd) (a b c : Reg) (p q : Bool) : ExtensionWords.Statement (.minu w a b c p q) := ExtensionWords.plain rfl (by decide)
theorem Sys2Proof.Laws.ExtensionWords.maxu (w : Wd) (a b c : Reg) (p q : Bool) : ExtensionWords.Statement (.maxu w a b c p q) := ExtensionWords.plain rfl (by decide)
theorem Sys2Proof.Laws.ExtensionWords.seq (w : Wd) (a b c : Reg) (p q : Bool) : ExtensionWords.Statement (.seq w a b c p q) := ExtensionWords.plain rfl (by decide)
theorem Sys2Proof.Laws.ExtensionWords.slt (w : Wd) (a b c : Reg) (p q : Bool) : ExtensionWords.Statement (.slt w a b c p q) := ExtensionWords.plain rfl (by decide)
theorem Sys2Proof.Laws.ExtensionWords.sltu (w : Wd) (a b c : Reg) (p q : Bool) : ExtensionWords.Statement (.sltu w a b c p q) := ExtensionWords.plain rfl (by decide)
theorem Sys2Proof.Laws.ExtensionWords.fadd (a b c : Reg) (p q : Bool) (rm : BitVec 2) (sat : Bool) : ExtensionWords.Statement (.fadd a b c p q rm sat) := ExtensionWords.plain rfl (by decide)
theorem Sys2Proof.Laws.ExtensionWords.fsub (a b c : Reg) (p q : Bool) (rm : BitVec 2) (sat : Bool) : ExtensionWords.Statement (.fsub a b c p q rm sat) := ExtensionWords.plain rfl (by decide)
theorem Sys2Proof.Laws.ExtensionWords.fmul (a b c : Reg) (p q : Bool) (rm : BitVec 2) (sat : Bool) : ExtensionWords.Statement (.fmul a b c p q rm sat) := ExtensionWords.plain rfl (by decide)
theorem Sys2Proof.Laws.ExtensionWords.fdiv (a b c : Reg) (p q : Bool) (rm : BitVec 2) (sat : Bool) : ExtensionWords.Statement (.fdiv a b c p q rm sat) := ExtensionWords.plain rfl (by decide)
theorem Sys2Proof.Laws.ExtensionWords.fsqrt (a b : Reg) (p : Bool) (rm : BitVec 2) (sat : Bool) : ExtensionWords.Statement (.fsqrt a b p rm sat) := ExtensionWords.plain rfl (by decide)
theorem Sys2Proof.Laws.ExtensionWords.fmin (a b c : Reg) (p q : Bool) : ExtensionWords.Statement (.fmin a b c p q) := ExtensionWords.plain rfl (by decide)
theorem Sys2Proof.Laws.ExtensionWords.fmax (a b c : Reg) (p q : Bool) : ExtensionWords.Statement (.fmax a b c p q) := ExtensionWords.plain rfl (by decide)
theorem Sys2Proof.Laws.ExtensionWords.fcmp (a b c : Reg) (p q : Bool) (cond : BitVec 2) : ExtensionWords.Statement (.fcmp a b c p q cond) := ExtensionWords.plain rfl (by decide)
theorem Sys2Proof.Laws.ExtensionWords.fcvt (a b : Reg) (tgt src : BitVec 3) (p : Bool) (rm : BitVec 2) (sat : Bool) : ExtensionWords.Statement (.fcvt a b tgt src p rm sat) := ExtensionWords.plain rfl (by decide)
theorem Sys2Proof.Laws.ExtensionWords.rdc (a : Reg) (num : BitVec 12) : ExtensionWords.Statement (.rdc a num) := ExtensionWords.plain rfl (by decide)
theorem Sys2Proof.Laws.ExtensionWords.wrc (num : BitVec 12) (c : Reg) (q : Bool) : ExtensionWords.Statement (.wrc num c q) := ExtensionWords.plain rfl (by decide)
theorem Sys2Proof.Laws.ExtensionWords.stow (j b : Reg) (p vec : Bool) : ExtensionWords.Statement (.stow j b p vec) := ExtensionWords.plain rfl (by decide)
theorem Sys2Proof.Laws.ExtensionWords.unstow (a j : Reg) (vec : Bool) : ExtensionWords.Statement (.unstow a j vec) := ExtensionWords.plain rfl (by decide)
theorem Sys2Proof.Laws.ExtensionWords.li (w : Wd) (a : Reg) (imm : W32) : ExtensionWords.Statement (.li w a imm) := ExtensionWords.extended rfl (by decide) (by decide) rfl
theorem Sys2Proof.Laws.ExtensionWords.lih (a : Reg) (p : Bool) (imm : W32) : ExtensionWords.Statement (.lih a p imm) := ExtensionWords.extended rfl (by decide) (by decide) rfl
theorem Sys2Proof.Laws.ExtensionWords.lea (a b : Reg) (p : Bool) (m : MemOp) : ExtensionWords.Statement (.lea a b p m) := ExtensionWords.extended rfl (by decide) (by decide) rfl
theorem Sys2Proof.Laws.ExtensionWords.addi (w : Wd) (a b : Reg) (p : Bool) (imm : W32) : ExtensionWords.Statement (.addi w a b p imm) := ExtensionWords.extended rfl (by decide) (by decide) rfl
theorem Sys2Proof.Laws.ExtensionWords.andi (w : Wd) (a b : Reg) (p : Bool) (imm : W32) : ExtensionWords.Statement (.andi w a b p imm) := ExtensionWords.extended rfl (by decide) (by decide) rfl
theorem Sys2Proof.Laws.ExtensionWords.ori (w : Wd) (a b : Reg) (p : Bool) (imm : W32) : ExtensionWords.Statement (.ori w a b p imm) := ExtensionWords.extended rfl (by decide) (by decide) rfl
theorem Sys2Proof.Laws.ExtensionWords.xori (w : Wd) (a b : Reg) (p : Bool) (imm : W32) : ExtensionWords.Statement (.xori w a b p imm) := ExtensionWords.extended rfl (by decide) (by decide) rfl
theorem Sys2Proof.Laws.ExtensionWords.ldb (a b : Reg) (p : Bool) (arr : BitVec 12) (m : MemOp) : ExtensionWords.Statement (.ldb a b p arr m) := ExtensionWords.extended rfl (by decide) (by decide) rfl
theorem Sys2Proof.Laws.ExtensionWords.ldbu (a b : Reg) (p : Bool) (arr : BitVec 12) (m : MemOp) : ExtensionWords.Statement (.ldbu a b p arr m) := ExtensionWords.extended rfl (by decide) (by decide) rfl
theorem Sys2Proof.Laws.ExtensionWords.ldh (a b : Reg) (p : Bool) (arr : BitVec 12) (m : MemOp) : ExtensionWords.Statement (.ldh a b p arr m) := ExtensionWords.extended rfl (by decide) (by decide) rfl
theorem Sys2Proof.Laws.ExtensionWords.ldhu (a b : Reg) (p : Bool) (arr : BitVec 12) (m : MemOp) : ExtensionWords.Statement (.ldhu a b p arr m) := ExtensionWords.extended rfl (by decide) (by decide) rfl
theorem Sys2Proof.Laws.ExtensionWords.ldw (a b : Reg) (p : Bool) (arr : BitVec 12) (m : MemOp) : ExtensionWords.Statement (.ldw a b p arr m) := ExtensionWords.extended rfl (by decide) (by decide) rfl
theorem Sys2Proof.Laws.ExtensionWords.ldwu (a b : Reg) (p : Bool) (arr : BitVec 12) (m : MemOp) : ExtensionWords.Statement (.ldwu a b p arr m) := ExtensionWords.extended rfl (by decide) (by decide) rfl
theorem Sys2Proof.Laws.ExtensionWords.ldd (a b : Reg) (p : Bool) (arr : BitVec 12) (m : MemOp) : ExtensionWords.Statement (.ldd a b p arr m) := ExtensionWords.extended rfl (by decide) (by decide) rfl
theorem Sys2Proof.Laws.ExtensionWords.stb (b c : Reg) (p q : Bool) (m : MemOp) : ExtensionWords.Statement (.stb b c p q m) := ExtensionWords.extended rfl (by decide) (by decide) rfl
theorem Sys2Proof.Laws.ExtensionWords.sth (b c : Reg) (p q : Bool) (m : MemOp) : ExtensionWords.Statement (.sth b c p q m) := ExtensionWords.extended rfl (by decide) (by decide) rfl
theorem Sys2Proof.Laws.ExtensionWords.stw (b c : Reg) (p q : Bool) (m : MemOp) : ExtensionWords.Statement (.stw b c p q m) := ExtensionWords.extended rfl (by decide) (by decide) rfl
theorem Sys2Proof.Laws.ExtensionWords.std (b c : Reg) (p q : Bool) (m : MemOp) : ExtensionWords.Statement (.std b c p q m) := ExtensionWords.extended rfl (by decide) (by decide) rfl
theorem Sys2Proof.Laws.ExtensionWords.sel (w : Wd) (a b c : Reg) (p q : Bool) (x : Reg) (r : Bool) : ExtensionWords.Statement (.sel w a b c p q x r) := ExtensionWords.extended rfl (by decide) (by decide) rfl
theorem Sys2Proof.Laws.ExtensionWords.ffma (a b c : Reg) (p q : Bool) (rm : BitVec 2) (sat : Bool) (x : Reg) (r : Bool) : ExtensionWords.Statement (.ffma a b c p q rm sat x r) := ExtensionWords.extended rfl (by decide) (by decide) rfl
theorem Sys2Proof.Laws.ExtensionWords.hcw (idx : BitVec 9) (k : BitVec 3) (inv : Bool) (base : BitVec 3) : ExtensionWords.Statement (.hcw idx k inv base) := ExtensionWords.short rfl
theorem Sys2Proof.Laws.ExtensionWords.lease (pm md h z : BitVec 4) : ExtensionWords.Statement (.lease pm md h z) := ExtensionWords.plain rfl (by decide)
theorem Sys2Proof.Laws.ExtensionWords.mzero (z : BitVec 2) (i32 : Bool) : ExtensionWords.Statement (.mzero z i32) := ExtensionWords.plain rfl (by decide)
theorem Sys2Proof.Laws.ExtensionWords.pmrd (a : Reg) (word : BitVec 4) (pm : BitVec 2) : ExtensionWords.Statement (.pmrd a word pm) := ExtensionWords.plain rfl (by decide)
theorem Sys2Proof.Laws.ExtensionWords.pmwr (word : BitVec 4) (pm : BitVec 2) (c : Reg) : ExtensionWords.Statement (.pmwr word pm c) := ExtensionWords.plain rfl (by decide)
theorem Sys2Proof.Laws.ExtensionWords.hldc (fmt : BitVec 4) (h : BitVec 2) (n : BitVec 2) : ExtensionWords.Statement (.hldc fmt h n) := ExtensionWords.plain rfl (by decide)
theorem Sys2Proof.Laws.ExtensionWords.mma (zd : BitVec 2) (sb : BitVec 4) (sel : BitVec 6) (c : BitVec 6) (fc : BitVec 4) : ExtensionWords.Statement (.mma zd sb sel c fc) := ExtensionWords.plain rfl (by decide)
theorem Sys2Proof.Laws.ExtensionWords.mmas (zd : BitVec 2) (sb : BitVec 4) (sel : BitVec 6) (c : BitVec 6) (md : BitVec 3) (seg : BitVec 2) (g8 : Bool) : ExtensionWords.Statement (.mmas zd sb sel c md seg g8) := ExtensionWords.plain rfl (by decide)
theorem Sys2Proof.Laws.ExtensionWords.cmpr (dsel sel : BitVec 6) (c : BitVec 6) (md : BitVec 3) (seg : BitVec 2) (g8 : Bool) : ExtensionWords.Statement (.cmpr dsel sel c md seg g8) := ExtensionWords.plain rfl (by decide)
theorem Sys2Proof.Laws.ExtensionWords.mtrans (zd zs : BitVec 2) : ExtensionWords.Statement (.mtrans zd zs) := ExtensionWords.plain rfl (by decide)
theorem Sys2Proof.Laws.ExtensionWords.flu (zd pm : BitVec 2) (b : Reg) (nf : Bool) : ExtensionWords.Statement (.flu zd pm b nf) := ExtensionWords.plain rfl (by decide)
theorem Sys2Proof.Laws.ExtensionWords.fchol (zd pm : BitVec 2) (b : Reg) : ExtensionWords.Statement (.fchol zd pm b) := ExtensionWords.plain rfl (by decide)
theorem Sys2Proof.Laws.ExtensionWords.fqr (zd pm zs : BitVec 2) (b : Reg) : ExtensionWords.Statement (.fqr zd pm zs b) := ExtensionWords.plain rfl (by decide)
theorem Sys2Proof.Laws.ExtensionWords.ftrs (zd pm zs : BitVec 2) (b : Reg) (nf upper unit : Bool) : ExtensionWords.Statement (.ftrs zd pm zs b nf upper unit) := ExtensionWords.plain rfl (by decide)
theorem Sys2Proof.Laws.ExtensionWords.fperm (zd pm : BitVec 2) (b : Reg) (cols inv : Bool) : ExtensionWords.Statement (.fperm zd pm b cols inv) := ExtensionWords.plain rfl (by decide)
theorem Sys2Proof.Laws.ExtensionWords.hld (fmt : BitVec 4) (h : BitVec 2) (b c : Reg) (swz : BitVec 3) (sx : Reg) (off : BitVec 16) : ExtensionWords.Statement (.hld fmt h b c swz sx off) := ExtensionWords.extended rfl (by decide) (by decide) rfl
theorem Sys2Proof.Laws.ExtensionWords.drain (z : BitVec 2) (fmt : BitVec 4) (b c : Reg) (rtz sc : Bool) (swz : BitVec 3) (sx : Reg) (hsize : BitVec 2) (had : Bool) (sh : BitVec 7) (off : BitVec 16) : ExtensionWords.Statement (.drain z fmt b c rtz sc swz sx hsize had sh off) := ExtensionWords.extended rfl (by decide) (by decide) rfl
theorem Sys2Proof.Laws.ExtensionWords.mdld (md : BitVec 3) (b : Reg) (off : BitVec 16) : ExtensionWords.Statement (.mdld md b off) := ExtensionWords.extended rfl (by decide) (by decide) rfl
theorem Sys2Proof.Laws.ExtensionWords.mdst (md : BitVec 3) (b : Reg) (off : BitVec 16) : ExtensionWords.Statement (.mdst md b off) := ExtensionWords.extended rfl (by decide) (by decide) rfl
theorem Sys2Proof.Laws.ExtensionWords.leaseGrant (quad : Nat) : ExtensionWords.Statement (.leaseGrant quad) := ExtensionWords.noWord rfl
theorem Sys2Proof.Laws.ExtensionWords.leaseIdleExpiry (seat : Nat) : ExtensionWords.Statement (.leaseIdleExpiry seat) := ExtensionWords.noWord rfl
theorem Sys2Proof.Laws.ExtensionWords.arrayCommandExecute (quad : Nat) : ExtensionWords.Statement (.arrayCommandExecute quad) := ExtensionWords.noWord rfl
theorem Sys2Proof.Laws.ExtensionWords.drainRetire (quad : Nat) : ExtensionWords.Statement (.drainRetire quad) := ExtensionWords.noWord rfl
theorem Sys2Proof.Laws.ExtensionWords.factorisationStep (quad : Nat) : ExtensionWords.Statement (.factorisationStep quad) := ExtensionWords.noWord rfl
theorem Sys2Proof.Laws.ExtensionWords.sbind (a sq : BitVec 4) (unbind : Bool) : ExtensionWords.Statement (.sbind a sq unbind) := ExtensionWords.plain rfl (by decide)
theorem Sys2Proof.Laws.ExtensionWords.sstart (sq : BitVec 4) : ExtensionWords.Statement (.sstart sq) := ExtensionWords.plain rfl (by decide)
theorem Sys2Proof.Laws.ExtensionWords.sstop (sq : BitVec 4) : ExtensionWords.Statement (.sstop sq) := ExtensionWords.plain rfl (by decide)
theorem Sys2Proof.Laws.ExtensionWords.sdrain (sq : BitVec 4) : ExtensionWords.Statement (.sdrain sq) := ExtensionWords.plain rfl (by decide)
theorem Sys2Proof.Laws.ExtensionWords.spos (a : Reg) (sq : BitVec 4) (c : Reg) (wr : Bool) : ExtensionWords.Statement (.spos a sq c wr) := ExtensionWords.plain rfl (by decide)
theorem Sys2Proof.Laws.ExtensionWords.tilearm (b c : Reg) : ExtensionWords.Statement (.tilearm b c) := ExtensionWords.plain rfl (by decide)
theorem Sys2Proof.Laws.ExtensionWords.tiledis (c : Reg) : ExtensionWords.Statement (.tiledis c) := ExtensionWords.plain rfl (by decide)
theorem Sys2Proof.Laws.ExtensionWords.cqpush (n : BitVec 3) (c : Reg) : ExtensionWords.Statement (.cqpush n c) := ExtensionWords.plain rfl (by decide)
theorem Sys2Proof.Laws.ExtensionWords.scfg (sq : BitVec 4) (b : Reg) (off : BitVec 16) : ExtensionWords.Statement (.scfg sq b off) := ExtensionWords.extended rfl (by decide) (by decide) rfl
theorem Sys2Proof.Laws.ExtensionWords.shape (sq : BitVec 4) (b : Reg) (off : BitVec 16) : ExtensionWords.Statement (.shape sq b off) := ExtensionWords.extended rfl (by decide) (by decide) rfl
theorem Sys2Proof.Laws.ExtensionWords.gld (a b c f : Reg) (x : Xfer) : ExtensionWords.Statement (.gld a b c f x) := ExtensionWords.extended rfl (by decide) (by decide) rfl
theorem Sys2Proof.Laws.ExtensionWords.sct (a b c f : Reg) (x : Xfer) : ExtensionWords.Statement (.sct a b c f x) := ExtensionWords.extended rfl (by decide) (by decide) rfl
theorem Sys2Proof.Laws.ExtensionWords.copy (a b c : Reg) (ssw : BitVec 3) (x : Xfer) : ExtensionWords.Statement (.copy a b c ssw x) := ExtensionWords.extended rfl (by decide) (by decide) rfl
theorem Sys2Proof.Laws.ExtensionWords.copyh (a b c : Reg) (out : Bool) (ssw : BitVec 3) (x : Xfer) : ExtensionWords.Statement (.copyh a b c out ssw x) := ExtensionWords.extended rfl (by decide) (by decide) rfl
theorem Sys2Proof.Laws.ExtensionWords.mcast (a b c : Reg) (ssw : BitVec 3) (x : Xfer) : ExtensionWords.Statement (.mcast a b c ssw x) := ExtensionWords.extended rfl (by decide) (by decide) rfl
theorem Sys2Proof.Laws.ExtensionWords.hcwld (b : Reg) (first cnt : BitVec 9) : ExtensionWords.Statement (.hcwld b first cnt) := ExtensionWords.extended rfl (by decide) (by decide) rfl
theorem Sys2Proof.Laws.ExtensionWords.transferSectorWrite (id sector : Nat) : ExtensionWords.Statement (.transferSectorWrite id sector) := ExtensionWords.noWord rfl
theorem Sys2Proof.Laws.ExtensionWords.transferFaultStop (id : Nat) : ExtensionWords.Statement (.transferFaultStop id) := ExtensionWords.noWord rfl
theorem Sys2Proof.Laws.ExtensionWords.transferCompletion (id : Nat) : ExtensionWords.Statement (.transferCompletion id) := ExtensionWords.noWord rfl
theorem Sys2Proof.Laws.ExtensionWords.aadd (w : Wd) (a b c : Reg) (p q : Bool) : ExtensionWords.Statement (.aadd w a b c p q) := ExtensionWords.plain rfl (by decide)
theorem Sys2Proof.Laws.ExtensionWords.amin (w : Wd) (a b c : Reg) (p q : Bool) : ExtensionWords.Statement (.amin w a b c p q) := ExtensionWords.plain rfl (by decide)
theorem Sys2Proof.Laws.ExtensionWords.amax (w : Wd) (a b c : Reg) (p q : Bool) : ExtensionWords.Statement (.amax w a b c p q) := ExtensionWords.plain rfl (by decide)
theorem Sys2Proof.Laws.ExtensionWords.aminu (w : Wd) (a b c : Reg) (p q : Bool) : ExtensionWords.Statement (.aminu w a b c p q) := ExtensionWords.plain rfl (by decide)
theorem Sys2Proof.Laws.ExtensionWords.amaxu (w : Wd) (a b c : Reg) (p q : Bool) : ExtensionWords.Statement (.amaxu w a b c p q) := ExtensionWords.plain rfl (by decide)
theorem Sys2Proof.Laws.ExtensionWords.aand (w : Wd) (a b c : Reg) (p q : Bool) : ExtensionWords.Statement (.aand w a b c p q) := ExtensionWords.plain rfl (by decide)
theorem Sys2Proof.Laws.ExtensionWords.aor (w : Wd) (a b c : Reg) (p q : Bool) : ExtensionWords.Statement (.aor w a b c p q) := ExtensionWords.plain rfl (by decide)
theorem Sys2Proof.Laws.ExtensionWords.axor (w : Wd) (a b c : Reg) (p q : Bool) : ExtensionWords.Statement (.axor w a b c p q) := ExtensionWords.plain rfl (by decide)
theorem Sys2Proof.Laws.ExtensionWords.aswp (w : Wd) (a b c : Reg) (p q : Bool) : ExtensionWords.Statement (.aswp w a b c p q) := ExtensionWords.plain rfl (by decide)
theorem Sys2Proof.Laws.ExtensionWords.afadd (a b c : Reg) (p q : Bool) : ExtensionWords.Statement (.afadd a b c p q) := ExtensionWords.plain rfl (by decide)
theorem Sys2Proof.Laws.ExtensionWords.radd (w : Wd) (b c : Reg) (p q : Bool) : ExtensionWords.Statement (.radd w b c p q) := ExtensionWords.plain rfl (by decide)
theorem Sys2Proof.Laws.ExtensionWords.rfadd (b c : Reg) (p q : Bool) : ExtensionWords.Statement (.rfadd b c p q) := ExtensionWords.plain rfl (by decide)
theorem Sys2Proof.Laws.ExtensionWords.rmin (w : Wd) (b c : Reg) (p q : Bool) : ExtensionWords.Statement (.rmin w b c p q) := ExtensionWords.plain rfl (by decide)
theorem Sys2Proof.Laws.ExtensionWords.rmax (w : Wd) (b c : Reg) (p q : Bool) : ExtensionWords.Statement (.rmax w b c p q) := ExtensionWords.plain rfl (by decide)
theorem Sys2Proof.Laws.ExtensionWords.rand (w : Wd) (b c : Reg) (p q : Bool) : ExtensionWords.Statement (.rand w b c p q) := ExtensionWords.plain rfl (by decide)
theorem Sys2Proof.Laws.ExtensionWords.ror (w : Wd) (b c : Reg) (p q : Bool) : ExtensionWords.Statement (.ror w b c p q) := ExtensionWords.plain rfl (by decide)
theorem Sys2Proof.Laws.ExtensionWords.ldacq (w : Wd) (a b : Reg) (p : Bool) : ExtensionWords.Statement (.ldacq w a b p) := ExtensionWords.plain rfl (by decide)
theorem Sys2Proof.Laws.ExtensionWords.strel (w : Wd) (b c : Reg) (p q : Bool) : ExtensionWords.Statement (.strel w b c p q) := ExtensionWords.plain rfl (by decide)
theorem Sys2Proof.Laws.ExtensionWords.fence (scope : BitVec 3) : ExtensionWords.Statement (.fence scope) := ExtensionWords.plain rfl (by decide)
theorem Sys2Proof.Laws.ExtensionWords.pub (b : Reg) (p : Bool) : ExtensionWords.Statement (.pub b p) := ExtensionWords.plain rfl (by decide)
theorem Sys2Proof.Laws.ExtensionWords.acas (w : Wd) (a b c : Reg) (p q : Bool) (x : Reg) (r : Bool) : ExtensionWords.Statement (.acas w a b c p q x r) := ExtensionWords.extended rfl (by decide) (by decide) rfl
theorem Sys2Proof.Laws.ExtensionWords.homePortWriteApply (id : Nat) : ExtensionWords.Statement (.homePortWriteApply id) := ExtensionWords.noWord rfl
theorem Sys2Proof.Laws.ExtensionWords.atomicApply (id : Nat) : ExtensionWords.Statement (.atomicApply id) := ExtensionWords.noWord rfl
theorem Sys2Proof.Laws.ExtensionWords.reductionApply (id : Nat) : ExtensionWords.Statement (.reductionApply id) := ExtensionWords.noWord rfl
theorem Sys2Proof.Laws.ExtensionWords.strelApply (id : Nat) : ExtensionWords.Statement (.strelApply id) := ExtensionWords.noWord rfl
theorem Sys2Proof.Laws.ExtensionWords.pubSwap (id : Nat) : ExtensionWords.Statement (.pubSwap id) := ExtensionWords.noWord rfl
theorem Sys2Proof.Laws.ExtensionWords.barinit (b c : Reg) (p q own : Bool) : ExtensionWords.Statement (.barinit b c p q own) := ExtensionWords.plain rfl (by decide)
theorem Sys2Proof.Laws.ExtensionWords.bararr (a b : Reg) (p : Bool) : ExtensionWords.Statement (.bararr a b p) := ExtensionWords.plain rfl (by decide)
theorem Sys2Proof.Laws.ExtensionWords.barwait (a b c : Reg) (p q : Bool) : ExtensionWords.Statement (.barwait a b c p q) := ExtensionWords.plain rfl (by decide)
theorem Sys2Proof.Laws.ExtensionWords.bartest (a b : Reg) (p : Bool) : ExtensionWords.Statement (.bartest a b p) := ExtensionWords.plain rfl (by decide)
theorem Sys2Proof.Laws.ExtensionWords.ctrset (b c : Reg) (p q : Bool) : ExtensionWords.Statement (.ctrset b c p q) := ExtensionWords.plain rfl (by decide)
theorem Sys2Proof.Laws.ExtensionWords.ctradd (b c : Reg) (p q : Bool) : ExtensionWords.Statement (.ctradd b c p q) := ExtensionWords.plain rfl (by decide)
theorem Sys2Proof.Laws.ExtensionWords.ctrwait (a b c : Reg) (p q : Bool) : ExtensionWords.Statement (.ctrwait a b c p q) := ExtensionWords.plain rfl (by decide)
theorem Sys2Proof.Laws.ExtensionWords.tsend (b c : Reg) (p q : Bool) (x : Reg) (r : Bool) : ExtensionWords.Statement (.tsend b c p q x r) := ExtensionWords.extended rfl (by decide) (by decide) rfl
theorem Sys2Proof.Laws.ExtensionWords.tcopy (b c : Reg) (p q : Bool) (x : Reg) (r : Bool) : ExtensionWords.Statement (.tcopy b c p q x r) := ExtensionWords.extended rfl (by decide) (by decide) rfl
theorem Sys2Proof.Laws.ExtensionWords.barinitApply (id : Nat) : ExtensionWords.Statement (.barinitApply id) := ExtensionWords.noWord rfl
theorem Sys2Proof.Laws.ExtensionWords.barrierArrivalApply (id : Nat) : ExtensionWords.Statement (.barrierArrivalApply id) := ExtensionWords.noWord rfl
theorem Sys2Proof.Laws.ExtensionWords.ctrsetApply (id : Nat) : ExtensionWords.Statement (.ctrsetApply id) := ExtensionWords.noWord rfl
theorem Sys2Proof.Laws.ExtensionWords.ctraddApply (id : Nat) : ExtensionWords.Statement (.ctraddApply id) := ExtensionWords.noWord rfl
theorem Sys2Proof.Laws.ExtensionWords.waitSatisfied (carr : Nat) : ExtensionWords.Statement (.waitSatisfied carr) := ExtensionWords.noWord rfl
theorem Sys2Proof.Laws.ExtensionWords.delayWaitExpiry (carr : Nat) : ExtensionWords.Statement (.delayWaitExpiry carr) := ExtensionWords.noWord rfl
theorem Sys2Proof.Laws.ExtensionWords.triggerArmApply (id : Nat) : ExtensionWords.Statement (.triggerArmApply id) := ExtensionWords.noWord rfl
theorem Sys2Proof.Laws.ExtensionWords.firedTcopyEnqueue (die : Nat) : ExtensionWords.Statement (.firedTcopyEnqueue die) := ExtensionWords.noWord rfl
theorem Sys2Proof.Laws.ExtensionWords.qres (a c : Reg) (q : Bool) : ExtensionWords.Statement (.qres a c q) := ExtensionWords.plain rfl (by decide)
theorem Sys2Proof.Laws.ExtensionWords.qcommit (b c : Reg) (p q rel : Bool) : ExtensionWords.Statement (.qcommit b c p q rel) := ExtensionWords.plain rfl (by decide)
theorem Sys2Proof.Laws.ExtensionWords.qtake (a c : Reg) (q wait : Bool) : ExtensionWords.Statement (.qtake a c q wait) := ExtensionWords.plain rfl (by decide)
theorem Sys2Proof.Laws.ExtensionWords.qresApply (id : Nat) : ExtensionWords.Statement (.qresApply id) := ExtensionWords.noWord rfl
theorem Sys2Proof.Laws.ExtensionWords.qcommitApply (id : Nat) : ExtensionWords.Statement (.qcommitApply id) := ExtensionWords.noWord rfl
theorem Sys2Proof.Laws.ExtensionWords.qtakeApply (id : Nat) : ExtensionWords.Statement (.qtakeApply id) := ExtensionWords.noWord rfl
theorem Sys2Proof.Laws.ExtensionWords.launch (b c : Reg) (p q : Bool) : ExtensionWords.Statement (.launch b c p q) := ExtensionWords.plain rfl (by decide)
theorem Sys2Proof.Laws.ExtensionWords.launchTakesEffect (id : Nat) : ExtensionWords.Statement (.launchTakesEffect id) := ExtensionWords.noWord rfl
theorem Sys2Proof.Laws.ExtensionWords.trigTakesEffect (id : Nat) : ExtensionWords.Statement (.trigTakesEffect id) := ExtensionWords.noWord rfl
theorem Sys2Proof.Laws.ExtensionWords.pdoneTakesEffect (id : Nat) : ExtensionWords.Statement (.pdoneTakesEffect id) := ExtensionWords.noWord rfl
theorem Sys2Proof.Laws.ExtensionWords.fld (w : Wd) (a b c : Reg) (p q : Bool) (arr off : BitVec 16) : ExtensionWords.Statement (.fld w a b c p q arr off) := ExtensionWords.extended rfl (by decide) (by decide) rfl
theorem Sys2Proof.Laws.ExtensionWords.fst (w : Wd) (b c : Reg) (p q : Bool) (x : Reg) (r : Bool) : ExtensionWords.Statement (.fst w b c p q x r) := ExtensionWords.extended rfl (by decide) (by decide) rfl
theorem Sys2Proof.Laws.ExtensionWords.fatom (w : Wd) (a b c : Reg) (p q : Bool) (arr : BitVec 16) (op : BitVec 4) (x : Reg) (r : Bool) : ExtensionWords.Statement (.fatom w a b c p q arr op x r) := ExtensionWords.extended rfl (by decide) (by decide) rfl
theorem Sys2Proof.Laws.ExtensionWords.nwr (b : Reg) (p : Bool) : ExtensionWords.Statement (.nwr b p) := ExtensionWords.plain rfl (by decide)
theorem Sys2Proof.Laws.ExtensionWords.wrWrite (id : Nat) : ExtensionWords.Statement (.wrWrite id) := ExtensionWords.noWord rfl
theorem Sys2Proof.Laws.ExtensionWords.wrRead (id : Nat) : ExtensionWords.Statement (.wrRead id) := ExtensionWords.noWord rfl
theorem Sys2Proof.Laws.ExtensionWords.wrVat (id : Nat) : ExtensionWords.Statement (.wrVat id) := ExtensionWords.noWord rfl
theorem Sys2Proof.Laws.ExtensionWords.wrKeyset (id : Nat) : ExtensionWords.Statement (.wrKeyset id) := ExtensionWords.noWord rfl
theorem Sys2Proof.Laws.ExtensionWords.wrKeydel (id : Nat) : ExtensionWords.Statement (.wrKeydel id) := ExtensionWords.noWord rfl
theorem Sys2Proof.Laws.ExtensionWords.workRequestComplete (id : Nat) : ExtensionWords.Statement (.workRequestComplete id) := ExtensionWords.noWord rfl
theorem Sys2Proof.Laws.ExtensionWords.seating (carr seat : Nat) : ExtensionWords.Statement (.seating carr seat) := ExtensionWords.noWord rfl
theorem Sys2Proof.Laws.ExtensionWords.seatingLoaded (seat : Nat) : ExtensionWords.Statement (.seatingLoaded seat) := ExtensionWords.noWord rfl
theorem Sys2Proof.Laws.ExtensionWords.allocatorServe (die : Nat) : ExtensionWords.Statement (.allocatorServe die) := ExtensionWords.noWord rfl
theorem Sys2Proof.Laws.ExtensionWords.coachReserving (die : Nat) : ExtensionWords.Statement (.coachReserving die) := ExtensionWords.noWord rfl
theorem Sys2Proof.Laws.ExtensionWords.preemptionSave (seat : Nat) : ExtensionWords.Statement (.preemptionSave seat) := ExtensionWords.noWord rfl
theorem Sys2Proof.Laws.ExtensionWords.seatWritePerformed (seat : Nat) : ExtensionWords.Statement (.seatWritePerformed seat) := ExtensionWords.noWord rfl
theorem Sys2Proof.Laws.ExtensionWords.seatDrainComplete (seat : Nat) : ExtensionWords.Statement (.seatDrainComplete seat) := ExtensionWords.noWord rfl
theorem Sys2Proof.Laws.ExtensionWords.teamSwapQuantum (die lid ctx : Nat) : ExtensionWords.Statement (.teamSwapQuantum die lid ctx) := ExtensionWords.noWord rfl
theorem Sys2Proof.Laws.ExtensionWords.launchPacketReceived (die : Nat) : ExtensionWords.Statement (.launchPacketReceived die) := ExtensionWords.noWord rfl
theorem Sys2Proof.Laws.ExtensionWords.completionNotice (die : Nat) : ExtensionWords.Statement (.completionNotice die) := ExtensionWords.noWord rfl
theorem Sys2Proof.Laws.ExtensionWords.rindNotice (die : Nat) : ExtensionWords.Statement (.rindNotice die) := ExtensionWords.noWord rfl
theorem Sys2Proof.Laws.ExtensionWords.rindRestore (die : Nat) : ExtensionWords.Statement (.rindRestore die) := ExtensionWords.noWord rfl
theorem Sys2Proof.Laws.ExtensionWords.curdInjection (ctx quad tile : Nat) : ExtensionWords.Statement (.curdInjection ctx quad tile) := ExtensionWords.noWord rfl
theorem Sys2Proof.Laws.ExtensionWords.queueLoadComplete (ctx handle : Nat) : ExtensionWords.Statement (.queueLoadComplete ctx handle) := ExtensionWords.noWord rfl
theorem Sys2Proof.Laws.ExtensionWords.queueEviction (die : Nat) : ExtensionWords.Statement (.queueEviction die) := ExtensionWords.noWord rfl
theorem Sys2Proof.Laws.ExtensionWords.firmwarePeriodSlot (die : Nat) : ExtensionWords.Statement (.firmwarePeriodSlot die) := ExtensionWords.noWord rfl
theorem Sys2Proof.Laws.ExtensionWords.pageWalkComplete (die : Nat) : ExtensionWords.Statement (.pageWalkComplete die) := ExtensionWords.noWord rfl
theorem Sys2Proof.Laws.ExtensionWords.faultRecordDelivery (die : Nat) : ExtensionWords.Statement (.faultRecordDelivery die) := ExtensionWords.noWord rfl
theorem Sys2Proof.Laws.ExtensionWords.parse (vat : Nat) : ExtensionWords.Statement (.parse vat) := ExtensionWords.noWord rfl
theorem Sys2Proof.Laws.ExtensionWords.stageExecute (vat : Nat) : ExtensionWords.Statement (.stageExecute vat) := ExtensionWords.noWord rfl
theorem Sys2Proof.Laws.ExtensionWords.verdict (vat : Nat) : ExtensionWords.Statement (.verdict vat) := ExtensionWords.noWord rfl
theorem Sys2Proof.Laws.ExtensionWords.pipelineBumpApply (id : Nat) : ExtensionWords.Statement (.pipelineBumpApply id) := ExtensionWords.noWord rfl
theorem Sys2Proof.Laws.ExtensionWords.pipelineLineApply (id : Nat) : ExtensionWords.Statement (.pipelineLineApply id) := ExtensionWords.noWord rfl
theorem Sys2Proof.Laws.ExtensionWords.holdRelease (die : Nat) (conn : W32) : ExtensionWords.Statement (.holdRelease die conn) := ExtensionWords.noWord rfl
theorem Sys2Proof.Laws.ExtensionWords.holdTimeout (die : Nat) : ExtensionWords.Statement (.holdTimeout die) := ExtensionWords.noWord rfl
theorem Sys2Proof.Laws.ExtensionWords.recircReentry (vat : Nat) : ExtensionWords.Statement (.recircReentry vat) := ExtensionWords.noWord rfl
theorem Sys2Proof.Laws.ExtensionWords.ext (h : BitVec 9) (len1 : BitVec 5) (off : BitVec 13) : ExtensionWords.Statement (.ext h len1 off) := ExtensionWords.plain rfl (by decide)
theorem Sys2Proof.Laws.ExtensionWords.setf (h : BitVec 9) (w : BitVec 2) (imm : BitVec 16) : ExtensionWords.Statement (.setf h w imm) := ExtensionWords.plain rfl (by decide)
theorem Sys2Proof.Laws.ExtensionWords.addfImm (h : BitVec 9) (w : BitVec 2) (imm : BitVec 15) : ExtensionWords.Statement (.addfImm h w imm) := ExtensionWords.plain rfl (by decide)
theorem Sys2Proof.Laws.ExtensionWords.addfField (h : BitVec 9) (w : BitVec 2) (src : BitVec 9) : ExtensionWords.Statement (.addfField h w src) := ExtensionWords.plain rfl (by decide)
theorem Sys2Proof.Laws.ExtensionWords.lkp (b : BitVec 2) (key res : BitVec 9) : ExtensionWords.Statement (.lkp b key res) := ExtensionWords.plain rfl (by decide)
theorem Sys2Proof.Laws.ExtensionWords.hash (h : BitVec 9) (len1 : BitVec 5) : ExtensionWords.Statement (.hash h len1) := ExtensionWords.plain rfl (by decide)
theorem Sys2Proof.Laws.ExtensionWords.rte (mode : BitVec 2) : ExtensionWords.Statement (.rte mode) := ExtensionWords.plain rfl (by decide)
theorem Sys2Proof.Laws.ExtensionWords.rewr (b : BitVec 2) (i : BitVec 3) (h : BitVec 9) : ExtensionWords.Statement (.rewr b i h) := ExtensionWords.plain rfl (by decide)
theorem Sys2Proof.Laws.ExtensionWords.score (b : BitVec 2) (d1 : BitVec 10) (g1 : BitVec 6) (k1 : BitVec 3) : ExtensionWords.Statement (.score b d1 g1 k1) := ExtensionWords.plain rfl (by decide)
theorem Sys2Proof.Laws.ExtensionWords.addt (b : BitVec 2) (mode : BitVec 2) (h : BitVec 9) : ExtensionWords.Statement (.addt b mode h) := ExtensionWords.plain rfl (by decide)
theorem Sys2Proof.Laws.ExtensionWords.bump (quad : BitVec 5) (tile : BitVec 8) (amt : BitVec 14) : ExtensionWords.Statement (.bump quad tile amt) := ExtensionWords.plain rfl (by decide)
theorem Sys2Proof.Laws.ExtensionWords.depo (b : BitVec 2) (h : BitVec 9) : ExtensionWords.Statement (.depo b h) := ExtensionWords.plain rfl (by decide)
theorem Sys2Proof.Laws.ExtensionWords.rgaAdd (r : BitVec 12) (h : BitVec 9) : ExtensionWords.Statement (.rgaAdd r h) := ExtensionWords.plain rfl (by decide)
theorem Sys2Proof.Laws.ExtensionWords.rgaSwap (r : BitVec 12) (h : BitVec 9) : ExtensionWords.Statement (.rgaSwap r h) := ExtensionWords.plain rfl (by decide)
theorem Sys2Proof.Laws.ExtensionWords.rgaUmax (r : BitVec 12) (h : BitVec 9) : ExtensionWords.Statement (.rgaUmax r h) := ExtensionWords.plain rfl (by decide)
theorem Sys2Proof.Laws.ExtensionWords.rgaPush (r : BitVec 12) (quad : BitVec 5) (cq : BitVec 3) (sh : BitVec 4) : ExtensionWords.Statement (.rgaPush r quad cq sh) := ExtensionWords.plain rfl (by decide)
theorem Sys2Proof.Laws.ExtensionWords.fwd (eport : Bool) (port : BitVec 7) : ExtensionWords.Statement (.fwd eport port) := ExtensionWords.plain rfl (by decide)
theorem Sys2Proof.Laws.ExtensionWords.mirr (port : BitVec 7) (trunc : Bool) : ExtensionWords.Statement (.mirr port trunc) := ExtensionWords.plain rfl (by decide)
theorem Sys2Proof.Laws.ExtensionWords.drop (reason : BitVec 8) : ExtensionWords.Statement (.drop reason) := ExtensionWords.plain rfl (by decide)
theorem Sys2Proof.Laws.ExtensionWords.recirc (stage : BitVec 4) : ExtensionWords.Statement (.recirc stage) := ExtensionWords.plain rfl (by decide)
theorem Sys2Proof.Laws.ExtensionWords.mark (ce setc : Bool) (cls : BitVec 2) : ExtensionWords.Statement (.mark ce setc cls) := ExtensionWords.plain rfl (by decide)
theorem Sys2Proof.Laws.ExtensionWords.hold (h : BitVec 9) : ExtensionWords.Statement (.hold h) := ExtensionWords.plain rfl (by decide)
theorem Sys2Proof.Laws.ExtensionWords.egressTransmit (port : Nat) : ExtensionWords.Statement (.egressTransmit port) := ExtensionWords.noWord rfl
theorem Sys2Proof.Laws.ExtensionWords.egressAgeDrop (port : Nat) : ExtensionWords.Statement (.egressAgeDrop port) := ExtensionWords.noWord rfl
theorem Sys2Proof.Laws.ExtensionWords.sackTimer (die : Nat) (conn : W32) (msgid : W32) : ExtensionWords.Statement (.sackTimer die conn msgid) := ExtensionWords.noWord rfl
theorem Sys2Proof.Laws.ExtensionWords.retransmitTimeout (die id : Nat) : ExtensionWords.Statement (.retransmitTimeout die id) := ExtensionWords.noWord rfl
theorem Sys2Proof.Laws.ExtensionWords.retryResend (die : Nat) : ExtensionWords.Statement (.retryResend die) := ExtensionWords.noWord rfl
theorem Sys2Proof.Laws.ExtensionWords.genQuarantineExpiry (conn : W32) : ExtensionWords.Statement (.genQuarantineExpiry conn) := ExtensionWords.noWord rfl
theorem Sys2Proof.Laws.ExtensionWords.sackBitmapExpiry (die : Nat) (conn : W32) (msgid : W32) : ExtensionWords.Statement (.sackBitmapExpiry die conn msgid) := ExtensionWords.noWord rfl
theorem Sys2Proof.Laws.ExtensionWords.recordedPacketDelivery (ctx : Nat) : ExtensionWords.Statement (.recordedPacketDelivery ctx) := ExtensionWords.noWord rfl
theorem Sys2Proof.Laws.ExtensionWords.yield : ExtensionWords.Statement (.yield) := ExtensionWords.plain rfl (by decide)
theorem Sys2Proof.Laws.ExtensionWords.suspend : ExtensionWords.Statement (.suspend) := ExtensionWords.plain rfl (by decide)
theorem Sys2Proof.Laws.ExtensionWords.endC : ExtensionWords.Statement (.endC) := ExtensionWords.plain rfl (by decide)
theorem Sys2Proof.Laws.ExtensionWords.xret : ExtensionWords.Statement (.xret) := ExtensionWords.plain rfl (by decide)
theorem Sys2Proof.Laws.ExtensionWords.uiret : ExtensionWords.Statement (.uiret) := ExtensionWords.plain rfl (by decide)
theorem Sys2Proof.Laws.ExtensionWords.vNop : ExtensionWords.Statement (.vNop) := ExtensionWords.short rfl
theorem Sys2Proof.Laws.ExtensionWords.mNop : ExtensionWords.Statement (.mNop) := ExtensionWords.plain rfl (by decide)
theorem Sys2Proof.Laws.ExtensionWords.mrel : ExtensionWords.Statement (.mrel) := ExtensionWords.plain rfl (by decide)
theorem Sys2Proof.Laws.ExtensionWords.msync : ExtensionWords.Statement (.msync) := ExtensionWords.plain rfl (by decide)
theorem Sys2Proof.Laws.ExtensionWords.xNop : ExtensionWords.Statement (.xNop) := ExtensionWords.plain rfl (by decide)
theorem Sys2Proof.Laws.ExtensionWords.trig : ExtensionWords.Statement (.trig) := ExtensionWords.plain rfl (by decide)
theorem Sys2Proof.Laws.ExtensionWords.pdone : ExtensionWords.Statement (.pdone) := ExtensionWords.plain rfl (by decide)
theorem Sys2Proof.Laws.ExtensionWords.svcPing : ExtensionWords.Statement (.svcPing) := ExtensionWords.plain rfl (by decide)
theorem Sys2Proof.Laws.ExtensionWords.svcQstat : ExtensionWords.Statement (.svcQstat) := ExtensionWords.plain rfl (by decide)
theorem Sys2Proof.Laws.ExtensionWords.svcLstat : ExtensionWords.Statement (.svcLstat) := ExtensionWords.plain rfl (by decide)
theorem Sys2Proof.Laws.ExtensionWords.svcTime : ExtensionWords.Statement (.svcTime) := ExtensionWords.plain rfl (by decide)
theorem Sys2Proof.Laws.ExtensionWords.svcLog : ExtensionWords.Statement (.svcLog) := ExtensionWords.plain rfl (by decide)
theorem Sys2Proof.Laws.ExtensionWords.nopa : ExtensionWords.Statement (.nopa) := ExtensionWords.plain rfl (by decide)
theorem Sys2Proof.Laws.ExtensionWords.absorb : ExtensionWords.Statement (.absorb) := ExtensionWords.plain rfl (by decide)
theorem Sys2Proof.Laws.ExtensionWords.contentionHalving : ExtensionWords.Statement (.contentionHalving) := ExtensionWords.noWord rfl
theorem Sys2Proof.Laws.ExtensionWords.powerOn : ExtensionWords.Statement (.powerOn) := ExtensionWords.noWord rfl
theorem Sys2Proof.Laws.ExtensionWords.bootComplete (cfg : BootCfg) : ExtensionWords.Statement (.bootComplete cfg) := ExtensionWords.noWord rfl
theorem Sys2Proof.Laws.ExtensionWords.bootFail (code : Nat) : ExtensionWords.Statement (.bootFail code) := ExtensionWords.noWord rfl
theorem Sys2Proof.Laws.ExtensionWords.powerDown : ExtensionWords.Statement (.powerDown) := ExtensionWords.noWord rfl
theorem Sys2Proof.Laws.ExtensionWords.powerWindow (mw : Nat) : ExtensionWords.Statement (.powerWindow mw) := ExtensionWords.noWord rfl
theorem Sys2Proof.Laws.ExtensionWords.gatedCycle (quad : Nat) : ExtensionWords.Statement (.gatedCycle quad) := ExtensionWords.noWord rfl
theorem Sys2Proof.Laws.ExtensionWords.cmdNop (c : Cmd) : ExtensionWords.Statement (.cmdNop c) := ExtensionWords.noWord rfl
theorem Sys2Proof.Laws.ExtensionWords.invoke (c : Cmd) : ExtensionWords.Statement (.invoke c) := ExtensionWords.noWord rfl
theorem Sys2Proof.Laws.ExtensionWords.loadimg (c : Cmd) : ExtensionWords.Statement (.loadimg c) := ExtensionWords.noWord rfl
theorem Sys2Proof.Laws.ExtensionWords.unloadimg (c : Cmd) : ExtensionWords.Statement (.unloadimg c) := ExtensionWords.noWord rfl
theorem Sys2Proof.Laws.ExtensionWords.qcreate (c : Cmd) : ExtensionWords.Statement (.qcreate c) := ExtensionWords.noWord rfl
theorem Sys2Proof.Laws.ExtensionWords.qdestroy (c : Cmd) : ExtensionWords.Statement (.qdestroy c) := ExtensionWords.noWord rfl
theorem Sys2Proof.Laws.ExtensionWords.qpin (c : Cmd) : ExtensionWords.Statement (.qpin c) := ExtensionWords.noWord rfl
theorem Sys2Proof.Laws.ExtensionWords.waitl (c : Cmd) : ExtensionWords.Statement (.waitl c) := ExtensionWords.noWord rfl
theorem Sys2Proof.Laws.ExtensionWords.map (c : Cmd) : ExtensionWords.Statement (.map c) := ExtensionWords.noWord rfl
theorem Sys2Proof.Laws.ExtensionWords.unmap (c : Cmd) : ExtensionWords.Statement (.unmap c) := ExtensionWords.noWord rfl
theorem Sys2Proof.Laws.ExtensionWords.protect (c : Cmd) : ExtensionWords.Statement (.protect c) := ExtensionWords.noWord rfl
theorem Sys2Proof.Laws.ExtensionWords.migrate (c : Cmd) : ExtensionWords.Statement (.migrate c) := ExtensionWords.noWord rfl
theorem Sys2Proof.Laws.ExtensionWords.resolve (c : Cmd) : ExtensionWords.Statement (.resolve c) := ExtensionWords.noWord rfl
theorem Sys2Proof.Laws.ExtensionWords.pbcreate (c : Cmd) : ExtensionWords.Statement (.pbcreate c) := ExtensionWords.noWord rfl
theorem Sys2Proof.Laws.ExtensionWords.pbdestroy (c : Cmd) : ExtensionWords.Statement (.pbdestroy c) := ExtensionWords.noWord rfl
theorem Sys2Proof.Laws.ExtensionWords.ctxcreate (c : Cmd) : ExtensionWords.Statement (.ctxcreate c) := ExtensionWords.noWord rfl
theorem Sys2Proof.Laws.ExtensionWords.ctxload (c : Cmd) : ExtensionWords.Statement (.ctxload c) := ExtensionWords.noWord rfl
theorem Sys2Proof.Laws.ExtensionWords.ctxrun (c : Cmd) : ExtensionWords.Statement (.ctxrun c) := ExtensionWords.noWord rfl
theorem Sys2Proof.Laws.ExtensionWords.ctxquiesce (c : Cmd) : ExtensionWords.Statement (.ctxquiesce c) := ExtensionWords.noWord rfl
theorem Sys2Proof.Laws.ExtensionWords.quiesceComplete (ctx : Nat) : ExtensionWords.Statement (.quiesceComplete ctx) := ExtensionWords.noWord rfl
theorem Sys2Proof.Laws.ExtensionWords.ctxkill (c : Cmd) : ExtensionWords.Statement (.ctxkill c) := ExtensionWords.noWord rfl
theorem Sys2Proof.Laws.ExtensionWords.ctxdestroy (c : Cmd) : ExtensionWords.Statement (.ctxdestroy c) := ExtensionWords.noWord rfl
theorem Sys2Proof.Laws.ExtensionWords.ctxres (c : Cmd) : ExtensionWords.Statement (.ctxres c) := ExtensionWords.noWord rfl
theorem Sys2Proof.Laws.ExtensionWords.attest (c : Cmd) : ExtensionWords.Statement (.attest c) := ExtensionWords.noWord rfl
theorem Sys2Proof.Laws.ExtensionWords.record (c : Cmd) : ExtensionWords.Statement (.record c) := ExtensionWords.noWord rfl
theorem Sys2Proof.Laws.ExtensionWords.replayDivergence (ctx : Nat) : ExtensionWords.Statement (.replayDivergence ctx) := ExtensionWords.noWord rfl
theorem Sys2Proof.Laws.ExtensionWords.pload (c : Cmd) : ExtensionWords.Statement (.pload c) := ExtensionWords.noWord rfl
theorem Sys2Proof.Laws.ExtensionWords.sload (c : Cmd) : ExtensionWords.Statement (.sload c) := ExtensionWords.noWord rfl
theorem Sys2Proof.Laws.ExtensionWords.sunload (c : Cmd) : ExtensionWords.Statement (.sunload c) := ExtensionWords.noWord rfl
theorem Sys2Proof.Laws.ExtensionWords.tcreate (c : Cmd) : ExtensionWords.Statement (.tcreate c) := ExtensionWords.noWord rfl
theorem Sys2Proof.Laws.ExtensionWords.twrite (c : Cmd) : ExtensionWords.Statement (.twrite c) := ExtensionWords.noWord rfl
theorem Sys2Proof.Laws.ExtensionWords.tdestroy (c : Cmd) : ExtensionWords.Statement (.tdestroy c) := ExtensionWords.noWord rfl
theorem Sys2Proof.Laws.ExtensionWords.rread (c : Cmd) : ExtensionWords.Statement (.rread c) := ExtensionWords.noWord rfl
theorem Sys2Proof.Laws.ExtensionWords.vstat (c : Cmd) : ExtensionWords.Statement (.vstat c) := ExtensionWords.noWord rfl
theorem Sys2Proof.Laws.ExtensionWords.hostResRead (ctx handle : Nat) : ExtensionWords.Statement (.hostResRead ctx handle) := ExtensionWords.noWord rfl
theorem Sys2Proof.Laws.ExtensionWords.hostCommitWrite (ctx handle : Nat) (v : W64) : ExtensionWords.Statement (.hostCommitWrite ctx handle v) := ExtensionWords.noWord rfl
theorem Sys2Proof.Laws.ExtensionWords.hostTakeRead (ctx handle : Nat) : ExtensionWords.Statement (.hostTakeRead ctx handle) := ExtensionWords.noWord rfl
theorem Sys2Proof.Laws.ExtensionWords.hostReleaseWrite (ctx handle : Nat) (v : W64) : ExtensionWords.Statement (.hostReleaseWrite ctx handle v) := ExtensionWords.noWord rfl
theorem Sys2Proof.Laws.ExtensionWords.hostWindowOther (ctx off : Nat) (write : Option W64) : ExtensionWords.Statement (.hostWindowOther ctx off write) := ExtensionWords.noWord rfl
theorem Sys2Proof.Laws.ExtensionWords.frameArrival (port : Nat) (bytes : List Byte) : ExtensionWords.Statement (.frameArrival port bytes) := ExtensionWords.noWord rfl
theorem Sys2Proof.Laws.ExtensionWords.lanesLocked (port : Nat) : ExtensionWords.Statement (.lanesLocked port) := ExtensionWords.noWord rfl
theorem Sys2Proof.Laws.ExtensionWords.trainingTimeout (port : Nat) (oneLane : Bool) : ExtensionWords.Statement (.trainingTimeout port oneLane) := ExtensionWords.noWord rfl
theorem Sys2Proof.Laws.ExtensionWords.secondLaneLock (port : Nat) : ExtensionWords.Statement (.secondLaneLock port) := ExtensionWords.noWord rfl
theorem Sys2Proof.Laws.ExtensionWords.lossOfLock (port : Nat) : ExtensionWords.Statement (.lossOfLock port) := ExtensionWords.noWord rfl
theorem Sys2Proof.Laws.ExtensionWords.fecErrorWindow (port bad total : Nat) : ExtensionWords.Statement (.fecErrorWindow port bad total) := ExtensionWords.noWord rfl
theorem Sys2Proof.Laws.ExtensionWords.hello (port : Nat) (chip : BitVec 16) (time : Nat) : ExtensionWords.Statement (.hello port chip time) := ExtensionWords.noWord rfl
theorem Sys2Proof.Laws.ExtensionWords.creditReturn (port vc flits : Nat) : ExtensionWords.Statement (.creditReturn port vc flits) := ExtensionWords.noWord rfl
theorem Sys2Proof.Laws.ExtensionWords.writeData (die : Nat) (p : Pkt) : ExtensionWords.Statement (.writeData die p) := ExtensionWords.noWord rfl
theorem Sys2Proof.Laws.ExtensionWords.readRequest (die : Nat) (p : Pkt) : ExtensionWords.Statement (.readRequest die p) := ExtensionWords.noWord rfl
theorem Sys2Proof.Laws.ExtensionWords.readResponseData (die : Nat) (p : Pkt) : ExtensionWords.Statement (.readResponseData die p) := ExtensionWords.noWord rfl
theorem Sys2Proof.Laws.ExtensionWords.loadRequest (die : Nat) (p : Pkt) : ExtensionWords.Statement (.loadRequest die p) := ExtensionWords.noWord rfl
theorem Sys2Proof.Laws.ExtensionWords.loadResponse (die : Nat) (p : Pkt) : ExtensionWords.Statement (.loadResponse die p) := ExtensionWords.noWord rfl
theorem Sys2Proof.Laws.ExtensionWords.store (die : Nat) (p : Pkt) : ExtensionWords.Statement (.store die p) := ExtensionWords.noWord rfl
theorem Sys2Proof.Laws.ExtensionWords.atomicRequest (die : Nat) (p : Pkt) : ExtensionWords.Statement (.atomicRequest die p) := ExtensionWords.noWord rfl
theorem Sys2Proof.Laws.ExtensionWords.atomicResponse (die : Nat) (p : Pkt) : ExtensionWords.Statement (.atomicResponse die p) := ExtensionWords.noWord rfl
theorem Sys2Proof.Laws.ExtensionWords.vatMessage (die : Nat) (p : Pkt) : ExtensionWords.Statement (.vatMessage die p) := ExtensionWords.noWord rfl
theorem Sys2Proof.Laws.ExtensionWords.sack (die : Nat) (p : Pkt) : ExtensionWords.Statement (.sack die p) := ExtensionWords.noWord rfl
theorem Sys2Proof.Laws.ExtensionWords.retry (die : Nat) (p : Pkt) : ExtensionWords.Statement (.retry die p) := ExtensionWords.noWord rfl
theorem Sys2Proof.Laws.ExtensionWords.nack (die : Nat) (p : Pkt) : ExtensionWords.Statement (.nack die p) := ExtensionWords.noWord rfl
theorem Sys2Proof.Laws.ExtensionWords.cancel (die : Nat) (p : Pkt) : ExtensionWords.Statement (.cancel die p) := ExtensionWords.noWord rfl
theorem Sys2Proof.Laws.ExtensionWords.keyreq (die : Nat) (p : Pkt) : ExtensionWords.Statement (.keyreq die p) := ExtensionWords.noWord rfl
theorem Sys2Proof.Laws.ExtensionWords.keyrsp (die : Nat) (p : Pkt) : ExtensionWords.Statement (.keyrsp die p) := ExtensionWords.noWord rfl
theorem Sys2Proof.Laws.ExtensionWords.lineRecall (die : Nat) (p : Pkt) : ExtensionWords.Statement (.lineRecall die p) := ExtensionWords.noWord rfl
theorem Sys2Proof.Laws.ExtensionWords.lineReturn (die : Nat) (p : Pkt) : ExtensionWords.Statement (.lineReturn die p) := ExtensionWords.noWord rfl
theorem Sys2Proof.Laws.ExtensionWords.landing (core : Nat) : ExtensionWords.Statement (.landing core) := ExtensionWords.noWord rfl
theorem Sys2Proof.Laws.ExtensionWords.lateUncorrectableRead (id : Nat) : ExtensionWords.Statement (.lateUncorrectableRead id) := ExtensionWords.noWord rfl
theorem Sys2Proof.Laws.ExtensionWords.watchdogExpiry (seat : Nat) : ExtensionWords.Statement (.watchdogExpiry seat) := ExtensionWords.noWord rfl
theorem Sys2Proof.Laws.ExtensionWords.reductionDepthExpiry (seat : Nat) : ExtensionWords.Statement (.reductionDepthExpiry seat) := ExtensionWords.noWord rfl
theorem Sys2Proof.Laws.ExtensionWords.userInterruptEntry (seat : Nat) : ExtensionWords.Statement (.userInterruptEntry seat) := ExtensionWords.noWord rfl
theorem Sys2Proof.Laws.ExtensionWords.xclCopyLanding (core : Nat) : ExtensionWords.Statement (.xclCopyLanding core) := ExtensionWords.noWord rfl
theorem Sys2Proof.Laws.ExtensionWords.hcwldWrite (seat : Nat) : ExtensionWords.Statement (.hcwldWrite seat) := ExtensionWords.noWord rfl
theorem Sys2Proof.Laws.ExtensionWords.containment (seat cause : Nat) (va : W64) : ExtensionWords.Statement (.containment seat cause va) := ExtensionWords.noWord rfl
theorem Sys2Proof.Laws.ExtensionWords.offSeatContainment (carr cause : Nat) (va : W64) : ExtensionWords.Statement (.offSeatContainment carr cause va) := ExtensionWords.noWord rfl
end

