-- ==== Sys2Proof/Tests/Slice0.lean ====
section
/-!
SUPPORT. Tests: terms that are ill-formed, words written out from the tables of the encodings, one step on small states, and for the
statements a state and operands that meet the hypotheses of each clause.
-/

namespace Sys2Proof.Tests

open Sys2Proof.Machine Sys2Proof.Claims

-- One theorem after the other: many evaluations at once would want more memory than the check allows.
set_option Elab.async false

/-! ## Terms that are ill-formed, one for each check -/

theorem test_ill_bkany_mask : fieldsOk (.bkany 0 0 0) = false := by decide
theorem test_ill_shift_amount : fieldsOk (.shli .w32 1 2 32 false) = false ∧ fieldsOk (.shri .w32 1 2 63 false) = false
    ∧ fieldsOk (.sari .w32 1 2 40 false) = false := by decide
theorem test_ill_fcvt_formats : fieldsOk (.fcvt 1 2 7 0 false 0 false) = false ∧ fieldsOk (.fcvt 1 2 0 7 false 0 false) = false := by decide
theorem test_ill_stow_lane : fieldsOk (.stow 16 1 false true) = false ∧ fieldsOk (.stow 3 1 true true) = false := by decide
theorem test_ill_unstow_lane : fieldsOk (.unstow 1 16 true) = false := by decide
theorem test_ill_hcw_index : fieldsOk (.hcw 511 0 false 0) = false := by decide
theorem test_ill_mma : fieldsOk (.mma 0 0 0x3F 0 0) = false ∧ fieldsOk (.mma 0 0 0x10 1 0) = false ∧ fieldsOk (.mma 0 0 0x00 0 1) = false := by decide
theorem test_ill_mmas : fieldsOk (.mmas 0 0 0x3F 0 0 0 false) = false ∧ fieldsOk (.mmas 0 0 0x00 0 0 2 true) = false := by decide
theorem test_ill_cmpr : fieldsOk (.cmpr 0x3F 0 0 0 0 false) = false ∧ fieldsOk (.cmpr 0 0 0 0 3 true) = false := by decide
theorem test_ill_fqr_planes : fieldsOk (.fqr 1 0 1 0) = false := by decide
theorem test_ill_sbind_group : fieldsOk (.sbind 0 1 true) = false := by decide
theorem test_ill_spos_source : fieldsOk (.spos 1 0 5 false) = false := by decide
theorem test_ill_rows : fieldsOk (.gld 1 2 3 4 ⟨0, 0, 0, 0⟩) = false ∧ fieldsOk (.sct 1 2 3 4 ⟨0, 0, 0, 0⟩) = false := by decide
theorem test_ill_copy_form : fieldsOk (.copy 1 2 3 0 ⟨0, 0, 0, 1⟩) = false ∧ fieldsOk (.copyh 1 2 3 true 0 ⟨0, 0, 0, 1⟩) = false := by decide
theorem test_ill_mcast_mask : fieldsOk (.mcast 1 2 3 0 ⟨0, 0, 0, 0⟩) = false ∧ fieldsOk (.mcast 1 2 3 0 ⟨0, 0, 0, 0x8001⟩) = false := by decide
theorem test_ill_signal : fieldsOk (.copy 1 2 3 0 ⟨1, 0, 0, 0⟩) = false := by decide
theorem test_ill_hcwld_range : fieldsOk (.hcwld 1 511 1) = false := by decide
theorem test_ill_fence_scope : fieldsOk (.fence 5) = false := by decide
theorem test_ill_wait_registers : fieldsOk (.barwait 5 1 2 false false) = false ∧ fieldsOk (.ctrwait 60 1 2 false false) = false := by decide
theorem test_ill_queue_registers : fieldsOk (.qres 0 1 false) = false ∧ fieldsOk (.qtake 5 1 false true) = false
    ∧ fieldsOk (.qtake 0 1 false false) = false := by decide
theorem test_ill_fabric : fieldsOk (.fld .d64 0 1 2 false false 0 0) = false ∧ fieldsOk (.fatom .d64 1 1 2 false false 0 0 0 false) = false
    ∧ fieldsOk (.fatom .d64 1 1 2 false false 0 12 0 false) = false ∧ fieldsOk (.fatom .d64 1 1 2 false false 0 10 0 false) = false
    ∧ fieldsOk (.fatom .w32 1 1 2 false false 0 11 0 false) = false := by decide
theorem test_ill_field_width : fieldsOk (.setf 0x38 3 0) = false ∧ fieldsOk (.addfImm 0x38 3 0) = false ∧ fieldsOk (.addfField 0x38 3 0) = false := by
  decide
theorem test_ill_modes : fieldsOk (.rte 2) = false ∧ fieldsOk (.addt 0 3 0) = false ∧ fieldsOk (.bump 0 0 0) = false := by decide

/-! ## Words written out field by field from the tables (OP, A, B, C, FL; then the extension word) -/

theorem test_word_add : decodeWord .slotS (0x01#8 ++ 3#6 ++ 1#6 ++ 2#6 ++ (1#1 ++ 0#1 ++ 0#2 ++ 1#2)) 0 = some (.add .w32 3 1 2 true false) := by
  decide
theorem test_word_shli : decodeWord .slotS (0x10#8 ++ 3#6 ++ 1#6 ++ 40#6 ++ 0#6) 0 = some (.shli .d64 3 1 40 false) := by decide
theorem test_word_fadd :
    decodeWord .slotS (0x20#8 ++ 3#6 ++ 1#6 ++ 2#6 ++ (0#1 ++ 1#1 ++ 2#2 ++ 1#1 ++ 0#1)) 0 = some (.fadd 3 1 2 false true 2 true) := by decide
theorem test_word_rdc : decodeWord .slotS (0x30#8 ++ 3#6 ++ 1#6 ++ 9#6 ++ 0#6) 0 = some (.rdc 3 0x049) := by decide
theorem test_word_ldd :
    decodeWord .slotS (0x8E#8 ++ 4#6 ++ 5#6 ++ 0#6 ++ 0x20#6) (0x00A#12 ++ 1#1 ++ 2#3 ++ 8#16) = some (.ldd 4 5 true 0x00A ⟨true, 2, 8⟩) := by decide
theorem test_word_ffma :
    decodeWord .slotS (0x99#8 ++ 3#6 ++ 1#6 ++ 2#6 ++ 0#6) (0#25 ++ 1#1 ++ 7#6) = some (.ffma 3 1 2 false false 0 false 7 true) := by decide
theorem test_word_jlr : decodeWord .slotC (0x02#8 ++ 5#6 ++ 9#6 ++ 0#6 ++ 0x20#6) 0 = some (.jlr 5 9 true) := by decide
theorem test_word_beq : decodeWord .slotC (0x82#8 ++ 0#6 ++ 1#6 ++ 2#6 ++ 0#6) 0xFFFFFFFC = some (.beq 1 2 false false 0xFFFFFFFC) := by decide
theorem test_word_loopq : decodeWord .slotC (0x8A#8 ++ 0#6 ++ (0#3 ++ 5#3) ++ 0#6 ++ 0#6) 12 = some (.loopq 5 12) := by decide
theorem test_word_lease : decodeWord .slotM (0x01#8 ++ (5#4 ++ 0#2) ++ (3#4 ++ 0#2) ++ (0#2 ++ 9#4) ++ (0#2 ++ 1#4)) 0 = some (.lease 5 3 9 1) := by
  decide
theorem test_word_mma : decodeWord .slotM (0x08#8 ++ (1#2 ++ 2#4) ++ 0x12#6 ++ 0#6 ++ 0#6) 0 = some (.mma 1 2 0x12 0 0) := by decide
theorem test_word_sstart : decodeWord .slotX (0x02#8 ++ 0#6 ++ (0#2 ++ 3#4) ++ 0#6 ++ 0#6) 0 = some (.sstart 3) := by decide
theorem test_word_copy :
    decodeWord .slotX (0x84#8 ++ 1#6 ++ 2#6 ++ 3#6 ++ (0#3 ++ 5#3)) (7#6 ++ 1#2 ++ 4#3 ++ 0#5 ++ 0#16) = some (.copy 1 2 3 5 ⟨7, 1, 4, 0⟩) := by decide
theorem test_word_radd : decodeWord .slotY (0x10#8 ++ 0#6 ++ 1#6 ++ 2#6 ++ 0#6) 0 = some (.radd .d64 1 2 false false) := by decide
theorem test_word_fatom :
    decodeWord .slotY (0x8A#8 ++ 3#6 ++ 1#6 ++ 2#6 ++ 0#6) (0xABC1#16 ++ 0#5 ++ 11#4 ++ 1#1 ++ 9#6) = some (.fatom .d64 3 1 2 false false 0xABC1 11 9 true) := by
  decide
theorem test_word_hcw : decodeWord .slotV ((0#16 ++ (9#9 ++ 3#3 ++ 1#1 ++ 6#3)) : W32) 0 = some (.hcw 9 3 true 6) := by decide
theorem test_word_ext : decodeMicro (1#5 ++ 0x38#9 ++ 1#5 ++ 0xE#13) = some (.ext 0x38 1 0xE) := by decide
theorem test_word_rga_push : decodeMicro (12#5 ++ 3#2 ++ 5#12 ++ 7#5 ++ 2#3 ++ 4#4 ++ 0#1) = some (.rgaPush 5 7 2 4) := by decide
theorem test_word_reserved : decodeWord .slotS (0x01#8 ++ 3#6 ++ 1#6 ++ 2#6 ++ 0x04#6) 0 = none ∧ decodeSlot 11 0x8E105000 0 = none := by decide
theorem test_table_word : decodeTableWord 32 0x8E105000 = some (.ldd 4 5 false 0 ⟨false, 0, 0⟩) := by decide

/-- The manual's own examples, scalar and synchronising. -/
theorem test_examples_scalar : decodeWord .slotS 0x01041080 0 = some (.add .d64 1 1 2 false false)
    ∧ decodeWord .slotS 0x061C8250 0 = some (.div .d64 7 8 9 false true)
    ∧ decodeWord .slotY 0x011461C1 0 = some (.aadd .w32 5 6 7 false false)
    ∧ decodeWord .slotY 0x190020C0 0 = some (.strel .d64 2 3 false false) ∧ decodeWord .slotY 0x18102000 0 = some (.ldacq .d64 4 2 false)
    ∧ decodeWord .slotY 0x1A000002 0 = some (.fence 2) ∧ decodeWord .slotY 0x801461C0 8 = some (.acas .d64 5 6 7 false false 8 false)
    ∧ decodeWord .slotY 0x38000003 0 = some .svcTime := by decide
/-- The manual's own examples, matrix, horizontal and fabric. -/
theorem test_examples_matrix : decodeWord .slotM 0x01000041 0 = some (.lease 0 0 1 1) ∧ decodeWord .slotM 0x10605001 0 = some (.flu 1 2 5 true)
    ∧ decodeWord .slotM 0x131C6002 0 = some (.ftrs 0 1 3 6 false true false) ∧ decodeWord .slotM 0x10005000 0 = some (.flu 0 0 5 false)
    ∧ decodeWord .slotV 0x0280 0 = some (.hcw 5 0 false 0)
    ∧ decodeWord .slotY 0x881461C0 0x07D00000 = some (.fld .d64 5 6 7 false false 0x7D0 0)
    ∧ decodeWord .slotY 0x8A2061C0 0x89 = some (.fatom .d64 8 6 7 false false 0 1 9 false) := by decide

/-! ## States that meet the hypotheses of the statements -/

/-- The conditions of Issuable, evaluated. -/
def issuableB (s : State) (i : Instr) : Bool :=
  decide ((s.seat s.cur).st = .occupied) && fieldsOk i && (infoOf i).srcs.all (fun r => !(s.seat s.cur).isEmpty r.1)
    && (infoOf i).dests.all (fun r => !(s.seat s.cur).destBlocked r) && (!(infoOf i).mem || !s.memWaits s.cur)
    && decide ((s.seat s.cur).items.length + (infoOf i).items ≤ 64) && decide ((infoOf i).lands ≤ s.landFree (coreOf s.cur))

theorem issuable_of {s : State} {i : Instr} (h : issuableB s i = true) : s.Issuable i := by
  simp only [issuableB, Bool.and_eq_true, decide_eq_true_eq, List.all_eq_true, Bool.not_eq_true', Bool.or_eq_true] at h
  obtain ⟨⟨⟨⟨⟨⟨h1, h2⟩, h3⟩, h4⟩, h5⟩, h6⟩, h7⟩ := h
  exact ⟨h1, h2, h3, h4, fun hm => h5.resolve_left (by simp [hm]), fun _ => h6, fun _ => h7⟩

/-- All of a list of instructions can be issued. -/
theorem issuable_all {s : State} {l : List Instr} (h : l.all (issuableB s) = true) : ∀ i ∈ l, s.Issuable i :=
  fun i hi => issuable_of (List.all_eq_true.1 h i hi)

/-- The place that a word access has, if it passes its checks. -/
def WordTr.place : WordTr → Option PLoc
  | .ok p => some p
  | .bad _ => none

theorem word_of {x : WordTr} {p : PLoc} (h : WordTr.place x = some p) : x = .ok p := by
  cases x <;> simp_all [WordTr.place]

/-- The bytes that an early read gives, if it passes its checks. -/
def Early.bytes : Early → Option (List Byte)
  | .ok l => some l
  | .bad _ => none

theorem early_of {x : Early} {l : List Byte} (h : Early.bytes x = some l) : x = .ok l := by
  cases x <;> simp_all [Early.bytes]

theorem quiet_of {s : State} (hw : s.waits = []) (hd : s.dies = []) (k n : Nat) : s.Quiet k n := by
  refine ⟨by simp [hw], fun d t ht => ?_⟩
  simp only [State.die, hd] at ht
  cases ht

theorem performs_of {s : State} {id : Nat} {k : AKind} {a : Acc} (h : decide (a.k = k) && decide (s.accOf id [k] = some a)
    && decide ((s.ctx a.ctx).rcd = false) && decide ((s.ctx a.ctx).replay = false) = true) : s.Performs id k a := by
  simp only [Bool.and_eq_true, decide_eq_true_eq] at h
  exact ⟨h.1.1.1, h.1.1.2, h.1.2, h.2⟩

/-- The translation of a range succeeds. -/
def TrRange.isOk : TrRange → Bool
  | .ok _ => true
  | _ => false

theorem range_of {x : TrRange} (h : TrRange.isOk x = true) : ∃ l, x = .ok l := by
  cases x <;> simp_all [TrRange.isOk]

/-- What a reading of a range for a stream gives. -/
def Span.parts : Span → Nat × Nat × List Nat
  | .ok l => (0, 0, l)
  | .wait va => (1, va, [])
  | .fault c va => (c + 2, va, [])

theorem span_ok {x : Span} {l : List Nat} (h : Span.parts x = (0, 0, l)) : x = .ok l := by
  cases x <;> simp_all [Span.parts]

theorem span_fault {x : Span} {c va : Nat} (h : Span.parts x = (c + 2, va, [])) : x = .fault c va := by
  cases x <;> simp_all [Span.parts]

/-- A context with a scratchpad of 64 KiB on quad 0. -/
def ctxA : Ctx := { Ctx.fresh with st := .runnable, key := some 1, splen := [(0, 0x10000)] }

/-- A seat with a carriage, and numbers in S1 to S9: S1 = 12, S2 = 5, S3 = 0, S4 = an address of the scratchpad, S5 = a misaligned one. -/
def seatA : Seat :=
  { Seat.reset with st := .occupied, ctx := 1, carr := 256, pc := 0x10000
                    sregs := [(1, 12), (2, 5), (4, 0xFF0000000100), (5, 0xFF0000000101), (6, 0xFF0000000200)] }

/-- The package with one seat and one context. -/
def one (x : Seat) (c : Ctx) : State :=
  { State.reset with power := .active, dieCycle := 4096, seats := [(0, x)], ctxs := [(1, c)] }

/-- The package with seat and context as above. -/
def sA : State := one seatA ctxA

theorem test_IntegerFormsWriteTheirResults :
    (∀ i ∈ (twoSource .d64 3 1 2 false false 12 5 ++ twoSource .w32 0 1 2 true true 12 5).map Prod.fst, sA.Issuable i)
    ∧ (∀ i ∈ (oneSource .d64 3 1 false 12 ++ oneSource .w32 3 0 false 0).map Prod.fst, sA.Issuable i)
    ∧ (∀ i ∈ (immediate .d64 3 1 false 0xFFFFFFFF 12 ++ immediate .w32 3 1 false 1 12).map Prod.fst, sA.Issuable i)
    ∧ sA.Issuable (.lih 1 false 7) := by
  and_intros
  all_goals first
    | decide | exact issuable_of (by decide) | exact issuable_all (by decide)

theorem test_ShiftsByAnAmount :
    (∀ i ∈ (amountShift .d64 3 1 63 false 12 ++ amountShift .w32 3 1 31 false 12).map Prod.fst, sA.Issuable i)
    ∧ (sA.seat sA.cur).st = .occupied ∧ 32 ≤ (32 : BitVec 6).toNat
    ∧ decodeWord .slotS (0x10#8 ++ 3#6 ++ 1#6 ++ 63#6 ++ 0#6) 0 = some (.shli .d64 3 1 63 false) := by
  and_intros
  all_goals first
    | decide | exact issuable_of (by decide) | exact issuable_all (by decide)

theorem test_SelectionTakesItsThirdSource :
    sA.Issuable (.sel .d64 3 1 2 false false 3 false) ∧ sA.Issuable (.sel .w32 3 1 2 false false 1 true)
    ∧ decodeWord .slotS (0x98#8 ++ 3#6 ++ 1#6 ++ 2#6 ++ 0#6) (0#25 ++ 1#1 ++ 63#6) = some (.sel .d64 3 1 2 false false 63 true)
    ∧ decodeWord .slotS (0x99#8 ++ 3#6 ++ 1#6 ++ 2#6 ++ 0#6) (0#25 ++ 0#1 ++ 63#6) = some (.ffma 3 1 2 false false 0 false 63 false) := by
  and_intros
  all_goals first
    | decide | exact issuable_of (by decide)

theorem test_DivisionsComeLaterOrTrap :
    (∀ i ∈ (divisions .d64 7 1 2 false false 12 5 ++ divisions .w32 7 1 3 false false 12 0).map Prod.fst, sA.Issuable i)
    ∧ uns .d64 ((sA.seat sA.cur).reg 2) ≠ 0 ∧ uns .w32 ((sA.seat sA.cur).reg 3) = 0 := by
  and_intros
  all_goals first
    | decide | exact issuable_of (by decide) | exact issuable_all (by decide)

/-- An item of the seat whose result has come. -/
def itemA : Item := { id := 9, landing := false, sh := false, reg := 7, due := 0, data := some 77, flags := 1, er := false }

theorem test_ProducerResultFillsItsRegister :
    let s := one { seatA with items := [itemA], empty := 128 } ctxA
    s.itemSeat 9 = some (0, itemA) ∧ itemA.data = some 77 ∧ itemA.sh = (s.seat 0).inShadow itemA.reg.toNat ∧ ∀ a ∈ s.accs, a.id ≠ 9 := by
  decide

theorem test_FloatFormsWriteTheirResults :
    (∀ i ∈ (floatForms 3 1 2 false false 0 false 3 0 1 4 false 12 5 0).map Prod.fst, sA.Issuable i)
    ∧ sA.Issuable (.fdiv 3 1 2 false false 3 true) ∧ sA.Issuable (.fsqrt 3 1 false 0 false)
    ∧ isNaN 0x7F800001 ∧ isNaN 0xFFFFFFFF :=
  ⟨issuable_all (by decide), issuable_of (by decide), issuable_of (by decide), by unfold isNaN; decide, by unfold isNaN; decide⟩

theorem test_BranchesAndJumpsTransferControl :
    (∀ i ∈ (branches 1 2 false false 8 12 5).map Prod.fst, sA.Issuable i) ∧ (∃ e ∈ branches 1 2 false false 8 12 5, e.2 = true)
    ∧ (∃ e ∈ branches 1 2 false false 8 12 5, e.2 = false) ∧ sA.Issuable (.bkany 1 0xFF 8) ∧ sA.Issuable (.bra 8) ∧ sA.Issuable (.bl 3 8) := by
  and_intros
  all_goals first
    | decide | exact issuable_of (by decide) | exact issuable_all (by decide)

theorem test_JumpsGoToTheirRegister :
    sA.Issuable (.jr 4 false) ∧ sA.Issuable (.ret 4 true) ∧ sA.Issuable (.jlr 4 4 false)
    ∧ decodeWord .slotC (0x01#8 ++ 0#6 ++ 63#6 ++ 0#6 ++ 1#1 ++ 0#5) 0 = some (.jr 63 true) := by
  and_intros
  all_goals first
    | decide | exact issuable_of (by decide)

/-- The seat with a loop stack of `n` entries. -/
def looping (n : Nat) : Seat := { seatA with frame := { Frame.clear with loop := List.replicate n ⟨0x10000, 0x10000, 2⟩ } }

theorem test_LoopsPushTheirEntry :
    sA.Issuable (.loop 1 false 4) ∧ (target sA 1).toNat < (nextOf sA (.loop 1 false 1)).toNat
    ∧ ¬ (target sA 4).toNat < (nextOf sA (.loop 1 false 4)).toNat ∧ (sA.seat 0).frame.loop.length ≠ 4
    ∧ (one (looping 4) ctxA).Issuable (.loop 1 false 4) ∧ ((one (looping 4) ctxA).seat 0).frame.loop.length = 4
    ∧ (one (looping 3) ctxA).Issuable (.loop 3 false 4) ∧ ((one (looping 3) ctxA).seat 0).reg 3 = 0 := by
  and_intros
  all_goals first
    | decide | exact issuable_of (by decide)

/-- The package with an entry in count queue 2 of quad 0. -/
def counted : State := { sA with quads := [(0, { Quad.reset with cqs := [(2, [(100, 7)])], cqCtx := 1 })] }

theorem test_LoopsPushTheirEntry_queue :
    counted.Issuable (.loopq 2 4) ∧ counted.cqForeign 0 1 = false ∧ SMap.get [] (counted.quad 0).cqs 2 = [(100, 7)] ∧ 100 / 2 < counted.dieCycle := by
  and_intros
  all_goals first
    | decide | exact issuable_of (by decide)

/-- A package whose first bundle, in the scratchpad, can be fetched. -/
def fetching : State := one { seatA with pc := 0xFF0000000100 } ctxA

theorem test_SuspensionsLeaveTheSeat :
    sA.Issuable .yield ∧ sA.Issuable .suspend ∧ sA.Issuable .endC ∧ sA.suspendWaits 0 = false ∧ sA.suspendBad 0 = false
    ∧ waitdBad (sA.seat 0).waitd = false ∧ fld (sA.seat 0).waitd 63 60 = 0
    ∧ (one { seatA with waitd := 0x4000000000000010 } ctxA).Issuable .suspend
    ∧ waitdBad 0x4000000000000010 = false ∧ fld 0x4000000000000010 63 60 = 4 := by
  and_intros
  all_goals first
    | decide | exact issuable_of (by decide)

theorem test_TrapsEnterTheNextLevel :
    sA.Issuable (.trap 5) ∧ (sA.seat 0).lvl ≠ 2 ∧ (sA.seat 0).lvl = 0 ∧ ((one { seatA with lvl := 1 } ctxA).seat 0).lvl = 1 := by
  and_intros
  all_goals first
    | decide | exact issuable_of (by decide)

theorem test_ReturnsRestoreWhatWasSaved :
    sA.Issuable .xret ∧ (sA.seat 0).lvl = 0 ∧ (one { seatA with lvl := 2 } ctxA).Issuable .xret ∧ sA.Issuable .uiret ∧ (sA.seat 0).uiActive = false
    ∧ (one { seatA with uiActive := true } ctxA).Issuable .uiret := by
  and_intros
  all_goals first
    | decide | exact issuable_of (by decide)

theorem test_LoopsPushTheirEntry_zero :
    fetching.Issuable (.loop 3 false 4) ∧ (fetching.seat 0).reg 3 = 0
    ∧ afterBundle fetching (fetching.envOf (.loop 3 false 4)) (target fetching 4) = .ok 0xFF0000000114 := by
  and_intros
  all_goals first
    | decide | exact issuable_of (by decide) | exact issuable_all (by decide) | exact performs_of (by decide) | exact word_of (by decide)
    | exact early_of (by decide) | exact (quiet_of rfl rfl _ _).2 | rfl

/-- The first word of the place of S4 and of S6. -/
def key4 : Nat := spKey 1 0 0x100
def key6 : Nat := spKey 1 0 0x200

theorem test_LoadsAndStoresAreIssued :
    (∀ i ∈ (loads 7 4 false 0 ⟨false, 0, 0⟩ ++ loads 7 4 false 0xFFF ⟨false, 0, 8⟩).map Prod.fst, sA.Issuable i)
    ∧ trAcc sA (sA.envOf (.ldd 7 4 false 0 ⟨false, 0, 0⟩)) .rd (address sA 4 ⟨false, 0, 0⟩) 8 = .ok [⟨key4, none⟩]
    ∧ trAcc sA (sA.envOf (.ldh 7 5 false 0 ⟨false, 0, 0⟩)) .rd (address sA 5 ⟨false, 0, 0⟩) 2 = .ok [⟨key4 + 1, none⟩, ⟨key4 + 2, none⟩]
    ∧ sA.expo 0 (sA.cycle 0) (locRanges [⟨key4, none⟩] 8) = .clear
    ∧ sA.Issuable (.lea 7 4 false ⟨true, 3, 0xFFFF⟩)
    ∧ (∀ i ∈ (stores 4 1 false false ⟨false, 0, 0⟩).map Prod.fst, sA.Issuable i)
    ∧ trAcc sA (sA.envOf (.std 4 1 false false ⟨false, 0, 0⟩)) .wr (address sA 4 ⟨false, 0, 0⟩) 8 = .ok [⟨key4, none⟩]
    ∧ ctxA.onTile 0xFF0000000100 8 = false ∧ 0xFF0000000101 % 2 ≠ 0 ∧ ctxA.onTile 0xFF000000E000 8 = true
    ∧ trAcc (one { seatA with sregs := [(4, 0xFF000000E000)] } ctxA) (sA.envOf (.std 4 1 false false ⟨false, 0, 0⟩)) .wr 0xFF000000E000 8
      = .ok [⟨spKey 1 0 0xE000, none⟩] := by
  and_intros
  all_goals first
    | decide | exact issuable_of (by decide) | exact issuable_all (by decide) | exact performs_of (by decide) | exact word_of (by decide)
    | exact early_of (by decide) | exact (quiet_of rfl rfl _ _).2 | rfl

/-- An access of the carriage of `seatA` at the place of S4. -/
def accA (k : AKind) (op : Nat) (v x : W64) : Acc :=
  { id := 9, iss := 9, k, carr := 256, ctx := 1, seat := 0, op, n := 8, sgn := false, va := 0xFF0000000100, locs := [⟨key4, none⟩], v, x, flag := false
    rcd := [], rref := [] }

/-- The package with that access, and the item of its answer for register 7. -/
def withAcc (a : Acc) (landing : Bool) : State :=
  { one { seatA with items := [⟨9, landing, false, 7, 5000, none, 0, false⟩], empty := if landing then 0 else 128 } ctxA with accs := [a] }

theorem test_MemoryTakesAndGivesBytes :
    (withAcc (accA .store 0 5 0) false).Performs 9 .store (accA .store 0 5 0)
    ∧ (withAcc (accA .store 0 5 0) false).Quiet (sA.front 1 ⟨key4, none⟩) 8
    ∧ (withAcc (accA .load 1 0 0) true).Performs 9 .load (accA .load 1 0 0)
    ∧ (withAcc (accA .load 0 0 0) false).Performs 9 .load (accA .load 0 0 0)
    ∧ (withAcc (accA .load 0 0 0) false).badIn ((withAcc (accA .load 0 0 0) false).front 1 ⟨key4, none⟩) 8 = none ∧ inHost 0xFF0000000100 = false
    ∧ (withAcc (accA .load 1 0 0) true).itemSeat 9 = some (0, ⟨9, true, false, 7, 5000, none, 0, false⟩)
    ∧ (withAcc (accA .load 0 0 0) false).itemSeat 9 = some (0, ⟨9, false, false, 7, 5000, none, 0, false⟩)
    ∧ (withAcc (accA .load 0 0 0) false).accOf 9 [.load, .ldacq, .bartest] = some (accA .load 0 0 0) := by
  and_intros
  all_goals first
    | decide | exact issuable_of (by decide) | exact issuable_all (by decide) | exact performs_of (by decide) | exact word_of (by decide)
    | exact early_of (by decide) | exact (quiet_of rfl rfl _ _).2

theorem test_AtomicsAreSentToTheirHome :
    (∀ i ∈ (atomics .d64 7 4 1 false false ++ atomics .w32 7 4 1 false false).map Prod.fst, sA.Issuable i)
    ∧ (∀ i ∈ (reductions .d64 4 1 false false).map Prod.fst, sA.Issuable i) ∧ sA.Issuable (.acas .d64 7 4 1 false false 2 false)
    ∧ sA.Issuable (.strel .w32 4 1 false false) ∧ sA.Issuable (.ldacq .d64 7 4 false)
    ∧ yCheck sA (sA.envOf (.aadd .d64 7 4 1 false false)) .atom (pointed sA 4) 8 true true = .ok [⟨key4, none⟩]
    ∧ yCheck sA (sA.envOf (.radd .d64 4 1 false false)) .red (pointed sA 4) 8 true false = .ok [⟨key4, none⟩]
    ∧ yCheck sA (sA.envOf (.strel .d64 4 1 false false)) .wr (pointed sA 4) 8 false false = .ok [⟨key4, none⟩]
    ∧ yCheck sA (sA.envOf (.ldacq .d64 7 4 false)) .rd (pointed sA 4) 8 false true = .ok [⟨key4, none⟩] := by
  and_intros
  all_goals first
    | decide | exact issuable_of (by decide) | exact issuable_all (by decide) | exact performs_of (by decide) | exact word_of (by decide)
    | exact early_of (by decide) | exact (quiet_of rfl rfl _ _).2 | rfl

/-- A context with a publishable buffer at 0x700000. -/
def ctxP : Ctx := { ctxA with pbs := [(3, ⟨0x700000, 1, 16, 32, false, []⟩)] }

theorem test_FenceAndPubCommit :
    sA.Issuable (.fence 4) ∧ sA.Issuable (.fence 0) ∧ (one { seatA with sregs := [(4, 0x700000)] } ctxP).Issuable (.pub 4 false)
    ∧ ctxP.pbs.find? (fun e => e.2.va.toNat == 0x700000) = some (3, ⟨0x700000, 1, 16, 32, false, []⟩)
    ∧ ctxA.pbs.find? (fun e => e.2.va.toNat == pointed sA 4) = none := by
  and_intros
  all_goals first
    | decide | exact issuable_of (by decide)

theorem test_HomePortsApplyOperations :
    (withAcc (accA .reduction 1 5 0) false).Performs 9 .reduction (accA .reduction 1 5 0)
    ∧ (withAcc (accA .strel 0 5 0) false).Performs 9 .strel (accA .strel 0 5 0)
    ∧ (withAcc (accA .atomic 11 5 0) false).Performs 9 .atomic (accA .atomic 11 5 0)
    ∧ (withAcc (accA .atomic 11 5 0) false).itemSeat 9 = some (0, ⟨9, false, false, 7, 5000, none, 0, false⟩)
    ∧ sA.countOf key4 = none ∧ (8 : Nat) = widthOf .d64
    ∧ ({ one seatA ctxP with accs := [accA .pub 3 0 0] }).Performs 9 .pub (accA .pub 3 0 0)
    ∧ ({ one seatA ctxP with accs := [accA .pub 3 0 0] }).pubWaits (accA .pub 3 0 0) = false
    ∧ (withAcc (accA .ctrset 0 5 0) false).Performs 9 .ctrset (accA .ctrset 0 5 0)
    ∧ (withAcc (accA .ctradd 0 5 0) false).Performs 9 .ctradd (accA .ctradd 0 5 0)
    ∧ (withAcc (accA .barinit 0 5 0) false).Performs 9 .barinit (accA .barinit 0 5 0)
    ∧ (withAcc (accA .arrival 0 0 0) false).Performs 9 .arrival (accA .arrival 0 0 0)
    ∧ bOwn ((withAcc (accA .arrival 0 0 0) false).rdWord key4) = bOwn (bArrive ((withAcc (accA .arrival 0 0 0) false).rdWord key4)) := by
  and_intros
  all_goals first
    | decide

/-- The arrivals of the manual's cases: one that counts, the last, the first of a new generation, and two words that it leaves alone. -/
theorem test_SynchronisationWordsMove :
    bArrive (BitVec.ofNat 64 (barrierWord 3 0 7 0 9)) = BitVec.ofNat 64 (barrierWord 3 1 7 1 9)
    ∧ bArrive (BitVec.ofNat 64 (barrierWord 3 2 7 1 9)) = BitVec.ofNat 64 (barrierWord 3 3 7 2 0)
    ∧ bArrive (BitVec.ofNat 64 (barrierWord 3 3 255 2 9)) = BitVec.ofNat 64 (barrierWord 3 1 0 1 9)
    ∧ bArrive (BitVec.ofNat 64 (barrierWord 1 1 7 2 0)) = BitVec.ofNat 64 (barrierWord 1 1 8 2 0)
    ∧ bArrive (BitVec.ofNat 64 (barrierWord 3 1 7 3 9)) = BitVec.ofNat 64 (barrierWord 3 1 7 3 9)
    ∧ bArrive (BitVec.ofNat 64 (barrierWord 3 4 7 1 9)) = BitVec.ofNat 64 (barrierWord 3 4 7 1 9) := by decide

theorem test_SynchronisationWordsMove_issue :
    sA.Issuable (.barinit 4 1 false false true) ∧ sA.Issuable (.barinit 4 3 false false false) ∧ (sA.seat 0).owned.length < 4
    ∧ sA.Issuable (.ctrset 4 1 false false) ∧ sA.Issuable (.ctradd 4 1 false false) ∧ sA.Issuable (.bararr 7 4 false)
    ∧ sA.Issuable (.bartest 7 4 false)
    ∧ (one { seatA with sregs := [(1, 0x8000000000000000), (4, 0xFF0000000100)] } ctxA).Issuable (.ctrset 4 1 false false)
    ∧ wordTr sA (sA.envOf (.bararr 7 4 false)) .atom (pointed sA 4) = .ok ⟨key4, none⟩
    ∧ wordTr sA (sA.envOf (.bartest 7 4 false)) .rd (pointed sA 4) = .ok ⟨key4, none⟩ := by
  and_intros
  all_goals first
    | decide | exact issuable_of (by decide) | exact issuable_all (by decide) | exact performs_of (by decide) | exact word_of (by decide)

/-- A carriage that waits for the word of S4, and one that waits for a time. -/
def waitA : Wait := { carr := 512, ctx := 1, kind := 2, aux := 0, addr := 0xFF0000000100, key := key4, at_ := 0 }
def waitB : Wait := { carr := 512, ctx := 1, kind := 4, aux := 0, addr := 0, key := 0, at_ := 4096 }
/-- The record of that carriage. -/
def recA : Rec :=
  { carr := 512, ctx := 1, die := 0, lid := 1, st := .waiting, kind := 0, pin := none, quad := none, since := 0, coach := none, member := 0
    pool := none, lease := Lease.none, uiRep := 0, imgIds := [], hcwErr := [] }
def waiting (w : Wait) : State := { sA with waits := [w], recs := [recA] }

theorem test_WaitsSuspendAndWake :
    sA.Issuable (.barwait 60 4 1 false false) ∧ sA.Issuable (.ctrwait 60 4 61 false false) ∧ sA.suspendBad 0 = false ∧ sA.suspendWaits 0 = false
    ∧ sA.unperformed 0 = false
    ∧ wordTr sA (sA.envOf (.ctrwait 60 4 61 false false)) .rd (pointed sA 4) = .ok ⟨key4, none⟩
    ∧ bBad (sA.rdWord key4) = true
    ∧ (let s := sA.wrBytes key4 (bytesLE 8 (barrierWord 3 1 5 1 0)); bBad (s.rdWord key4) = false ∧ bSt (s.rdWord key4) = 1 ∧ bGen (s.rdWord key4) = 5)
    ∧ (waiting waitA).recOf 1 512 = some recA ∧ (waiting waitA).waits.find? (fun y => y.carr == 512 && (waiting waitA).waitCond y ((waiting waitA).rdWord y.key)) = some waitA
    ∧ (waiting waitB).waits.find? (fun y => y.carr == 512 && y.kind == 4 && decide (y.at_ ≤ (waiting waitB).dieCycle)) = some waitB := by
  and_intros
  all_goals first
    | decide | exact issuable_of (by decide) | exact issuable_all (by decide) | exact performs_of (by decide) | exact word_of (by decide)

/-- The records of a WRITE of 8 bytes and of a TCOPY of 256 bytes, and the package with them at the place of S6. -/
def wrA : List Byte := bytesLE 8 0x0100FF0000000000 ++ bytesLE 8 0x10000 ++ bytesLE 8 0 ++ bytesLE 8 8 ++ bytesLE 32 0
def tcA : List Byte := bytesLE 8 0xFF0000000400 ++ bytesLE 8 0xFF0000000800 ++ bytesLE 8 256 ++ bytesLE 40 0
def withRec (l : List Byte) : State := sA.wrBytes key6 l
/-- A fired TCOPY. -/
def trigA : Trig := { id := 3, ctx := 1, carr := 256, kind := 2, va := 0xFF0000000100, key := key4, thr := 1, rcd := tcA, held := none }

theorem test_TriggersArmAndFire :
    (withRec wrA).Issuable (.tsend 4 1 false false 6 false) ∧ (withRec tcA).Issuable (.tcopy 4 1 false false 6 false)
    ∧ wordTr (withRec tcA) ((withRec tcA).envOf (.tcopy 4 1 false false 6 false)) .atom (pointed sA 4) = .ok ⟨key4, none⟩
    ∧ pointed sA 6 % 64 = 0
    ∧ earlyRead (withRec tcA) ((withRec tcA).envOf (.tcopy 4 1 false false 6 false)) (pointed sA 6) 64 (pointed sA 6) true = .ok tcA
    ∧ earlyRead (withRec wrA) ((withRec wrA).envOf (.tsend 4 1 false false 6 false)) (pointed sA 6) 64 (pointed sA 6) true = .ok wrA
    ∧ (wrCheck (withRec wrA) ((withRec wrA).envOf (.tsend 4 1 false false 6 false)) (pointed sA 6) wrA).isNone = true
    ∧ (tcCheck (withRec tcA) ((withRec tcA).envOf (.tcopy 4 1 false false 6 false)) tcA).isNone = true ∧ (withRec tcA).trigsTaken 0 < 1024
    ∧ (withAcc (accA .arm 2 0 0) false).Performs 9 .arm (accA .arm 2 0 0) ∧ (withAcc (accA .arm 2 1 0) false).Performs 9 .arm (accA .arm 2 1 0) := by
  and_intros
  all_goals first
    | decide | exact issuable_of (by decide) | exact issuable_all (by decide) | exact performs_of (by decide) | exact word_of (by decide)
    | exact early_of (by decide)

theorem test_TriggersArmAndFire_copy :
    let x := { trigA with held := some [] }
    let s := { sA with dies := [(0, { Die.reset with fired := [x] })] }
    (s.die 0).fired = [x] ∧ (s.quad x.quad).trans.length < 32
    ∧ (match s.fireChk trigA with | .fire h => decide (h = some []) | _ => false) = true := by decide

/-- A resident queue of kind CONS = 1 with a ring of 16 entries, of which `t - p` are reserved and `p - h` published. -/
def queueA (t p h : BitVec 32) : Queue := { Queue.free with st := 3, word0 := 0x0014FF0000001000, t := t, p := p, h := h, f := h }
def withQueue (q : Queue) : State := one { seatA with sregs := [(1, 7), (2, 12)] } { ctxA with queues := [(7, q)] }

theorem test_QueueFormsAreServedAtHome :
    (withQueue (queueA 2 1 0)).Issuable (.qres 8 1 false) ∧ (withQueue (queueA 2 1 0)).Issuable (.qcommit 2 1 false false true)
    ∧ (withQueue (queueA 2 1 0)).Issuable (.qcommit 2 1 false false false) ∧ (withQueue (queueA 2 1 0)).Issuable (.qtake 8 1 false false)
    ∧ (withQueue (queueA 2 1 0)).Issuable (.qtake 60 1 false true) ∧ ((withQueue (queueA 2 1 0)).queue 1 7).nodev = false
    ∧ ((withQueue (queueA 2 1 0)).queue 1 7).cons = 1 ∧ ((withQueue (queueA 2 1 0)).queue 1 7).st = 3 ∧ (queueA 2 1 0).h ≠ (queueA 2 1 0).p
    ∧ (withQueue (queueA 2 1 0)).suspendBad 0 = false ∧ (withQueue (queueA 2 1 0)).suspendWaits 0 = false := by
  and_intros
  all_goals first
    | decide | exact issuable_of (by decide)

/-- That queue with an access to it, and the item of its answer. -/
def atHome (q : Queue) (k : AKind) (v : W64) : State :=
  { one { seatA with items := [⟨9, false, false, 7, 0, none, 0, false⟩], empty := 128 } { ctxA with queues := [(7, q)] } with
    accs := [{ accA k 7 v 0 with locs := [], n := 0 }] }

theorem test_QueueFormsAreServedAtHome_home :
    (atHome (queueA 2 1 0) .qres 0).Performs 9 .qres { accA .qres 7 0 0 with locs := [], n := 0 }
    ∧ (atHome (queueA 2 1 0) .qtake 0).Performs 9 .qtake { accA .qtake 7 0 0 with locs := [], n := 0 }
    ∧ (atHome (queueA 2 1 0) .qres 0).itemSeat 9 = some (0, ⟨9, false, false, 7, 0, none, 0, false⟩)
    ∧ hasRoom (queueA 15 1 0) ∧ ¬ hasRoom (queueA 16 1 0) ∧ (queueA 2 1 1).h = (queueA 2 1 1).p
    ∧ (atHome (queueA 3 0 0) .qcommit 1).accOf 9 [.qcommit, .qrelease] = some { accA .qcommit 7 1 0 with locs := [], n := 0 }
    ∧ (let k : BitVec 32 := 1; (k - (queueA 3 0 0).p).toNat < ((queueA 3 0 0).t - (queueA 3 0 0).p).toNat
        ∧ SMap.get false (queueA 3 0 0).cb (k.toNat % 2 ^ (queueA 3 0 0).log2n) = false)
    ∧ (let k : BitVec 32 := 5; ((queueA 3 0 0).t - (queueA 3 0 0).p).toNat ≤ (k - (queueA 3 0 0).p).toNat) :=
  ⟨performs_of (by decide), performs_of (by decide), by decide, by unfold hasRoom; decide, by unfold hasRoom; decide, by decide, by decide, by decide,
   by decide⟩

theorem test_ControlRegistersAndParkSlots :
    sA.Issuable (.rdc 3 0x000) ∧ (sA.ctrl 0 0).isSome = true ∧ sA.ctrl 0 0xFFF = none ∧ sA.Issuable (.rdc 3 0xFFF)
    ∧ sA.Issuable (.wrc 0x004 1 false) ∧ sA.Issuable (.wrc 0xFFF 1 true) ∧ (writable 0).all (fun e => e.1 != 0xFFF) = true
    ∧ sA.Issuable (.stow 63 1 false false) ∧ sA.Issuable (.stow 15 1 false true) ∧ sA.Issuable (.unstow 3 63 false) ∧ sA.Issuable (.unstow 3 15 true)
    ∧ (sA.seat 0).parkmap.getLsbD 63 = false ∧ (sA.seat 0).vparkmap.getLsbD 15 = false
    ∧ (one { seatA with parkmap := 0x8000000000000000, vparkmap := 0x8000 } ctxA).Issuable (.unstow 3 63 false)
    ∧ (0x8000000000000000 : W64).getLsbD 63 = true ∧ (0x8000 : BitVec 16).getLsbD 15 = true := by
  and_intros
  all_goals first
    | decide +kernel | exact issuable_of (by decide)

/-- A stream of one row of 16 elements in the scratchpad, in a state and with a place. -/
def strA (st : StreamSt) (pos : Addr) : Stream :=
  { Stream.zero with base := 0xFF0000000400, fmt := 3, cols := 16, de0 := 1, de1 := 1, de2 := 1, de3 := 1, bound := 4096, st := st, pos := pos }
/-- The package with that stream as number 5, and a record of a stream and an extent of 2 at the place of S6. -/
def withStr (z : Stream) : State :=
  (one { seatA with streams := [(5, z)], sregs := seatA.sregs ++ [(7, 0xFF0000000240)] } ctxA).wrBytes (key6 + 0x40) (bytesLE 8 2)

theorem test_StreamsActAndMove :
    sA.Issuable (.sbind 3 5 false) ∧ sA.Issuable (.sbind 3 0 true) ∧ (withStr (strA .idle 0)).Issuable (.sstart 5)
    ∧ (strA .idle 0).startBad false = none ∧ (withStr (strA .active 0)).Issuable (.sstart 5) ∧ sA.Issuable (.sstart 5) ∧ ((sA.seat 0).sq 5).cols = 0
    ∧ (withStr (strA .active 0)).Issuable (.sstop 5) ∧ sA.Issuable (.sstop 5) ∧ (withStr (strA .cancelled 0)).Issuable (.sdrain 5)
    ∧ (withStr (strA .active 0)).Issuable (.sdrain 5) ∧ ((withStr (strA .active 0)).seat 0).sq 5 = strA .active 0 ∧ (strA .active 0).pushed = []
    ∧ sA.Issuable (.spos 3 5 0 false) ∧ sA.Issuable (.spos 3 5 1 true) ∧ (withStr (strA .active 0)).Issuable (.spos 3 5 1 true)
    ∧ sA.Issuable (.scfg 5 6 0) ∧ offAddr sA 6 0 % 64 = 0 ∧ offAddr sA 6 8 % 64 ≠ 0 ∧ (withStr (strA .active 0)).Issuable (.scfg 5 6 0)
    ∧ earlyRead sA (sA.envOf (.scfg 5 6 0)) (offAddr sA 6 0) 64 (offAddr sA 6 0) = .ok (List.replicate 64 0)
    ∧ (withStr (strA .idle 0)).Issuable (.shape 5 7 0) ∧ (strA .idle 0).fmtBad true = false
    ∧ earlyRead (withStr (strA .idle 0)) ((withStr (strA .idle 0)).envOf (.shape 5 7 0)) 0xFF0000000240 8 0xFF0000000240 = .ok (bytesLE 8 2)
    ∧ ofBytesLE (bytesLE 8 2) * (strA .idle 0).rb ≤ (strA .idle 0).bound.toNat
    ∧ ({ strA .idle 0 with de0 := 2 }).startBad true = none := by
  and_intros
  all_goals first
    | decide | exact issuable_of (by decide) | exact issuable_all (by decide) | exact performs_of (by decide) | exact word_of (by decide)
    | exact early_of (by decide)

/-- An out stream with a vector of one byte pushed. -/
def pushA : Pushed := { id := 3, bytes := [(⟨key4, none⟩, 5, 0x0F)], secs := [], due := 0, flags := 1 }

theorem test_StreamsActAndMove_units :
    let s := withStr (strA .active 15)
    (s.seat 0).st = .occupied ∧ (strA .active 15).dir = 0 ∧ (strA .active 15).pos.toNat < (strA .active 15).total ∧ s.fetchHeld 0 (strA .active 15) 15 (.elem 256 5 15) = false
    ∧ s.spanRead 1 0 0 ((strA .active 15).elemSpan 15).1 true (.elem 256 5 15) ((strA .active 15).elemSpan 15).2.1 = .ok [key4 + 0x30F]
    ∧ s.spanRead 1 0 0 (({ strA .active 0 with base := 0xFF0000010000 } : Stream).elemSpan 0).1 true (.elem 256 5 0)
        (({ strA .active 0 with base := 0xFF0000010000 } : Stream).elemSpan 0).2.1 = .fault 0x21 0xFF0000010000
    ∧ (withStr { strA .active 0 with pushed := [pushA] }).pushReady 0 pushA = true
    ∧ (∀ b ∈ pushA.bytes, (withStr { strA .active 0 with pushed := [pushA] }).Quiet (s.front 1 b.1) 1)
    ∧ (pushA.bytes.map fun b => s.front 1 b.1).Nodup := by
  and_intros
  all_goals first
    | decide | exact span_ok (by decide) | exact span_fault (by decide) | (intro b _; exact quiet_of rfl rfl _ _)

/-- A word that adds V1 and V2 in the fore unit into V3. -/
def hcwA : BitVec 256 := 0x01#8 ++ 0#8 ++ 0#8 ++ 1#8 ++ 2#8 ++ 0x4C#8 ++ 0x4C#8 ++ 3#8 ++ 1#2 ++ 0xFF#8 ++ 0#2 ++ 0#180
def sH : State := one { seatA with hcw := [(9, hcwA)], hcwErr := [(10, 0x1000)] } ctxA

theorem test_HorizontalWordsAndTables :
    sA.Issuable .vNop ∧ sA.Issuable .mNop ∧ sA.Issuable .xNop ∧ sH.Issuable (.hcw 9 0 false 0) ∧ sH.Issuable (.hcw 10 0 true 0)
    ∧ sH.hcwLate 0 9 (sH.cycle 0) = false ∧ SMap.find (sH.seat 0).hcwErr 10 = some 0x1000 ∧ SMap.find (sH.seat 0).hcwErr 9 = none
    ∧ hcwLegal 0 0 (fun r => ((sH.seat 0).boundTo r).isSome) = false ∧ hcwLegal hcwA 0 (fun r => ((sH.seat 0).boundTo r).isSome) = true
    ∧ (∀ sel ∈ hcwSels hcwA, 0x40 ≤ sel → sel < 0x48 → (sH.seat 0).isEmpty (BitVec.ofNat 6 (sel - 0x40 + 8)) = false)
    ∧ sH.memWaits 0 = false ∧ hcwPops (sH.seat 0) hcwA 0 = [] ∧ popAll sH 0 [] sH [] 0 = .ok ([], 0, sH)
    ∧ (hcwDests hcwA 0).filterMap (fun d => (sH.seat 0).boundTo d.2.1) = [] ∧ pushAll sH (sH.envOf (.hcw 9 0 false 0)) [] sH = .ok sH
    ∧ hcwDests hcwA 0 = [(1, 3, 1)] ∧ hcwOp hcwA 2 ≠ 0x50 ∧ ((sH.seat 0).sq 0).be = false := by
  and_intros
  all_goals first
    | decide | exact issuable_of (by decide) | rfl

/-- A table load that is due, and a copy that is. -/
def pendA : HcwPend := { id := 3, seat := 0, due := 100, first := 510, cnt := 2, va := 0xFF0000000400, refs := [] }
def xclA : Xcl := { seat := 0, due := 100, slot := 1, mask := 5, reg := 63, en := 0x8001, vals := List.replicate 16 7 }
def withCore (c : Core) : State := { sA with cores := [(0, c)] }

theorem test_HorizontalWordsAndTables_later :
    sA.Issuable (.hcwld 6 511 0) ∧ sA.Issuable (.hcwld 5 0 0) ∧ pointed sA 6 % 32 = 0 ∧ pointed sA 5 % 32 ≠ 0
    ∧ (∃ l, trSpan sA (sA.envOf (.hcwld 6 511 0)) .rd (pointed sA 6) (32 * 1) = .ok l)
    ∧ (withCore { Core.reset with hcwp := [pendA] }).hcwldReady pendA = true
    ∧ (((withCore { Core.reset with hcwp := [pendA] }).core 0).hcwp.filter fun y => y.seat == 0) = [pendA]
    ∧ (∀ i, i < pendA.cnt → sA.badIn (sA.heldKey 1 pendA.refs ((pendA.va.toNat + 32 * i) % 2 ^ 48)) 32 = none)
    ∧ ((withCore { Core.reset with xcls := [xclA] }).core 0).xcls = [xclA] ∧ xclA.due ≤ (withCore { Core.reset with xcls := [xclA] }).cycle 0 := by
  and_intros
  all_goals first
    | decide | exact issuable_of (by decide) | exact range_of (by decide)

/-- The carriage of `seatA` as the array knows it, and an array that has given it the first hoop, two planes, MD0 and PM0. -/
def cidA : Nat := carrId 1 256
def arrA : Arr := { Arr.reset with alloc := [(0, cidA + 1), (0x10, cidA + 1), (0x11, cidA + 1), (0x20, cidA + 1), (0x30, cidA + 1)], holder := some cidA }
/-- That seat with a lease in a state, and streams 0 and 1 of one tile of 16 rows. -/
def tileA (cols : BitVec 16) : Stream :=
  { Stream.zero with base := 0xFF0000000400, fmt := 2, cols := cols, rows := 2, de0 := 2, de1 := 1, de2 := 1, de3 := 1, ds0 := 256, bound := 4096
                     st := .active }
def seatL (st : LeaseSt) : Seat :=
  { seatA with lease := { Lease.none with st := st, masks := 0x104041, granted := true }, streams := [(0, tileA 16), (1, tileA 32)] }
/-- The package with that seat, a context, and an array. -/
def leased (st : LeaseSt) (a : Arr) : State := { one (seatL st) ctxA with quads := [(0, { Quad.reset with arr := a })] }

theorem leased_of {s : State} {rs : List Nat} (h : (decide ((s.seat s.cur).lease.st = .held) || decide ((s.seat s.cur).lease.st = .expiring))
    && rs.all (fun r => (s.arr (quadOf s.cur)).has (s.seat s.cur).cid r) && decide ((s.arr (quadOf s.cur)).q.length < 16) = true) : Leased s rs := by
  simp only [Bool.and_eq_true, Bool.or_eq_true, decide_eq_true_eq, List.all_eq_true] at h
  exact ⟨h.1.1, h.1.2, h.2⟩

theorem test_LeaseFormsMoveTheLease :
    sA.Issuable (.lease 0 0 0 1) ∧ sA.Issuable (.lease 0 0 0 0) ∧ (sA.seat 0).lease.st = .idle ∧ sA.Issuable .mrel ∧ sA.Issuable .msync
    ∧ (leased .held arrA).Issuable .mrel ∧ ((leased .held arrA).seat 0).lease.st ≠ .idle ∧ (leased .held arrA).queued 0 1 256 = []
    ∧ (∀ i ∈ [Instr.mzero 0 true, .mtrans 0 1, .hldc 0 0 1, .hld 0 0 4 4 0 6 0, .mdld 0 4 0, .mdst 0 4 0, .pmrd 7 0 0, .pmwr 0 0 1,
        .mma 0 0 0 0 0, .mmas 0 0 0 0 0 1 true, .cmpr 0 0 0 0 1 true], sA.Issuable i) := by
  and_intros
  all_goals first | decide | exact issuable_of (by decide) | exact issuable_all (by decide)

/-- The package with an array that is free, or that has a grant in preparation, and a seat that asks for a hoop and two planes, one of
which another context has written. -/
def askingA (ow : SMap Nat) (pick : Option (Nat × Nat)) : State :=
  { sA with seats := [(0, { seatL .requested with lease := { Lease.none with st := .requested, masks := 0x000041 } })]
            quads := [(0, { Quad.reset with arr := { Arr.reset with owner := ow, pick := pick } })] }

theorem test_ArraysGrantAndEndRuns :
    (let s := askingA [(0x10, 3)] none
     (s.arr 0).holder = none ∧ (s.arr 0).freeAt ≤ s.arrCycle 0 ∧ (s.quad 0).gatedNow = false ∧ (s.arr 0).pick = none ∧ s.arbitrate 0 = some 0
       ∧ 0 < (s.arr 0).toZero 1 (maskRes 0x000041))
    ∧ (let s := askingA [] none
       (s.arr 0).pick = none ∧ s.arbitrate 0 = some 0 ∧ (s.arr 0).toZero 1 (maskRes 0x000041) = 0)
    ∧ (let s := askingA [(0x10, 3)] (some (0, 7))
       (s.arr 0).pick = some (0, 7) ∧ 7 ≤ s.arrCycle 0 ∧ s.mayGrant 0 0 = true ∧ 0x10 ∈ maskRes 0x000041
         ∧ SMap.get 0 (s.arr 0).owner 0x10 ≠ 2)
    ∧ arrA.holder ≠ none
    ∧ ((leased .held arrA).seat 0).lease.st = .held ∧ ((leased .held arrA).arr 0).openPlane cidA = false
    ∧ ((leased .held arrA).seat 0).lease.lastCmd + 256 ≤ (leased .held arrA).cycle 0 ∧ ((leased .held arrA).seat 0).fact = none := by
  and_intros
  all_goals decide

/-- The operands of a command pass their checks. -/
def MemChk.isOk : MemChk → Bool
  | .ok _ => true
  | .bad _ => false

theorem rng_of {x : MemChk} (h : MemChk.isOk x = true) : ∃ l, x = .ok l := by
  cases x <;> simp_all [MemChk.isOk]

theorem test_MatrixCommandsJoinTheirQueue :
    (∀ i ∈ [Instr.mzero 0 true, .mtrans 0 1, .hldc 15 0 3, .mdld 0 4 0, .mdst 0 4 0, .pmwr 13 0 1, .pmrd 7 0 0, .mdld 0 5 0, .mdst 0 5 0],
      (leased .held arrA).Issuable i)
    ∧ Leased (leased .held arrA) [0, 0x10, 0x11, 0x20, 0x30] ∧ Leased (leased .expiring arrA) [0x10]
    ∧ SMap.get false { arrA with zopen := [(1, true)] }.zopen 1 = true ∧ SMap.get false arrA.zopen 1 = false
    ∧ fmtOk 0 = true ∧ offAddr sA 4 0 % 64 = 0 ∧ offAddr sA 5 0 % 64 ≠ 0
    ∧ (∃ l, memChk (leased .held arrA) ((leased .held arrA).envOf (.mdld 0 4 0)) [⟨false, some 0, [(offAddr sA 4 0, 2048)], false⟩] = .ok l)
    ∧ (∃ l, memChk (leased .held arrA) ((leased .held arrA).envOf (.mdst 0 4 0)) [⟨true, some 0, [(offAddr sA 4 0, 2048)], false⟩] = .ok l) := by
  and_intros
  all_goals first | decide | exact issuable_all (by decide) | exact leased_of (by decide) | exact rng_of (by decide +kernel)

theorem test_ProductsAndLoadsJoinTheirQueue :
    (∀ i ∈ [Instr.mma 0 0 0 0 0, .mma 0 0 0x20 0 0, .mmas 0 1 0 0 0 0 false, .cmpr 0 0 0 0 0 true, .hld 3 0 4 4 0 0 0,
        .drain 0 3 4 0 false false 0 0 0 false 0 0], (leased .held arrA).Issuable i)
    ∧ selOf 0 = .hoop 0 ∧ Leased (leased .held arrA) ([0x10] ++ (selOf 0).res ++ [0x20])
    ∧ (let s := leased .held arrA; let e := s.envOf (.mma 0 0 0 0 0)
       productFits s e 0 0 (selOf 0) (aInfo s e (selOf 0) 0 0 16) 16
       ∧ ∃ l, memChk s e ((selOf 0).ops s e 1 ++ tileOps (tileStream s e 0) 1) = .ok l)
    ∧ (let s := leased .held arrA; let e := s.envOf (.mmas 0 1 0 0 0 0 false)
       productFits s e 0 1 (selOf 0) (aInfo s e (selOf 0) 0 0 16) 32
       ∧ ∃ l, memChk s e ((selOf 0).ops s e 2 ++ tileOps (tileStream s e 1) 2) = .ok l)
    ∧ (let s := leased .held arrA; let e := s.envOf (.cmpr 0 0 0 0 0 true)
       cmprFits s e (selOf 0) (selOf 0) 0 ∧ (∃ l, memChk s e ((selOf 0).ops s e 2 ++ (selOf 0).outOps s e) = .ok l) ∧ (cmprSource s e (selOf 0) 0).bad4 = false ∧ (cmprSource s e (selOf 0) 0).bad5 = false) := by
  and_intros
  all_goals first | decide | exact issuable_all (by decide) | exact leased_of (by decide) | exact rng_of (by decide +kernel) | (show 0 < _; decide)

/-- A command of the carriage of `seatA`, that executes at the head of the queue of the array, or not yet. -/
def cmdA (k : MKind) : MCmd := { id := 9, carr := 256, ctx := 1, seat := 0, syl := 0, ext := 0, k := k, refs := [], begun := true }
def queuedA (k : MKind) : State :=
  { one { seatL .held with items := [⟨9, false, false, 7, 0, none, 0, false⟩], empty := 128 } ctxA with
    quads := [(0, { Quad.reset with arr := { arrA with q := [cmdA k] } })] }
def notBegunA (k : MKind) : State :=
  { queuedA k with quads := [(0, { Quad.reset with arr := { arrA with q := [{ cmdA k with begun := false }] } })] }

theorem heads_of {s : State} {q : Nat} {c : MCmd} {l : List MCmd} (h : decide ((s.arr q).q = c :: l) && c.begun && !s.mError q c
    && decide ((s.arr q).busyTo ≤ s.arrCycle q) && !(s.quad q).gatedNow && l.all (fun d => decide (d.id ≠ c.id)) = true) : Heads s q c l := by
  simp only [Bool.and_eq_true, Bool.not_eq_true', decide_eq_true_eq, List.all_eq_true] at h
  obtain ⟨⟨⟨⟨⟨h1, h2⟩, h3⟩, h4⟩, h5⟩, h6⟩ := h
  exact ⟨h1, h2, h3, h4, h5, h6⟩

/-- One command of each kind that the statement names. -/
def kindsA : List MKind :=
  [.mzero 0, .mtrans 0 1, .mma 0 (.hoop 0) 0 0 false ⟨tileA 16, [], 0⟩ false false, .mdld 0 0xFF0000000400, .pmwr 13 0 5, .pmrd 7 0 0,
   .drain 0 0 0xFF0000000400 0 0 0 0 false false 0 0 none 0 false, .mdst 0 0xFF0000000400]

theorem test_ArraysExecuteTheirQueue : ∀ k ∈ kindsA, Heads (queuedA k) 0 (cmdA k) [] := by
  intro k hk
  simp only [kindsA, List.mem_cons, List.not_mem_nil, or_false] at hk
  rcases hk with rfl | rfl | rfl | rfl | rfl | rfl | rfl | rfl <;> exact heads_of (by decide +kernel)

/-- A command that may begin, and what a DRAIN of one row has left to be written. -/
def outA : ArrOut :=
  ⟨{ cmdA (.drain 0 0 0xFF0000000400 0 0 0 0 false false 0 0 none 0 false) with refs := [(0xFF000000, ⟨spKey 1 0 0, none⟩)] }, [(0, 0xFF0000000400, [1, 2])], 0⟩
def outState : State := { queuedA (.mzero 0) with quads := [(0, { Quad.reset with arr := { arrA with outs := [outA] } })] }

theorem test_ArraysExecuteTheirQueue_ends :
    (let s := notBegunA (.mzero 0); let c := { cmdA (.mzero 0) with begun := false }
     (s.arr 0).q = [c] ∧ s.mMayBegin 0 c = true ∧ s.mError 0 c = false ∧ (s.quad 0).gatedNow = false)
    ∧ (outState.arr 0).outs = [outA] ∧ outState.mReady outA.cmd = true ∧ outState.mayWrite 0 outA.cmd.id = true
    ∧ (let parts := pieces (fun a => outState.heldShadow 1 outA.cmd.refs (swzAddr 0 a)) 0xFF0000000400 [1, 2]
       parts = [(spKey 1 0 0x400, [1, 2])])
    ∧ outState.dies = [] ∧ outState.waits = [] := by decide +kernel

theorem test_ArraysExecuteTheirQueue_item :
    (queuedA (.pmrd 7 0 0)).itemSeat 9 = some (0, ⟨9, false, false, 7, 0, none, 0, false⟩) := by decide

/-- A seat whose parameter register S1 asks for an order of 1, and one whose factorisation its array executes. -/
def seatF (f : Option Fact) : Seat := { seatL .held with sregs := [(1, 1)], fact := f }
def factA (f : Option Fact) : State := { one (seatF f) ctxA with quads := [(0, { Quad.reset with arr := arrA })] }
/-- The form FLU on plane 0 with PM0, of order 1. -/
def fluA : FForm := ⟨1, 0, 0, 0, 1, 0, 0, 0⟩

theorem test_FactorisationsRunStepByStep :
    (factA none).Issuable (.flu 0 0 1 false) ∧ (factA (some ⟨.flu 0 0 1 false, 1, true, true, 0⟩)).Issuable (.flu 0 0 1 false)
    ∧ formOf (.flu 0 0 1 false) 1 = some fluA ∧ Leased (factA none) fluA.res ∧ (arrA.openPlane cidA) = false ∧ fluA.intPlane arrA = false
    ∧ fluA.badParam 1 = false ∧ ((factA none).arr 0).cmds = [] ∧ ((factA none).quad 0).gatedNow = false ∧ fluA.meets arrA = false ∧ fluA.opk ≠ 5 ∧ pmStatus ((factA none).pmOf 0 0) ∉ [1, 4, 5]
    ∧ (∃ f, formOf (.fperm 0 0 1 false false) 2 = some f ∧ f.opk = 5 ∧ permBad (pmEnt ((factA none).pmOf 0 0)) f.n = some 1)
    ∧ (factA (some ⟨.flu 0 0 1 false, 1, true, false, 0⟩)).factSeat 0 = some (0, ⟨.flu 0 0 1 false, 1, true, false, 0⟩)
    ∧ (factA (some ⟨.fperm 0 0 1 false false, 1, true, false, 0⟩)).factSeat 0 = some (0, ⟨.fperm 0 0 1 false false, 1, true, false, 0⟩)
    ∧ pmProg ((factA none).pmOf 0 0) < fluA.n := by
  and_intros
  all_goals first | decide +kernel | exact issuable_of (by decide) | exact leased_of (by decide)

theorem test_FactorisationsRunStepByStep_results :
    pmStatus (1#1024 <<< 924) ∈ [1, 4, 5] ∧ pmSig (1#1024 <<< 924) ≠ fluA.sig
    ∧ (match fluA.run 0 ((factA none).factSt 0 fluA 0) with | .stop _ _ => true | .ok _ => false) = true
    ∧ (match fluA.run 0 ({ factA none with quads := [(0, { Quad.reset with arr := { arrA with z := [(0, 0x3F800000)] } })] }.factSt 0 fluA 0) with
      | .ok _ => true | .stop _ _ => false) = true := by
  decide +kernel

/-! ### Tiles, transfers, launches and the fabric -/

/-- A source record of a tile: threshold 2, base in the scratchpad of quad 0. -/
def tileRec : List Byte := bytesLE 8 2 ++ bytesLE 8 0x70000010 ++ bytesLE 8 0 ++ bytesLE 8 0xFF00000004000000
/-- The package with that record at the place of S6; S1 names tile 255, S2 an index that does not exist, S3 tile 0. -/
def sT : State := (one { seatA with sregs := [(1, 255), (2, 256), (4, 0xFF0000000100), (6, 0xFF0000000200)] } ctxA).wrBytes key6 (tileRec.take 24 ++ bytesLE 8 (0xFF0000000400 * 65536))

theorem test_TilesCountAndInject :
    sT.Issuable (.tilearm 6 1) ∧ sT.Issuable (.tilearm 6 2) ∧ sT.Issuable (.tiledis 1) ∧ sT.Issuable (.tiledis 2) ∧ sT.Issuable (.cqpush 7 1)
    ∧ (256 ≤ ((sT.seat 0).reg 2).toNat) ∧ ((sT.seat 0).reg 1).toNat < 256 ∧ (sT.ctx 1).spLen 0 ≠ 0 ∧ pointed sT 6 % 32 = 0
    ∧ sT.tileBusy (sT.envOf (.tilearm 6 1)) (sT.tileKey 1 0 255) = false
    ∧ earlyRead sT (sT.envOf (.tilearm 6 1)) (pointed sT 6) 32 (pointed sT 6) = .ok (tileRec.take 24 ++ bytesLE 8 (0xFF0000000400 * 65536))
    ∧ tileFits sT (sT.envOf (.tilearm 6 1)) 2 (0xFF0000000400 * 65536) = true
    ∧ sT.cqForeign 0 1 = false ∧ ({ sT with quads := [(0, { Quad.reset with cqCtx := 2, cqs := [(0, [(1, 1)])] })] }).cqForeign 0 1 = true
    ∧ (SMap.get [] (sT.quad 0).cqs 7).length < 64 := by
  and_intros
  all_goals first | decide | exact issuable_of (by decide) | exact early_of (by decide)

/-- A set curd of tile 3 of quad 0 that names queue 7, and its queue. -/
def sC (q : Queue) : State :=
  ({ one seatA { ctxA with queues := [(7, q)] } with curds := [(1, 0, 3, none)] }).wrBytes (spKey 1 0 (0xE000 + 32 * 3 + 8)) (bytesLE 8 (0xFF0000000200 * 65536 + 7 * 16))

/-- What a device reads. -/
def DevRead.isOk : DevRead → Bool
  | .ok _ => true
  | _ => false

theorem dev_of {x : DevRead} (h : DevRead.isOk x = true) : ∃ l, x = .ok l := by
  cases x <;> simp_all [DevRead.isOk]

theorem test_TilesCountAndInject_curds :
    (1, 0, 3, none) ∈ (sC (queueA 2 1 0)).curds ∧ ((sC (queueA 2 1 0)).ctx 1).st = .runnable
    ∧ ((sC (queueA 2 1 0)).rdWord ((sC (queueA 2 1 0)).tileKey 1 0 3 + 8)).toNat / 16 % 2 ^ 12 = 7
    ∧ ((sC (queueA 2 1 0)).queue 1 7).st = 3 ∧ ((sC (queueA 2 1 0)).queue 1 7).nodev = false ∧ ((queueA 2 1 0).t - (queueA 2 1 0).f).toNat < 2 ^ (queueA 2 1 0).log2n
    ∧ (∃ l, (sC (queueA 2 1 0)).devRead 1 (((sC (queueA 2 1 0)).rdWord ((sC (queueA 2 1 0)).tileKey 1 0 3 + 8)).toNat / 2 ^ 16) 64 = .ok l)
    ∧ SMap.get false (queueA 2 1 0).cb ((queueA 2 1 0).t.toNat % 2 ^ (queueA 2 1 0).log2n) = false ∧ (queueA 2 1 0).p ≠ (queueA 2 1 0).t
    ∧ ((sC Queue.free).queue 1 7).st = 0 ∧ ((sC Queue.free).die 0).faults.length < 1024 := by
  and_intros
  all_goals first | decide | exact dev_of (by decide)

/-- What the check of a completion word and the reading of an index list give. -/
def WordChk.held : WordChk → Option Held
  | .ok h => some h
  | _ => none
theorem chk_of {x : WordChk} {h : Held} (e : WordChk.held x = some h) : x = .ok h := by
  cases x <;> simp_all [WordChk.held]
def IdxRead.list : IdxRead → Option (List Nat)
  | .ok l => some l
  | _ => none
theorem idx_of {x : IdxRead} {l : List Nat} (e : IdxRead.list x = some l) : x = .ok l := by
  cases x <;> simp_all [IdxRead.list]

/-- A seat whose S1 is a length, S2 and S4 are places, and S3 an index list; no signal; and rows of 64 bytes. -/
def sX (n : W64) (uivec : W64) : State :=
  one { seatA with sregs := [(1, n), (2, 0xFF0000000400), (3, 0xFF0000000800), (4, 0xFF0000000C00), (6, 0xFF0000000200)], uivec := uivec } ctxA
def noSignal : Xfer := ⟨0, 0, 0, 0⟩

theorem test_TransfersEnterTheirQueue :
    (∀ e ∈ copies 1 2 3 0 noSignal true, e.2 ≠ .mcast 0 → (sX 256 0).Issuable e.1) ∧ (sX 256 0).Issuable (.mcast 1 2 3 0 ⟨0, 0, 0, 1⟩)
    ∧ (sX 2 0).Issuable (.gld 1 2 3 4 ⟨0, 0, 0, 64⟩) ∧ (sX 2 0).Issuable (.sct 1 2 3 4 ⟨0, 0, 0, 64⟩)
    ∧ (let s := sX 256 0; let i := Instr.copy 1 2 3 0 noSignal
       wordChk s (s.envOf i) 0 (pointed s 0) = .ok [] ∧ regionFault s (command s i .copy (pointed s 3) (pointed s 2) 256 0 [] 0 0 noSignal []) = none
         ∧ s.tagFault (command s i .copy (pointed s 3) (pointed s 2) 256 0 [] 0 0 noSignal []) = none
         ∧ (tagWait s (s.envOf i) (s.srcSecs (command s i .copy (pointed s 3) (pointed s 2) 256 0 [] 0 0 noSignal []))).isNone = true)
    ∧ readIdx (sX 2 0) ((sX 2 0).envOf (.gld 1 2 3 4 ⟨0, 0, 0, 64⟩)) (pointed (sX 2 0) 3) 2 = .ok [0, 0]
    ∧ regionFault (sX 2 0) (command (sX 2 0) (.gld 1 2 3 4 ⟨0, 0, 0, 64⟩) .gld (pointed (sX 2 0) 2) (pointed (sX 2 0) 4) 2 64 [0, 0] 0 0 ⟨0, 0, 0, 64⟩ []) = none
    ∧ fld (0x1000 : W64) 47 2 ≠ 0 ∧ fld ((sX 2 0).seat 0).uivec 47 2 = 0 ∧ 2 ^ 40 ≤ (2 ^ 40 : W64).toNat ∧ ((sX 2 0).quad 0).trans.length < 32 := by
  and_intros
  all_goals first
    | decide | exact issuable_of (by decide) | exact chk_of (by decide) | exact idx_of (by decide)
    | (intro e he hm; simp only [copies, List.mem_cons, List.not_mem_nil, or_false] at he
       rcases he with rfl | rfl | rfl <;> first | exact issuable_of (by decide) | exact absurd rfl hm)

/-- A copy of 256 bytes of the carriage of `seatA`. -/
def moveA (cmode : BitVec 2) (todo : List (Nat × Nat)) : Trans :=
  { newTrans 9 256 1 0 0 0 0 .copy 0xFF0000000800 0xFF0000000400 256 0 [] 0 0 cmode 0xFF0000000100 [(0xFF000000, ⟨spKey 1 0 0, none⟩)] false with todo := todo, written := 256 }
def movingA (c : Trans) (f : List FRec) : State :=
  { sA with quads := [(0, { Quad.reset with trans := [c] })], dies := [(0, { Die.reset with faults := f })] }
def frecA : FRec := { rid := 1, ctx := 1, cause := 0x20, src := 1, side := 0, hold := false, va := 0, carr := 256, chip := 0, first := 0, secs := [0], tid := 9, sent := false }

theorem moving_of {s : State} {id : Nat} {c : Trans} (h : decide (s.trans? id = some c) && decide (c ∈ (s.quad c.home).trans) && decide (c.id = id)
    && s.transReady c = true) : Moving s id c := by
  simp only [Bool.and_eq_true, decide_eq_true_eq] at h
  exact ⟨h.1.1.1, h.1.1.2, h.1.2, h.2⟩

/-- What a sector comes to. -/
def SecRes.code : SecRes → Nat
  | .ok _ => 0
  | .wait _ => 1
  | .fault c _ _ => c + 2

/-- What a sector that moves brings. -/
def SecRes.bytes : SecRes → List Byte
  | .ok l => l
  | _ => []

theorem quiet_in {s : State} {k n : Nat} (hw : s.waits = []) (hd : ∀ d, (s.die d).trigs = []) : s.Quiet k n :=
  ⟨by simp [hw], fun d t ht => by rw [hd] at ht; cases ht⟩

theorem movingA_trigs (c : Trans) (f : List FRec) (d : Nat) : ((movingA c f).die d).trigs = [] := by
  by_cases h : d = 0
  · subst h; rfl
  · have : ((movingA c f).die d) = Die.reset := by simp [movingA, State.die, SMap.get, h]
    rw [this]; rfl

theorem plain_of {c : Trans} {f : List FRec} {k : Nat}
    (h : !((movingA c f).ctx c.ctx).rcd && !((movingA c f).ctx c.ctx).replay && decide ((movingA c f).badIn k 8 = none)
      && decide ((movingA c f).countOf k = none) = true) : plainWord (movingA c f) c k := by
  simp only [Bool.and_eq_true, Bool.not_eq_true', decide_eq_true_eq] at h
  exact ⟨h.1.1.1, h.1.1.2, h.1.2, h.2, quiet_in rfl (movingA_trigs c f)⟩

theorem test_TransfersMoveSectorBySector :
    Moving (movingA (moveA 0 [(0, 1)]) []) 9 (moveA 0 [(0, 1)]) ∧ (moveA 0 [(0, 1)]).isTodo 0 = true ∧ (moveA 0 [(0, 1)]).inOrder 0 = true
    ∧ SecRes.code ((movingA (moveA 0 [(0, 1)]) []).secTry (moveA 0 [(0, 1)]) 0) = 0
    ∧ SecRes.code ((movingA (moveA 0 [(0, 1)]) []).secTry { moveA 0 [(0, 1)] with src := 0xFF0000010000 } 0) = 0x23
    ∧ (let c := moveA 0 [(0, 1)]; let s := movingA c []
       let l := secParts s c 0 (SecRes.bytes (s.secTry c 0))
       l.map (fun p => (p.1, p.2.length)) = (nats 16).map fun i => (spKey 1 0 0x400 + 16 * i, 16)) := by
  and_intros
  all_goals first | decide +kernel | exact moving_of (by decide)

/-- One that has faulted, or finished, under each completion mode, with counts at which it adds and at which it does not. -/
theorem test_TransfersMoveSectorBySector_ends :
    (∀ m : BitVec 2, Moving (movingA (moveA m []) [frecA]) 9 (moveA m []) ∧ (movingA (moveA m []) [frecA]).recsOf (moveA m []) ≠ [])
    ∧ (∀ m : BitVec 2, Moving (movingA (moveA m []) []) 9 (moveA m []) ∧ (movingA (moveA m []) []).recsOf (moveA m []) = [])
    ∧ (moveA 0 []).stopped = false ∧ (moveA 0 []).aband = none
    ∧ (∀ f, f = [] ∨ f = [frecA] → (movingA (moveA 1 []) f).wordOf (moveA 1 []) 0 = some key4 ∧ plainWord (movingA (moveA 1 []) f) (moveA 1 []) key4
      ∧ (movingA (moveA 2 []) f).wordOf (moveA 2 []) 0 = some key4 ∧ plainWord (movingA (moveA 2 []) f) (moveA 2 []) key4
      ∧ (movingA (moveA 2 []) f).wordOf (moveA 2 []) 8 = some (key4 + 8) ∧ (movingA (moveA 2 []) f).Quiet (key4 + 8) 8
      ∧ bOwn ((movingA (moveA 2 []) f).rdWord key4) = 0
      ∧ (movingA (moveA 3 []) f).seatOf 1 256 = some 0 ∧ ((movingA (moveA 3 []) f).seat 0).st = .occupied
      ∧ ((movingA (moveA 3 []) f).seat 0).uis.length < 16)
    ∧ (moveA 1 []).counted < (moveA 1 []).written
    ∧ (let c := { moveA 1 [] with counted := 256 }
       Moving (movingA c []) 9 c ∧ c.counted = c.written ∧ (movingA c []).wordOf c 0 = some key4) := by
  refine ⟨fun m => ?_, fun m => ?_, by decide, by decide, ?_, by decide, moving_of (by decide), by decide, by decide⟩
  · revert m; exact fun m => ⟨moving_of (by revert m; decide), by revert m; decide⟩
  · revert m; exact fun m => ⟨moving_of (by revert m; decide), by revert m; decide⟩
  · rintro f (rfl | rfl) <;> and_intros <;> first | decide | exact plain_of (by decide) | exact (quiet_in (n := 8) rfl (movingA_trigs _ _)).2

/-- An entry of a launch table: launch 1 of context 1, a launch of `front` points, with trigger count 1. -/
def packetA (front : Bool) : LPacket :=
  { ctx := 1, hdr := [if front then 0x100100000 else 0x100000000, 0, 0, 0, 0, 0, 0, 0x100000000], rl := [], front := [], entry := 0, maxred := 0, gen := 0, rq := 0, tag := 0
    ticket := none, die := 0, inj := false }
def lentA (front : Bool) (st : LaunchSt) : LEnt :=
  { p := packetA front, lid := 1, st := st, eff := 0, next := 0, live := 0, trigs := 0, seen := [], dones := [], err := false, told := false
    waiters := [], swapAt := none, lastGang := 0 }
/-- The die with what comes in, and the seat as a carriage of that launch. -/
def launching (d : Die) (a : List Acc) : State := { one { seatA with lid := 1 } { ctxA with queues := [(7, queueA 2 1 0)] } with dies := [(0, d)], accs := a }
def dieL (front : Bool) : Die := { Die.reset with launches := [lentA front .active] }
def rindA (held : Bool) : Rind := { ctx := 1, lid := 1, f := [(2, 5)], pts := [(2, 5, 256)], saved := false, held := held, leaving := false }

theorem test_LaunchesGoToTheirDies :
    (∀ e ∈ requests, sA.Issuable e.1) ∧ sA.Issuable .trig ∧ sA.Issuable .pdone
    ∧ (withQueue (queueA 2 1 0)).Issuable (.launch 3 1 false false) ∧ pointed (withQueue (queueA 2 1 0)) 3 % 64 = 0
    ∧ (one { seatA with sregs := [(1, 7), (4, 0xFF0000000200)] } { ctxA with queues := [(7, queueA 2 1 0)] }).Issuable (.launch 4 1 false false)
    ∧ (∃ l, trSpan sA (sA.envOf (.launch 6 1 false false)) .rd (pointed sA 6) 64 = .ok l)
    ∧ ((withQueue (queueA 2 1 0)).queue 1 7).nodev = false ∧ sA.Issuable (.launch 5 1 false false) ∧ pointed sA 5 % 64 ≠ 0 ∧ (sA.queue 1 12).st = 0
    ∧ sA.Issuable (.launch 6 4 false false) ∧ 4096 ≤ ((sA.seat 0).reg 4).toNat
    ∧ (launching (dieL true) []).launchOf 0 = some (lentA true .active) ∧ (packetA true).isFront = true ∧ (packetA false).isFront = false
    ∧ (launching (dieL true) []).Issuable .pdone := by
  and_intros
  all_goals first
    | decide | exact issuable_of (by decide) | exact range_of (by decide)
    | (intro e he; exact issuable_all (l := requests.map Prod.fst) (by decide) e.1 (List.mem_map_of_mem he))

/-- Posted work of the carriage. -/
def postA (k : AKind) : Acc := { accA k 7 0 0 with locs := [], n := 0, va := 0xFF0000000200 }

theorem test_LaunchesGoToTheirDies_moves :
    (launching (dieL false) [postA .launch]).postOf 9 .launch = some (postA .launch)
    ∧ (launching (dieL false) [postA .launch]).gatherBad ((launching (dieL false) [postA .launch]).heldKey 1 []) 0xFF0000000200 64 = none
    ∧ (launching (dieL false) [postA .trig]).postOf 9 .trig = some (postA .trig) ∧ (launching (dieL false) []).lent 0 1 1 = some (lentA false .active)
    ∧ (packetA false).tcnt ≠ 0
    ∧ (launching { dieL true with rinds := [rindA true] } [postA .pdone]).postOf 9 .pdone = some (postA .pdone)
    ∧ (launching { dieL true with rinds := [rindA true] } []).rind 0 1 1 = some (rindA true)
    ∧ (rindA true).pts.find? (fun y => y.2.2 == 256) = some (2, 5, 256) ∧ SMap.get 0 (rindA true).f 2 = 5
    ∧ (launching { Die.reset with inbox := [packetA false] } []).die 0 = { Die.reset with inbox := [packetA false] } ∧ (packetA false).lid = 1
    ∧ (({ dieL false with notices := [⟨1, 1, 2, 3, true, true⟩] } : Die).inbox.any fun p => p.ctx == 1 && p.lid == 1) = false
    ∧ (launching { dieL true with rinds := [rindA false] } []).heldRinds 0 < 2 ∧ (rindA false).held = false := by
  and_intros
  all_goals decide

/-- A key entry of chip 2, context 5 and index 1 that grants everything from 0x40000000 on, and a pointer to it. -/
def keyA : KeyEnt := { chip := 2, ctag := 5, index := 1, e := BitVec.ofNat 256 (2 ^ 112 * 0xFFFF + 2 ^ 64 * 0x10000 + 2 ^ 63 + 2 ^ 62 + 2 ^ 61 + 2 ^ 60 + 0x40000000) }
def ptrA : W64 := 0x0002000500010000
/-- The package with that entry cached; S1 holds the pointer, S2 an offset, S3 zero. -/
def sF : State :=
  { one { seatA with sregs := [(1, ptrA), (2, 0x100), (4, 2 ^ 44), (5, 2 ^ 40), (6, 0xFF0000000200), (7, 0x101)] } ctxA with
    dies := [(0, { Die.reset with keys := [keyA] })] }

/-- What a check of a key answers. -/
def KeyRes.code : KeyRes → Nat × Nat
  | .ok b => (0, b)
  | .wait => (1, 0)
  | .bad r => (2, r)
theorem key_ok {x : KeyRes} {b : Nat} (h : KeyRes.code x = (0, b)) : x = .ok b := by
  cases x <;> simp_all [KeyRes.code]
theorem key_bad {x : KeyRes} {b : Nat} (h : KeyRes.code x = (2, b)) : x = .bad b := by
  cases x <;> simp_all [KeyRes.code]

theorem test_FabricFormsAreSent :
    (∀ i ∈ [Instr.fld .d64 10 1 2 false false 0 0, .fld .w32 10 4 2 false false 0 0, .fld .d64 10 1 5 false false 0 0, .fld .d64 10 1 7 false false 0xFFFF 0,
        .fatom .d64 10 1 2 false false 0 11 12 false, .fst .d64 1 2 false false 12 false, .nwr 6 false, .nwr 7 false], sF.Issuable i)
    ∧ fld ptrA 47 44 = 0 ∧ fld ptrA 63 48 < 8192 ∧ fld (2 ^ 44 : W64) 47 44 ≠ 0 ∧ 2 ^ 40 ≤ (2 ^ 40 : W64).toNat ∧ (0x101 : W64).toNat % 8 ≠ 0
    ∧ sF.keyCheck 0 ptrA 0x100 8 4 = .ok 0x40000000 ∧ sF.keyCheck 0 ptrA 0x100 8 7 = .ok 0x40000000 ∧ sF.keyCheck 0 ptrA 0x10000 8 4 = .bad 2
    ∧ pointed sF 6 % 64 = 0 ∧ pointed sF 7 % 64 ≠ 0
    ∧ (let s := sF.wrBytes key6 (wrA.take 8 ++ bytesLE 8 ptrA.toNat ++ wrA.drop 16)
       earlyRead s (s.envOf (.nwr 6 false)) (pointed s 6) 64 (pointed s 6) true = .ok (wrA.take 8 ++ bytesLE 8 ptrA.toNat ++ wrA.drop 16)
         ∧ (wrCheck s (s.envOf (.nwr 6 false)) (pointed s 6) (wrA.take 8 ++ bytesLE 8 ptrA.toNat ++ wrA.drop 16)).isNone = true
         ∧ (wrKey s 0 (wrA.take 8 ++ bytesLE 8 ptrA.toNat ++ wrA.drop 16)).isNone = true) := by
  and_intros
  all_goals first
    | decide +kernel | exact issuable_all (by decide) | exact key_ok (by decide +kernel) | exact key_bad (by decide +kernel)
    | exact early_of (by decide +kernel)

/-- A work request of a kind, and a context with one key entry at 0xFF0000000C00. -/
def wreqA (k : Nat) (done : Bool) : WReq :=
  { id := 9, ctx := 1, carr := 256, die := 0, kind := k, cls := 2, laddr := 0xFF0000000400, ptr := 0x0002000500000000, roff := 0, len := 8, lctr := 0xFF0000000100
    src := 0xFFFF, rgt := 7, kctr := 0, started := done, next := 0, acked := 8, counted := 0, done := done, fired := false, msgid := 0, syl := 0, ts := 0 }
def ctxK : Ctx := { ctxA with desc := [(11, 0x0001FF0000000C00)] }
def sW (k : Nat) (done : Bool) : State := { one seatA ctxK with dies := [(0, { Die.reset with wreqs := [wreqA k done] })] }

theorem test_WorkRequestsStartAndEnd :
    (∀ k ∈ [1, 2, 3, 4, 5], (sW k false).wrReady 9 k = some (0, wreqA k false)) ∧ (sW 4 false).keyLoc 1 0 = some (spKey 1 0 0xC00)
    ∧ (∃ l, transPages (fun a => (sW 4 false).look 1 .wr a) (pagesOf 0xFF0000000400 8) = .ok l)
    ∧ ((nats 4).findSome? (fun e => (((sW 1 true).die e).wreqs.find? fun v => v.id == 9 && v.done && !(sW 1 true).wrHeld e v.ctx).map fun v => (e, v))
      = some (0, wreqA 1 true))
    ∧ (wreqA 1 true).counted < (wreqA 1 true).acked ∧ (sW 1 true).wordKey 1 .red 0xFF0000000100 = some key4 ∧ (sW 1 true).countOf key4 = none := by
  and_intros
  all_goals first | decide | exact range_of (by decide)

/-! ### Cores, seats and commands -/

/-- The outcome of an attempt to issue. -/
def IssueRes.code : IssueRes → Nat
  | .go _ => 0
  | .flt _ => 1
  | .freeze => 2
  | _ => 3

/-- The seat with an item in a state, and its core. -/
def withItem (i : Item) (x : Seat) : State := one { x with items := [i] } ctxA
/-- A landing that is due, with and without its data; a landing that is an error. -/
def landA (d : Option W64) : Item := { id := 9, landing := true, sh := false, reg := 7, due := 100, data := d, flags := 0, er := false }
def lateA : Item := { id := 9, landing := false, sh := false, reg := 7, due := 100, data := some 0x1000, flags := 0, er := true }
/-- A seat that reads a word of its scratchpad that an engine is still writing. -/
def frozenA : State := (withCore { Core.reset with exposed := [⟨3, 100, [(key4, 8)]⟩] }).withFetchWord 32 (0x8E000000 + 7 * 2 ^ 18 + 4 * 2 ^ 12)
/-- A seat whose bundle lies at a place. -/
def atPc (pc : Addr) : State := one { seatA with pc := pc } { ctxA with small := [(1, { Leaf.absent with v := true, r := true, w := true, x := true, frame := 0x1000000 })] }
theorem test_BoundariesLandTakeAndIssue :
    (∃ j ∈ seatsOfCore 0, ∃ i ∈ ((withItem (landA none) seatA).seat j).items,
      ((withItem (landA none) seatA).seat j).landsNow ((withItem (landA none) seatA).cycle 0) i = true ∧ i.data = none)
    ∧ (∀ j ∈ seatsOfCore 0, ((withItem (landA (some 5)) seatA).seat j).items.filter
        (((withItem (landA (some 5)) seatA).seat j).landsNow ((withItem (landA (some 5)) seatA).cycle 0)) = if j = 0 then [landA (some 5)] else [])
    ∧ IssueRes.code (fetching.tryIssue evalOf 0) = 0 ∧ IssueRes.code ((atPc 0xFF0000010000).tryIssue evalOf 0) = 1
    ∧ IssueRes.code (frozenA.tryIssue evalOf 0) = 2 ∧ frozenA.occupied 0 = [0] ∧ frozenA.inHole 0 = false ∧ (frozenA.core 0).running = none
    ∧ fetching.occupied 0 = [0] ∧ fetching.inHole 0 = false ∧ (fetching.core 0).running = none
    ∧ 0 ∈ (atPc 0x10000).occupied 0 ∧ (atPc 0x10000).inHole 0 = true ∧ State.reset.power = .off := by
  and_intros
  all_goals decide +kernel

/-- Seats at a boundary for each cause. -/
def due (x : Seat) (c : Ctx) : State := one { x with pc := 0xFF0000000100 } c

theorem test_BoundariesLandTakeAndIssue_causes :
    (withItem lateA { seatA with pc := 0xFF0000000100 }).itemSeat 9 = some (0, lateA)
    ∧ ((withItem lateA seatA).seat 0).lateDue 0 lateA = true ∧ (withItem lateA { seatA with pc := 0xFF0000000100 }).atBoundary 0 = true
    ∧ ({ due { seatA with lease := { Lease.none with st := .held, openAt := some 0 } } ctxA with dieCycle := 20000 } : State).redDue 0 = true
    ∧ ({ due { seatA with lease := { Lease.none with st := .held, openAt := some 0 } } ctxA with dieCycle := 20000 } : State).atBoundary 0 = true
    ∧ (due { seatA with wdcnt := 2 ^ 20 } { ctxA with desc := [(0, BitVec.ofNat 64 (10 * 2 ^ 45))] }).wdDue 0 = true
    ∧ (due { seatA with wdcnt := 2 ^ 20 } { ctxA with desc := [(0, BitVec.ofNat 64 (10 * 2 ^ 45))] }).atBoundary 0 = true
    ∧ (due { seatA with wdcnt := 2 ^ 20 } { ctxA with desc := [(0, BitVec.ofNat 64 (10 * 2 ^ 45))] }).redDue 0 = false
    ∧ (due { seatA with uis := [⟨1, 5, 6⟩], uivec := 0xFF0000000200 } ctxA).atBoundary 0 = true
    ∧ ({ seatA with uis := [⟨1, 5, 6⟩] } : Seat).uiBlocked = false ∧ seatA.uiActive = false ∧ seatA.lvl = 0 := by
  and_intros
  all_goals decide +kernel

/-! ### Traps, seats and the allocator -/

theorem test_TrapsEnterTheNextLevel_kill : ((one { seatA with lvl := 2 } ctxA).seat 0).lvl = 2 := rfl

/-- A carriage that may be seated, the context with one image slot, and the package with it beside a seat. -/
def recR : Rec := { recA with st := .runnable }
def ctxI : Ctx := { ctxA with desc := [(5, 0x0001000000000000)] }
def seating (x : Seat) (r : Rec) : State := { one x ctxI with recs := [r] }

theorem test_SeatsLoadSaveAndBecomeFree :
    (let s := seating Seat.reset recR
     s.recs.find? (fun r => r.carr == 512 && r.die == dieOf 0 && s.seatable r && r.quads.contains (quadOf 0)
        && s.avail none (s.within r.die r.ctx r.lid 1) 0) = some recR ∧ s.isFull 1 512 = false ∧ (s.ctx 1).poolSlots 1 = some [0])
    ∧ (let s := seating { seatA with st := .loading, until_ := 4096 } { recA with carr := 256, st := .seated }
       ((s.seat 0).until_ ≤ s.dieCycle) ∧ s.recOf 1 256 = some { recA with carr := 256, st := .seated } ∧ s.isFull 1 256 = false ∧ (s.seat 0).late = none)
    ∧ (let s := seating { seatA with mark := .quiesce } recR
       (s.seat 0).mark ≠ .none ∧ s.redOpen 0 = false ∧ (s.seat 0).fact = none)
    ∧ (let s := seating { seatA with st := .writing } recR
       (s.seat 0).st = .writing ∧ s.unperformed 0 = false ∧ s.wantsSeat (quadOf 0) = none ∧ (s.die (dieOf 0)).rinds = [])
    ∧ (let s := seating { seatA with st := .saving, until_ := 1 } { recA with carr := 256, st := .seated, pool := some 0 }
       (s.seat 0).until_ ≤ s.dieCycle ∧ s.recOf 1 256 = some { recA with carr := 256, st := .seated, pool := some 0 } ∧ s.wantsSeat (quadOf 0) = none)
    ∧ (let s := seating { seatA with st := .draining } recR
       (s.seat 0).st = .draining ∧ s.drained 0 = true) := by
  and_intros
  all_goals decide +kernel

theorem test_ContainmentCancelsTheWork :
    (sA.seat 0).st = .occupied ∧ (sA.ctx 1).st ≠ .quiescing ∧ ((one { seatA with st := .loading } ctxA).seat 0).late = none
    ∧ ({ sA with recs := [recA] } : State).recs.find? (fun r => r.carr == 512 && (({ sA with recs := [recA] } : State).seatOf r.ctx r.carr).isNone) = some recA := by
  decide

/-- A gang launch record of two groups of two seats, and a group that is seated. -/
def coachA (cst seatedAt : Nat) : Coach :=
  { idx := cst, die := 0, ctx := 1, lid := 1, groups := 1, seats := 1, swap := true, first := 0, cst := cst, qstart := 0, since := 0, resv := [], seatedAt := seatedAt
    swapping := false, saves := [] }

theorem test_AllocatorsServeAndReserve :
    ((sA.createDue 0).pending 0 = []) ∧ (seating seatA recR).createDue 0 = seating seatA recR ∧ (match (seating seatA recR).pending 0 with | [.one r] => decide (r = recR) | _ => false) = true ∧ ((seating seatA recR).ctx 1).poolSlots 1 = some [0]
    ∧ ((recR.quads.flatMap seatsOfQuad).filter fun k => (seating seatA recR).avail none ((seating seatA recR).within recR.die recR.ctx recR.lid 1) k) ≠ []
    ∧ (let s : State := { sA with coaches := [coachA 0 0], dieCycle := 2 ^ 16 }
       s.coaches.find? (fun c => c.die == 0 && c.cst == 0 && !c.swapping && decide (c.since + 2 ^ 16 ≤ s.dieCycle)) = some (coachA 0 0))
    ∧ (let s : State := { launching { Die.reset with launches := [{ lentA false .active with swapAt := some 0 }] } [] with
          coaches := [coachA 0 0, coachA 2 0], dieCycle := 2 ^ 18 }
       s.lent 0 1 1 = some { lentA false .active with swapAt := some 0 } ∧ coachA 0 0 ∈ s.coaches ∧ coachA 2 0 ∈ s.coaches
         ∧ (coachA 2 0).seatedAt + 2 ^ 18 ≤ s.dieCycle) := by
  and_intros
  all_goals decide +kernel

/-! ### Commands of the firmware -/

theorem stands_of {s : State} {c : Cmd} {op : Nat} (h : decide (c ∈ (s.die c.die).cmds) && decide (cmdOp c = op) && decide (s.cmdCheck c = none) = true) :
    Stands s c op := by
  simp only [Bool.and_eq_true, decide_eq_true_eq] at h
  exact ⟨h.1.1, h.1.2, h.2⟩

/-- What a read of the firmware gives. -/
def FRead.isOk : FRead → Bool
  | .ok _ => true
  | .bad _ => false
theorem fw_of {x : FRead} (h : FRead.isOk x = true) : ∃ l, x = .ok l := by
  cases x with
  | ok l => exact ⟨l, rfl⟩
  | bad _ => cases h

/-- A command without a report, from queue 9 of a context. -/
def cmdC (ctx op : Nat) (w1 w2 w3 w4 w5 : W64) : Cmd :=
  ⟨0, ctx, 9, none, false, ⟨BitVec.ofNat 64 (op * 2 ^ 56 + 4095 * 2 ^ 44 + 5), w1, w2, w3, w4, w5, 0, 0⟩⟩
/-- A page at frame 5 with every right; a context with that page at 0x20000; the queue from which system commands come. -/
def leafA : Leaf := { Leaf.absent with v := true, r := true, w := true, frame := 5 }
def ctxM : Ctx := { ctxA with small := [(2, leafA)], nextLid := 2 }
def ctxZ : Ctx := { ctxM with queues := [(9, { Queue.free with st := 3, word0 := 0x0800000000000000 })] }
/-- The package with a command at die 0, context 1 as given, and bytes at 0x20000 of contexts 0 and 1. -/
def firm (c : Cmd) (x : Ctx) (d : Die) (l : List Byte) : State :=
  State.wrBytes { one seatA x with ctxs := [(0, ctxZ), (1, x)], dies := [(0, { d with cmds := [c] })] } 0x50000 l
/-- An image of 256 bytes with a good header. -/
def imageA : List Byte := bytesLE 4 0x4B32514D ++ bytesLE 4 1 ++ bytesLE 248 0
def loadA : Cmd := cmdC 1 2 0 0x20000 256 0 0
def callA : Cmd := cmdC 1 1 0 0 0 0 0x20000
def slotA : MSlot := { MSlot.empty with full := true }

theorem test_ImageAndLaunchCommands :
    Stands (firm (cmdC 1 0 0 0 0 0 0) ctxM Die.reset []) (cmdC 1 0 0 0 0 0 0) 0x00 ∧ cmdRq (cmdC 1 0 0 0 0 0 0) = 4095
    ∧ Stands (firm loadA ctxM Die.reset imageA) loadA 0x02 ∧ (firm loadA ctxM Die.reset imageA).slotInUse 1 0 = false
    ∧ (match (firm loadA ctxM Die.reset imageA).fwRead 1 0x20000 256 with
       | .ok l => headerOk l && sigOk ctxM l
       | .bad _ => false) = true
    ∧ (∃ h, lies (firm loadA ctxM Die.reset imageA) 1 .dev 0x20000 256 h)
    ∧ Stands (firm (cmdC 1 3 0 0 0 0 0) ctxM Die.reset []) (cmdC 1 3 0 0 0 0 0) 0x03
    ∧ Stands (firm callA { ctxM with slots := [(0, slotA)] } Die.reset []) callA 0x01
    ∧ (match (firm callA { ctxM with slots := [(0, slotA)] } Die.reset []).fwRead 1 0x20000 128 with
       | .ok a => !argsBad a && (packetOf callA slotA a).ok282 && !(packetOf callA slotA a).isFront
       | .bad _ => false) = true
    ∧ Stands (firm callA ctxM Die.reset []) callA 0x01 ∧ (ctxM.slot 0).full = false
    ∧ Stands (firm (cmdC 1 7 1 0 0 0 0) ctxM { Die.reset with launches := [lentA false .complete] } []) (cmdC 1 7 1 0 0 0 0) 0x07
    ∧ (firm (cmdC 1 7 1 0 0 0 0) ctxM { Die.reset with launches := [lentA false .complete] } []).lent 0 1 1 = some (lentA false .complete)
    ∧ (firm (cmdC 1 7 1 0 0 0 0) ctxM { Die.reset with launches := [lentA false .active] } []).lent 0 1 1 = some (lentA false .active)
    ∧ cmdRq { cmdC 1 7 1 0 0 0 0 with e := ⟨0x0700300000000000, 1, 0, 0, 0, 0, 0, 0⟩ } ≠ 4095 := by
  and_intros
  all_goals first | decide +kernel | exact stands_of (by decide +kernel) | exact range_of (by decide +kernel)

/-- A queue with a ring of 16 entries at 0x20000, with PIN or not, in a state, and the package with it as queue 7. -/
def ringQ (st : Nat) (pin : Bool) : Queue :=
  { Queue.free with st := st, word0 := BitVec.ofNat 64 (if pin then 0x0404000000020000 else 0x0004000000020000), ring := [(2, ⟨0x50000, none⟩)], ridx := 3 }
def ctxQ (q : Queue) : Ctx := { ctxM with queues := [(7, q)] }
def makeQ (pin : Bool) : Cmd := cmdC 1 4 (if pin then 0x0404000000020000 else 0x0004000000020000) 8 0 0 0

theorem test_QueueCommandsMoveTheirQueue :
    (∀ pin ∈ [false, true], Stands (firm (makeQ pin) ctxM Die.reset []) (makeQ pin) 0x04 ∧ ((firm (makeQ pin) ctxM Die.reset []).queue 1 8).st = qFree
      ∧ queueArgs (makeQ pin).e.w1 = true ∧ (firm (makeQ pin) ctxM Die.reset []).pinFull 0 0 = false
      ∧ (firm (makeQ pin) ctxM Die.reset []).freeEntry 0 = some 1)
    ∧ (∃ l, transPages ((firm (makeQ true) ctxM Die.reset []).lookRing 1) (pagesOf 0x20000 1024) = .ok l)
    ∧ Stands (firm (cmdC 1 5 0 7 0 0 0) (ctxQ (ringQ 3 false)) Die.reset []) (cmdC 1 5 0 7 0 0 0) 0x05
    ∧ Stands (firm (cmdC 1 6 0 7 0 0 0) (ctxQ (ringQ 3 true)) Die.reset []) (cmdC 1 6 0 7 0 0 0) 0x06
    ∧ Stands (firm (cmdC 1 6 0 0x1007 0 0 0) (ctxQ (ringQ 3 false)) Die.reset []) (cmdC 1 6 0 0x1007 0 0 0) 0x06
    ∧ ((firm (cmdC 1 6 0 0x1007 0 0 0) (ctxQ (ringQ 3 false)) Die.reset []).queue 1 7) = ringQ 3 false
    ∧ (ringQ 3 true).pin = true ∧ (ringQ 3 false).pin = false
    ∧ (firm (cmdC 1 6 0 0x1007 0 0 0) (ctxQ (ringQ 3 false)) Die.reset []).pinFull 0 0 = false
    ∧ ((firm (cmdC 1 0 0 0 0 0 0) (ctxQ (ringQ qLoading false)) Die.reset []).queue 1 7).ridx ≠ 0
    ∧ (firm (cmdC 1 0 0 0 0 0 0) (ctxQ (ringQ qEvicting false)) Die.reset []).evicting 0 = some (1, 7) := by
  and_intros
  all_goals first
    | decide +kernel | exact stands_of (by decide +kernel) | exact range_of (by decide +kernel)
    | (intro pin hp; simp only [List.mem_cons, List.not_mem_nil, or_false] at hp
       rcases hp with rfl | rfl <;> exact ⟨stands_of (by decide +kernel), by decide +kernel, by decide +kernel, by decide +kernel, by decide +kernel⟩)

/-- The package with a queue of context 1. -/
def hosting (q : Queue) : State := one seatA (ctxQ q)
def takenQ (st cons : Nat) (nohost : Bool) (t p h : BitVec 32) : Queue :=
  { ringQ st false with word0 := BitVec.ofNat 64 (0x0004000000020000 + cons * 2 ^ 52 + if nohost then 2 ^ 60 else 0), t := t, p := p, h := h }

theorem test_HostWindowsAndPeriods :
    ((hosting Queue.free).ctx 1).rcd = false ∧ ((hosting Queue.free).ctx 1).replay = false ∧ ((hosting Queue.free).queue 1 7).st = qFree
    ∧ ((hosting (takenQ 1 0 false 0 0 0)).queue 1 7).st = qSwapped ∧ (takenQ 1 0 false 0 0 0).nohost = false ∧ (takenQ 1 2 false 0 0 0).cons = 2
    ∧ (takenQ 3 0 true 0 0 0).nohost = true ∧ (takenQ 3 0 false 16 0 0).n ≤ ((takenQ 3 0 false 16 0 0).t - (takenQ 3 0 false 16 0 0).f).toNat
    ∧ ((takenQ 3 0 false 1 0 0).t - (takenQ 3 0 false 1 0 0).f).toNat < (takenQ 3 0 false 1 0 0).n ∧ (takenQ 3 2 false 1 0 0).h = (takenQ 3 2 false 1 0 0).p
    ∧ (takenQ 3 2 false 1 1 0).h ≠ (takenQ 3 2 false 1 1 0).p
    ∧ (hosting (takenQ 3 0 false 1 1 0)).power = .active
    ∧ (∀ k ∈ [0, 1, 16, 17, 31, 32], ((firm loadA ctxM { Die.reset with fwSlot := k } []).die 0).fwSlot % 64 = k
      ∧ ((firm loadA ctxM { Die.reset with fwSlot := k } []).die 0).fwSlot * 128 ≤ (firm loadA ctxM { Die.reset with fwSlot := k } []).dieCycle)
    ∧ (let s := (hosting (takenQ 3 0 false 1 1 0)).wrBytes 0x50000 (bytesLE 8 0x00FFF00000000000)
       (s.ctx 1).st = .runnable ∧ (s.die 0).cmds.length < 256 ∧ s.badIn (s.qKey 1 7 0) 64 = none
       ∧ fld (entryOf (s.rdBytes (s.qKey 1 7 0) 64)).w0 55 44 = 4095) := by
  decide +kernel

/-! ### Pages -/

/-- A context with frames 0 to 255, whose queue 9 carries page commands, and with a queue and buffers beside it. -/
def ctxN (more : SMap Queue) : Ctx :=
  { ctxM with queues := (7, more.foldl (fun _ e => e.2) Queue.free) :: [(9, { Queue.free with st := 3, word0 := 0x0800000000000000 })]
              desc := [(4, 7), (9, 256)], pbs := [(3, ⟨0x30000, 1, 16, 32, false, []⟩)] }
def paging (c : Cmd) (d : Die) : State := firm c (ctxN []) d []
def mapC (page : Nat) : Cmd := cmdC 1 0x10 (BitVec.ofNat 64 (page * 2 ^ 16)) 0 0x9C00000000060000 0 0
def unmapC : Cmd := cmdC 1 0x11 0x20000 0 0 0 0
def protC : Cmd := cmdC 1 0x12 0x20000 0 0x0800000000000000 0 0
def migC : Cmd := cmdC 1 0x13 0x20000 0 0 0 0
def resC : Cmd := cmdC 1 0x14 1 0 0 0 0
def pbC : Cmd := cmdC 1 0x15 0x40000 0x40000 0x60000 0x70000 0
def pbdC : Cmd := cmdC 1 0x16 3 0 0 0 0

theorem test_PagesAndTheirRecords_leaves :
    pageArgs (mapC 3) = some (3, 1, false) ∧ ((paging (mapC 3) Die.reset).ctx 1).moving 3 1 = false ∧ ((paging unmapC Die.reset).ctx 1).moving 2 1 = false ∧ Stands (paging (mapC 3) Die.reset) (mapC 3) 0x10
    ∧ mapLeafOk ((paging (mapC 3) Die.reset).ctx 1) (leafOf (mapC 3).e.w3) (mapC 3).e.w3 3 1 false = true
    ∧ ((paging (mapC 3) Die.reset).ctx 1).ringOn 3 4 = none ∧ ((paging (mapC 3) Die.reset).ctx 1).needsTable 3 1 false = false
    ∧ pageArgs (mapC 2) = some (2, 1, false) ∧ Stands (firm (mapC 2) (ctxN [(7, ringQ 3 false)]) Die.reset []) (mapC 2) 0x10
    ∧ mapLeafOk ((firm (mapC 2) (ctxN [(7, ringQ 3 false)]) Die.reset []).ctx 1) (leafOf (mapC 2).e.w3) (mapC 2).e.w3 2 1 false = true
    ∧ ((firm (mapC 2) (ctxN [(7, ringQ 3 false)]) Die.reset []).ctx 1).ringOn 2 3 = some 7
    ∧ pageArgs unmapC = some (2, 1, false) ∧ Stands (paging unmapC Die.reset) unmapC 0x11 ∧ ((paging unmapC Die.reset).ctx 1).ringOn 2 3 = none
    ∧ ((paging unmapC Die.reset).ctx 1).splits 2 1 false = false
    ∧ pageArgs protC = some (2, 1, false) ∧ Stands (paging protC Die.reset) protC 0x12 := by
  and_intros
  all_goals first | decide +kernel | exact stands_of (by decide +kernel)

theorem test_PagesAndTheirRecords_records :
    (1, 2, 0, false) ∈ ((paging migC { Die.reset with walks := [(1, 2, 0, false)] }).die 0).walks
    ∧ ((paging migC { Die.reset with faults := [frecA] }).die 0).faults.find? ((paging migC { Die.reset with faults := [frecA] }).recReady 0) = some frecA
    ∧ ((paging migC Die.reset).ctx 1).fqh = 7 ∧ ((paging migC Die.reset).queue 1 7).st ≠ qResident
    ∧ (let q := (firm migC (ctxN [(7, ringQ 3 false)]) Die.reset []).queue 1 7
       q.st = qResident ∧ (q.t - q.f).toNat < q.n)
    ∧ Stands (paging migC Die.reset) migC 0x13 ∧ (natsFrom 2 1).all (((paging migC Die.reset).ctx 1).migOk false) = true
    ∧ ((paging migC Die.reset).ctx 1).ringOn 2 3 = none ∧ ((paging migC Die.reset).ctx 1).moving 2 1 = false
    ∧ ((paging migC Die.reset).ctx 1).splits 2 1 false = false ∧ unlogged (paging migC Die.reset) 1
    ∧ ((paging pbC Die.reset).ctx 1).moving 4 1 = false
    ∧ Stands (paging resC { Die.reset with faults := [frecA] }) resC 0x14
    ∧ ((paging resC { Die.reset with faults := [frecA] }).die 0).faults.find? (fun f => f.rid % 2 ^ 32 == 1 && f.ctx == 1) = some frecA
    ∧ Stands (paging pbC Die.reset) pbC 0x15 ∧ SMap.find ((paging pbC Die.reset).ctx 1).pbs 4 = none
    ∧ ((paging pbC Die.reset).ctx 1).granted 6 1 = true ∧ ((paging pbC Die.reset).ctx 1).granted 7 1 = true
    ∧ ((paging pbC Die.reset).ctx 1).ringOn 4 5 = none ∧ ((paging pbC Die.reset).ctx 1).needsTable 4 1 false = false
    ∧ Stands (paging pbdC Die.reset) pbdC 0x16 ∧ SMap.find ((paging pbdC Die.reset).ctx 1).pbs 3 = some ⟨0x30000, 1, 16, 32, false, []⟩
    ∧ ((paging pbdC Die.reset).ctx 1).ringOn 3 4 = none := by
  and_intros
  all_goals first | decide +kernel | exact stands_of (by decide +kernel)

/-! ### Contexts -/

/-- Context 1 in a state, and a command of the system about it. -/
def inSt (st : CtxSt) : Ctx := { ctxM with st := st }
def sysC (op : Nat) (w2 w3 w4 : W64) : Cmd := cmdC 0 op 1 w2 w3 w4 0
/-- A descriptor of context 2 whose scratchpad table stands after it. -/
def descA : List Byte :=
  bytesLE 8 0x0001400200000000 ++ bytesLE 48 0 ++ bytesLE 8 0x20080 ++ bytesLE 8 0 ++ bytesLE 8 0x10000 ++ bytesLE 160 0
def descW (i : Nat) : W64 := BitVec.ofNat 64 (wordAt descA (8 * i) 8)
def makeC : Cmd := cmdC 0 0x20 2 0x20000 0 0 0

/-- Where every part of every quad is restored or cannot be, a further attempt changes nothing. -/
theorem restored_all {s : State} {n : Nat}
    (h : ∀ q p, q < 112 → p < quadParts → q * quadParts + p ∈ (s.ctx n).back ∨ s.restorePart n q p = none) :
    (nats 112).foldl (fun s q => s.restoreQuad n q) s = s := by
  have hq : ∀ q, q < 112 → s.restoreQuad n q = s := by
    intro q hq
    have : ∀ l : List Nat, (∀ p ∈ l, p < quadParts) → l.foldl (fun (s : State) part =>
        let k := q * quadParts + part
        if (s.ctx n).back.contains k then s
        else match s.restorePart n q part with
          | some s => s.modCtx n fun c => { c with back := c.back ++ [k] }
          | none => s) s = s := by
      intro l
      induction l with
      | nil => intro _; rfl
      | cons p l ih =>
        intro hl
        have ih := ih fun p hp => hl p (by simp [hp])
        rw [List.foldl_cons]
        obtain hb | hn := h q p hq (hl p (by simp))
        · simpa only [List.contains_iff_mem.2 hb, if_true] using ih
        · simpa only [hn, ite_self] using ih
    exact this _ (by decide)
  have : ∀ l : List Nat, (∀ q ∈ l, q < 112) → l.foldl (fun (s : State) q => s.restoreQuad n q) s = s := by
    intro l
    induction l with
    | nil => intro _; rfl
    | cons q l ih => intro hl; rw [List.foldl_cons, hq q (hl q (by simp))]; exact ih fun p hp => hl p (by simp [hp])
  exact this _ (by decide)

/-- The context with the listed parts restored, on a package whose quad 0 has no scratchpad for it. -/
def backState (l : List Nat) : State :=
  { firm (sysC 0x22 0 0 0) { inSt .quiesced with back := l, spTab := [(0, 65536)] } Die.reset [] with spad := [(0, 0)] }

theorem backState_none : (backState (List.range' 1 (112 * quadParts - 1))).restorePart 1 0 0 = none :=
  Option.isNone_iff_eq_none.1 (by decide +kernel)

theorem test_ContextCommandsMoveTheirContext_back :
    Stands (backState (List.range (112 * quadParts))) (sysC 0x22 0 0 0) 0x22
    ∧ Stands (backState (List.range' 1 (112 * quadParts - 1))) (sysC 0x22 0 0 0) 0x22
    ∧ (((nats 112).foldl (fun s q => s.restoreQuad 1 q) (backState (List.range (112 * quadParts)))).ctx 1).back.length = 112 * quadParts
    ∧ (((nats 112).foldl (fun s q => s.restoreQuad 1 q) (backState (List.range' 1 (112 * quadParts - 1)))).ctx 1).back.length ≠ 112 * quadParts := by
  have hb : ∀ l, ((backState l).ctx 1).back = l := fun _ => rfl
  refine ⟨stands_of (by decide +kernel), stands_of (by decide +kernel), ?_, ?_⟩
  · rw [restored_all fun q p hq hp => .inl (by rw [hb, List.mem_range]; simp only [quadParts] at *; omega), hb, List.length_range]
  · rw [restored_all fun q p hq hp => ?_, hb, List.length_range']
    · simp [quadParts]
    · by_cases h : q * quadParts + p = 0
      · obtain ⟨rfl, rfl⟩ : q = 0 ∧ p = 0 := by simp only [quadParts] at h; omega
        exact .inr backState_none
      · exact .inl (by rw [hb, List.mem_range'_1]; simp only [quadParts] at *; omega)

theorem test_ContextCommandsMoveTheirContext :
    Stands (firm makeC ctxM Die.reset descA) makeC 0x20 ∧ ((firm makeC ctxM Die.reset descA).ctx 2).st = .none
    ∧ (match (firm makeC ctxM Die.reset descA).fwRead 0 0x20000 128, (firm makeC ctxM Die.reset descA).fwRead 0 0x20080 112 with
       | .ok l, .ok p => descOk (fun i => BitVec.ofNat 64 (wordAt l (8 * i) 8)) 2 && p.all fun b => decide (b.toNat ≤ 48)
       | _, _ => false) = true
    ∧ Stands (firm (sysC 0x21 0 0 0) (inSt .created) Die.reset []) (sysC 0x21 0 0 0) 0x21
    ∧ ((firm (sysC 0x21 0 0 0) (inSt .created) Die.reset []).queue 1 0).st = qFree
    ∧ (firm (sysC 0x21 0 0 0) (inSt .created) Die.reset []).freeKeySlot = some 1
    ∧ (firm (sysC 0x21 0 0 0) (inSt .created) Die.reset []).resFits 1 0 0 = true
    ∧ (∀ q, q < 112 → (firm (sysC 0x21 0 0 0) (inSt .created) Die.reset []).spadFits 1 q = true)
    ∧ Stands (firm (sysC 0x22 0 0 0) (inSt .loaded) Die.reset []) (sysC 0x22 0 0 0) 0x22
    ∧ Stands (firm (sysC 0x23 0 0 0) (inSt .runnable) Die.reset []) (sysC 0x23 0 0 0) 0x23
    ∧ ((firm (sysC 0x23 0 0 0) { inSt .quiescing with saving := [0, 1, 2, 3], cmd := some makeC } Die.reset []).ctx 1).cmd = some makeC
    ∧ Stands (firm (sysC 0x24 0 0 0) (inSt .runnable) Die.reset []) (sysC 0x24 0 0 0) 0x24
    ∧ Stands (firm (sysC 0x25 0 0 0) (inSt .killed) Die.reset []) (sysC 0x25 0 0 0) 0x25
    ∧ Stands (firm (sysC 0x26 0x0202000000000000 0 0) (inSt .created) Die.reset []) (sysC 0x26 0x0202000000000000 0 0) 0x26
    ∧ (firm (sysC 0x26 0x0202000000000000 0 0) (inSt .runnable) Die.reset []).resFits 1 1 1 = true
    ∧ Stands (firm (sysC 0x27 0x20000 0 0) (inSt .runnable) Die.reset []) (sysC 0x27 0x20000 0 0) 0x27
    ∧ (∃ h, lies (firm (sysC 0x27 0x20000 0 0) (inSt .runnable) Die.reset []) 0 .wr 0x20000 256 h)
    ∧ (∀ w ∈ [0, 1], Stands (firm (sysC 0x28 0x20000 256 w) (inSt .runnable) Die.reset []) (sysC 0x28 0x20000 256 w) 0x28)
    ∧ ((firm makeC { inSt .runnable with replay := true, diverged := true } Die.reset []).ctx 1).diverged = true := by
  and_intros
  all_goals first
    | decide +kernel | exact stands_of (by decide +kernel) | exact range_of (by decide +kernel)
    | (intro w hw; simp only [List.mem_cons, List.not_mem_nil, or_false] at hw; rcases hw with rfl | rfl <;> exact stands_of (by decide +kernel))

/-! ### Stage commands -/

/-- A table, and a program of stage 0 with registers that is bound to it or not. -/
def tabA : Table := { ctx := 1, handle := 5, stage := 0, kind := 0, klen := 4, cap := 2, entries := [], errs := [] }
def progA (regs : Nat) (bound : Bool) (acts : List (BitVec 128)) : Prog :=
  { ctx := 1, stage := 0, entry := 0, regs := regs, binds := if bound then [(0x4000000000000005, 0)] else [], acts := acts, reg := [], errs := [] }
def staging (c : Cmd) (g : Prog) (l : List Byte) : State :=
  { firm c ctxM { Die.reset with tables := [tabA] } l with vats := [(0, { Vat.reset with progs := [(0, none, g)] })] }
def stageA : List Byte := bytesLE 4 0x56415453 ++ bytesLE 140 0

theorem test_StageCommandsServeTheVats :
    Stands (staging (sysC 0x30 1 0x20000 0) (progA 0 false []) []) (sysC 0x30 1 0x20000 0) 0x30
    ∧ (match (staging (sysC 0x30 1 0x20000 0) (progA 0 false []) []).fwRead 0 0x20000 2112 with
       | .ok l => parserOk l
       | .bad _ => false) = true
    ∧ Stands (staging (sysC 0x31 1 0x20000 0) (progA 0 false []) stageA) (sysC 0x31 1 0x20000 0) 0x31
    ∧ (match (staging (sysC 0x31 1 0x20000 0) (progA 0 false []) stageA).fwRead 0 0x20000 0x80 with
       | .ok a => decide (wordAt a 6 2 ≤ 255) && match (staging (sysC 0x31 1 0x20000 0) (progA 0 false []) stageA).fwRead 0 0x20000 (stageLen a) with
           | .ok l => (staging (sysC 0x31 1 0x20000 0) (progA 0 false []) stageA).stageOk l (stageOf 1 l) (vatsOf 1)
           | .bad _ => false
       | .bad _ => false) = true
    ∧ Stands (staging (sysC 0x32 1 0 0) (progA 0 false []) []) (sysC 0x32 1 0 0) 0x32
    ∧ Stands (staging (sysC 0x33 0 0 0) (progA 0 false []) []) (sysC 0x33 0 0 0) 0x33 ∧ tableOk 0 1 1 = true
    ∧ (staging (sysC 0x33 0 0 0) (progA 0 false []) []).freeHandle = some 0
    ∧ Stands (staging (sysC 0x34 5 0x20000 0) (progA 0 false []) []) (sysC 0x34 5 0x20000 0) 0x34
    ∧ (staging (sysC 0x34 5 0x20000 0) (progA 0 false []) []).tableOf 1 5 = some (0, tabA)
    ∧ (match (staging (sysC 0x34 5 0x20000 0) (progA 0 false []) []).fwRead 0 0x20000 64 with
       | .ok l => tabA.entryOk (l.take 64)
       | .bad _ => false) = true
    ∧ Stands (staging (sysC 0x35 5 0 0) (progA 0 true []) []) (sysC 0x35 5 0 0) 0x35
    ∧ (staging (sysC 0x35 5 0 0) (progA 0 true []) []).tableBound 0 tabA = true ∧ (staging (sysC 0x35 5 0 0) (progA 0 false []) []).tableBound 0 tabA = false
    ∧ (∀ g ∈ [0, 2], Stands (staging (sysC 0x36 0 0x20000 0) (progA g false []) []) (sysC 0x36 0 0x20000 0) 0x36
      ∧ (staging (sysC 0x36 0 0x20000 0) (progA g false []) []).progOf 0 0 1 0 = some (progA g false [])
      ∧ ∃ h, lies (staging (sysC 0x36 0 0x20000 0) (progA g false []) []) 0 .wr 0x20000 (8 * g) h)
    ∧ Stands (staging (sysC 0x37 0 0x20000 0) (progA 0 false []) []) (sysC 0x37 0 0x20000 0) 0x37
    ∧ (∃ h, lies (staging (sysC 0x37 0 0x20000 0) (progA 0 false []) []) 0 .wr 0x20000 2176 h) := by
  and_intros
  all_goals first
    | decide +kernel | exact stands_of (by decide +kernel) | exact range_of (by decide +kernel)
    | (intro w hw; simp only [List.mem_cons, List.not_mem_nil, or_false] at hw
       rcases hw with rfl | rfl <;> exact ⟨stands_of (by decide +kernel), by decide +kernel, range_of (by decide +kernel)⟩)

/-! ### Packet pipelines -/

/-- A frame of 128 bytes, its header vector in stage 0 for a context, and a packet with it. -/
def hvA (ctx : Nat) : SMap Byte := hvNum (hvNum (hvNum (hvStart 0 128 4096) 4 2 ctx) 0x0E 2 64) 0x18 1 0
def pktA (hv : SMap Byte) : VPkt :=
  { id := 7, ord := 0, port := 0, hv := hv, frame := List.replicate 128 0, recs := [], phase := .stage 0, accHv := [], accRecs := [], epoch := 0, mirrors := []
    again := none, replayed := false, at_ := 0 }
/-- A program of stage 0 with a table as its binding 0, a region as binding 1, and two registers. -/
def progB (ctx : Nat) : Prog := { progA 2 false [] with ctx := ctx, binds := [(0x4000000000000005, 0), (0x8000FF0000001000, 4096)] }
/-- An entry that a key of zeros hits. -/
def entA : List Byte := bytesLE 49 0 ++ [1] ++ bytesLE 14 0
def vatS (p : VPkt) (d : Die) : State :=
  { one seatA ctxA with ctxs := [(0, ctxA), (1, ctxA)], dies := [(0, d)]
                        vats := [(0, { Vat.reset with pkts := [p], progs := [(0, none, progB (VPkt.ctx p))] })] }
def dieT (l : List (List Byte)) : Die := { Die.reset with tables := [{ tabA with entries := l }] }

theorem stage_of {s : State} {p : VPkt} {n : Nat} {g : Prog} (h : decide (stageReady none (s.vat s.curVat).pkts = [(p, n)])
    && decide ((s.ctx p.ctx).st = .runnable) && decide (s.progOf s.curVat p.epoch p.ctx n = some g) = true) : AtStage s p n g := by
  simp only [Bool.and_eq_true, decide_eq_true_eq] at h
  exact ⟨⟨[], h.1.1⟩, h.1.2, h.2⟩

theorem test_MicroOperationsWorkOnTheHeaderVector :
    AtStage (vatS (pktA (hvA 1)) (dieT [])) (pktA (hvA 1)) 0 (progB 1) ∧ (pktA (hvA 1)).ploff + 16 ≤ (pktA (hvA 1)).frame.length - 4
    ∧ settable 0x38 8 ∧ (pktA (hvA 1)).ctx ≠ 0
    ∧ (menv (vatS (pktA (hvA 1)) (dieT [])) (pktA (hvA 1)) 0 (progB 1)).table (vatS (pktA (hvA 1)) (dieT [])) 0 = some { tabA with entries := [] }
    ∧ (menv (vatS (pktA (hvA 1)) (dieT [])) (pktA (hvA 1)) 0 (progB 1)).table (vatS (pktA (hvA 1)) (dieT [])) 1 = none
    ∧ ({ tabA with entries := [] } : Table).hit (hvBytes (hvA 1) 0x38 4) = none
    ∧ ({ tabA with entries := [entA] } : Table).hit (hvBytes (hvA 1) 0x38 4) = some entA ∧ entryByte entA 0x31 / 2 % 2 = 0
    ∧ hvNat (hvA 1) 0x0A 2 = (vatS (pktA (hvA 1)) (dieT [])).chip
    ∧ (let s := ({ vatS (pktA (hvNum (hvA 1) 0x0A 2 2)) (dieT []) with ports := [(0, { Port.reset with st := .up })] } : State).wrBytes (spKey 0 0 8) (bytesLE 4 0x20000000)
       AtStage s (pktA (hvNum (hvA 1) 0x0A 2 2)) 0 (progB 1) ∧ s.routes 0 2 = [0] ∧ s.chip ≠ 2)
    ∧ (menv (vatS (pktA (hvA 1)) (dieT [])) (pktA (hvA 1)) 0 (progB 1)).region 1 = some (spKey 1 0 0x1000, 4096)
    ∧ hvNat (hvA 1) 0x18 1 ≠ 0xFF ∧ (vatS (pktA (hvA 1)) (dieT [])).badIn (spKey 1 0 0x1000) 8 = none := by
  and_intros
  all_goals first
    | decide +kernel | exact stage_of (by decide +kernel)
    | (intro i hi; rcases (by omega : i = 0 ∨ i = 1 ∨ i = 2 ∨ i = 3 ∨ i = 4 ∨ i = 5 ∨ i = 6 ∨ i = 7) with rfl | rfl | rfl | rfl | rfl | rfl | rfl | rfl <;> decide)

theorem test_MicroOperationsActAndDecide :
    2 * (0 + 1) ≤ (pktA (hvA 1)).plen ∧ (vatS (pktA (hvA 1)) (dieT [])).badIn (spKey 1 0 0x1000) (2 * (0 + 1) * (63 + 1)) = none
    ∧ (pktA (hvA 1)).plen ≤ 4096 ∧ (pktA (hvA 1)).plen % 4 = 0 ∧ hvNat (hvA 1) 0x38 4 + 2 * (pktA (hvA 1)).plen ≤ 4096
    ∧ AtStage (vatS (pktA (hvNum (hvA 1) 0x40 4 4095)) (dieT [])) (pktA (hvNum (hvA 1) 0x40 4 4095)) 0 (progB 1)
    ∧ 4096 < hvNat (hvNum (hvA 1) 0x40 4 4095) 0x40 4 + (pktA (hvNum (hvA 1) 0x40 4 4095)).plen
    ∧ ((vatS (pktA (hvA 1)) (dieT [])).ctx 1).spLen 0 ≠ 0 ∧ (progB 1).regs = 2 ∧ (progB 1).errs = []
    ∧ (vatS (pktA (hvA 1)) (dieT [])).cqForeign 0 1 = false ∧ (SMap.get [] ((vatS (pktA (hvA 1)) (dieT [])).quad 0).cqs 0).length < 64
    ∧ (let s : State := { vatS (pktA (hvA 1)) (dieT []) with quads := [(0, { Quad.reset with cqs := [(2, List.replicate 64 (100, 7))], cqCtx := 1 })] }
       s.cqForeign 0 1 = false ∧ 64 ≤ (SMap.get [] (s.quad 0).cqs 2).length)
    ∧ hvNat (hvA 1) 0x08 2 = 0xFFFF ∧ hvNat (hvNum (hvA 1) 0x08 2 5) 0x08 2 ≠ 0xFFFF
    ∧ AtStage (vatS (pktA (hvNum (hvA 1) 0x08 2 5)) (dieT [])) (pktA (hvNum (hvA 1) 0x08 2 5)) 0 (progB 1)
    ∧ AtStage (vatS (pktA (hvA 0)) (dieT [])) (pktA (hvA 0)) 0 (progB 0) ∧ (pktA (hvA 0)).ctx = 0
    ∧ hvNat (hvA 1) 0x07 1 < 4 ∧ 4 ≤ hvNat (hvNum (hvA 1) 0x07 1 4) 0x07 1
    ∧ AtStage (vatS (pktA (hvNum (hvA 1) 0x07 1 4)) (dieT [])) (pktA (hvNum (hvA 1) 0x07 1 4)) 0 (progB 1)
    ∧ hvNat (hvA 1) 0x06 1 % 4 ≤ 3 ∧ 2 < hvNat (hvA 1) 0x06 1 % 4
    ∧ (vatS (pktA (hvA 1)) (dieT [])).connAway 0 = true ∧ (vatS (pktA (hvA 1)) { dieT [] with conns := [Conn.opened 0 false 0] }).connAway 0 = false
    ∧ AtStage (vatS (pktA (hvA 1)) { dieT [] with conns := [Conn.opened 0 false 0] }) (pktA (hvA 1)) 0 (progB 1)
    ∧ (let d := { dieT [] with conns := [{ Conn.opened 0 false 0 with resident := false }] }
       (vatS (pktA (hvA 1)) d).connAway 0 = true ∧ AtStage (vatS (pktA (hvA 1)) d) (pktA (hvA 1)) 0 (progB 1) ∧ hvFlag (hvA 1) 4 = false
       ∧ hvFlag (hvSetFlag (hvA 1) 4) 4 = true
       ∧ AtStage (vatS (pktA (hvSetFlag (hvA 1) 4)) d) (pktA (hvSetFlag (hvA 1) 4)) 0 (progB 1)) := by
  and_intros
  all_goals first | decide +kernel | exact stage_of (by decide +kernel)

/-- An SKF frame with a header and data. -/
def skfA (h : Skf) (l : List Byte) : List Byte := bytesLE 12 0 ++ [0x88, 0xB5] ++ skfBytes { h with len := BitVec.ofNat 16 l.length } ++ l ++ bytesLE 40 0
def upS : State := { sA with ports := [(0, { Port.reset with st := .up })] }
/-- The package with a packet and a program in vat 0. -/
def vatP (p : VPkt) (c : Ctx) (acts : List (BitVec 128)) (starts : SMap Nat) : State :=
  { one seatA c with vats := [(0, { Vat.reset with pkts := [p], starts := starts, progs := if acts = [] then [] else [(0, none, progA 0 false acts)] })] }
/-- What a stage comes to. -/
def MOut.code : MOut → Nat
  | .go _ _ => 0
  | .stop _ _ _ => 1
def pipeA (k : AKind) (l : List Byte) : Acc := { accA k 0 0 0 with seat := 0, rcd := l, n := 8 }

theorem test_PacketsPassTheirPipeline :
    arrives upS 0 (List.replicate 128 0) ∧ isSkf (List.replicate 128 0) = false
    ∧ arrives upS 0 (skfA (plainSkf 0 1 1 false 0) (bytesLE 8 5)) ∧ isSkf (skfA (plainSkf 0 1 1 false 0) (bytesLE 8 5)) = true
    ∧ (pktOf (skfA (plainSkf 0 1 1 false 0) (bytesLE 8 5))).h.kind ≠ 0x20
    ∧ (upS.fabTime 0 + 65536 - (pktOf (skfA (plainSkf 0 1 1 false 0) (bytesLE 8 5))).h.ts.toNat) % 65536 ≤ 1900
    ∧ 1900 < (upS.fabTime 0 + 65536 - (pktOf (skfA { plainSkf 0 1 1 false 0 with ts := 60000 } (bytesLE 8 5))).h.ts.toNat) % 65536
    ∧ (pktOf (skfA { plainSkf 9 1 1 false 0 with hop := 4 } (bytesLE 8 5))).h.hop = 4 ∧ (pktOf (skfA { plainSkf 9 1 1 false 0 with hop := 4 } [])).h.dchip.toNat ≠ upS.chip
    ∧ (∀ st ∈ [0, 0x40], ((vatP { pktA (hvA 1) with phase := .parse } ctxA [] [(0, st)]).vat 0).pkts.find? (fun p => p.phase == .parse)
        = some { pktA (hvA 1) with phase := .parse })
    ∧ (parseGo [] 124 16 0 ⟨0, { pktA (hvA 1) with phase := .parse }, 0⟩).isNone = true ∧ (parseGo [] 124 16 0x40 ⟨0, { pktA (hvA 1) with phase := .parse }, 0⟩).isSome = true
    ∧ stageReady none ((vatP (pktA (hvA 1)) { ctxA with st := .killed } [] []).vat 0).pkts = [(pktA (hvA 1), 0)]
    ∧ ((vatP (pktA (hvA 1)) { ctxA with st := .killed } [] []).ctx 1).st ≠ .runnable
    ∧ (vatP (pktA (hvA 1)) ctxA [] []).progOf 0 0 1 0 = none
    ∧ (vatP (pktA (hvA 1)) ctxA [0] []).progOf 0 0 1 0 = some (progA 0 false [0])
    ∧ MOut.code (stageGo ⟨0, 1, 0, progA 0 false [0], 0⟩ 4 (microsOf (0#128)) (vatP (pktA (hvA 1)) ctxA [0] []) ⟨pktA (hvA 1), 0, none⟩) = 0
    ∧ ((encodeMicro (.drop 5)).map fun w =>
        MOut.code (stageGo ⟨0, 1, 0, progA 0 false [0], 0⟩ 4 [w, 0, 0, 0] (vatP (pktA (hvA 1)) ctxA [0] []) ⟨pktA (hvA 1), 0, none⟩)) = some 1 := by
  and_intros
  all_goals decide +kernel

theorem test_PacketsPassTheirPipeline_ends :
    (∀ hv ∈ [hvA 1, hvSetFlag (hvA 1) 3, hvSetFlag (hvA 1) 2],
      ((vatP { pktA hv with phase := .finish } ctxA [] []).vat 0).pkts.find? (fun p => p.phase == .finish) = some { pktA hv with phase := .finish })
    ∧ hvFlag (hvA 1) 3 = false ∧ hvFlag (hvA 1) 2 = false ∧ hvFlag (hvSetFlag (hvA 1) 3) 3 = true ∧ hvFlag (hvSetFlag (hvA 1) 2) 2 = true
    ∧ isSkf ({ pktA (hvA 1) with frame := skfA (plainSkf 0 1 1 false 0) (bytesLE 8 5) } : VPkt).deparsed = true
    ∧ ((vatP { pktA (hvA 1) with phase := .recirc 2 } ctxA [] []).vat 0).pkts.find? (fun p => match p.phase with | .recirc _ => true | _ => false)
      = some { pktA (hvA 1) with phase := .recirc 2 }
    ∧ (let s : State := { sA with dies := [(0, { Die.reset with holds := [(pktA (hvA 1), 0, 0x20050)], holdMiss := [0x20050] })], dieCycle := 2000000 }
       0x20050 ∈ (s.die 0).holdMiss ∧ (s.die 0).holds.find? (fun h => decide (h.2.1 + 2000000 ≤ s.dieCycle)) = some (pktA (hvA 1), 0, 0x20050))
    ∧ (let s := one seatA { ctxA with replay := true, rlog := [(0, [0x0100000000000000, 0])] }
       (s.ctx 1).replay = true ∧ (s.ctx 1).st = .runnable ∧ (s.ctx 1).rlog.find? (fun e => fld (nth 0 e.2 0) 63 56 == 1
           && decide ((fld (nth 0 e.2 0) 47 0 + 2 ^ 48 - (s.ctx 1).rcdAt % 2 ^ 48) % 2 ^ 48 ≤ (s.dieCycle - (s.ctx 1).playAt) % 2 ^ 48))
         = some (0, [0x0100000000000000, 0]))
    ∧ (∀ k ∈ [AKind.pdepo, .pline, .pbump], let s : State := { sA with accs := [pipeA k (bytesLE 8 5)] }
       s.accReady (pipeA k (bytesLE 8 5)) = true ∧ s.pipeReady (pipeA k (bytesLE 8 5)) = true ∧ (s.ctx 1).rcd = false ∧ (s.ctx 1).replay = false
       ∧ s.badIn key4 8 = none)
    ∧ ({ sA with accs := [pipeA .pdepo (bytesLE 8 5)] } : State).Quiet key4 8 := by
  and_intros
  all_goals first | decide +kernel | exact (quiet_of rfl rfl _ _).2

/-! ### The engines of the fabric -/

/-- A header from chip 2, context 5 to context 1 here; its connection; the key that it names, with a counter or none. -/
def headA (kind : Nat) : Skf := { plainSkf 0 1 kind false 0 with schip := 2 }
def connA (out : Bool) : Conn := Conn.opened (connId 2 1) out 0
def keyB (cctr : Nat) : List Byte :=
  bytesLE 32 (2 ^ 128 * cctr + 2 ^ 112 * 0xFFFF + 2 ^ 64 * 0x10000 + 2 ^ 63 + 2 ^ 62 + 2 ^ 61 + 2 ^ 60 + 0xFF0000000400)
/-- The package with connections of die 0, a context, and that key. -/
def wired (d : Die) (st : CtxSt) (l : List Byte) : State :=
  State.wrBytes { one seatA { ctxK with st := st } with dies := [(0, d)] } (spKey 1 0 0xC00) l
def inD : Die := { Die.reset with conns := [connA false] }
def loadD : Pkt := ⟨headA 4, [8]⟩
def storeD : Pkt := ⟨headA 6, 8 :: bytesLE 8 5⟩
def atomD : Pkt := ⟨headA 7, [8, 0] ++ bytesLE 8 5 ++ bytesLE 8 0⟩
def writeD : Pkt := ⟨headA 1, bytesLE 8 5⟩
def readD : Pkt := ⟨headA 2, bytesBE 8 8⟩
def vatD : Pkt := ⟨headA 9, bytesLE 8 5⟩
def backD : Pkt := ⟨headA 0x18, bytesBE 8 7 ++ List.replicate 64 3⟩
def lentB : Lent := ⟨2, 1, 7, key4 / 64, [], 0⟩

/-- A target's place for a packet. -/
def Place.isOk : Place → Bool
  | .ok _ => true
  | _ => false
theorem place_of {x : Place} (h : Place.isOk x = true) : ∃ l, x = .ok l := by
  cases x <;> simp_all [Place.isOk]

theorem test_TargetsServePackets :
    (∀ p ∈ [writeD, readD, loadD, storeD, atomD, vatD], (wired { inD with conns := [{ connA false with gen := 5 }] } .runnable (keyB 0)).inConn 0 p.h = none)
    ∧ (∀ p ∈ [writeD, readD, loadD, storeD, atomD, vatD, backD], (wired inD .runnable (keyB 0)).inConn 0 p.h = some (wired inD .runnable (keyB 0))
      ∧ (wired inD .runnable (keyB 0)).isDup 0 false p.h = false ∧ (wired inD .runnable (keyB 0)).ctxAway 1 = false)
    ∧ (wired inD .quiescing (keyB 0)).inConn 0 writeD.h = some (wired inD .quiescing (keyB 0)) ∧ (wired inD .quiescing (keyB 0)).ctxAway 1 = true
    ∧ (wired inD .runnable []).targetKey writeD.h 8 1 ≠ 0 ∧ (wired inD .runnable (keyB 0)).targetKey writeD.h 8 1 = 0
    ∧ (let d := { inD with conns := [{ connA false with msgs := [(0, ([0], 0, 0, 0))], replies := [(0, [1])] }] }
       (wired d .runnable (keyB 0)).isDup 0 false writeD.h = true ∧ (wired d .runnable (keyB 0)).inConn 0 writeD.h = some (wired d .runnable (keyB 0)))
    ∧ (∃ l, (wired inD .runnable (keyB 0)).placeOf 0 writeD.h .wr (keyVa (wired inD .runnable (keyB 0)) writeD.h) 8 = .ok l)
    ∧ ((wired inD .runnable (keyB 0)).ctx 1).onTile (keyVa (wired inD .runnable (keyB 0)) writeD.h) 8 = false
    ∧ (wired inD .runnable (keyB 0)).targetKey readD.h (ofBytesBE readD.data) 2 = 0
    ∧ (∃ l, (wired inD .runnable (keyB 0)).placeOf 0 readD.h .rd (keyVa (wired inD .runnable (keyB 0)) readD.h) 8 = .ok l)
    ∧ (∀ p ∈ [(loadD, 4), (storeD, 6), (atomD, 7)], (wired inD .runnable (keyB 0)).targetKey p.1.h 8 p.2 = 0 ∧ (wired inD .runnable []).targetKey p.1.h 8 p.2 ≠ 0
      ∧ ((wired inD .runnable (keyB 0)).conn 0 false (skfId p.1.h)).bind (fun c => SMap.find c.replies 0) = none)
    ∧ (∃ l, (wired inD .runnable (keyB 0)).placeOf 0 atomD.h .atom (keyVa (wired inD .runnable (keyB 0)) atomD.h) 8 = .ok l)
    ∧ (wired inD .runnable (keyB 0)).gatherBad ((wired inD .runnable (keyB 0)).heldKey 1 []) (keyVa (wired inD .runnable (keyB 0)) loadD.h) 8 = none := by
  and_intros
  all_goals first | decide +kernel | exact place_of (by decide +kernel)

theorem quiet_one {s : State} {x : Die} (hw : s.waits = []) (hd : s.dies = [(0, x)]) (hx : x.trigs = []) (k n : Nat) : s.Quiet k n := by
  refine ⟨by simp [hw], fun d t ht => ?_⟩
  by_cases h : d = 0
  · subst h
    simp [State.die, hd, SMap.get, hx] at ht
  · have : s.die d = Die.reset := by simp [State.die, hd, SMap.get, h]
    rw [this] at ht
    cases ht

theorem test_TargetsServePackets_others :
    (({ wired inD .runnable (keyB 0) with accs := [pipeA .pline (bytesLE 8 5)] } : State).accs.any
        fun a => a.ctx == 1 && (a.k == .pline || a.k == .pdepo || a.k == .pbump)) = true
    ∧ ((wired inD .runnable (keyB 0)).accs.any fun a => a.ctx == 1 && (a.k == .pline || a.k == .pdepo || a.k == .pbump)) = false
    ∧ (wired inD .runnable (keyB 0)).keyEntry 1 0 = some (BitVec.ofNat 256 (ofBytesLE (keyB 0))) ∧ (wired inD .killed (keyB 0)).keyEntry 1 0 = none
    ∧ (wired inD .runnable (keyB 0xFF0000000100)).inConn 0 (headA 0x14) = some (wired inD .runnable (keyB 0xFF0000000100))
    ∧ (wired inD .runnable (keyB 0)).inConn 0 { headA 0x14 with pidx := 1 } = some (wired inD .runnable (keyB 0))
    ∧ (wired inD .quiesced (keyB 0)).inConn 0 (headA 0x15) = some (wired inD .quiesced (keyB 0)) ∧ (wired inD .quiesced (keyB 0)).ctxAway 1 = true
    ∧ ((wired inD .runnable (keyB 0xFF0000000100)).keyEntry 1 0).map (fun e => decide (kCctr e ≠ 0)) = some true
    ∧ (wired Die.reset .runnable (keyB 0)).genOk 0 false backD.h = false ∧ (wired { inD with lentOut := [lentB] } .runnable (keyB 0)).genOk 0 false backD.h = true
    ∧ (wired { inD with lentOut := [lentB] } .runnable (keyB 0)).dies = [(0, { inD with lentOut := [lentB] })]
    ∧ [lentB].find? (fun l => l.chip == backD.h.schip && l.ctag == backD.h.ctag && l.line == ofBytesBE (backD.data.take 8)) = some lentB
    ∧ ({ sA with dies := [(0, { inD with lentOut := [lentB] })] } : State).Quiet (64 * lentB.key) 64 := by
  and_intros
  all_goals first | decide +kernel | exact (quiet_one (x := { inD with lentOut := [lentB] }) rfl rfl rfl _ _).2

/-- A packet that has been sent and not answered, its connection, and the requests that it serves. -/
def sentA (kind : Nat) (parked : Bool) : Sent := ⟨30, ⟨{ plainSkf 2 1 kind false 0 with schip := 0 }, [8]⟩, 1, 9, 0, 0, 0, parked, 0⟩
def outD (l : List Sent) (w : List WReq) : Die := { Die.reset with conns := [{ connA true with sent := l }], wreqs := w }
def wreqB : WReq := { wreqA 2 false with ptr := 0x0002000100000000, started := true }
def ansA (kind : Nat) : Skf := { headA kind with vcls := true }

theorem test_SourcesTakeAnswers :
    (wired Die.reset .runnable []).genOk 0 true (ansA 5) = false
    ∧ (let s := wired (outD [] [wreqB]) .runnable []
       s.genOk 0 true (ansA 3) = true ∧ s.isDup 0 true (ansA 3) = false
       ∧ (s.die 0).wreqs.find? (fun w => w.kind == 2 && w.connId == skfId (ansA 3) && w.msgid == (ansA 3).msgid && w.started) = some wreqB
       ∧ s.sentOf 0 (ansA 0x12) = none ∧ ∃ l, s.placeOf 0 { ansA 3 with ctag := 1 } .wr 0xFF0000000400 8 = .ok l)
    ∧ (let s : State := { wired (outD [sentA 4 false] []) .runnable [] with accs := [accA .fld 0 0 0] }
       s.genOk 0 true (ansA 5) = true ∧ s.sentOf 0 (ansA 5) = some (sentA 4 false)
       ∧ (((s.ackWhere 0 true (ansA 5) fun y => y.pkt.h.pidx == 0).takeLine 0 (ansA 5) []).accs.find? fun a => a.id == 9) = some (accA .fld 0 0 0))
    ∧ (let s := wired (outD [sentA 1 false] [wreqB]) .runnable []
       s.conn 0 true (skfId (ansA 0x10)) = some { connA true with sent := [sentA 1 false] }
       ∧ [sentA 1 false].find? (fun y => y.answeredBy (ansA 0x10) && y.pkt.h.pidx == (ansA 0x10).pidx) = some (sentA 1 false)
       ∧ s.sentOf 0 (ansA 0x10) = some (sentA 1 false)
       ∧ ((s.takeBack 0 true (ansA 0x10) fun y => y.pkt.h.pidx == 0).accs.find? fun a => a.id == 9) = none
       ∧ ((((s.takeBack 0 true (ansA 0x10) fun y => y.pkt.h.pidx == 0).die 0).wreqs.find? fun w => w.id == 9).isSome = true))
    ∧ (sentA 1 true).parked = true
    ∧ (let s := wired { Die.reset with lentIn := [lentB] } .runnable []
       s.loanOf (2, 1, ofBytesBE (bytesBE 8 (7 * 64)) / 64) = some (0, lentB)) := by
  and_intros
  all_goals first | decide +kernel | exact place_of (by decide +kernel)

theorem test_SourcesTakeAnswers_timers :
    (let s : State := { wired { inD with conns := [{ connA false with msgs := [(0, ([0], 1, 0, 0))] }] } .runnable [] with dieCycle := 16000 }
     Option.map (fun c => decide ((Conn.msg c 0).2.1 ≠ 0 ∧ (Conn.msg c 0).2.2.1 + 16000 ≤ s.dieCycle)) (s.conn 0 false (connId 2 1)) = some true)
    ∧ (let s : State := { wired { inD with conns := [{ connA false with msgs := [(0, ([0], 0, 0, 0))] }] } .runnable [] with dieCycle := 4000000 }
       Option.map (fun c => decide ((Conn.msg c 0).1 ≠ [] ∧ (Conn.msg c 0).2.1 = 0 ∧ (Conn.msg c 0).2.2.2 + 4000000 ≤ s.dieCycle)) (s.conn 0 false (connId 2 1)) = some true)
    ∧ (let s : State := { wired (outD [sentA 1 false] []) .runnable [] with dieCycle := 1000000 }
       (s.die 0).conns.findSome? (fun c => (c.sent.find? fun p => p.id == 30).map fun p => (c, p)) = some ({ connA true with sent := [sentA 1 false] }, sentA 1 false)
       ∧ (sentA 1 false).sentAt + ({ connA true with sent := [sentA 1 false] } : Conn).timeout ≤ s.dieCycle)
    ∧ (let s := wired (outD [sentA 1 true] []) .runnable []
       (s.die 0).conns.findSome? (fun c => (c.sent.find? fun p => p.parked && decide (p.resend ≤ s.dieCycle)
        && (!takesSlot p.pkt.h.kind.toNat || decide (0 < c.slots))).map fun p => (c, p)) = some ({ connA true with sent := [sentA 1 true] }, sentA 1 true))
    ∧ ({ sA with dieCycle := 2 ^ 20 } : State).dieCycle % 2 ^ 20 = 0 := by
  and_intros
  all_goals decide +kernel

/-- Where an access waits at a queue or its turn is, a record was read at an earlier try or not, a core is in the second cycle of a split
issue or not, a ring lies on its die or not, the host's accesses are held or not, and a missing connection has come or not. -/
theorem test_ClausesThatMeet :
    ((withQueue (queueA 2 1 0)).qMay 1 7 ((withQueue (queueA 2 1 0)).seat 0).tok = true)
    ∧ (launching (dieL false) [postA .launch]).qMay 1 7 (.acc 9) = true
    ∧ (sC (queueA 2 1 0)).curdBytes 1 0 3 = none
    ∧ ({ sC (queueA 2 1 0) with curdTry := [((1, 0, 3), List.replicate 64 5)] } : State).curdBytes 1 0 3 = some (List.replicate 64 5)
    ∧ fetching.secondPass 0 = false
    ∧ (let s : State := { fetching with cores := [(0, { Core.reset with busy := 1000000 })] }
       s.secondPass 0 = true ∧ s.occupied 0 = [0] ∧ s.inHole 0 = false)
    ∧ (firm (makeQ false) ctxM Die.reset []).ringHome 1 (makeQ false).e.w1 [(2, ⟨0x50000, none⟩)] = true
    ∧ (firm (makeQ false) ctxM Die.reset []).ringHome 1 ((makeQ false).e.w1 + 0x0100000000000000) [(2, ⟨0x50000, none⟩)] = false
    ∧ (hosting (takenQ 3 2 false 1 0 0)).hostLater 1 7 = false ∧ (hosting (takenQ 3 2 false 1 0 0)).hostRing = []
    ∧ ({ hosting (takenQ 3 2 false 1 0 0) with hostHeld := [(1, 7, 5, 0)] } : State).hostLater 1 7 = true
    ∧ (let s : State := { sA with dies := [(0, { Die.reset with holdMiss := [0x20050] })] }; (s.serveHold 0 0x20050).connAway 0x20050 = true)
    ∧ (let s : State := { sA with dies := [(0, { Die.reset with holdMiss := [0x20050], conns := [{ Conn.opened 0x20050 false 0 with resident := false }] })] }
       (s.serveHold 0 0x20050).connAway 0x20050 = false) := by
  and_intros
  all_goals decide +kernel

/-! ### Ports, power and the machine as a whole -/

/-- Port 0 in a state, and a frame in its egress. -/
def portS (p : Port) : State := { sA with ports := [(0, p)] }
def egrA : EFrame := { bytes := List.replicate 64 0, cls := 2, vc := 1, skf := true, ctx := 1, at_ := 0 }
def upP : Port := { Port.reset with mode := 1, st := .up, credits := [(1, 256)], egress := [egrA] }

theorem test_PortsTrainAndTransmit :
    ((portS { Port.reset with mode := 2, st := .training }).port 0).st = .training ∧ ((portS { Port.reset with mode := 1, st := .training }).port 0).heard = false
    ∧ ((portS { Port.reset with st := .degraded }).port 0).st = .degraded ∧ ((portS upP).port 0).mode = 1 ∧ ((portS upP).port 0).st ≠ .off
    ∧ (portS upP).usable 0 = true ∧ nextFrame upP.credits [] upP.served = some egrA
    ∧ upP.egress.find? (fun f => decide (f.at_ + 2000000 < 2000001)) = some egrA := by
  decide +kernel

theorem test_PowerStatesChange :
    State.reset.power = .off ∧ ({ State.reset with power := .boot } : State).power = .boot ∧ sA.power = .active
    ∧ ({ sA with power := .gated } : State).gateTurn 0 = true := by
  decide +kernel

/-! ### The step -/

/-- The words ADD S7, S1, S2 and SUB S8, S1, S2, and those of a bundle: its header, its slots and what pads it. -/
def addW : W32 := 0x011C1080
def subW (a : Reg) : W32 := BitVec.ofNat 32 (0x02001080 + a.toNat * 2 ^ 18)
/-- A core whose running seat stands before the words given, with an input. -/
def standing (ws : List W32) (i : Instr) : State :=
  State.wrBytes { fetching with inputs := [i], cores := [(0, { Core.reset with running := some 0 })] } key4 (ws.flatMap fun w => bytesLE 4 w.toNat)
def soloA : State := { standing [0x00400000, addW] (.bundleIssue 0) with inputs := [] }
def pairA (a : Reg) : State := standing [0x00600000, addW, subW a] (.bundleIssue 0)

/-- A word or a bundle that has been fetched. -/
def fetched {α : Type} : Except FetchErr α → Option α
  | .ok x => some x
  | .error _ => none
theorem fetched_of {α : Type} {x : Except FetchErr α} {y : α} (h : fetched x = some y) : x = .ok y := by
  cases x <;> simp_all [fetched]

theorem stands1_of {s : State} {k : Nat} (h : decide (s.power = .active) && (s.occupied (coreOf k)).all (fun j => !s.inHole j)
    && decide ((s.core (coreOf k)).running = some k) && decide ((s.seat k).st = .occupied) && decide ((s.seat k).rep = 0)
    && decide ((s.seat k).frame = Frame.clear) && decide ((s.seat k).spaced (s.cycle (coreOf k)) 0 = false)
    && (s.heldOf k).isNone && !s.secondPass (coreOf k) = true) : Stands1 s k := by
  simp only [Bool.and_eq_true, Bool.not_eq_true', decide_eq_true_eq, decide_eq_false_iff_not, Bool.not_eq_true, List.all_eq_true, Option.isNone_iff_eq_none] at h
  obtain ⟨⟨⟨⟨⟨⟨⟨⟨h1, h2⟩, h3⟩, h4⟩, h5⟩, h6⟩, h7⟩, h8⟩, h9⟩ := h
  exact ⟨.inl h1, h2, h3, h4, h5, by rw [h6]; exact ⟨rfl, rfl, rfl⟩, h7, h8, h9⟩

theorem test_StepsRunTheDecodedInstruction :
    Stands1 soloA 0 ∧ HoldsSyllable soloA 0 (.add .d64 7 1 2 false false) .slotS addW 0 ∧ (soloA.tryIssue evalOf 0).keeps = true
    ∧ soloA.cur = 0 ∧ coreOf 0 = 0
    ∧ (let s : State := vatP (pktA (hvA 1)) ctxA [0x70000000 <<< 96] []
       s.curVat = 0 ∧ stageReady none (s.vat 0).pkts = [(pktA (hvA 1), 0)] ∧ s.progOf 0 0 1 0 = some (progA 0 false [0x70000000 <<< 96])
       ∧ microsOf (nth 0 (progA 0 false [0x70000000 <<< 96]).acts 0) = [0x70000000, 0, 0, 0]
       ∧ decodeMicro 0x70000000 = some .absorb ∧ encodeMicro .absorb = some 0x70000000)
    ∧ sA.inputs = [] ∧ sA.power = .active ∧ State.reset.inputs = [] := by
  refine ⟨stands1_of (by decide +kernel), ⟨by decide, fetched_of (by decide +kernel), fetched_of (by decide +kernel), ?_, by decide +kernel, by decide +kernel, by decide, by decide⟩,
    by decide +kernel, by decide, by decide, by decide +kernel, by decide, by decide, by decide⟩
  rw [if_neg (by decide)]

theorem test_BundlesReadBeforeTheyWrite :
    ∀ a ∈ [7#6, 8#6], Stands1 (pairA a) 0 ∧ encode (.add .d64 7 1 2 false false) = some (.slotS, addW, 0)
      ∧ encode (.sub .d64 a 1 2 false false) = some (.slotS, subW a, 0)
      ∧ (pairA a).fetchBundle 0 ((pairA a).seat 0).pc = .ok ⟨false, 0, 0, [(12, addW, 0), (11, subW a, 0)], 3, false⟩
      ∧ (∀ r ∈ [1#6, 2#6], ((pairA a).seat 0).isEmpty r = false) ∧ ((pairA a).seat 0).destBlocked 7 = false
      ∧ ((pairA a).seat 0).destBlocked a = false := by
  intro a ha
  simp only [List.mem_cons, List.not_mem_nil, or_false] at ha
  rcases ha with rfl | rfl <;>
    exact ⟨stands1_of (by decide +kernel), by decide +kernel, by decide +kernel, fetched_of (by decide +kernel), by decide +kernel, by decide +kernel, by decide +kernel⟩

/-- A state whose memory is canonical and whose step answers a next state. -/
theorem test_StepsKeepMemoryCanonical : Memory.wf (standing [0x00400000, addW] (.bundleIssue 0)).mem = true
    ∧ (match step (standing [0x00400000, addW] (.bundleIssue 0)) with
       | .next t => decide ((t.seat 0).reg 7 = 17)
       | _ => false) = true := by
  decide +kernel

end Sys2Proof.Tests
end

namespace Sys2Proof.Machine

section

-- Hundreds of short proofs at once would take a thread, and its stack, each.
set_option Elab.async false

variable {s t p : State} {e : Env}

/-!
# Every step keeps the canonical form of memory (O59)

That no byte is listed which reads as it would unlisted is the model's own choice of a form for memory (log 4).

All bytes that a step writes go through a few functions: `State.wrBytes`, `State.wipe`, `State.devFill`, `State.moveBytes`,
`State.restoreWindow` and `State.powered`. Each of them leaves memory canonical by the laws of `wrBytes`, `wipe`, `splice` and
`SMap.keep`. Everything else is made of these and of updates that leave memory alone, so the development has one rule for each
function of the model that answers a state, in the order of the model, and each rule follows from those of what the function
calls. A rule about a state is `State.Canonical.f`: `f` of a canonical state is canonical. What carries a state, or a function to
apply to one, has a predicate of its own, defined first, with its rules of composition.
-/

/-! ## What it means to keep the canonical form -/

/-- A change of the state keeps the canonical form of memory. -/
def Keeps (f : State → State) : Prop := ∀ t, t.Canonical → (f t).Canonical

/-- The state that may be answered is canonical. -/
def OptKept (o : Option State) : Prop := ∀ t, o = some t → t.Canonical

/-- The state answered beside a value is canonical. -/
def PairKept {α : Type} (p : α × State) : Prop := ∀ a t, p = (a, t) → t.Canonical

/-- The state that may be answered beside a value is canonical. -/
def OptPairKept {α : Type} (o : Option (α × State)) : Prop := ∀ a t, o = some (a, t) → t.Canonical

/-- The next state of an outcome is canonical. -/
def OutKept (o : Host.Outcome State Fault Refusal) : Prop := ∀ t, o = .next t → t.Canonical

/-- What a slot commits keeps the canonical form. -/
structure Commit.Kept (c : Commit) : Prop where
  act  : Keeps c.act
  post : ∀ f, c.post = some f → Keeps f

/-- Whatever the evaluation of a slot answers keeps the canonical form. -/
structure SlotRes.Kept (r : SlotRes) : Prop where
  ofOk   : ∀ c, r = .ok c → c.Kept
  ofWait : ∀ f, r = .wait f → Keeps f
  ofHold : ∀ f, r = .hold f → Keeps f

/-! ## Rules of composition -/

/-- An update of any parts of the state but its memory. -/
theorem State.Canonical.update {power : Power} {dieCycle free nextId cur curVat chip : Nat} {turn : List Nat}
    {inputs : List Instr} {poison : SMap Bool} {tags spad keySlots : SMap Nat} {seats : SMap Seat} {cores : SMap Core}
    {quads : SMap Quad} {dies : SMap Die} {accs : List Acc} {waits : List Wait} {recs : List Rec} {coaches : List Coach} {ctxs : SMap Ctx}
    {vats : SMap Vat} {ports : SMap Port} {bootCfg : List Byte} {cdi0 cdi1 : BitVec 512} {deviceKey : BitVec 256}
    {aliasCert : Option AliasCert} {curds : List (Nat × Nat × Nat × Option Nat)} {hostOut : List W64}
    {curdTry : List ((Nat × Nat × Nat) × List Byte)} {hostHeld : List (Nat × Nat × W64 × Nat)}
    {hostRing : List (Nat × Nat × BitVec 32 × List Byte)} {hostCmds : List (Nat × Nat × BitVec 32 × List W64)}
    {wire : List (Nat × List Byte)} (h : s.Canonical) :
    State.Canonical
      { power, dieCycle, turn, inputs, free, nextId, cur, curVat, mem := s.mem, poison, tags, seats, cores, quads, dies, accs,
        waits, recs, coaches, ctxs, vats, ports, chip, spad, bootCfg, cdi0, cdi1, deviceKey, aliasCert, keySlots, curds,
        hostOut, curdTry, hostHeld, hostRing, hostCmds, wire } := h

theorem State.Canonical.ite {c : Prop} {_ : Decidable c} (hs : s.Canonical) (ht : t.Canonical) : (if c then s else t).Canonical :=
  iteInduction (fun _ => hs) fun _ => ht

theorem State.Canonical.foldl {α : Type} {f : State → α → State} {l : List α} (hf : ∀ t a, t.Canonical → (f t a).Canonical)
    (h : s.Canonical) : (l.foldl f s).Canonical :=
  List.foldlRecOn l f h fun t ht a _ => hf t a ht

theorem Keeps.id : Keeps id := fun _ h => h

theorem OptKept.none : OptKept none := fun _ e => nomatch e

theorem OptKept.some (h : s.Canonical) : OptKept (some s) := fun _ e => Option.some.inj e ▸ h

theorem OptKept.ite {c : Prop} {_ : Decidable c} {a b : Option State} (ha : OptKept a) (hb : OptKept b) :
    OptKept (if c then a else b) :=
  iteInduction (fun _ => ha) fun _ => hb

theorem OptKept.getD {o : Option State} (ho : OptKept o) (hs : s.Canonical) : (o.getD s).Canonical := by
  cases o with
  | none => exact hs
  | some t => exact ho t rfl

theorem OptKept.findSome? {α : Type} {f : α → Option State} {l : List α} (hf : ∀ a, OptKept (f a)) : OptKept (l.findSome? f) :=
  fun t e => have ⟨a, _, ha⟩ := List.exists_of_findSome?_eq_some e; hf a t ha

theorem OptKept.or {a b : Option State} (ha : OptKept a) (hb : OptKept b) : OptKept (a.or b) := by
  cases a with
  | none => exact hb
  | some t => exact ha

theorem PairKept.mk {α : Type} {a : α} (h : s.Canonical) : PairKept (a, s) := fun _ _ e => (Prod.mk.inj e).2 ▸ h

theorem PairKept.ite {α : Type} {c : Prop} {_ : Decidable c} {a b : α × State} (ha : PairKept a) (hb : PairKept b) :
    PairKept (if c then a else b) :=
  iteInduction (fun _ => ha) fun _ => hb

theorem PairKept.foldl {α β : Type} {f : α × State → β → α × State} {l : List β} {x : α × State}
    (hf : ∀ x b, PairKept x → PairKept (f x b)) (h : PairKept x) : PairKept (l.foldl f x) :=
  List.foldlRecOn l f h fun x hx b _ => hf x b hx

theorem PairKept.snd {α : Type} {p : α × State} (h : PairKept p) : p.2.Canonical := h p.1 p.2 rfl

theorem OptPairKept.none {α : Type} : OptPairKept (none : Option (α × State)) := fun _ _ e => nomatch e

theorem OptPairKept.some {α : Type} {p : α × State} (h : PairKept p) : OptPairKept (some p) :=
  fun a t e => h a t (Option.some.inj e)

theorem OptPairKept.ite {α : Type} {c : Prop} {_ : Decidable c} {a b : Option (α × State)} (ha : OptPairKept a)
    (hb : OptPairKept b) : OptPairKept (if c then a else b) :=
  iteInduction (fun _ => ha) fun _ => hb

theorem OutKept.next (h : s.Canonical) : OutKept (.next s) := fun _ e => Host.Outcome.next.inj e ▸ h

theorem OutKept.fault {r : Fault} : OutKept (.fault r) := fun _ e => nomatch e

theorem OutKept.ite {c : Prop} {_ : Decidable c} {a b : Host.Outcome State Fault Refusal} (ha : OutKept a) (hb : OutKept b) :
    OutKept (if c then a else b) :=
  iteInduction (fun _ => ha) fun _ => hb

/-- A commit with nothing after the back-edge rule. -/
theorem SlotRes.Kept.ok {c : Commit} (ha : Keeps c.act) (hp : c.post = Option.none := by rfl) : (SlotRes.ok c).Kept :=
  ⟨fun _ e => SlotRes.ok.inj e ▸ ⟨ha, fun _ e => nomatch hp.symm.trans e⟩, nofun, nofun⟩

/-- A commit with something after the back-edge rule. -/
theorem SlotRes.Kept.okPost {act f : State → State} {fl : Flags} {npc : Option Addr} {pops : Bool} (ha : Keeps act)
    (hf : Keeps f) : (SlotRes.ok { act, fl, npc, pops, post := some f }).Kept :=
  ⟨fun _ e => SlotRes.ok.inj e ▸ ⟨ha, fun _ e => Option.some.inj e ▸ hf⟩, nofun, nofun⟩

theorem SlotRes.Kept.wait {f : State → State} (h : Keeps f) : (SlotRes.wait f).Kept :=
  ⟨nofun, fun _ e => SlotRes.wait.inj e ▸ h, nofun⟩

theorem SlotRes.Kept.hold {f : State → State} (h : Keeps f) : (SlotRes.hold f).Kept :=
  ⟨nofun, nofun, fun _ e => SlotRes.hold.inj e ▸ h⟩

theorem SlotRes.Kept.freeze : SlotRes.freeze.Kept := ⟨nofun, nofun, nofun⟩

theorem SlotRes.Kept.fault {c : Nat} {va : W64} : (SlotRes.fault c va).Kept := ⟨nofun, nofun, nofun⟩

theorem SlotRes.Kept.ite {c : Prop} {_ : Decidable c} {a b : SlotRes} (ha : a.Kept) (hb : b.Kept) : (if c then a else b).Kept :=
  iteInduction (fun _ => ha) fun _ => hb

/-- What `x` carries under the constructor `C`, the answer of a slot in place of a value, keeps the canonical form. -/
def BadKept {α : Type} (C : SlotRes → α) (x : α) : Prop := ∀ r, x = C r → r.Kept

theorem BadKept.bad {α : Type} {C : SlotRes → α} {r : SlotRes} (h : r.Kept)
    (inj : ∀ r', C r = C r' → r = r' := by exact fun _ e => by cases e; rfl) : BadKept C (C r) := fun r' e => inj r' e ▸ h

theorem BadKept.ok {α : Type} {C : SlotRes → α} {x : α} (ne : ∀ r, x ≠ C r := by exact fun _ => nofun) : BadKept C x :=
  fun r e => absurd e (ne r)

theorem BadKept.ite {α : Type} {C : SlotRes → α} {c : Prop} {_ : Decidable c} {a b : α} (ha : BadKept C a) (hb : BadKept C b) :
    BadKept C (if c then a else b) :=
  iteInduction (fun _ => ha) fun _ => hb

/-- A fetch that waits asks for something that keeps the canonical form. -/
def FetchKept {α : Type} (x : Except FetchErr α) : Prop := ∀ f, x = .error (.wait f) → Keeps f

theorem FetchKept.ok {α : Type} {a : α} : FetchKept (.ok a) := fun _ e => nomatch e

theorem FetchKept.fault {α : Type} {c va : Nat} : FetchKept (.error (.fault c va) : Except FetchErr α) := fun _ e => nomatch e

theorem FetchKept.wait {α : Type} {f : State → State} (h : Keeps f) : FetchKept (.error (.wait f) : Except FetchErr α) :=
  fun _ e => FetchErr.wait.inj (Except.error.inj e) ▸ h

theorem FetchKept.ite {α : Type} {c : Prop} {_ : Decidable c} {a b : Except FetchErr α} (ha : FetchKept a) (hb : FetchKept b) :
    FetchKept (if c then a else b) :=
  iteInduction (fun _ => ha) fun _ => hb

/-- A failed fetch asks for nothing but what keeps the canonical form. -/
def FetchErr.Kept (x : FetchErr) : Prop := ∀ f, x = .wait f → Keeps f

theorem FetchKept.kept {α : Type} {x : Except FetchErr α} {y : FetchErr} (h : FetchKept x) (hx : x = .error y) : y.Kept :=
  fun f hf => h f (hf ▸ hx)

theorem FetchErr.Kept.error {α : Type} {y : FetchErr} (h : y.Kept) : FetchKept (.error y : Except FetchErr α) :=
  fun f hf => h f (Except.error.inj hf)

/-- Whatever an issue comes to is canonical. -/
structure IssueRes.Kept (r : IssueRes) : Prop where
  ofWait : ∀ f, r = .wait f → Keeps f
  ofFlt  : ∀ t, r = .flt t → t.Canonical
  ofGo   : ∀ t, r = .go t → t.Canonical

theorem IssueRes.Kept.held : IssueRes.held.Kept where
  ofWait _ e := nomatch e
  ofFlt _ e := nomatch e
  ofGo _ e := nomatch e

theorem IssueRes.Kept.freeze : IssueRes.freeze.Kept where
  ofWait _ e := nomatch e
  ofFlt _ e := nomatch e
  ofGo _ e := nomatch e

theorem IssueRes.Kept.wait {f : State → State} (h : Keeps f) : (IssueRes.wait f).Kept where
  ofWait _ e := IssueRes.wait.inj e ▸ h
  ofFlt _ e := nomatch e
  ofGo _ e := nomatch e

theorem IssueRes.Kept.flt (h : s.Canonical) : (IssueRes.flt s).Kept where
  ofWait _ e := nomatch e
  ofFlt _ e := IssueRes.flt.inj e ▸ h
  ofGo _ e := nomatch e

theorem IssueRes.Kept.go (h : s.Canonical) : (IssueRes.go s).Kept where
  ofWait _ e := nomatch e
  ofFlt _ e := nomatch e
  ofGo _ e := IssueRes.go.inj e ▸ h

theorem IssueRes.Kept.ite {c : Prop} {_ : Decidable c} {a b : IssueRes} (ha : a.Kept) (hb : b.Kept) : (if c then a else b).Kept :=
  iteInduction (fun _ => ha) fun _ => hb

/-- The state that an array command leaves is canonical. -/
def MRes.Kept (r : MRes) : Prop := ∀ t fl, r = .ok t fl → t.Canonical

theorem MRes.Kept.ok {fl : Flags} (h : s.Canonical) : (MRes.ok s fl).Kept := fun _ _ e => (MRes.ok.inj e).1 ▸ h

theorem MRes.Kept.err {l : Nat} : (MRes.err l).Kept := fun _ _ e => nomatch e

/-- The state in which a command of the firmware leaves the package is canonical. -/
structure CRes.Kept (r : CRes) : Prop where
  ofWait  : ∀ t, r = .wait t → t.Canonical
  ofDone  : ∀ t n w, r = .done t n w → t.Canonical
  ofLater : ∀ t, r = .later t → t.Canonical

theorem CRes.Kept.wait (h : s.Canonical) : (CRes.wait s).Kept where
  ofWait _ e := CRes.wait.inj e ▸ h
  ofDone _ _ _ e := nomatch e
  ofLater _ e := nomatch e

theorem CRes.Kept.done {n : Nat} {w : W64} (h : s.Canonical) : (CRes.done s n w).Kept where
  ofWait _ e := nomatch e
  ofDone _ _ _ e := (CRes.done.inj e).1 ▸ h
  ofLater _ e := nomatch e

theorem CRes.Kept.later (h : s.Canonical) : (CRes.later s).Kept where
  ofWait _ e := nomatch e
  ofDone _ _ _ e := nomatch e
  ofLater _ e := CRes.later.inj e ▸ h

theorem CRes.Kept.ite {c : Prop} {_ : Decidable c} {a b : CRes} (ha : a.Kept) (hb : b.Kept) : (if c then a else b).Kept :=
  iteInduction (fun _ => ha) fun _ => hb

/-- A state in which an access to a queue was put aside is canonical. -/
def AtHome.Kept (r : AtHome) : Prop := ∀ t, r = .away t → t.Canonical

theorem AtHome.Kept.here : AtHome.here.Kept := fun _ e => nomatch e

theorem AtHome.Kept.gone : AtHome.gone.Kept := fun _ e => nomatch e

theorem AtHome.Kept.away (h : s.Canonical) : (AtHome.away s).Kept := fun _ e => AtHome.away.inj e ▸ h

theorem AtHome.Kept.ite {c : Prop} {_ : Decidable c} {a b : AtHome} (ha : a.Kept) (hb : b.Kept) : (if c then a else b).Kept :=
  iteInduction (fun _ => ha) fun _ => hb

/-- A state in which incoming data was put off is canonical. -/
def Place.Kept (r : Place) : Prop := ∀ t, r = .later t → t.Canonical

theorem Place.Kept.ok {h : Held} : (Place.ok h).Kept := fun _ e => nomatch e

theorem Place.Kept.bad {cause va : Nat} : (Place.bad cause va).Kept := fun _ e => nomatch e

theorem Place.Kept.later (h : s.Canonical) : (Place.later s).Kept := fun _ e => Place.later.inj e ▸ h

/-- The state in which a micro-operation leaves the package is canonical. -/
structure MOut.Kept (r : MOut) : Prop where
  ofGo   : ∀ t w, r = .go t w → t.Canonical
  ofStop : ∀ t w y, r = .stop t w y → t.Canonical

theorem MOut.Kept.go {w : MWork} (h : s.Canonical) : (MOut.go s w).Kept where
  ofGo _ _ e := (MOut.go.inj e).1 ▸ h
  ofStop _ _ _ e := nomatch e

theorem MOut.Kept.stop {w : MWork} {y : VStop} (h : s.Canonical) : (MOut.stop s w y).Kept where
  ofGo _ _ e := nomatch e
  ofStop _ _ _ e := (MOut.stop.inj e).1 ▸ h

theorem MOut.Kept.ite {c : Prop} {_ : Decidable c} {a b : MOut} (ha : a.Kept) (hb : b.Kept) : (if c then a else b).Kept :=
  iteInduction (fun _ => ha) fun _ => hb

section ReadWords

variable {ε : Type} {rd : Nat → Except ε W32} {Q : ε → Prop} (h : ∀ i x, rd i = .error x → Q x)
include h

/-- A failure to read syllables is a failure to read one of their words. -/
theorem readSyls_error {ks : List Nat} {i : Nat} {x : ε} (e : readSyls rd ks i = .error x) : Q x := by
  induction ks generalizing i with
  | nil => exact nomatch e
  | cons k ks ih =>
    unfold readSyls at e
    split at e
    next y he => exact Except.error.inj e ▸ h _ _ he
    · split at e
      · split at e
        next y he => exact Except.error.inj e ▸ h _ _ he
        · split at e
          next y he => exact ih (he.trans e)
          · exact nomatch e
      · split at e
        next y he => exact ih (he.trans e)
        · exact nomatch e

theorem readVs_error {ks : List Nat} {i : Nat} {x : ε} (e : readVs rd ks i = .error x) : Q x := by
  fun_induction readVs rd ks i with
  | case1 i => exact nomatch e
  | case2 k i y he => exact Except.error.inj e ▸ h _ _ he
  | case3 k i w he => exact nomatch e
  | case4 k k' ks i y he => exact Except.error.inj e ▸ h _ _ he
  | case5 k k' ks i w he y hy ih => exact ih (hy.trans e)
  | case6 k k' ks i w he l n b hl ih => exact nomatch e

theorem readBundle_error {w : W32} {x : ε} (e : readBundle rd w = .error x) : Q x := by
  unfold readBundle at e
  split at e
  next y he => exact readSyls_error h (he.trans (congrArg _ (Except.error.inj e)))
  · split at e
    next y he => exact readVs_error h (he.trans (congrArg _ (Except.error.inj e)))
    · exact nomatch e

theorem sylWords_error {ks : List Nat} {i : Nat} {x : ε} (e : sylWords rd ks i = .error x) : Q x := by
  induction ks generalizing i with
  | nil => exact nomatch e
  | cons k ks ih =>
    unfold sylWords at e
    split at e
    next y he => exact Except.error.inj e ▸ h _ _ he
    · exact ih e

theorem bundleWords_error {w : W32} {x : ε} (e : bundleWords rd w = .error x) : Q x := by
  unfold bundleWords at e
  split at e
  next y he => exact sylWords_error h (he.trans (congrArg _ (Except.error.inj e)))
  · exact nomatch e

end ReadWords

/-! ## The parts of the state (Machine/Base.lean) -/

theorem State.Canonical.setSeat {i : Nat} {x : Seat} (hs : s.Canonical) : (s.setSeat i x).Canonical := hs.update

theorem State.Canonical.modSeat {i : Nat} {f : Seat → Seat} (hs : s.Canonical) : (s.modSeat i f).Canonical := hs.setSeat

theorem State.Canonical.setCore {i : Nat} {x : Core} (hs : s.Canonical) : (s.setCore i x).Canonical := hs.update

theorem State.Canonical.modCore {i : Nat} {f : Core → Core} (hs : s.Canonical) : (s.modCore i f).Canonical := hs.setCore

theorem State.Canonical.setQuad {i : Nat} {x : Quad} (hs : s.Canonical) : (s.setQuad i x).Canonical := hs.update

theorem State.Canonical.modQuad {i : Nat} {f : Quad → Quad} (hs : s.Canonical) : (s.modQuad i f).Canonical := hs.setQuad

theorem State.Canonical.modArr {i : Nat} {f : Arr → Arr} (hs : s.Canonical) : (s.modArr i f).Canonical := hs.modQuad

theorem State.Canonical.setDie {i : Nat} {x : Die} (hs : s.Canonical) : (s.setDie i x).Canonical := hs.update

theorem State.Canonical.modDie {i : Nat} {f : Die → Die} (hs : s.Canonical) : (s.modDie i f).Canonical := hs.setDie

theorem State.Canonical.setCtx {t : Nat} {x : Ctx} (hs : s.Canonical) : (s.setCtx t x).Canonical := hs.update

theorem State.Canonical.modCtx {t : Nat} {f : Ctx → Ctx} (hs : s.Canonical) : (s.modCtx t f).Canonical := hs.setCtx

theorem State.Canonical.modVat {v : Nat} {f : Vat → Vat} (hs : s.Canonical) : (s.modVat v f).Canonical := hs.update

theorem State.Canonical.modPort {p : Nat} {f : Port → Port} (hs : s.Canonical) : (s.modPort p f).Canonical := hs.update

theorem State.Canonical.modQueue {t h : Nat} {f : Queue → Queue} (hs : s.Canonical) : (s.modQueue t h f).Canonical := hs.modCtx

theorem State.Canonical.freshWord (hs : s.Canonical) : PairKept s.freshWord := .mk hs.update

theorem State.Canonical.freshId (hs : s.Canonical) : PairKept s.freshId := .mk hs.update

theorem State.Canonical.wrBytes {k : Nat} {l : List Byte} (hs : s.Canonical) : (s.wrBytes k l).Canonical := wf_wrBytes hs k l

theorem State.Canonical.wrNat {k n v : Nat} (hs : s.Canonical) : (s.wrNat k n v).Canonical := hs.wrBytes

theorem State.Canonical.wrWord {k : Nat} {w : W64} (hs : s.Canonical) : (s.wrWord k w).Canonical := hs.wrNat

theorem State.Canonical.wipe {k n : Nat} (hs : s.Canonical) : (s.wipe k n).Canonical := wf_wipe hs k n

theorem State.Canonical.askWalk {ctx quad page : Nat} (hs : s.Canonical) : (s.askWalk ctx quad page).Canonical :=
  .ite hs (.ite hs.modDie hs)

theorem State.Canonical.unexpose {id : Nat} (hs : s.Canonical) : (s.unexpose id).Canonical := hs.update

theorem State.Canonical.addFault {d : Nat} {r : FRec} (hs : s.Canonical) : (s.addFault d r).Canonical := hs.modDie

theorem State.Canonical.wantLine {key : Nat} (hs : s.Canonical) : (s.wantLine key).Canonical :=
  .foldl (fun _ _ ht => ht.modDie) hs

theorem State.Canonical.noteHold {d ctx va : Nat} (hs : s.Canonical) : (s.noteHold d ctx va).Canonical := by
  unfold State.noteHold
  extract_lets s1 page
  have h1 : s1.Canonical := by
    dsimp only [s1]
    split
    · exact hs.wantLine
    · exact hs
  split
  · exact .ite h1 (.ite h1 (.ite h1 h1.addFault))

theorem State.Canonical.pageJoin {ctx va : Nat} {t : QTok} (hs : s.Canonical) : (s.pageJoin ctx va t).Canonical :=
  .ite hs.modCtx hs

theorem State.Canonical.seatHold {seat va : Nat} (hs : s.Canonical) : (s.seatHold seat va).Canonical := hs.noteHold.pageJoin

theorem State.Canonical.unitHold {ctx quad va : Nat} {t : QTok} (hs : s.Canonical) : (s.unitHold ctx quad va t).Canonical :=
  .ite hs.askWalk hs.noteHold.pageJoin

/-! ## Words, waits and the home of an access (Machine/Sync.lean) -/

theorem State.Canonical.setCarrWord {ctx carr i : Nat} {w : W64} (hs : s.Canonical) : (s.setCarrWord ctx carr i w).Canonical := by
  unfold State.setCarrWord
  split
  · exact hs.wrWord
  · exact hs

theorem State.Canonical.setCarrState {ctx carr : Nat} {st : CarrSt} (hs : s.Canonical) : (s.setCarrState ctx carr st).Canonical :=
  hs.setCarrWord

theorem State.Canonical.modRec {ctx carr : Nat} {f : Rec → Rec} (hs : s.Canonical) : (s.modRec ctx carr f).Canonical := hs.update

theorem State.Canonical.unpin {ctx carr : Nat} (hs : s.Canonical) : (s.unpin ctx carr).Canonical := hs.modRec.setCarrWord

theorem State.Canonical.setCarr {ctx carr : Nat} {st : CarrSt} (hs : s.Canonical) : (s.setCarr ctx carr st).Canonical :=
  hs.modRec.setCarrState

theorem State.Canonical.wake {ctx carr : Nat} {deliver : Option (Nat × W64)} (hs : s.Canonical) :
    (s.wake ctx carr deliver).Canonical := by
  unfold State.wake
  split
  · extract_lets s1
    have h1 : s1.Canonical := by
      dsimp only [s1]
      split
      · exact hs.setCarrWord
      · exact hs
    exact .ite h1.setCarr hs
  · exact hs

theorem State.Canonical.satisfy {xs : List Wait} {w : W64} (hs : s.Canonical) : (s.satisfy xs w).Canonical :=
  .foldl (fun _ _ ht => ht.wake.update) hs

theorem State.Canonical.checkWaits {k n : Nat} (hs : s.Canonical) : (s.checkWaits k n).Canonical :=
  .foldl (fun _ _ ht => ht.satisfy) hs

theorem State.Canonical.dropTrig {d : Nat} {t : Trig} (hs : s.Canonical) : (s.dropTrig d t).Canonical := hs.modDie

theorem State.Canonical.fire {d : Nat} {t : Trig} {h : Option Held} (hs : s.Canonical) : (s.fire d t h).Canonical :=
  hs.dropTrig.modDie

theorem State.Canonical.freeOwnedAt {own key : Nat} (hs : s.Canonical) : (freeOwnedAt s own key).Canonical := .ite hs hs.modSeat

theorem State.Canonical.freeListed {key : Nat} {keep : Nat → Bool} (hs : s.Canonical) : (freeListed s key keep).Canonical :=
  hs.update

theorem State.Canonical.releaseAt {fuel : Nat} {role : Role} {key cause reason : Nat} (hs : s.Canonical) :
    (releaseAt fuel s role key cause reason).Canonical := by
  induction fuel generalizing s role key cause reason with
  | zero => exact hs
  | succ fuel ih =>
    unfold Machine.releaseAt
    extract_lets old new bad s1 s2 s3 act
    have h1 : s1.Canonical := .ite hs hs.wrWord
    have h3 : s3.Canonical := .satisfy (.ite h1.freeOwnedAt h1)
    refine .ite h3 (.foldl (fun s t hs => ?_) h3)
    split
    · exact hs
    · exact hs.fire
    · exact hs.dropTrig
    · split
      · extract_lets s4
        split
        · exact ih hs.dropTrig
        · exact hs.dropTrig
      · exact hs.dropTrig

theorem State.Canonical.errRelease {role : Role} {key cause reason : Nat} (hs : s.Canonical) :
    (s.errRelease role key cause reason).Canonical :=
  hs.releaseAt

theorem State.Canonical.errReleaseVa {ctx : Nat} {role : Role} {va cause reason : Nat} (hs : s.Canonical) :
    (s.errReleaseVa ctx role va cause reason).Canonical := by
  unfold State.errReleaseVa
  split
  · exact hs.errRelease
  · exact hs

theorem State.Canonical.cancelTrig {t : Trig} {cause : Nat} (hs : s.Canonical) : (s.cancelTrig t cause).Canonical := by
  unfold State.cancelTrig
  split
  · exact hs.errReleaseVa
  · exact hs

theorem State.Canonical.doTrig {d : Nat} {t : Trig} {x : TrigDo} (hs : s.Canonical) : (s.doTrig d t x).Canonical := by
  unfold State.doTrig
  split
  · exact hs
  · exact hs.fire
  · exact hs.dropTrig
  · exact hs.dropTrig.cancelTrig

theorem State.Canonical.armTrig {d : Nat} {t : Trig} (hs : s.Canonical) : (s.armTrig d t).Canonical := hs.modDie.doTrig

theorem State.Canonical.checkTrigs {k n : Nat} (hs : s.Canonical) : (s.checkTrigs k n).Canonical :=
  .foldl (fun _ _ ht => ht.doTrig) hs

theorem State.Canonical.apply {k : Nat} {l : List Byte} (hs : s.Canonical) : (s.apply k l).Canonical :=
  .ite hs hs.wrBytes.checkWaits.checkTrigs

theorem State.Canonical.applyWord {k : Nat} {w : W64} (hs : s.Canonical) : (s.applyWord k w).Canonical := hs.apply

theorem State.Canonical.arrive {key : Nat} (hs : s.Canonical) : PairKept (s.arrive key) :=
  .mk (.ite (.ite hs.freeOwnedAt hs) (.applyWord (.ite hs.freeOwnedAt hs)))

theorem State.Canonical.addCompletion {key amount : Nat} (hs : s.Canonical) : (s.addCompletion key amount).Canonical :=
  .ite hs.errRelease hs.applyWord

theorem State.Canonical.arriveCompletion {key : Nat} (hs : s.Canonical) : (s.arriveCompletion key).Canonical :=
  .ite hs.errRelease hs.arrive.snd

theorem State.Canonical.devPut {ctx va : Nat} {w : W64} (hs : s.Canonical) : (s.devPut ctx va w).Canonical := by
  unfold State.devPut
  split
  · exact hs.wrWord
  · exact hs

theorem State.Canonical.devFill {ctx va n : Nat} {f : Nat → Byte} (hs : s.Canonical) : (s.devFill ctx va n f).Canonical := by
  refine .foldl (fun s a hs => ?_) hs
  split
  · exact wf_splice hs _ _ _
  · exact hs

/-! ## Records of carriages (Machine/Record.lean) -/

theorem State.Canonical.logAdd {ctx d kind units : Nat} {l : List Byte} (hs : s.Canonical) :
    (s.logAdd ctx d kind units l).Canonical :=
  .ite hs (.ite hs.modCtx (.modCtx (.foldl (fun _ _ ht => ht.devPut) hs)))

theorem State.Canonical.met {ctx : Nat} {e : Nat × List W64} (hs : s.Canonical) : (s.met ctx e).Canonical := hs.modCtx

theorem State.Canonical.hostLog {ctx kind : Nat} {a b : W64} {dg : List W64} (hs : s.Canonical) :
    (s.hostLog ctx kind a b dg).Canonical := by
  unfold State.hostLog
  extract_lets c
  refine .ite ?_ hs.logAdd
  split
  · exact .ite hs.met hs.modCtx
  · exact hs

theorem State.Canonical.logAt {ctx d line : Nat} {agent : W64} (hs : s.Canonical) : (s.logAt ctx d line agent).Canonical := by
  unfold State.logAt
  refine .ite ?_ (.ite hs.logAdd hs)
  split
  · exact .ite hs.met hs
  · exact hs

theorem State.Canonical.keyLog {ctx key : Nat} {agent : W64} (hs : s.Canonical) : (s.keyLog ctx key agent).Canonical := hs.logAt

theorem State.Canonical.queueLog {ctx h : Nat} {agent : W64} (hs : s.Canonical) : (s.queueLog ctx h agent).Canonical := hs.logAt

theorem State.Canonical.logOrder {a : Acc} (hs : s.Canonical) : (s.logOrder a).Canonical := by
  unfold State.logOrder
  refine .ite hs ?_
  split
  · exact hs.keyLog
  · exact hs.queueLog

/-! ## Tiles (Machine/Tiles.lean) -/

theorem State.Canonical.setTState {key st : Nat} (hs : s.Canonical) : (s.setTState key st).Canonical := hs.wrWord

theorem State.Canonical.tileTest {key : Nat} (hs : s.Canonical) : (s.tileTest key).Canonical := by
  unfold State.tileTest
  split
  · exact hs
  · exact .ite (.ite hs.setTState.update (.ite hs.setTState hs)) hs

theorem State.Canonical.addCount {key amount : Nat} (hs : s.Canonical) : (s.addCount key amount).Canonical :=
  hs.addCompletion.tileTest

theorem State.Canonical.dropCurd {ctx quad i : Nat} (hs : s.Canonical) : (s.dropCurd ctx quad i).Canonical := by
  unfold State.dropCurd
  extract_lets mine s1
  refine .foldl (fun s c ht => ?_) hs.update
  split
  · exact ht.modDie
  · exact ht

/-! ## Queues (Machine/Queue.lean) -/

theorem State.Canonical.qMiss {ctx h : Nat} (hs : s.Canonical) : (s.qMiss ctx h).Canonical := .ite hs.modQueue.modDie hs

theorem State.Canonical.qTouch {ctx h : Nat} (hs : s.Canonical) : (s.qTouch ctx h).Canonical := hs.modQueue

theorem State.Canonical.qHold {ctx h : Nat} {t : QTok} (hs : s.Canonical) : (s.qHold ctx h t).Canonical := hs.qMiss.modQueue

theorem State.Canonical.qEnter {ctx h : Nat} {t : QTok} (hs : s.Canonical) : (s.qEnter ctx h t).Canonical := hs.modQueue

theorem State.Canonical.qServe {ctx h : Nat} (hs : s.Canonical) : (s.qServe ctx h).Canonical := by
  unfold State.qServe
  extract_lets q
  refine .ite ?_ hs
  split
  · exact hs.update.modQueue.wake
  · exact hs

theorem State.Canonical.publishGo {fuel : Nat} {ctx h : Nat} (hs : s.Canonical) : (publishGo fuel s ctx h).Canonical := by
  induction fuel generalizing s with
  | zero => exact hs
  | succ fuel ih => exact .ite (ih hs.modQueue.qServe) hs

theorem State.Canonical.qPublish {ctx h : Nat} (hs : s.Canonical) : (s.qPublish ctx h).Canonical := hs.publishGo

theorem State.Canonical.qRes {ctx h carr : Nat} (hs : s.Canonical) : PairKept (s.qRes ctx h carr) :=
  .ite (.mk hs) (.mk hs.modQueue)

theorem State.Canonical.qCommit {ctx h : Nat} {k : BitVec 32} (hs : s.Canonical) : (s.qCommit ctx h k).Canonical :=
  .ite hs.modQueue hs.modQueue.qPublish

theorem State.Canonical.qRelease {ctx h : Nat} {k : BitVec 32} (hs : s.Canonical) : (s.qRelease ctx h k).Canonical :=
  .ite hs.modQueue hs.modQueue

theorem State.Canonical.qTake {ctx h : Nat} (hs : s.Canonical) : PairKept (s.qTake ctx h) := .ite (.mk hs) (.mk hs.modQueue)

theorem State.Canonical.qPut {ctx h : Nat} {agent : W64} {l : List Byte} (hs : s.Canonical) : OptKept (s.qPut ctx h agent l) :=
  .ite (.some (.qCommit (.apply hs.queueLog.qRes.snd))) .none

theorem State.Canonical.qFill {ctx h : Nat} {agent : W64} {k : BitVec 32} {l : List Byte} (hs : s.Canonical) :
    OptKept (s.qFill ctx h agent k l) :=
  .ite (.some hs.queueLog.apply.qCommit) .none

theorem State.Canonical.qVoid {ctx h k : Nat} (hs : s.Canonical) : (s.qVoid ctx h k).Canonical := by
  unfold State.qVoid
  exact hs.queueLog.apply.qCommit

theorem State.Canonical.qVoidAll {ctx carr : Nat} (hs : s.Canonical) : (s.qVoidAll ctx carr).Canonical :=
  .foldl (fun _ _ ht => .foldl (fun _ _ ht1 => ht1.qVoid) ht) hs

/-! ## Launches and coaches (Machine/Launch.lean) -/

theorem State.Canonical.modLent {d ctx lid : Nat} {f : LEnt → LEnt} (hs : s.Canonical) : (s.modLent d ctx lid f).Canonical :=
  hs.modDie

theorem State.Canonical.carrAlloc {ctx n : Nat} (hs : s.Canonical) : OptPairKept (s.carrAlloc ctx n) := by
  unfold State.carrAlloc
  extract_lets c
  split
  · exact .none
  · exact .some (.mk hs.modCtx)

theorem State.Canonical.carrFree {ctx carr : Nat} (hs : s.Canonical) : (s.carrFree ctx carr).Canonical := hs.modCtx

theorem State.Canonical.newCarr {d : Nat} {e : LEnt} {carr : Nat} {kind : BitVec 2} {wid : W64} {coach : Option Nat}
    {member : Nat} (hs : s.Canonical) : (s.newCarr d e carr kind wid coach member).Canonical :=
  .update (.foldl (fun _ _ ht => ht.setCarrWord) hs.setCarrWord.setCarrWord)

theorem State.Canonical.createOne {d : Nat} {e : LEnt} (hs : s.Canonical) : OptKept (s.createOne d e) := by
  unfold State.createOne
  extract_lets p v per n v1 kind
  refine .ite .none (.ite (.ite .none ?_) (.ite .none ?_))
  · split
    · exact .none
    next he =>
      extract_lets first idx s2 w0 s3 s4 s5 s6 s7 s8 c s9
      have h2 : s2.Canonical := .update (hs.carrAlloc _ _ he)
      have h4 : s4.Canonical := h2.setCarrWord.setCarrWord
      have h6 : s6.Canonical := h4.setCarrWord.setCarrWord
      have h7 : s7.Canonical := .foldl (fun _ _ ht => ht.setCarrWord) h6
      have h8 : s8.Canonical := .foldl (fun _ _ ht => ht.newCarr) h7
      exact .some h8.update.modLent
  · split
    · exact .none
    next he => exact .some (.modLent (.newCarr (hs.carrAlloc _ _ he)))

theorem State.Canonical.createGo {fuel : Nat} {d ctx lid : Nat} (hs : s.Canonical) : (createGo fuel s d ctx lid).Canonical := by
  induction fuel generalizing s with
  | zero => exact hs
  | succ fuel ih =>
    rw [Machine.createGo]
    split
    · refine .ite ?_ hs
      split
      next t ht => exact ih (hs.createOne _ ht)
      · exact hs
    · exact hs

theorem State.Canonical.create {d ctx lid : Nat} (hs : s.Canonical) : (s.create d ctx lid).Canonical := hs.createGo

theorem State.Canonical.modRind {d ctx lid : Nat} {f : Rind → Rind} (hs : s.Canonical) : (s.modRind d ctx lid f).Canonical :=
  hs.modDie

theorem State.Canonical.fireLine {d ctx lid l : Nat} (hs : s.Canonical) : (s.fireLine d ctx lid l).Canonical := by
  unfold State.fireLine
  split
  · extract_lets x
    refine .ite ?_ hs
    split
    · exact hs
    next he2 => exact .modRind (.modLent (.newCarr (hs.carrAlloc _ _ he2)))
  · exact hs

theorem State.Canonical.fireAll {d ctx lid : Nat} (hs : s.Canonical) : (s.fireAll d ctx lid).Canonical := by
  unfold State.fireAll
  split
  · exact .foldl (fun _ _ ht => ht.fireLine) hs
  · exact hs

theorem State.Canonical.createDue {d : Nat} (hs : s.Canonical) : (s.createDue d).Canonical :=
  .foldl (fun _ _ ht => .ite ht (.ite ht.fireAll (.ite ht.create ht))) hs

theorem State.Canonical.rindPut {p : LPacket} {d off n v : Nat} (hs : s.Canonical) : (s.rindPut p d off n v).Canonical := by
  unfold State.rindPut
  split
  · exact hs.wrNat
  · exact hs

theorem State.Canonical.setCount {d ctx lid l v : Nat} (hs : s.Canonical) : (s.setCount d ctx lid l v).Canonical := by
  unfold State.setCount
  split
  · exact hs
  · extract_lets s1
    refine .ite ?_ hs.modRind.fireAll
    split
    · exact hs.modRind.rindPut
    · dsimp only [s1]
      exact hs.modRind

theorem State.Canonical.pointDone {d ctx lid carr : Nat} (hs : s.Canonical) : (s.pointDone d ctx lid carr).Canonical := by
  unfold State.pointDone
  split
  · exact hs
  · split
    · exact hs
    · exact .ite (.setCount (.foldl (fun _ _ ht => ht.modDie) hs.modRind)) hs.modRind

theorem State.Canonical.saveRind {d : Nat} {e : LEnt} {r : Rind} (hs : s.Canonical) : (s.saveRind d e r).Canonical := by
  unfold State.saveRind
  extract_lets p nl base s1 s2 s3 s4 s5 s6 pts s7
  have h2 : s2.Canonical := hs.rindPut.rindPut
  have h4 : s4.Canonical := h2.rindPut.rindPut
  have h5 : s5.Canonical := .foldl (fun _ _ ht => ht.rindPut) h4
  have h6 : s6.Canonical := .foldl (fun _ _ ht => ht.rindPut) h5
  have h7 : s7.Canonical := .foldl (fun _ _ ht => ht.rindPut.rindPut) h6
  exact h7.modRind

theorem State.Canonical.evictRind {d ctx lid : Nat} (hs : s.Canonical) : (s.evictRind d ctx lid).Canonical :=
  .foldl (fun _ _ ht => ht.modSeat) hs.modRind

theorem State.Canonical.rindSaves {d : Nat} (hs : s.Canonical) : (s.rindSaves d).Canonical := by
  unfold State.rindSaves
  refine .foldl (fun s r ht => .ite ?_ ht) hs
  split
  · exact ht.saveRind
  · exact ht

theorem State.Canonical.takeRind {d : Nat} {e : LEnt} (hs : s.Canonical) : (s.takeRind d e).Canonical := by
  unfold State.takeRind
  refine .ite hs.modRind.fireAll ?_
  extract_lets worse
  split
  · exact hs
  · exact hs.evictRind.rindSaves

theorem State.Canonical.notify {d : Nat} {e : LEnt} {fin : Bool} (hs : s.Canonical) : (s.notify d e fin).Canonical :=
  .foldl (fun _ _ ht => ht.modDie) hs

theorem State.Canonical.moveOne {d : Nat} {e : LEnt} (hs : s.Canonical) : OptKept (s.moveOne d e) := by
  unfold State.moveOne
  split
  · extract_lets s1 s2 s3
    have h2 : s2.Canonical := hs.modLent.modDie
    refine .ite (.ite ?_ (.some h2.create)) .none
    split
    · exact .some (.ite h2.modDie h2.modDie.takeRind)
    · exact .some h2.modDie
  · exact .ite (.some hs.modLent.modDie.notify) .none
  · exact .ite (.some hs.modLent.modDie.modDie) .none
  · exact .none

theorem State.Canonical.settleGo {fuel : Nat} {d : Nat} (hs : s.Canonical) : (settleGo fuel s d).Canonical := by
  induction fuel generalizing s with
  | zero => exact hs
  | succ fuel ih =>
    rw [Machine.settleGo]
    split
    next t he => exact ih (OptKept.findSome? (fun _ => hs.moveOne) t he)
    · exact hs

theorem State.Canonical.writeClasses {d : Nat} (hs : s.Canonical) : (s.writeClasses d).Canonical :=
  .foldl (fun _ _ ht => .ite ht ht.setCarrWord) (.foldl (fun _ _ ht => .ite ht ht.setCarrWord) hs)

theorem State.Canonical.settle {d : Nat} (hs : s.Canonical) : (s.settle d).Canonical := hs.modDie.settleGo.writeClasses

theorem State.Canonical.putCoach {c : Coach} (hs : s.Canonical) : (s.putCoach c).Canonical := hs.setCarrWord

theorem State.Canonical.modCoach {i : Nat} {f : Coach → Coach} (hs : s.Canonical) : (s.modCoach i f).Canonical := hs.update

theorem State.Canonical.coachGone {i : Nat} (hs : s.Canonical) : (s.coachGone i).Canonical := by
  unfold State.coachGone
  split
  · exact hs
  · exact .ite (.modCtx (.foldl (fun _ _ ht => ht.modSeat) hs.putCoach.update)) (.carrFree (.modCtx (.foldl
      (fun _ _ ht => ht.modSeat) hs.putCoach.update)))

theorem State.Canonical.recGone {ctx carr : Nat} {cancelled : Bool} (hs : s.Canonical) :
    (s.recGone ctx carr cancelled).Canonical := by
  unfold State.recGone
  split
  · exact hs
  · extract_lets s1 s2 s3 s4 s5 s6
    have h2 : s2.Canonical := hs.setCarr.update
    have h3 : s3.Canonical := .ite h2 h2.carrFree
    have h5 : s5.Canonical := h3.modLent.pointDone
    have h6 : s6.Canonical := by
      dsimp only [s6]
      split
      · exact .ite h5 h5.coachGone
      · exact h5
    exact h6.create.settle

/-! ## Page walks (Machine/Walk.lean) -/

theorem State.Canonical.modSq {seat i : Nat} {f : Stream → Stream} (hs : s.Canonical) : (s.modSq seat i f).Canonical := hs.modSeat

/-! ## The matrix array (Machine/Array.lean) -/

theorem State.Canonical.endRun {quad carr : Nat} (hs : s.Canonical) : (s.endRun quad carr).Canonical := .ite hs.modArr hs

theorem State.Canonical.endRunSeat {seat : Nat} (hs : s.Canonical) : (s.endRunSeat seat).Canonical := hs.endRun.modSeat

theorem State.Canonical.settleFree {quad ctx carr : Nat} (hs : s.Canonical) : (s.settleFree quad ctx carr).Canonical :=
  .ite hs.modArr.modRec.update hs

theorem State.Canonical.countCmd {seat cyc : Nat} (hs : s.Canonical) : (s.countCmd seat cyc).Canonical := by
  unfold State.countCmd
  exact .ite (.ite hs.modArr.modSeat.modSeat.modSeat hs.modArr.modSeat.modSeat)
    (.ite hs.modArr.modSeat.modSeat.endRunSeat hs.modArr.modSeat.modSeat)

theorem State.Canonical.applyPieces {ps : List (Nat × List Byte)} (hs : s.Canonical) : (s.applyPieces ps).Canonical :=
  .update (.foldl (fun _ _ ht => ht.apply) hs)

theorem State.Canonical.setTagSecs {f : Nat → Nat} {swz : Nat} {secs : List Nat} (hs : s.Canonical) :
    (s.setTagSecs f swz secs).Canonical :=
  .foldl (fun _ _ ht => .ite ht.update ht) hs

theorem State.Canonical.setTags {f : Nat → Nat} {swz va n : Nat} (hs : s.Canonical) : (s.setTags f swz va n).Canonical :=
  hs.setTagSecs

theorem State.Canonical.engineWrite {ctx : Nat} {refs : Held} {swz va : Nat} {l : List Byte} (hs : s.Canonical) :
    (s.engineWrite ctx refs swz va l).Canonical :=
  hs.setTags.applyPieces

theorem State.Canonical.frontWrite {ctx : Nat} {refs : Held} {swz va : Nat} {l : List Byte} (hs : s.Canonical) :
    (s.frontWrite ctx refs swz va l).Canonical :=
  hs.setTags.applyPieces

theorem State.Canonical.doMma {quad ctx zd : Nat} {a : MSrc} {c fa : Nat} {sa : Bool} {bt : Tile} {int : Bool}
    (hs : s.Canonical) : (s.doMma quad ctx zd a c fa sa bt int).Kept := by
  unfold State.doMma
  split
  · exact .err
  · exact .err
  · split
    · extract_lets rb p
      split
      · exact .ok hs.modArr

theorem State.Canonical.doMmas {quad ctx zd : Nat} {a : MSrc} {c fa : Nat} {sa : Bool} {bt : Tile} {int : Bool} {md seg : Nat}
    {g8 : Bool} (hs : s.Canonical) : (s.doMmas quad ctx zd a c fa sa bt int md seg g8).Kept := by
  unfold State.doMmas
  split
  · exact .err
  · exact .err
  · extract_lets ar ra rb p
    split
    · split
      · exact .ok hs.modArr

theorem State.Canonical.tileWrite {ctx : Nat} {t : Tile} {r : Nat} {codes : List Nat} (hs : s.Canonical) :
    (s.tileWrite ctx t r codes).Canonical :=
  .ite hs.applyPieces (.foldl (fun _ _ ht => .foldl (fun _ _ ht1 => ht1.apply) ht) hs)

theorem State.Canonical.tileWrites {ctx : Nat} {t : Tile} {out : List (List Nat × Nat)} (hs : s.Canonical) :
    (s.tileWrites ctx t out).Canonical :=
  .foldl (fun _ _ ht => ht.tileWrite) hs.setTagSecs

theorem State.Canonical.doCmpr {quad ctx : Nat} {dst src : MSrc} {c fmt : Nat} {scaled : Bool} {md seg : Nat} {g8 : Bool}
    (hs : s.Canonical) : (s.doCmpr quad ctx dst src c fmt scaled md seg g8).Kept := by
  unfold State.doCmpr
  split
  · exact .err
  · extract_lets ar rows scs out w put s1
    split
    · exact .ok hs.modArr.modArr
    · exact .ok hs.modArr.tileWrites
    · exact .ok hs.modArr

theorem State.Canonical.doHld {quad ctx : Nat} {refs : Held} {h va pitch swz : Nat} {scl : Option Addr} (hs : s.Canonical) :
    (s.doHld quad ctx refs h va pitch swz scl).Kept := by
  unfold State.doHld
  extract_lets row put
  split
  · exact .err
  · split
    · exact .ok (.foldl (fun _ _ ht => ht.modArr) hs)
    · split
      · exact .err
      · exact .ok (.modArr (.foldl (fun _ _ ht => ht.modArr) hs))

theorem State.Canonical.doMdld {quad ctx : Nat} {refs : Held} {md va : Nat} (hs : s.Canonical) :
    (s.doMdld quad ctx refs md va).Kept := by
  unfold State.doMdld
  split
  · exact .err
  · exact .ok hs.modArr

theorem State.Canonical.runM {quad : Nat} {c : MCmd} (hs : s.Canonical) : (s.runM quad c).Kept := by
  unfold State.runM
  split
  · exact .ok hs.modArr
  · exact .ok hs.modArr
  · exact .ok hs.modArr
  · exact hs.doHld
  · exact hs.doMma
  · exact hs.doMmas
  · exact hs.doCmpr
  · exact hs.doMdld
  · exact .ok hs
  · exact .ok hs.modArr
  · exact .ok hs
  · exact .ok hs
  · exact .ok hs

theorem State.Canonical.writeOut {o : ArrOut} (hs : s.Canonical) : (s.writeOut o).Canonical := by
  unfold State.writeOut
  refine .foldl (fun s w ht => ?_) hs
  split
  · exact ht.frontWrite
  · exact ht.engineWrite

theorem State.Canonical.orFlags {ctx carr : Nat} {fl : Flags} (hs : s.Canonical) : (s.orFlags ctx carr fl).Canonical := by
  unfold State.orFlags
  refine .ite hs ?_
  split
  · exact hs.modSeat
  · exact hs

/-! ## The network engine (Machine/Net.lean) -/

theorem State.Canonical.toEgress {port : Nat} {f : EFrame} (hs : s.Canonical) : (s.toEgress port f).Canonical := hs.modPort

theorem State.Canonical.emit {d ctx : Nat} {p : Pkt} (hs : s.Canonical) : (s.emit d ctx p).Canonical :=
  .ite hs.modDie (.ite hs hs.update.toEgress)

theorem State.Canonical.modConn {d : Nat} {out : Bool} {id : W32} {f : Conn → Conn} (hs : s.Canonical) :
    (s.modConn d out id f).Canonical :=
  hs.modDie

theorem State.Canonical.openConn {d : Nat} {out : Bool} {id : W32} {gen : BitVec 24} (hs : s.Canonical) :
    (s.openConn d out id gen).Canonical := by
  unfold State.openConn
  exact .modDie (.ite hs hs.modDie.modDie)

theorem State.Canonical.dropSent {f : Sent → Bool} (hs : s.Canonical) : (s.dropSent f).Canonical :=
  .foldl (fun _ _ ht => ht.modDie) hs

theorem State.Canonical.sendOn {d ctx : Nat} {c : Conn} {p : Pkt} {wr : Nat} (hs : s.Canonical) :
    (s.sendOn d ctx c p wr).Canonical := by
  unfold State.sendOn
  split
  next he => exact .emit (.modConn (hs.freshId _ _ he))

theorem State.Canonical.newMsg {d : Nat} {c : Conn} (hs : s.Canonical) : PairKept (s.newMsg d c) := .mk hs.modConn

theorem State.Canonical.askKey {d ctx : Nat} {ptr : W64} (hs : s.Canonical) : (s.askKey d ctx ptr).Canonical := by
  unfold State.askKey
  extract_lets w s1 id s2
  have h2 : s2.Canonical := hs.modDie.openConn
  refine .ite hs ?_
  split
  · exact h2
  · exact h2.sendOn

theorem State.Canonical.cancelWreq {d : Nat} {w : WReq} {cause : Nat} (hs : s.Canonical) : (s.cancelWreq d w cause).Canonical :=
  .ite hs.modDie.dropSent.openConn.emit hs.modDie.dropSent

theorem State.Canonical.retireConns {d ctx : Nat} (hs : s.Canonical) : (s.retireConns d ctx).Canonical := hs.modDie.modDie

/-! ## Containment (Machine/Contain.lean) -/

theorem State.Canonical.poolFree {ctx carr : Nat} (hs : s.Canonical) : (s.poolFree ctx carr).Canonical := by
  unfold State.poolFree
  split
  · split
    · exact hs.modCtx.modRec
    · exact hs
  · exact hs

theorem State.Canonical.freeSeat {seat : Nat} {saved : Bool} (hs : s.Canonical) : (s.freeSeat seat saved).Canonical := by
  unfold State.freeSeat
  extract_lets x s1 s2 base s3
  have h1 : s1.Canonical := .ite hs hs.poolFree
  have h3 : s3.Canonical := h1.modCore.setSeat
  split
  · exact h3.update
  · exact h1.modCore.setSeat

theorem State.Canonical.addLog {d ctx : Nat} {e : Entry} (hs : s.Canonical) : (s.addLog d ctx e).Canonical := hs.modDie

theorem State.Canonical.logItem {d ctx : Nat} {i : LogItem} (hs : s.Canonical) : (s.logItem d ctx i).Canonical := hs.modDie.addLog

theorem State.Canonical.finishCut {quad : Nat} {c : MCmd} (hs : s.Canonical) : (s.finishCut quad c).Canonical := by
  unfold State.finishCut
  split
  · exact hs.writeOut
  · split
    next he1 => exact hs.runM _ _ he1
    · exact hs

theorem State.Canonical.releaseTrans {t : Trans} {cause reason : Nat} (hs : s.Canonical) :
    (s.releaseTrans t cause reason).Canonical := by
  unfold State.releaseTrans
  split
  · exact hs.errRelease
  · exact hs

theorem State.Canonical.dropTrans {quad : Nat} {t : Trans} (hs : s.Canonical) : (s.dropTrans quad t).Canonical :=
  .foldl (fun _ _ ht => ht.modDie) hs.modQuad

theorem State.Canonical.discard {p : Acc → Bool} (hs : s.Canonical) : (s.discard p).Canonical := hs.update

theorem State.Canonical.cancelTrans {d ctx carr cause : Nat} (hs : s.Canonical) : (s.cancelTrans d ctx carr cause).Canonical :=
  .foldl (fun _ _ ht => ht.dropTrans.releaseTrans.logItem) hs

theorem State.Canonical.cancelArr {d quad ctx carr cause : Nat} (hs : s.Canonical) :
    (s.cancelArr d quad ctx carr cause).Canonical := by
  unfold State.cancelArr
  exact .endRun (.modArr (.modArr (.foldl (fun _ _ ht => .ite ht.unexpose.finishCut ht.unexpose.logItem) (.foldl
    (fun _ _ ht => ht.writeOut.unexpose) hs))))

theorem State.Canonical.cancelReqs {d ctx carr cause : Nat} (hs : s.Canonical) : (s.cancelReqs d ctx carr cause).Canonical :=
  .foldl (fun _ _ ht => .logItem (.ite ht.cancelWreq ht.cancelWreq.errReleaseVa)) hs

theorem State.Canonical.cancelStreams {d seat ctx carr cause : Nat} (hs : s.Canonical) :
    (s.cancelStreams d seat ctx carr cause).Canonical := by
  unfold State.cancelStreams
  exact .foldl (fun _ _ ht => .ite (.logItem (.foldl (fun _ _ ht1 => ht1.unexpose) ht.modSeat)) (.foldl
    (fun _ _ ht1 => ht1.unexpose) ht.modSeat)) hs

theorem State.Canonical.releaseOwned {seat cause : Nat} (hs : s.Canonical) : (s.releaseOwned seat cause).Canonical := by
  unfold State.releaseOwned
  extract_lets x
  refine .foldl (fun s a ht => ?_) hs
  split
  · exact .ite ht.errRelease ht
  · exact ht

theorem State.Canonical.cancelCarr {ctx carr cause va n : Nat} (hs : s.Canonical) :
    (s.cancelCarr ctx carr cause va n).Canonical :=
  hs.discard.update.qVoidAll.unpin.setCarrWord.recGone

theorem State.Canonical.containSeat {seat cause va : Nat} {launch : Option Nat} (hs : s.Canonical) :
    (s.containSeat seat cause va launch).Canonical := by
  unfold State.containSeat
  extract_lets x d n0 s1 s2 s3 s4 s5 s6 n s7 s8
  have h1 : s1.Canonical := hs.cancelStreams
  have h3 : s3.Canonical := h1.cancelTrans.cancelArr
  have h5 : s5.Canonical := by
    dsimp only [s5]
    split
    · exact h3.cancelReqs.logItem
    · dsimp only [s4]
      exact h3.cancelReqs
  have h6 : s6.Canonical := h5.releaseOwned
  have h8 : s8.Canonical := h6.poolFree.cancelCarr
  exact .ite hs h8.freeSeat.rindSaves

theorem State.Canonical.containOff {ctx carr cause va : Nat} (hs : s.Canonical) : (s.containOff ctx carr cause va).Canonical := by
  unfold State.containOff
  split
  · exact hs
  · extract_lets n0 quad s1 s2 s3 n
    have h2 : s2.Canonical := by
      dsimp only [s2]
      clear_value quad
      split
      · exact hs.cancelTrans.cancelArr
      · dsimp only [s1]
        exact hs.cancelTrans
    exact h2.cancelReqs.poolFree.cancelCarr

theorem State.Canonical.freeWindows {ctx : Nat} (hs : s.Canonical) : (s.freeWindows ctx).Canonical :=
  .update (.modCtx (.foldl (fun _ _ ht => .ite ht ht.wipe) hs))

theorem State.Canonical.overtaken {k : Cmd} (hs : s.Canonical) : (s.overtaken k).Canonical := .ite hs hs.modDie

theorem State.Canonical.killCtx {ctx reason : Nat} {seat : Option Nat} {cause : Nat} {va : W64} (hs : s.Canonical) :
    (s.killCtx ctx reason seat cause va).Canonical := by
  unfold State.killCtx
  extract_lets er seats s1 s2 s3 s4 recs s5 s6 s7 s8 s9 s10 s11
  have h1 : s1.Canonical := by
    dsimp only [s1]
    split
    · exact hs.overtaken
    · exact hs
  have h3 : s3.Canonical := .foldl (fun _ _ ht => ht.modDie) h1.modCtx
  have h4 : s4.Canonical := .foldl (fun _ _ ht => ht.containSeat) h3
  have h5 : s5.Canonical := .foldl (fun _ _ ht => ht.containOff) h4
  have h6 : s6.Canonical := .foldl (fun _ _ ht => ht.coachGone) h5
  have h8 : s8.Canonical := h6.discard.update
  have h9 : s9.Canonical := .foldl (fun _ _ ht => ht.modDie.retireConns) h8
  have h11 : s11.Canonical := h9.update.freeWindows
  exact h11.modDie

theorem State.Canonical.contain {seat cause va : Nat} {launch : Option Nat} (hs : s.Canonical) :
    (s.contain seat cause va launch).Canonical :=
  .ite hs.killCtx (.ite hs.modSeat hs.containSeat)

theorem State.Canonical.containCarr {ctx carr cause va : Nat} (hs : s.Canonical) :
    (s.containCarr ctx carr cause va).Canonical := by
  unfold State.containCarr
  split
  · exact hs.contain
  · exact hs.containOff

/-! ## Images of seats (Machine/Image.lean) -/

theorem State.Canonical.writeImage {ctx va : Nat} {l : List Byte} (hs : s.Canonical) : (s.writeImage ctx va l).Canonical := by
  unfold State.writeImage
  exact hs.devFill

/-! ## Operands and traps (Machine/Ops.lean) -/

theorem State.Canonical.landXclsAt {core now : Nat} (hs : s.Canonical) : (s.landXclsAt core now).Canonical :=
  .modCore (.foldl (fun _ _ ht => ht.modSeat) hs)

theorem State.Canonical.setResult {id : Nat} {v : W64} {fl : Flags} {er : Bool} (hs : s.Canonical) :
    (s.setResult id v fl er).Canonical := by
  unfold State.setResult
  split
  · exact hs.modSeat
  · split
    · exact hs.devPut.devPut
    · exact hs.update

theorem State.Canonical.deliver {id : Nat} {v : W64} {fl : Flags} (hs : s.Canonical) : (s.deliver id v fl).Canonical := by
  unfold State.deliver
  split
  · exact .ite hs.setResult hs.modSeat
  · exact hs.setResult

theorem State.Canonical.trapEntry {seat cause : Nat} {va : W64} {mask : BitVec 14} {pc : Addr} {rep : BitVec 5}
    (hs : s.Canonical) : (s.trapEntry seat cause va mask pc rep).Canonical :=
  .ite hs.killCtx hs.setSeat

theorem State.Canonical.boundaryTrap {seat cause : Nat} {va : W64} (hs : s.Canonical) :
    (s.boundaryTrap seat cause va).Canonical :=
  hs.trapEntry

/-! ## What the evaluations of slots share (Machine/Slot.lean) -/

theorem SlotRes.Kept.waits : (waits).Kept := .wait .id

theorem SlotRes.Kept.fault0 {cause : Nat} : (fault0 cause).Kept := .fault

theorem SlotRes.Kept.faultVa {cause va : Nat} : (faultVa cause va).Kept := .fault

theorem SlotRes.Kept.faultFree {cause : Nat} : (faultFree p cause).Kept := .fault

theorem SlotRes.Kept.okAct {f : State → State} (hf : Keeps f) : (okAct f).Kept := .ok hf

theorem SlotRes.Kept.okSeat {f : Seat → Seat} {fl : Flags} : (okSeat e f fl).Kept := .ok (fun _ ht => ht.modSeat)

theorem SlotRes.Kept.okLater {a : Reg} {v : W64} {fl : Flags} : (okLater e a v fl).Kept := by
  unfold Machine.okLater
  refine .ok (fun s ht => ?_)
  dsimp only
  exact .modSeat ht.freshId.snd

theorem BadKept.trOne {k : Right} {va : Nat} : BadKept AccTr.bad (trOne s e k va) := by
  unfold Machine.trOne
  extract_lets ctx
  split
  · exact .ok
  · exact .bad (.wait (fun _ ht => ht.askWalk))
  · exact .bad (.wait (fun _ ht => ht.seatHold))
  · exact .bad .faultVa

theorem BadKept.trBytes {k : Right} {va n : Nat} : BadKept AccTr.bad (trBytes s e k va n) := by
  induction n generalizing va with
  | zero => exact .ok
  | succ n ih =>
    unfold Machine.trBytes
    split
    next r he => exact .bad (BadKept.trOne _ he)
    · split
      next r he => exact .bad (ih _ he)
      · exact .ok

theorem BadKept.trAcc {k : Right} {va n : Nat} : BadKept AccTr.bad (trAcc s e k va n) := .ite .trOne .trBytes

theorem SlotRes.Kept.spanBad {r : TrRange} : (spanBad s e r).Kept := by
  unfold Machine.spanBad
  extract_lets ctx
  split
  · exact .wait (fun _ ht => ht.askWalk)
  · exact .wait (fun _ ht => ht.seatHold)
  · exact .faultVa
  · exact .waits

theorem State.Canonical.expose {core id due : Nat} {r : List (Nat × Nat)} (hs : s.Canonical) :
    (s.expose core id due r).Canonical :=
  .ite hs hs.modCore

theorem State.Canonical.dropAcc {id : Nat} (hs : s.Canonical) : (s.dropAcc id).Canonical := by
  unfold State.dropAcc
  extract_lets s1
  have h1 : s1.Canonical := by
    dsimp only [s1]
    split
    · exact hs.logOrder
    · exact hs
  exact h1.update

theorem State.Canonical.addAcc {f : Nat → Acc} (hs : s.Canonical) : (s.addAcc f).Canonical := by
  unfold State.addAcc
  split
  next he => exact .update (hs.freshId _ _ he)

theorem State.Canonical.noteRead {a : Acc} (hs : s.Canonical) : (s.noteRead a).Canonical := by
  unfold State.noteRead
  refine .foldl (fun s p ht => ?_) hs
  split
  · exact ht
  · exact ht.modCtx

theorem State.Canonical.accWrite {a : Acc} {l : List Byte} (hs : s.Canonical) : (s.accWrite a l).Canonical := by
  unfold State.accWrite
  split
  · exact hs.apply
  · exact .foldl (fun _ _ ht => ht.apply) hs

/-! ## The issue of a bundle (Machine/Issue.lean) -/

theorem FetchKept.fetchWord {seat va : Nat} : FetchKept (s.fetchWord seat va) := by
  unfold State.fetchWord
  extract_lets ctx va1
  split
  · exact .ite .fault .ok
  · exact .wait (fun _ ht => ht.askWalk)
  · exact .wait (fun _ ht => ht.seatHold)
  · exact .fault

theorem FetchKept.fetchBundle {seat : Nat} {pc : Addr} : FetchKept (s.fetchBundle seat pc) := by
  unfold State.fetchBundle
  refine .ite .fault ?_
  split
  next he => exact (FetchKept.fetchWord.kept he).error
  · refine .ite .fault ?_
    split
    next he => exact (readBundle_error (fun _ _ => FetchKept.fetchWord.kept) he).error
    · exact .ite .fault .ok

/-- The evaluation of a slot keeps the canonical form, on whatever canonical states. -/
def EvalKept (ev : Eval) : Prop := ∀ p s e, p.Canonical → s.Canonical → (ev p s e).Kept

/-- What the slots of an issue answer together keeps the canonical form. -/
structure Run.Kept (r : Run) : Prop where
  wait : ∀ f, r.wait = some f → Keeps f
  hold : ∀ f, r.hold = some f → Keeps f
  done : ∀ c ∈ r.done, c.Kept
  a    : r.a.Canonical

theorem Run.Kept.emptyFault {ev : Instr → Eval} {r : Run} {y : SlotIn} {i : Instr} {t : Reg} (h : r.Kept) :
    (emptyFault ev p r y i t).Kept :=
  ⟨h.wait, h.hold, h.done, h.a⟩

theorem Run.Kept.runSlot {ev : Instr → Eval} {r : Run} {y : SlotIn} (hev : ∀ i, EvalKept (ev i)) (hp : p.Canonical) (h : r.Kept) :
    (runSlot ev p r y).Kept := by
  unfold Machine.runSlot
  split
  · exact h
  · split
    · exact ⟨h.wait, h.hold, h.done, h.a⟩
    next i _ =>
      split
      · exact h.emptyFault
      · have hr := hev i p r.a y.env hp h.a
        split
        next c he =>
          have hc := hr.ofOk c he
          exact ⟨h.wait, h.hold, by simpa [or_imp, forall_and] using ⟨h.done, hc⟩, hc.act _ h.a⟩
        next f he => exact ⟨fun g hg => Option.some.inj hg ▸ hr.ofWait f he, h.hold, h.done, h.a⟩
        · exact ⟨h.wait, h.hold, h.done, h.a⟩
        · exact ⟨h.wait, h.hold, h.done, h.a⟩
        next f he => exact ⟨h.wait, fun g hg => Option.some.inj hg ▸ hr.ofHold f he, h.done, h.a⟩

theorem Run.Kept.foldl_runSlot {ev : Instr → Eval} {r : Run} {l : List SlotIn} (hev : ∀ i, EvalKept (ev i)) (hp : p.Canonical)
    (h : r.Kept) : (l.foldl (Machine.runSlot ev p) r).Kept := by
  induction l generalizing r with
  | nil => exact h
  | cons y l ih => exact ih (h.runSlot hev hp)

theorem Run.Kept.commitIssue {seat start : Nat} {b : Bundle} {l : List SlotIn} {r : Run} {pc next : Addr} {rep : BitVec 5}
    {cyc : Nat} (h : r.Kept) : (commitIssue seat start b l r pc next rep cyc).Canonical := by
  unfold Machine.commitIssue
  extract_lets fl npc pops s1 s2
  have h2 : s2.Canonical := h.a.modSeat.modCore
  split
  next f he =>
    obtain ⟨c, hc, hf⟩ := List.exists_of_findSome?_eq_some he
    exact (h.done c hc).post f hf _ h2
  · exact h2

theorem State.Canonical.blockedOn {seat start : Nat} {l : List SlotIn} {f : State → State} (hs1 : p.Canonical) (hf : Keeps f) :
    (s.blockedOn seat start l f p).Canonical :=
  hf _ (.ite hs1.modSeat hs1)

theorem State.Canonical.faultIssue {seat cause : Nat} {va : W64} {mask : BitVec 14} (hs : s.Canonical) :
    (s.faultIssue seat cause va mask).Canonical :=
  hs.modSeat.modCore.trapEntry.update

theorem State.Canonical.clearFirst {seat : Nat} {b : Bundle} (hs : s.Canonical) : (s.clearFirst seat b).Canonical :=
  .ite hs.modSeat hs

theorem State.Canonical.withHeld {seat : Nat} {h : HeldIss} (hs : s.Canonical) : (s.withHeld seat h).Canonical :=
  hs.modSeat.modCtx

theorem State.Canonical.holdIssue {seat : Nat} {b : Bundle} (hs : s.Canonical) : (s.holdIssue seat b).Canonical := hs.modCore

theorem IssueRes.Kept.issueSlots {ev : Instr → Eval} {seat start : Nat} {b : Bundle} {l : List SlotIn} {cyc : Nat}
    {spaced : Bool} (hev : ∀ i, EvalKept (ev i)) (hp : p.Canonical) (hs : s.Canonical) :
    (issueSlots ev p s seat start b l cyc spaced).Kept := by
  unfold Machine.issueSlots
  extract_lets x next r
  have hr : r.Kept := .foldl_runSlot hev hp ⟨nofun, nofun, nofun, .ite hs hs.landXclsAt⟩
  refine .ite (.wait fun _ ht => ht.blockedOn .id) ?_
  split
  next f he => exact .wait fun _ ht => ht.blockedOn (hr.wait f he)
  · refine .ite .held (.ite .freeze (.ite (.flt hs.clearFirst.faultIssue) ?_))
    split
    · exact .flt hs.clearFirst.faultIssue
    · split
      next f he => exact .wait fun _ ht => hr.hold f he _ ht.holdIssue
      · exact .go hr.commitIssue

theorem IssueRes.Kept.issueOf {ev : Instr → Eval} {seat : Nat} {b : Bundle} (hev : ∀ i, EvalKept (ev i)) (hs : s.Canonical)
    (hp : p.Canonical) : (s.issueOf ev p seat b).Kept :=
  .issueSlots hev hp hs

theorem IssueRes.Kept.tryIssue {ev : Instr → Eval} {seat : Nat} (hev : ∀ i, EvalKept (ev i)) (hs : s.Canonical) :
    (State.tryIssue ev s seat).Kept := by
  unfold State.tryIssue
  extract_lets x core now
  split
  · exact .issueOf hev hs hs.withHeld
  · split
    next he => exact .wait (FetchKept.fetchBundle _ he)
    · exact .ite .held (.flt hs.faultIssue)
    · exact .issueOf hev hs hs

theorem IssueRes.Kept.apply {r : IssueRes} {core : Nat} (h : r.Kept) (hs : s.Canonical) : (r.apply s core).Canonical := by
  unfold IssueRes.apply
  split
  · exact hs
  next f => exact h.ofWait f rfl _ hs
  · exact hs.modCore
  next t => exact h.ofFlt t rfl
  next t => exact h.ofGo t rfl

theorem State.Canonical.issueSolo {i : Instr} {ev : Eval} (hs : s.Canonical) (hev : EvalKept ev) :
    (issueSolo i ev s).Canonical := by
  unfold Machine.issueSolo
  split
  · exact hs
  · exact .ite (IssueRes.Kept.apply (.issueSlots (fun _ => hev) hs hs) hs) hs

/-- A syllable issued on its own keeps the canonical form if its evaluation does. -/
theorem OutKept.solo {i : Instr} {ev : Eval} (hs : s.Canonical) (hev : EvalKept ev) : OutKept (solo i ev s) :=
  .next (hs.issueSolo hev)

/-! ## Words in flight (Machine/Words.lean) -/

theorem BadKept.wordTr {k : Right} {va : Nat} : BadKept WordTr.bad (wordTr s e k va) := by
  unfold Machine.wordTr
  refine .ite (.bad .faultVa) ?_
  split
  next he => exact .bad (BadKept.trOne _ he)
  · split
    · refine .ite (.bad .faultVa) (.ite (.bad .faultVa) ?_)
      split
      · exact .ok
      · exact .bad .freeze
      · exact .ite (.bad .faultVa) .ok
    · exact .bad .waits

theorem State.Canonical.leave {seat : Nat} {w3 : W64} {st : CarrSt} (hs : s.Canonical) : (s.leave seat w3 st).Canonical := by
  unfold State.leave
  exact .setSeat (.modCore (.modRec (.foldl
    (fun _ _ ht => ht.setCarrWord) hs.endRun.setCarrWord.setCarrWord.setCarrWord.setCarrWord)))

theorem State.Canonical.suspendOn {seat kind : Nat} {aux : BitVec 12} {addr : Addr} {key at_ : Nat} (hs : s.Canonical) :
    (s.suspendOn seat kind aux addr key at_).Canonical :=
  hs.leave.update

theorem State.Canonical.endSeat {seat : Nat} (hs : s.Canonical) : (s.endSeat seat).Canonical := hs.modCore.setSeat

/-! ## Streams (Machine/Streams.lean) -/

theorem State.Canonical.execStreamElementFetch {seat sq : Nat} (hs : s.Canonical) :
    OutKept (execStreamElementFetch seat sq s) := by
  unfold Machine.execStreamElementFetch
  refine .next (.ite ?_ hs)
  split
  · exact hs.unitHold
  · exact hs.modSq

/-- What a pop or push answers keeps the canonical form. -/
structure Pop.Kept (r : Pop) : Prop where
  ofOk   : ∀ v fl t, r = .ok v fl t → t.Canonical
  ofWait : ∀ f, r = .wait f → Keeps f

theorem Pop.Kept.ok {v : List W32} {fl : Flags} (h : s.Canonical) : (Pop.ok v fl s).Kept :=
  ⟨fun _ _ _ e => (Pop.ok.inj e).2.2 ▸ h, nofun⟩

theorem Pop.Kept.wait {f : State → State} (h : Keeps f) : (Pop.wait f).Kept :=
  ⟨fun _ _ _ e => (nomatch e), fun _ e => Pop.wait.inj e ▸ h⟩

theorem Pop.Kept.fault {c : Nat} {va : W64} : (Pop.fault c va).Kept := ⟨fun _ _ _ e => (nomatch e), nofun⟩

theorem Pop.Kept.ite {c : Prop} {_ : Decidable c} {a b : Pop} (ha : a.Kept) (hb : b.Kept) : (if c then a else b).Kept :=
  iteInduction (fun _ => ha) fun _ => hb

theorem State.Canonical.pop {seat sq : Nat} (hs : s.Canonical) : (s.pop p seat sq).Kept := by
  unfold State.pop
  extract_lets q m l
  split
  · exact .fault
  · split
    · exact .fault
    · exact .ite (.wait fun _ ht => ht.modSq) (.ok hs.modSq)

theorem BadKept.pushByte {q : Stream} {va : Nat} : BadKept PByte.bad (s.pushByte e q va) := by
  unfold State.pushByte
  extract_lets swz
  split
  next he => exact .bad (BadKept.trOne _ he)
  · split
    · exact .ite (.bad .faultVa) (.ite (.ite .ok (.bad .faultVa)) (.ite (.bad .faultVa) .ok))
    · exact .bad (.wait .id)

theorem BadKept.pushBytes {q : Stream} {l : List (Nat × Byte × Byte)} {bs : List (PLoc × Byte × Byte)} {ss : List (Nat × Nat)} :
    BadKept Except.error (s.pushBytes e q l bs ss) := by
  induction l generalizing bs ss with
  | nil => exact .ok
  | cons b l ih =>
    unfold State.pushBytes
    split
    next r he => exact .bad (BadKept.pushByte _ he)
    · exact ih

theorem State.Canonical.push {sq : Nat} {lanes : List W32} (hs : s.Canonical) : (s.push p e sq lanes).Kept := by
  unfold State.push
  extract_lets q els
  split
  · exact .fault
  · refine .ite (.wait .id) ?_
    split
    next f he => exact .wait ((BadKept.pushBytes _ he).ofWait f rfl)
    · exact .fault
    · exact .wait .id
    · split
      next he => exact .ok (.modSq (.expose (hs.freshId _ _ he)))

theorem State.Canonical.applyMasked {ctx : Nat} {b : PLoc × Byte × Byte} (hs : s.Canonical) : (s.applyMasked ctx b).Canonical :=
  hs.apply

theorem State.Canonical.execStreamElementWrite {seat sq : Nat} (hs : s.Canonical) :
    OutKept (execStreamElementWrite seat sq s) := by
  unfold Machine.execStreamElementWrite
  refine .next ?_
  extract_lets x
  split
  · exact hs
  · exact .ite (.modSeat (.unexpose (.update (.foldl (fun _ _ ht => ht.applyMasked) hs)))) hs

theorem BadKept.earlyRead {va n xva : Nat} {y : Bool} : BadKept Early.bad (earlyRead p e va n xva y) := by
  unfold Machine.earlyRead
  extract_lets x
  split
  · exact .bad .faultVa
  next he => exact .bad (BadKept.trOne _ he)
  · split
    · exact .ite (.bad .faultVa) (.ite (.bad .waits) (.ite (.bad .freeze) (.ite (.bad .faultVa) .ok)))
    · exact .bad .waits

theorem SlotRes.Kept.evalSstart {sq : BitVec 4} : (evalSstart sq p s e).Kept := by
  unfold Machine.evalSstart
  extract_lets q
  refine .ite .fault0 ?_
  split
  · exact .faultVa
  · refine SlotRes.Kept.okAct (fun s ht => ?_)
    split
    next he1 => exact .modSq (ht.freshId _ _ he1)

theorem SlotRes.Kept.evalSstop {sq : BitVec 4} : (evalSstop sq p s e).Kept := .ite .okSeat .fault0

theorem SlotRes.Kept.evalSdrain {sq : BitVec 4} : (evalSdrain sq p s e).Kept := .ite .fault0 (.ite (.ok .id) .waits)

theorem SlotRes.Kept.evalSpos {a : Reg} {sq : BitVec 4} {c : Reg} {wr : Bool} : (evalSpos a sq c wr p s e).Kept :=
  .ite .fault0 .okSeat

theorem SlotRes.Kept.evalScfg {sq : BitVec 4} {b : Reg} {off : BitVec 16} : (evalScfg sq b off p s e).Kept := by
  unfold Machine.evalScfg
  extract_lets q ea
  refine .ite .fault0 (.ite .faultVa ?_)
  split
  next he => exact BadKept.earlyRead _ he
  · exact .okSeat

theorem SlotRes.Kept.evalShape {sq : BitVec 4} {b : Reg} {off : BitVec 16} : (evalShape sq b off p s e).Kept := by
  unfold Machine.evalShape
  extract_lets q ea
  refine .ite .fault0 (.ite .faultVa ?_)
  split
  next he => exact BadKept.earlyRead _ he
  · extract_lets w n q'
    refine .ite .fault0 (.ite .fault0 (.ite .faultVa ?_))
    split
    · exact .faultVa
    · refine SlotRes.Kept.okAct (fun s ht => ?_)
      split
      next he2 => exact .modSq (ht.freshId _ _ he2)

/-! ## Clusters (Machine/Clusters.lean) -/

/-- The state that pops leave is canonical, and what keeps them from being made keeps the canonical form. -/
structure PopsKept {α : Type} (st : α → State) (x : Except SlotRes α) : Prop where
  ofOk    : ∀ a, x = .ok a → (st a).Canonical
  ofError : BadKept Except.error x

theorem PopsKept.ok {α : Type} {st : α → State} {a : α} (h : (st a).Canonical) : PopsKept st (.ok a) :=
  ⟨fun _ e => Except.ok.inj e ▸ h, .ok⟩

theorem PopsKept.error {α : Type} {st : α → State} {r : SlotRes} (h : r.Kept) : PopsKept st (.error r) :=
  ⟨fun _ e => (nomatch e), .bad h⟩

theorem State.Canonical.popAll {seat : Nat} {l : List Nat} {acc : List (Nat × List W32)} {fl : Flags} (hs : s.Canonical) :
    PopsKept (fun a => a.2.2) (popAll p seat l s acc fl) := by
  induction l generalizing s acc fl with
  | nil => exact .ok hs
  | cons q l ih =>
    unfold Machine.popAll
    split
    next f he => exact .error (.wait (hs.pop.ofWait f he))
    · exact .error .fault
    next v f t he => exact ih (hs.pop.ofOk v f t he)

theorem State.Canonical.pushAll {l : List (Nat × List W32)} (hs : s.Canonical) : PopsKept (fun s => s) (pushAll p e l s) := by
  induction l generalizing s with
  | nil => exact .ok hs
  | cons q l ih =>
    unfold Machine.pushAll
    split
    next f he => exact .error (.wait (hs.push.ofWait f he))
    · exact .error .fault
    next v f t he => exact ih (hs.push.ofOk v f t he)

theorem State.Canonical.hcwWrite {h : BitVec 256} {en : BitVec 16} {o : HcwOut} {regs : List (Nat × Nat × Nat)}
    (hs : s.Canonical) : (hcwWrite h e en o regs s).Canonical := by
  unfold Machine.hcwWrite
  exact .ite (.modSeat (.foldl (fun _ _ ht => .ite ht.modCore ht.modSeat) hs)) (.foldl
    (fun _ _ ht => .ite ht.modCore ht.modSeat) hs)

theorem State.Canonical.evalHcw {idx : BitVec 9} {k : BitVec 3} {inv : Bool} (hs : s.Canonical) :
    (evalHcw idx k inv p s e).Kept := by
  unfold Machine.evalHcw
  extract_lets x i base c h
  refine .ite .freeze ?_
  split
  · exact .fault
  · refine .ite .fault (.ite .waits ?_)
    refine .ite .waits ?_
    split
    next r he => exact hs.popAll.ofError r he
    next t he =>
      have ht := hs.popAll.ofOk _ he
      extract_lets en opnd o
      split
      next r he => exact ht.pushAll.ofError r he
      next he => exact .ok fun _ _ => (ht.pushAll.ofOk _ he).hcwWrite

theorem SlotRes.Kept.evalVNop : (evalVNop p s e).Kept := .ok .id

theorem State.Canonical.landXcls {core : Nat} (hs : s.Canonical) : (s.landXcls core).Canonical := hs.landXclsAt

theorem SlotRes.Kept.evalHcwld {b : Reg} {first cnt : BitVec 9} : (evalHcwld b first cnt p s e).Kept := by
  unfold Machine.evalHcwld
  extract_lets ea n
  refine .ite .fault0 (.ite .faultVa ?_)
  split
  · refine SlotRes.Kept.okAct (fun s ht => ?_)
    split
    next he1 => exact .modCore (ht.freshId _ _ he1)
  · exact .spanBad

theorem State.Canonical.hcwldEntry {w : HcwPend} {i : Nat} (hs : s.Canonical) : (s.hcwldEntry w i).Canonical :=
  .ite hs.modSeat hs.modSeat

theorem State.Canonical.hcwldDo {w : HcwPend} (hs : s.Canonical) : (s.hcwldDo w).Canonical :=
  .modCore (.foldl (fun _ _ ht => ht.hcwldEntry) hs)

theorem State.Canonical.hcwldWrite {seat : Nat} (hs : s.Canonical) : (s.hcwldWrite seat).Canonical :=
  .foldl (fun _ _ ht => .ite ht.hcwldDo ht) hs

/-! ## Transfers (Machine/Transfers.lean) -/

theorem BadKept.wordChk {cmode : BitVec 2} {w : Nat} : BadKept WordChk.bad (wordChk p e cmode w) := by
  unfold Machine.wordChk
  extract_lets c
  refine .ite .ok (.ite (.bad .faultVa) (.ite ?_ ?_))
  · split
    · exact .ite (.bad .faultVa) .ok
    · exact .bad .spanBad
  · split
    · exact .ite (.bad .faultVa) .ok
    · exact .bad .spanBad

theorem BadKept.tagWait {n : Nat} : BadKept some (tagWait p e n) := by
  unfold Machine.tagWait
  extract_lets x
  refine .ite .ok ?_
  split
  · exact .ite .ok (.bad .waits)
  · exact .bad (.wait (fun _ ht => ht.modCore))

theorem State.Canonical.enqueue {t : Trans} (hs : s.Canonical) : (s.enqueue t).Canonical := hs.modQuad

theorem SlotRes.Kept.transferRes {k : TKind} {src dst len rb : Nat} {idx : List Nat} {ssw dsw : BitVec 3} {x : Xfer} :
    (transferRes p e k src dst len rb idx ssw dsw x).Kept := by
  unfold Machine.transferRes
  extract_lets st w
  split
  next he => exact BadKept.wordChk _ he
  · extract_lets t
    split
    · exact .fault
    · split
      next he2 => exact BadKept.tagWait _ he2
      · exact .faultVa
      · refine .ite .waits (SlotRes.Kept.okAct (fun s ht => ?_))
        split
        next he4 => exact .enqueue (ht.freshId _ _ he4)

theorem BadKept.firstChk {rows : Bool} {n : Nat} {x : Xfer} : BadKept some (firstChk p e rows n x) :=
  .ite (.bad .fault0) (.ite (.bad .faultFree) .ok)

theorem SlotRes.Kept.copyRes {k : TKind} {a b c : Reg} {ssw : BitVec 3} {x : Xfer} : (copyRes k a b c ssw x p s e).Kept := by
  unfold Machine.copyRes
  extract_lets n
  split
  next he => exact BadKept.firstChk _ he
  · exact .transferRes

theorem BadKept.readIdx {va n : Nat} : BadKept IdxRead.bad (readIdx p e va n) := by
  unfold Machine.readIdx
  extract_lets st ctx loc rs
  refine .ite .ok (.ite (.bad .faultVa) ?_)
  split
  · exact .bad .faultVa
  · refine .ite (.bad .waits) (.ite (.bad .freeze) ?_)
    split
    · exact .bad .faultVa
    · exact .ok

theorem SlotRes.Kept.gatherRes {k : TKind} {a c table rows : Reg} {x : Xfer} : (gatherRes k a c table rows x p s e).Kept := by
  unfold Machine.gatherRes
  extract_lets n tb rw
  split
  next he => exact BadKept.firstChk _ he
  · split
    next he1 => exact BadKept.readIdx _ he1
    · split
      · exact .transferRes
      · exact .transferRes

theorem State.Canonical.secTags {t : Trans} {i : Nat} {vas : List Nat} (hs : s.Canonical) : (s.secTags t i vas).Canonical :=
  .foldl (fun _ _ ht => .ite ht.update ht) hs

theorem State.Canonical.logSector {t : Trans} {sec : Nat} {l : List Byte} (hs : s.Canonical) : (s.logSector t sec l).Canonical :=
  .ite hs.hostLog hs

theorem State.Canonical.secWrite {t : Trans} {sec : Nat} {data : List Byte} (hs : s.Canonical) :
    (s.secWrite t sec data).Canonical := by
  unfold State.secWrite
  exact .modQuad (.foldl (fun _ _ ht => ht.applyPieces) hs.secTags)

theorem State.Canonical.secFault {t : Trans} {sec cause side va : Nat} (hs : s.Canonical) :
    (s.secFault t sec cause side va).Canonical := by
  unfold State.secFault
  extract_lets d k gone
  split
  · exact hs.modDie.modQuad
  · exact .ite hs hs.addFault.modQuad

theorem State.Canonical.execTransferSectorWrite {id sector : Nat} (hs : s.Canonical) :
    OutKept (execTransferSectorWrite id sector s) := by
  unfold Machine.execTransferSectorWrite
  refine .next ?_
  split
  · refine .ite ?_ hs
    split
    · exact hs.logSector.secWrite
    · exact hs.unitHold
    · exact hs.secFault
  · exact hs

theorem State.Canonical.signalUi {t : Trans} {cause : Nat} (hs : s.Canonical) : OptKept (s.signalUi t cause) := by
  unfold State.signalUi
  split
  · exact .ite .none (.some hs)
  · exact .ite (.some hs) (.ite .none (.some hs.setSeat))

theorem State.Canonical.modTrans {t : Trans} {f : Trans → Trans} (hs : s.Canonical) : (s.modTrans t f).Canonical := hs.modQuad

theorem State.Canonical.addPart {t : Trans} (hs : s.Canonical) : (s.addPart t).Canonical := by
  unfold State.addPart
  split
  · exact .ite hs hs.keyLog.addCount.modTrans
  · exact hs

theorem State.Canonical.putReport {t : Trans} {fault : Bool} (hs : s.Canonical) : (s.putReport t fault).Canonical := by
  unfold State.putReport
  split
  · exact hs.applyWord
  · exact hs

theorem State.Canonical.stopSignal {t : Trans} (hs : s.Canonical) : OptKept (s.stopSignal t) :=
  .ite (.ite (.some hs.addPart) .none) (.ite (.some hs.putReport) (.ite hs.signalUi (.some hs)))

theorem State.Canonical.execTransferFaultStop {id : Nat} (hs : s.Canonical) : OutKept (execTransferFaultStop id s) := by
  unfold Machine.execTransferFaultStop
  refine .next ?_
  split
  · refine .ite ?_ hs
    split
    next he1 => exact .modTrans (hs.stopSignal _ he1)
    · exact hs
  · exact hs

theorem State.Canonical.endSignal {t : Trans} (hs : s.Canonical) : OptKept (s.endSignal t) := by
  unfold State.endSignal
  split
  · exact .ite hs.signalUi (.some hs.releaseTrans)
  · extract_lets s1
    refine .ite (.ite .none (.ite (.some hs.addPart) ?_)) (.ite hs.signalUi (.some hs))
    split
    · exact .some hs.putReport.keyLog.arriveCompletion
    · exact .some hs.putReport

theorem State.Canonical.execTransferCompletion {id : Nat} (hs : s.Canonical) : OutKept (execTransferCompletion id s) := by
  unfold Machine.execTransferCompletion
  refine .next ?_
  split
  · refine .ite ?_ hs
    split
    next he1 => exact .modQuad (hs.endSignal _ he1)
    · exact hs
  · exact hs

/-! ## Matrix commands (Machine/Matrix.lean) -/

theorem BadKept.mStart {ill : Bool} {rs : List Nat} : BadKept some (mStart p e ill rs) := by
  unfold Machine.mStart
  extract_lets x
  refine .ite (.bad .fault0) (.ite (.bad .waits) ?_)
  split
  · exact .bad .fault
  · exact .ok

theorem State.Canonical.mEnqueue {quad : Nat} {c : MCmd} (hs : s.Canonical) : (s.mEnqueue quad c).Canonical := hs.modArr

theorem SlotRes.Kept.mCommit {k : MKind} {refs : Held} {tags : Arr → Arr} {s1 : Nat → State → State} (hf : ∀ id, Keeps (s1 id)) :
    (mCommit p e k refs tags s1).Kept := by
  refine .ite .waits (.okAct fun t ht => ?_)
  split
  next id u he => exact (hf id u (ht.freshId _ _ he)).modArr.mEnqueue.countCmd

theorem State.Canonical.noMore {x : Nat} (hs : s.Canonical) : (noMore x s).Canonical := hs

theorem BadKept.opSpan {wr : Bool} {va n : Nat} : BadKept Rng.bad (opSpan p e wr va n) := by
  unfold Machine.opSpan
  split
  · split
    · exact .ok
    · exact .bad .spanBad
  · split
    · exact .bad .faultVa
    · exact .bad .spanBad

theorem BadKept.opSpans {wr : Bool} {l : List (Nat × Nat)} : BadKept Rng.bad (opSpans p e wr l) := by
  induction l with
  | nil => exact .ok
  | cons a l ih =>
    unfold Machine.opSpans
    split
    · split
      · exact .ok
      · exact ih
    · exact .opSpan

theorem BadKept.held {o : MOp} : BadKept Rng.bad (MOp.held p e o) := by
  unfold MOp.held
  split
  next he => exact .bad (BadKept.opSpans _ he)
  · split
    · exact .bad .faultVa
    · exact .ok

theorem BadKept.opsHeld {l : List MOp} : BadKept MemChk.bad (opsHeld p e l) := by
  induction l with
  | nil => exact .ok
  | cons o l ih =>
    unfold Machine.opsHeld
    split
    next r he => exact .bad (BadKept.held _ he)
    · split
      · exact .ok
      · exact ih

theorem BadKept.memChk {ops : List MOp} : BadKept MemChk.bad (memChk p e ops) := by
  unfold Machine.memChk
  extract_lets ctx
  split
  next he => exact .bad (BadKept.opsHeld _ he)
  · split
    next he1 => exact .bad (BadKept.tagWait _ he1)
    · exact .bad .faultVa
    · exact .ok

theorem State.Canonical.passTiles {l : List Nat} {x : Nat} (hs : s.Canonical) : (passTiles e l x s).Canonical :=
  .foldl (fun _ _ ht => ht.modSq) hs

theorem SlotRes.Kept.productRes {zd sb : Nat} {a : Sel} {c fc colsA colsB scn : Nat} {rs : List Nat}
    {mk : MSrc → Nat → Bool → Tile → Bool → MKind} : (productRes p e zd sb a c fc colsA colsB scn rs mk).Kept := by
  unfold Machine.productRes
  split
  next he => exact BadKept.mStart _ he
  · extract_lets ai qb int k
    refine .ite .fault0 (.ite .faultFree ?_)
    split
    next he1 => exact BadKept.memChk _ he1
    · exact SlotRes.Kept.mCommit (fun _ => fun _ ht => ht.passTiles)

theorem SlotRes.Kept.evalMma {zd : BitVec 2} {sb : BitVec 4} {sel c : BitVec 6} {fc : BitVec 4} :
    (evalMma zd sb sel c fc p s e).Kept := by
  unfold Machine.evalMma
  exact .productRes

theorem SlotRes.Kept.evalMmas {zd : BitVec 2} {sb : BitVec 4} {sel c : BitVec 6} {md : BitVec 3} {seg : BitVec 2} {g8 : Bool} :
    (evalMmas zd sb sel c md seg g8 p s e).Kept := by
  unfold Machine.evalMmas
  exact .productRes

theorem SlotRes.Kept.evalCmpr {dsel sel c : BitVec 6} {md : BitVec 3} {seg : BitVec 2} {g8 : Bool} :
    (evalCmpr dsel sel c md seg g8 p s e).Kept := by
  unfold Machine.evalCmpr
  extract_lets d a k ai dBad4 dBad5 n
  split
  next he => exact BadKept.mStart _ he
  · refine .ite .fault0 (.ite .faultFree ?_)
    split
    next he1 => exact BadKept.memChk _ he1
    · exact SlotRes.Kept.mCommit (fun _ => fun _ ht => ht.passTiles)

theorem SlotRes.Kept.evalMzero {z : BitVec 2} {i32 : Bool} : (evalMzero z i32 p s e).Kept := by
  unfold Machine.evalMzero
  split
  next he => exact BadKept.mStart _ he
  · exact SlotRes.Kept.mCommit (fun _ => fun _ ht => ht.noMore)

theorem SlotRes.Kept.evalMtrans {zd zs : BitVec 2} : (evalMtrans zd zs p s e).Kept := by
  unfold Machine.evalMtrans
  split
  next he => exact BadKept.mStart _ he
  · exact .ite .fault0 (SlotRes.Kept.mCommit (fun _ => fun _ ht => ht.noMore))

theorem SlotRes.Kept.evalHldc {fmt : BitVec 4} {h n : BitVec 2} : (evalHldc fmt h n p s e).Kept := by
  unfold Machine.evalHldc
  split
  next he => exact BadKept.mStart _ he
  · exact .ite .fault0 (SlotRes.Kept.mCommit (fun _ => fun _ ht => ht.noMore))

theorem SlotRes.Kept.evalHld {fmt : BitVec 4} {h : BitVec 2} {b c : Reg} {swz : BitVec 3} {sx : Reg} {off : BitVec 16} :
    (evalHld fmt h b c swz sx off p s e).Kept := by
  unfold Machine.evalHld
  split
  next he => exact BadKept.mStart _ he
  · extract_lets va pitch sv rows
    refine .ite .fault0 (.ite .faultVa ?_)
    split
    next he1 => exact BadKept.memChk _ he1
    · exact SlotRes.Kept.mCommit (fun _ => fun _ ht => ht.noMore)

theorem SlotRes.Kept.evalMdld {md : BitVec 3} {b : Reg} {off : BitVec 16} : (evalMdld md b off p s e).Kept := by
  unfold Machine.evalMdld
  split
  next he => exact BadKept.mStart _ he
  · extract_lets va
    refine .ite .faultVa ?_
    split
    next he1 => exact BadKept.memChk _ he1
    · exact SlotRes.Kept.mCommit (fun _ => fun _ ht => ht.noMore)

theorem SlotRes.Kept.evalMdst {md : BitVec 3} {b : Reg} {off : BitVec 16} : (evalMdst md b off p s e).Kept := by
  unfold Machine.evalMdst
  split
  next he => exact BadKept.mStart _ he
  · extract_lets va
    refine .ite .faultVa ?_
    split
    next he1 => exact BadKept.memChk _ he1
    · exact SlotRes.Kept.mCommit (fun _ => fun _ ht => ht.expose)

theorem SlotRes.Kept.evalDrain {z : BitVec 2} {fmt : BitVec 4} {b c : Reg} {rtz sc : Bool} {swz : BitVec 3} {sx : Reg}
    {hsize : BitVec 2} {had : Bool} {sh : BitVec 7} {off : BitVec 16} :
    (evalDrain z fmt b c rtz sc swz sx hsize had sh off p s e).Kept := by
  unfold Machine.evalDrain
  split
  · split
    next he1 => exact BadKept.mStart _ he1
    · extract_lets f int rows cols bits ctx va sv hd
      refine .ite .fault0 (.ite .fault0 (.ite .faultFree (.ite .faultVa ?_)))
      split
      next he2 => exact BadKept.memChk _ he2
      · exact SlotRes.Kept.mCommit (fun _ => fun _ ht => ht.expose)

theorem SlotRes.Kept.evalLease {pm md h z : BitVec 4} : (evalLease pm md h z p s e).Kept :=
  .ite .fault0 (SlotRes.Kept.okAct (fun _ ht => ht.modSeat))

theorem State.Canonical.releaseLease {seat : Nat} (hs : s.Canonical) : (s.releaseLease seat).Canonical :=
  hs.endRun.modArr.modSeat.unpin.settleFree

theorem SlotRes.Kept.evalMrel : (evalMrel p s e).Kept := .ite .fault0 (SlotRes.Kept.okAct (fun _ ht => ht.releaseLease))

theorem SlotRes.Kept.evalMsync : (evalMsync p s e).Kept := .ite .okSeat .waits

theorem State.Canonical.grant {quad k : Nat} (hs : s.Canonical) : (s.grant quad k).Canonical := hs.modArr.modSeat

theorem State.Canonical.execLeaseGrant {quad : Nat} (hs : s.Canonical) : OutKept (execLeaseGrant quad s) := by
  unfold Machine.execLeaseGrant
  refine .next (.ite hs ?_)
  split
  · exact .ite hs.modArr (.ite hs hs.grant)
  · split
    · exact hs
    · exact .ite hs.grant hs.modArr

theorem State.Canonical.mLeave {quad : Nat} {c : MCmd} (hs : s.Canonical) : (s.mLeave quad c).Canonical := hs.modArr

theorem State.Canonical.mDone {quad : Nat} {c : MCmd} {fl : Flags} (hs : s.Canonical) : (s.mDone quad c fl).Canonical :=
  hs.unexpose.orFlags.settleFree

theorem State.Canonical.mFinish {quad : Nat} {c : MCmd} (hs : s.Canonical) : (s.mFinish quad c).Canonical := by
  unfold State.mFinish
  split
  · exact hs.deliver.mLeave.mDone
  · split
    · exact hs.modArr.mLeave
    · split
      next he1 => exact .mDone (.mLeave (hs.runM _ _ he1))
      · exact hs.containCarr

theorem State.Canonical.execArrayCommandExecute {quad : Nat} (hs : s.Canonical) : OutKept (execArrayCommandExecute quad s) := by
  unfold Machine.execArrayCommandExecute
  refine .next ?_
  split
  · exact hs
  · exact .ite hs (.ite (.ite hs hs.mFinish) (.ite hs (.ite hs.mFinish hs.modArr)))

theorem State.Canonical.execDrainRetire {quad : Nat} (hs : s.Canonical) : OutKept (execDrainRetire quad s) := by
  unfold Machine.execDrainRetire
  refine .next ?_
  split
  · exact hs
  · exact .ite hs.writeOut.modArr.mDone hs

/-! ## Factorisations (Machine/Factor.lean) -/

theorem State.Canonical.setPm {quad k : Nat} {v : BitVec 1024} (hs : s.Canonical) : (s.setPm quad k v).Canonical := hs.modArr

theorem SlotRes.Kept.evalPmrd {a : Reg} {word : BitVec 4} {pm : BitVec 2} : (evalPmrd a word pm p s e).Kept := by
  unfold Machine.evalPmrd
  split
  next he => exact BadKept.mStart _ he
  · extract_lets x
    refine .ite .waits (SlotRes.Kept.okAct (fun s ht => ?_))
    split
    next he1 => exact .mEnqueue (.modSeat (ht.freshId _ _ he1))

theorem SlotRes.Kept.evalPmwr {word : BitVec 4} {pm : BitVec 2} {c : Reg} : (evalPmwr word pm c p s e).Kept := by
  unfold Machine.evalPmwr
  split
  next he => exact BadKept.mStart _ he
  · exact SlotRes.Kept.mCommit (fun _ => fun _ ht => ht.noMore)

theorem State.Canonical.factBegin {seat : Nat} {i : Instr} {sb : W64} {f : FForm} (hs : s.Canonical) :
    (s.factBegin seat i sb f).Canonical := by
  unfold State.factBegin
  extract_lets quad v st resume v1 v2 s1
  have h1 : s1.Canonical := hs.setPm.modSeat
  refine .ite ?_ (.ite hs.faultIssue h1.modArr)
  split
  · exact hs.faultIssue
  · exact hs.modSeat.modArr

theorem SlotRes.Kept.factRes {i : Instr} {b : Reg} : (factRes i b p s e).Kept := by
  unfold Machine.factRes
  extract_lets x sb
  split
  · exact .ite (.ok .id) .waits
  · split
    · exact .fault0
    · split
      next he2 => exact BadKept.mStart _ he2
      · exact .ite .fault0 (.ite .fault (.ite .waits (.hold (fun _ ht => ht.factBegin))))

theorem State.Canonical.factPause {seat : Nat} (hs : s.Canonical) : (s.factPause seat).Canonical := hs.modSeat

theorem State.Canonical.factCount {seat : Nat} (hs : s.Canonical) : (s.factCount seat).Canonical := by
  unfold State.factCount
  exact hs.countCmd.modSeat

theorem State.Canonical.factDone {seat : Nat} {f : FForm} (hs : s.Canonical) : (s.factDone seat f).Canonical := by
  unfold State.factDone
  exact .modSeat (.factPause (.ite hs hs.setPm))

theorem State.Canonical.factNext {seat : Nat} {f : FForm} {x : FactSt} {st : Nat} (hs : s.Canonical) :
    (s.factNext seat f x st).Canonical := by
  unfold State.factNext
  exact .ite hs.modArr.setPm.modSeat.factCount.factDone
    (.ite hs.modArr.setPm.modSeat.factCount.modSeat hs.modArr.setPm.modSeat.factCount.modArr)

theorem State.Canonical.execFactorisationStep {quad : Nat} (hs : s.Canonical) : OutKept (execFactorisationStep quad s) := by
  unfold Machine.execFactorisationStep
  refine .next ?_
  split
  · exact hs
  · split
    · exact hs
    · refine .ite hs (.ite hs.containCarr (.ite hs.modArr.factCount.factDone (.ite hs.factDone ?_)))
      split
      · exact hs.factNext
      · exact hs.setPm.factPause.faultIssue

/-! ## Leases and injections (Machine/Curds.lean) -/

theorem BadKept.tileOf {c : Reg} : BadKept Except.error (tileOf p e c) := .ite (.bad .faultFree) (.ite (.bad .faultVa) .ok)

theorem SlotRes.Kept.evalTilearm {b c : Reg} : (evalTilearm b c p s e).Kept := by
  unfold Machine.evalTilearm
  split
  next he => exact BadKept.tileOf _ he
  · extract_lets ea
    refine .ite .faultVa (.ite .waits ?_)
    split
    next he1 => exact BadKept.earlyRead _ he1
    · exact .ite .faultFree (SlotRes.Kept.okAct (fun _ ht => ht.applyWord.applyWord.applyWord.applyWord.dropCurd))

theorem SlotRes.Kept.evalTiledis {c : Reg} : (evalTiledis c p s e).Kept := by
  unfold Machine.evalTiledis
  split
  next he => exact BadKept.tileOf _ he
  · exact .ite .waits (SlotRes.Kept.okAct (fun _ ht => ht.setTState.dropCurd))

theorem SlotRes.Kept.cqFault {n : Nat} : (cqFault n).Kept := .fault

theorem State.Canonical.cqAdd {quad ctx n : Nat} {pipe : Bool} {v : W32} (hs : s.Canonical) :
    (s.cqAdd quad ctx n pipe v).Canonical :=
  hs.modQuad

theorem SlotRes.Kept.evalCqpush {n : BitVec 3} {c : Reg} : (evalCqpush n c p s e).Kept :=
  .ite .cqFault (.ite .waits (SlotRes.Kept.okAct (fun _ ht => ht.cqAdd)))

theorem SlotRes.Kept.evalXNop : (evalXNop p s e).Kept := .ok .id

theorem State.Canonical.curdFault {ctx quad tile cause va : Nat} (hs : s.Canonical) :
    (s.curdFault ctx quad tile cause va).Canonical :=
  .ite hs hs.addFault.update

theorem State.Canonical.injectPut {ctx quad tile : Nat} {l : List Byte} (hs : s.Canonical) :
    (s.injectPut ctx quad tile l).Canonical := by
  unfold State.injectPut
  extract_lets h q
  split
  · exact hs.qMiss
  next he => exact .update (.setTState (.modQueue (hs.qPut _ he)))

theorem State.Canonical.inject {ctx quad tile : Nat} (hs : s.Canonical) : (s.inject ctx quad tile).Canonical := by
  unfold State.inject
  extract_lets h s1 lrec
  refine .ite hs.curdFault ?_
  split
  · exact hs.qTouch.injectPut
  · refine .ite hs.qTouch.curdFault ?_
    split
    · exact hs.qTouch.noteHold
    · exact hs.qTouch.curdFault
    · exact hs.qTouch.update.injectPut

/-! ## Loads and stores (Machine/Memory.lean) -/

theorem SlotRes.Kept.readLater {a : Reg} {arr va n : Nat} {locs : List PLoc} {mk : Nat → Acc} :
    (readLater p e a arr va n locs mk).Kept := by
  unfold Machine.readLater
  extract_lets rs x go
  split
  · refine .ok (fun s ht => ?_)
    dsimp only
    exact .update (.modSeat ht.freshId.snd)
  · exact .freeze
  · refine .ite .faultVa (.ite .waits (.ok (fun s ht => ?_)))
    dsimp only
    exact .update (.modSeat ht.freshId.snd)

theorem SlotRes.Kept.loadRes {n : Nat} {sgn : Bool} {a b : Reg} {arr : BitVec 12} {m : MemOp} :
    (loadRes n sgn a b arr m p s e).Kept := by
  unfold Machine.loadRes
  extract_lets va
  split
  next he => exact BadKept.trAcc _ he
  · exact .readLater

theorem BadKept.trStore {va n : Nat} : BadKept AccTr.bad (trStore p e va n) := by
  unfold Machine.trStore
  split
  · exact .trAcc
  · split
    next he1 => exact .bad (BadKept.ite .trOne .trBytes _ he1)
    · exact .bad .faultVa

theorem SlotRes.Kept.storeRes {n : Nat} {b c : Reg} {m : MemOp} : (storeRes n b c m p s e).Kept := by
  unfold Machine.storeRes
  extract_lets va v mk
  split
  next he => exact BadKept.trStore _ he
  · refine .ok (fun s ht => ?_)
    dsimp only
    split
    · exact ht.addAcc
    · exact .foldl (fun _ _ ht1 => ht1.addAcc) ht

theorem State.Canonical.finishRead {a : Acc} {er : Bool} {v : W64} (hs : s.Canonical) : (s.finishRead a er v).Canonical :=
  .ite (.setResult (.ite hs.dropAcc hs.dropAcc.noteRead)) (.deliver (.ite hs.dropAcc hs.dropAcc.noteRead))

theorem State.Canonical.logHost {ctx va : Nat} {l : List Byte} (hs : s.Canonical) : (s.logHost ctx va l).Canonical :=
  .ite hs.hostLog hs

theorem State.Canonical.performRead {a : Acc} (hs : s.Canonical) : (s.performRead a).Canonical := by
  unfold State.performRead
  extract_lets i s1
  refine .ite hs.finishRead ?_
  split
  · split
    · exact hs.finishRead
    · exact hs.logHost.finishRead
  · split
    · exact hs.finishRead
    · exact .ite hs.finishRead (.ite hs.logHost.finishRead hs.noteRead.update)

theorem State.Canonical.execLandingDataReturn {id : Nat} (hs : s.Canonical) : OutKept (execLandingDataReturn id s) := by
  unfold Machine.execLandingDataReturn
  refine .next ?_
  split
  · exact .ite hs.performRead hs
  · exact hs

theorem State.Canonical.execProducerResultArrival {id : Nat} (hs : s.Canonical) : OutKept (execProducerResultArrival id s) := by
  unfold Machine.execProducerResultArrival
  refine .next ?_
  split
  · exact .ite hs.performRead hs
  · split
    · split
      · exact .ite hs hs.deliver
      · exact hs
    · exact hs

theorem State.Canonical.execHomePortWriteApply {id : Nat} (hs : s.Canonical) : OutKept (execHomePortWriteApply id s) := by
  unfold Machine.execHomePortWriteApply
  refine .next ?_
  split
  · exact hs.dropAcc.accWrite
  · exact hs

/-! ## Atomics and reductions (Machine/Atomics.lean) -/

theorem BadKept.yCheck {k : Right} {va n : Nat} {count reads : Bool} : BadKept AccTr.bad (yCheck p e k va n count reads) := by
  unfold Machine.yCheck
  refine .ite (.bad .faultVa) ?_
  split
  next he => exact .bad (BadKept.trOne _ he)
  · extract_lets c
    refine .ite (.bad .faultVa) (.ite ?_ .ok)
    split
    · exact .bad .freeze
    · exact .ite (.bad .faultVa) .ok
    · exact .ok

theorem SlotRes.Kept.atomicRes {op : Nat} {w : Wd} {a b c : Reg} {x : Option Reg} : (atomicRes op w a b c x p s e).Kept := by
  unfold Machine.atomicRes
  extract_lets va v
  split
  next he => exact BadKept.yCheck _ he
  · refine .ok (fun s ht => ?_)
    dsimp only
    exact .update (.modSeat ht.freshId.snd)

theorem SlotRes.Kept.reduceRes {op : Nat} {w : Wd} {b c : Reg} : (reduceRes op w b c p s e).Kept := by
  unfold Machine.reduceRes
  extract_lets va
  split
  next he => exact BadKept.yCheck _ he
  · exact .ok (fun _ ht => ht.addAcc)

theorem SlotRes.Kept.evalLdacq {w : Wd} {a b : Reg} : (evalLdacq w a b p s e).Kept := by
  unfold Machine.evalLdacq
  extract_lets n va
  split
  next he => exact BadKept.yCheck _ he
  · exact .readLater

theorem SlotRes.Kept.evalStrel {w : Wd} {b c : Reg} : (evalStrel w b c p s e).Kept := by
  unfold Machine.evalStrel
  extract_lets n va
  split
  next he => exact BadKept.yCheck _ he
  · exact .ok (fun _ ht => ht.addAcc)

theorem SlotRes.Kept.evalFence {scope : BitVec 3} : (evalFence scope p s e).Kept := by
  unfold Machine.evalFence
  refine .ok (fun s ht => ?_)
  dsimp only
  exact .modSeat ht.freshId.snd

theorem SlotRes.Kept.evalPub {b : Reg} : (evalPub b p s e).Kept := by
  unfold Machine.evalPub
  extract_lets va
  split
  · exact .faultVa
  · exact .ok (fun _ ht => ht.addAcc)

theorem State.Canonical.accApply {a : Acc} {v : W64} (hs : s.Canonical) : (s.accApply a v).Canonical := by
  unfold State.accApply
  split
  · exact .ite hs.accWrite.tileTest hs.accWrite
  · exact hs

theorem State.Canonical.execAtomicApply {id : Nat} (hs : s.Canonical) : OutKept (execAtomicApply id s) := by
  unfold Machine.execAtomicApply
  extract_lets s1
  refine .next ?_
  split
  · split
    · exact hs.dropAcc.setResult
    · exact .setResult (.ite hs.dropAcc.noteRead hs.dropAcc.noteRead.accApply)
  · exact hs

theorem State.Canonical.execReductionApply {id : Nat} (hs : s.Canonical) : OutKept (execReductionApply id s) := by
  unfold Machine.execReductionApply
  extract_lets s1
  refine .next ?_
  split
  · split
    · exact hs.dropAcc.containCarr
    · exact hs.dropAcc.accApply
  · exact hs

theorem State.Canonical.execStrelApply {id : Nat} (hs : s.Canonical) : OutKept (execStrelApply id s) := by
  unfold Machine.execStrelApply
  refine .next ?_
  split
  · exact hs.dropAcc.accWrite
  · exact hs

theorem State.Canonical.execPubSwap {id : Nat} (hs : s.Canonical) : OutKept (execPubSwap id s) := by
  unfold Machine.execPubSwap
  refine .next ?_
  split
  · exact .ite hs hs.dropAcc.modCtx
  · exact hs

/-! ## Control flow and suspension (Machine/Control.lean) -/

theorem SlotRes.Kept.goTo {t : Addr} {pops : Bool} : (goTo t pops).Kept := .ok .id

theorem SlotRes.Kept.goLink {a : Reg} {t : Addr} : (goLink e a t).Kept := .ok (fun _ ht => ht.modSeat)

theorem SlotRes.Kept.takeIf {taken : Bool} {off : W32} : (takeIf e taken off).Kept := .ite .goTo (.ok .id)

theorem FetchKept.afterBundle {stop : Addr} : FetchKept (afterBundle s e stop) := by
  unfold Machine.afterBundle
  split
  next he => exact (FetchKept.fetchWord.kept he).error
  · split
    next he => exact (bundleWords_error (fun _ _ => FetchKept.fetchWord.kept) he).error
    · exact .ok

theorem SlotRes.Kept.loopRes {off : W32} {n : W64} {pop : State → State} (hf : Keeps pop) : (loopRes p e off n pop).Kept := by
  unfold Machine.loopRes
  extract_lets stop
  refine .ite .fault0 (.ite ?_ (.ok (fun _ ht => .modSeat (hf _ ht))))
  split
  next he => exact .wait (FetchKept.afterBundle _ he)
  · exact .faultVa
  · exact .ok hf

theorem SlotRes.Kept.evalLoop {b : Reg} {off : W32} : (evalLoop b off p s e).Kept := SlotRes.Kept.loopRes .id

theorem SlotRes.Kept.evalLoopq {n : BitVec 3} {off : W32} : (evalLoopq n off p s e).Kept := by
  unfold Machine.evalLoopq
  refine .ite .fault0 (.ite .cqFault ?_)
  split
  · exact .waits
  · exact .ite .waits (SlotRes.Kept.loopRes (fun _ ht => ht.modQuad))

theorem SlotRes.Kept.evalYield : (evalYield p s e).Kept := .ite .waits (.ite .fault0 (.okPost .id (fun _ ht => ht.leave)))

theorem SlotRes.Kept.suspendWord {w : W64} : (suspendWord p e w).Kept := by
  unfold Machine.suspendWord
  extract_lets x va aux
  refine .ite .waits ?_
  split
  next he => exact BadKept.wordTr _ he
  · split
    · exact .faultVa
    · exact .okPost .id (fun _ ht => .ite ht.suspendOn.satisfy ht.suspendOn)

theorem BadKept.handleBad {ctx : Nat} {h : W64} {wrong : Queue → Bool} : BadKept some (handleBad p ctx h wrong) :=
  .ite (.bad .fault) (.ite (.bad .fault) .ok)

theorem BadKept.queueWait {h : W64} : BadKept some (queueWait p e h) := .ite .ok (.bad (.wait (fun _ ht => ht.qHold)))

theorem State.Canonical.queuePass {h : W64} (hs : s.Canonical) : (s.queuePass e h).Canonical := hs.qEnter

theorem State.Canonical.takeOn {seat ctx h : Nat} {aux : BitVec 12} (hs : s.Canonical) : (s.takeOn seat ctx h aux).Canonical :=
  hs.queueLog.suspendOn.qServe

theorem SlotRes.Kept.suspendQueue {w : W64} : (suspendQueue p e w).Kept := by
  unfold Machine.suspendQueue
  extract_lets x h
  refine .ite .waits ?_
  split
  next he => exact BadKept.handleBad _ he
  · split
    next he1 => exact BadKept.queueWait _ he1
    · exact .ite .waits (.okPost .id (fun _ ht => ht.queuePass.takeOn))

theorem SlotRes.Kept.evalSuspend : (evalSuspend p s e).Kept := by
  unfold Machine.evalSuspend
  extract_lets w
  refine .ite .waits (.ite .fault0 ?_)
  split
  · exact .okPost .id (fun _ ht => ht.leave)
  · exact .suspendQueue
  · exact .okPost .id (fun _ ht => ht.suspendOn)
  · exact .suspendWord

theorem SlotRes.Kept.evalEndC : (evalEndC p s e).Kept := .okPost .id (fun _ ht => ht.endSeat)

theorem SlotRes.Kept.evalTrap {imm : BitVec 12} : (evalTrap imm p s e).Kept := .okPost .id (fun _ ht => ht.trapEntry)

theorem SlotRes.Kept.evalXret : (evalXret p s e).Kept := .ite .fault0 (.okPost .id (fun _ ht => ht.modSeat))

theorem SlotRes.Kept.evalUiret : (evalUiret p s e).Kept := .ite (.okPost .id (fun _ ht => ht.modSeat)) .fault0

/-! ## Barriers and counters (Machine/Barriers.lean) -/

theorem SlotRes.Kept.postWord {k : AKind} {b : Reg} {bad : Option W64} {v x : W64} {s1 : Seat → Seat} :
    (postWord p e k b bad v x s1).Kept := by
  unfold Machine.postWord
  extract_lets va
  split
  · exact .fault
  · split
    next he => exact BadKept.wordTr _ he
    · exact SlotRes.Kept.okAct (fun _ ht => ht.modSeat.addAcc)

theorem SlotRes.Kept.evalBarinit {b c : Reg} {own : Bool} : (evalBarinit b c own p s e).Kept := .postWord

theorem SlotRes.Kept.evalCtrset {b c : Reg} : (evalCtrset b c p s e).Kept := .postWord

theorem SlotRes.Kept.evalCtradd {b c : Reg} : (evalCtradd b c p s e).Kept := .postWord

theorem SlotRes.Kept.evalBararr {a b : Reg} : (evalBararr a b p s e).Kept := by
  unfold Machine.evalBararr
  extract_lets va
  split
  next he => exact BadKept.wordTr _ he
  · refine SlotRes.Kept.okAct (fun s ht => ?_)
    split
    next he1 => exact .update (.modSeat (ht.freshId _ _ he1))

theorem SlotRes.Kept.evalBartest {a b : Reg} : (evalBartest a b p s e).Kept := by
  unfold Machine.evalBartest
  extract_lets va
  split
  next he => exact BadKept.wordTr _ he
  · split
    · exact .faultVa
    · exact .readLater

theorem SlotRes.Kept.waitRes {kind : Nat} {a b : Reg} {aux : BitVec 12} {bad : Option W64} {cond : W64 → Bool} :
    (waitRes p e kind a b aux bad cond).Kept := by
  unfold Machine.waitRes
  extract_lets x va
  refine .ite .fault0 ?_
  split
  · exact .fault
  · split
    next he => exact BadKept.wordTr _ he
    · refine .ite .waits ?_
      split
      · exact .faultVa
      · exact .ite .okSeat (.okPost .id (fun _ ht => ht.suspendOn))

theorem SlotRes.Kept.evalBarwait {a b c : Reg} : (evalBarwait a b c p s e).Kept := by
  unfold Machine.evalBarwait
  exact .waitRes

theorem SlotRes.Kept.evalCtrwait {a b c : Reg} : (evalCtrwait a b c p s e).Kept := .waitRes

theorem State.Canonical.accContain {a : Acc} (hs : s.Canonical) : (s.accContain a).Canonical := hs.containCarr

theorem State.Canonical.execBarinitApply {id : Nat} (hs : s.Canonical) : OutKept (execBarinitApply id s) := by
  unfold Machine.execBarinitApply
  extract_lets s1
  refine .next ?_
  split
  · exact .ite hs.dropAcc.accContain hs.dropAcc.freeListed.applyWord
  · exact hs

theorem State.Canonical.execBarrierArrivalApply {id : Nat} (hs : s.Canonical) : OutKept (execBarrierArrivalApply id s) := by
  unfold Machine.execBarrierArrivalApply
  extract_lets s1
  refine .next ?_
  split
  · extract_lets k
    refine .ite hs.dropAcc.setResult ?_
    split
    next he1 => exact .deliver (hs.dropAcc.arrive _ _ he1)
  · exact hs

theorem State.Canonical.execCtrsetApply {id : Nat} (hs : s.Canonical) : OutKept (execCtrsetApply id s) := by
  unfold Machine.execCtrsetApply
  refine .next ?_
  split
  · exact hs.dropAcc.applyWord
  · exact hs

theorem State.Canonical.execCtraddApply {id : Nat} (hs : s.Canonical) : OutKept (execCtraddApply id s) := by
  unfold Machine.execCtraddApply
  extract_lets s1
  refine .next ?_
  split
  · exact .ite hs.dropAcc.accContain hs.dropAcc.applyWord
  · exact hs

theorem State.Canonical.execWaitSatisfied {carr : Nat} (hs : s.Canonical) : OutKept (execWaitSatisfied carr s) := by
  unfold Machine.execWaitSatisfied
  refine .next ?_
  split
  · exact hs.satisfy
  · exact hs

theorem State.Canonical.execDelayWaitExpiry {carr : Nat} (hs : s.Canonical) : OutKept (execDelayWaitExpiry carr s) := by
  unfold Machine.execDelayWaitExpiry
  refine .next ?_
  split
  · exact hs.wake.update
  · exact hs

/-! ## Queue forms (Machine/Queues.lean) -/

theorem BadKept.queueChk {h : W64} {wrong : Queue → Bool} : BadKept some (queueChk p e h wrong) := by
  unfold Machine.queueChk
  extract_lets ctx
  split
  next he => exact .bad (BadKept.handleBad _ he)
  · exact .queueWait

theorem SlotRes.Kept.queueAsk {k : AKind} {a : Reg} {h : W64} : (queueAsk p e k a h).Kept := by
  unfold Machine.queueAsk
  refine SlotRes.Kept.okAct (fun s ht => ?_)
  extract_lets s1
  split
  next he => exact .update (.modSeat (ht.queuePass.freshId _ _ he))

theorem SlotRes.Kept.evalQres {a c : Reg} : (evalQres a c p s e).Kept := by
  unfold Machine.evalQres
  extract_lets h
  split
  next he => exact BadKept.queueChk _ he
  · exact .queueAsk

theorem SlotRes.Kept.evalQcommit {b c : Reg} {rel : Bool} : (evalQcommit b c rel p s e).Kept := by
  unfold Machine.evalQcommit
  extract_lets h
  split
  next he => exact BadKept.queueChk _ he
  · exact SlotRes.Kept.okAct (fun _ ht => ht.queuePass.addAcc)

theorem SlotRes.Kept.takeWait {a : Reg} {h : W64} : (takeWait p e a h).Kept := by
  unfold Machine.takeWait
  extract_lets ctx q
  refine .ite .waits (.ite (SlotRes.Kept.okAct (fun s ht => ?_)) (.ite .waits (.okPost .id (fun _ ht => ht.queuePass.takeOn))))
  split
  next he =>
    split
    next he1 => exact .update (.modSeat ((State.Canonical.freshId (ht.queuePass.queueLog.qTake _ _ he)) _ _ he1))

theorem SlotRes.Kept.evalQtake {a c : Reg} {wait : Bool} : (evalQtake a c wait p s e).Kept := by
  unfold Machine.evalQtake
  extract_lets h
  refine .ite .fault0 ?_
  split
  next he => exact BadKept.queueChk _ he
  · exact .ite .takeWait .queueAsk

theorem State.Canonical.atHome {a : Acc} (hs : s.Canonical) : (s.atHome a).Kept := .ite .gone (.ite .here (.away hs.qHold))

theorem State.Canonical.lostResult {a : Acc} (hs : s.Canonical) : (s.lostResult a).Canonical := by
  unfold State.lostResult
  split
  next he => exact .deliver (.dropAcc (hs.freshWord _ _ he))

theorem State.Canonical.execQresApply {id : Nat} (hs : s.Canonical) : OutKept (execQresApply id s) := by
  unfold Machine.execQresApply
  refine .next ?_
  split
  · split
    · split
      next he2 => exact .deliver (hs.dropAcc.qEnter.qRes _ _ he2)
    next he1 => exact hs.atHome _ he1
    · exact hs.lostResult
  · exact hs

theorem State.Canonical.execQcommitApply {id : Nat} (hs : s.Canonical) : OutKept (execQcommitApply id s) := by
  unfold Machine.execQcommitApply
  refine .next ?_
  split
  · split
    · exact .ite hs.dropAcc.qEnter.qRelease hs.dropAcc.qEnter.qCommit
    next he1 => exact hs.atHome _ he1
    · exact hs.dropAcc
  · exact hs

theorem State.Canonical.execQtakeApply {id : Nat} (hs : s.Canonical) : OutKept (execQtakeApply id s) := by
  unfold Machine.execQtakeApply
  refine .next ?_
  split
  · refine .ite hs.dropAcc.deliver ?_
    split
    · split
      next he2 => exact .deliver (hs.dropAcc.qEnter.qTake _ _ he2)
    next he1 => exact hs.atHome _ he1
    · exact hs.lostResult
  · exact hs

/-! ## Fabric forms and work requests (Machine/Fabric.lean) -/

theorem State.Canonical.fabDone {a : Acc} {old : W64} (hs : s.Canonical) : (s.fabDone a old).Canonical :=
  .ite hs.dropAcc hs.dropAcc.deliver

theorem State.Canonical.fabLocal {a : Acc} {d : Nat} {l : Lent} (hs : s.Canonical) : (s.fabLocal a d l).Canonical := by
  unfold State.fabLocal
  extract_lets o old s1
  have h1 : s1.Canonical := by
    dsimp only [s1]
    split
    · exact hs.modDie
    · exact hs
  exact h1.fabDone

theorem State.Canonical.fabSend {d id : Nat} (hs : s.Canonical) : (s.fabSend d id).Canonical := by
  unfold State.fabSend
  split
  · exact hs
  · extract_lets cid s1
    refine .ite hs ?_
    split
    · exact hs.fabLocal
    · split
      · dsimp only [s1]
        exact hs.openConn
      · refine .ite ?_ hs.openConn
        split
        next he3 => exact .sendOn (.update (hs.openConn.newMsg _ _ he3))

theorem State.Canonical.modWreq {d id : Nat} {f : WReq → WReq} (hs : s.Canonical) : (s.modWreq d id f).Canonical := hs.modDie

theorem State.Canonical.nackRead {d : Nat} {w : WReq} {cause va : Nat} (hs : s.Canonical) : (s.nackRead d w cause va).Canonical :=
  hs.modDie.dropSent.modConn.emit

theorem State.Canonical.failWreq {d : Nat} {w : WReq} {cause va : Nat} (hs : s.Canonical) : (s.failWreq d w cause va).Canonical :=
  .ite hs.nackRead (.ite (.ite hs.cancelWreq hs.cancelWreq.errReleaseVa) hs.containCarr)

theorem State.Canonical.wrNext {d id : Nat} (hs : s.Canonical) : OptPairKept (s.wrNext d id) := by
  unfold State.wrNext
  split
  · exact .none
  · split
    · exact .none
    · extract_lets unacked i n data __src h
      refine .ite .none ?_
      clear_value data
      split
      · exact .some (.mk hs.noteHold)
      · exact .some (.mk hs.failWreq)
      · exact .some (.mk hs.modWreq.sendOn)

theorem State.Canonical.wrGo {fuel : Nat} {d id : Nat} (hs : s.Canonical) : (wrGo fuel s d id).Canonical := by
  induction fuel generalizing s with
  | zero => exact hs
  | succ fuel ih =>
    unfold Machine.wrGo
    split
    next t he => exact ih (hs.wrNext _ _ he)
    next t he => exact hs.wrNext _ _ he
    · exact hs

theorem State.Canonical.recallGo {d : Nat} (hs : s.Canonical) : (s.recallGo d).Canonical := by
  unfold State.recallGo
  refine .foldl (fun s l ht => .ite ht ?_) hs
  extract_lets s1
  split
  · exact ht.modDie.sendOn
  · dsimp only [s1]
    exact ht.modDie

theorem State.Canonical.pump {d : Nat} (hs : s.Canonical) : (s.pump d).Canonical :=
  .recallGo (.foldl (fun _ _ ht => ht.wrGo) (.foldl (fun _ _ ht => ht.fabSend) hs))

theorem SlotRes.Kept.fabRes {ptr o : W64} {n kind : Nat} {go : Nat → SlotRes} (hgo : ∀ va, (go va).Kept) :
    (fabRes p e ptr o n kind go).Kept := by
  refine .ite .fault (.ite .fault (.ite .fault ?_))
  split
  · exact .wait fun _ ht => ht.askKey
  · exact .fault
  next base _ => exact hgo _

theorem SlotRes.Kept.fabRead {k : AKind} {w : Wd} {a : Reg} {arr : BitVec 16} {ptr o v new : W64} {op : Nat} :
    (fabRead p e k w a arr ptr o v new op).Kept := by
  unfold Machine.fabRead
  refine SlotRes.Kept.fabRes (fun va => SlotRes.Kept.okAct (fun s ht => ?_))
  split
  next he => exact .pump (.update (.modSeat (ht.freshId _ _ he)))

theorem SlotRes.Kept.evalFst {w : Wd} {b c x : Reg} : (evalFst w b c x p s e).Kept := by
  unfold Machine.evalFst
  exact SlotRes.Kept.fabRes (fun _ => SlotRes.Kept.okAct (fun _ ht => ht.addAcc.pump))

theorem BadKept.wrCheck {ra : Nat} {l : List Byte} : BadKept some (wrCheck p e ra l) := by
  unfold Machine.wrCheck
  extract_lets c lctr kctr onDie
  refine .ite (.bad .fault0) (.ite (.bad .faultVa) (.ite (.bad .faultVa) (.ite (.bad .faultVa) (.ite (.bad .faultVa) ?_))))
  split
  · exact .ok
  · split
    · exact .ok
    · exact .bad .spanBad

theorem SlotRes.Kept.evalNwr {b : Reg} : (evalNwr b p s e).Kept := by
  unfold Machine.evalNwr
  extract_lets x ra
  refine .ite .faultVa ?_
  split
  next he => exact BadKept.earlyRead _ he
  · split
    next he1 => exact BadKept.wrCheck _ he1
    · split
      · exact .fault
      · exact .wait (fun _ ht => ht.askKey)
      · refine .ite .waits (SlotRes.Kept.okAct (fun s ht => ?_))
        split
        next he3 => exact .modDie (ht.freshId _ _ he3)

theorem State.Canonical.wrStart {d : Nat} {w : WReq} (hs : s.Canonical) : (s.wrStart d w).Canonical := by
  unfold State.wrStart
  extract_lets s1
  split
  · dsimp only [s1]
    exact hs.openConn
  · split
    next he1 => exact .pump (.modWreq (hs.openConn.newMsg _ _ he1))

theorem State.Canonical.execWrWrite {id : Nat} (hs : s.Canonical) : OutKept (execWrWrite id s) := by
  unfold Machine.execWrWrite
  refine .next ?_
  split
  · exact hs.wrStart
  · exact hs

theorem State.Canonical.execWrRead {id : Nat} (hs : s.Canonical) : OutKept (execWrRead id s) := by
  unfold Machine.execWrRead
  refine .next ?_
  split
  · exact hs.wrStart
  · exact hs

theorem State.Canonical.execWrVat {id : Nat} (hs : s.Canonical) : OutKept (execWrVat id s) := by
  unfold Machine.execWrVat
  refine .next ?_
  split
  · exact hs.wrStart
  · exact hs

theorem State.Canonical.addLctr {d ctx va n : Nat} (hs : s.Canonical) : (s.addLctr d ctx va n).Canonical := by
  unfold State.addLctr
  refine .ite hs ?_
  split
  · exact hs.keyLog.addCount
  · exact hs

theorem State.Canonical.forgetKey {ctx i : Nat} (hs : s.Canonical) : (s.forgetKey ctx i).Canonical :=
  .foldl (fun _ _ ht => ht.modDie) hs

theorem State.Canonical.keyDone {d : Nat} {w : WReq} (hs : s.Canonical) : (s.keyDone d w).Canonical := hs.forgetKey.modWreq

theorem State.Canonical.execWrKeyset {id : Nat} (hs : s.Canonical) : OutKept (execWrKeyset id s) := by
  unfold Machine.execWrKeyset
  refine .next ?_
  split
  · extract_lets i
    split
    · exact hs.wrNat.applyPieces.keyDone
    · exact hs.noteHold
    · exact hs.failWreq
    · exact hs
  · exact hs

theorem State.Canonical.execWrKeydel {id : Nat} (hs : s.Canonical) : OutKept (execWrKeydel id s) := by
  unfold Machine.execWrKeydel
  refine .next ?_
  split
  · split
    · exact hs.wrNat.keyDone
    · exact hs
  · exact hs

theorem State.Canonical.dropWreq {d id : Nat} (hs : s.Canonical) : (s.dropWreq d id).Canonical := hs.modDie

theorem State.Canonical.execWorkRequestComplete {id : Nat} (hs : s.Canonical) : OutKept (execWorkRequestComplete id s) := by
  unfold Machine.execWorkRequestComplete
  refine .next ?_
  split
  · exact .ite hs.dropWreq (.ite hs.addLctr.dropWreq hs)
  · exact hs

/-! ## Launches, notices and returns (Machine/Kernels.lean) -/

theorem SlotRes.Kept.evalLaunch {b c : Reg} : (evalLaunch b c p s e).Kept := by
  unfold Machine.evalLaunch
  extract_lets ctx h va q
  refine .ite .fault (.ite .faultVa ?_)
  split
  · refine .ite .fault ?_
    split
    next he1 => exact BadKept.queueWait _ he1
    · exact .ite (.wait (fun _ ht => ht.queuePass)) (SlotRes.Kept.okAct (fun _ ht => ht.queuePass.addAcc))
  · exact .spanBad

theorem SlotRes.Kept.evalTrig : (evalTrig p s e).Kept := SlotRes.Kept.okAct (fun _ ht => ht.addAcc)

theorem SlotRes.Kept.evalPdone : (evalPdone p s e).Kept := by
  unfold Machine.evalPdone
  split
  · exact .ite (SlotRes.Kept.okAct (fun _ ht => ht.addAcc)) .fault0
  · exact .fault0

theorem State.Canonical.execLaunchTakesEffect {id : Nat} (hs : s.Canonical) : OutKept (execLaunchTakesEffect id s) := by
  unfold Machine.execLaunchTakesEffect
  extract_lets s1
  refine .next ?_
  split
  · extract_lets q syl
    refine .ite hs.dropAcc.contain ?_
    split
    · exact hs.dropAcc.contain
    · exact .ite hs.qHold (.qEnter (hs.dropAcc.qPut.getD hs))
  · exact hs

theorem State.Canonical.execTrigTakesEffect {id : Nat} (hs : s.Canonical) : OutKept (execTrigTakesEffect id s) := by
  unfold Machine.execTrigTakesEffect
  extract_lets s1
  refine .next ?_
  split
  · extract_lets d lid told s2 s3
    have h2 : s2.Canonical := hs.dropAcc.modLent
    have h3 : s3.Canonical := by
      dsimp only [s3]
      split
      · exact .ite h2 h2.notify
      · exact h2
    split
    · dsimp only [s1]
      exact hs.dropAcc
    · exact .ite hs.dropAcc h3.settle
  · exact hs

theorem State.Canonical.execPdoneTakesEffect {id : Nat} (hs : s.Canonical) : OutKept (execPdoneTakesEffect id s) := by
  unfold Machine.execPdoneTakesEffect
  refine .next ?_
  split
  · exact hs.dropAcc.pointDone.settle
  · exact hs

theorem SlotRes.Kept.evalSvc {n : Nat} : (evalSvc n p s e).Kept := by
  unfold Machine.evalSvc
  refine SlotRes.Kept.okAct (fun s ht => ?_)
  split
  next he => exact .modDie (.update (.modSeat (ht.freshId _ _ he)))

theorem State.Canonical.execLaunchPacketReceived {die : Nat} (hs : s.Canonical) : OutKept (execLaunchPacketReceived die s) := by
  unfold Machine.execLaunchPacketReceived
  refine .next ?_
  split
  · exact hs
  · exact hs.modDie.settle

theorem State.Canonical.execCompletionNotice {die : Nat} (hs : s.Canonical) : OutKept (execCompletionNotice die s) := by
  unfold Machine.execCompletionNotice
  refine .next ?_
  extract_lets x later
  split
  · exact hs
  · exact hs.modDie.modLent.settle

theorem State.Canonical.execRindNotice {die : Nat} (hs : s.Canonical) : OutKept (execRindNotice die s) := by
  unfold Machine.execRindNotice
  refine .next ?_
  extract_lets x later
  split
  · exact hs
  · exact hs.modDie.setCount.settle

theorem State.Canonical.rindReopen {p : LPacket} {d : Nat} (hs : s.Canonical) : (s.rindReopen p d).Canonical := by
  unfold State.rindReopen
  split
  · exact hs.rindPut
  · exact hs

theorem State.Canonical.execRindRestore {die : Nat} (hs : s.Canonical) : OutKept (execRindRestore die s) := by
  unfold Machine.execRindRestore
  refine .next (.ite hs ?_)
  split
  · exact hs
  · split
    · exact hs
    · exact .fireAll (.modRind (.ite hs.rindReopen hs))

/-! ## Scalar forms (Machine/Scalar.lean) -/

theorem SlotRes.Kept.intDiv {w : Wd} {a b c : Reg} {f : W64 → W64 → W64} : (intDiv w a b c f p s e).Kept := .ite .fault0 .okLater

theorem SlotRes.Kept.flt2 {a b c : Reg} {f : W64 → W64 → W64 × Flags} : (flt2 a b c f p s e).Kept := .okSeat

theorem SlotRes.Kept.flt1 {a b : Reg} {f : W64 → W64 × Flags} : (flt1 a b f p s e).Kept := .okSeat

theorem SlotRes.Kept.evalFdiv {a b c : Reg} {rm : BitVec 2} {sat : Bool} : (evalFdiv a b c rm sat p s e).Kept := .okLater

theorem SlotRes.Kept.evalFsqrt {a b : Reg} {rm : BitVec 2} {sat : Bool} : (evalFsqrt a b rm sat p s e).Kept := .okLater

theorem SlotRes.Kept.evalFfma {a b c : Reg} {rm : BitVec 2} {sat : Bool} {x : Reg} : (evalFfma a b c rm sat x p s e).Kept :=
  .okSeat

theorem SlotRes.Kept.evalRdc {a : Reg} {num : BitVec 12} : (evalRdc a num p s e).Kept := by
  unfold Machine.evalRdc
  split
  · exact .okSeat
  · exact .fault0

theorem SlotRes.Kept.evalWrc {num : BitVec 12} {c : Reg} : (evalWrc num c p s e).Kept := .ite .okSeat .fault0

theorem SlotRes.Kept.evalStow {j b : Reg} {vec : Bool} : (evalStow j b vec p s e).Kept := .ite .okSeat .okSeat

theorem SlotRes.Kept.evalUnstow {a j : Reg} {vec : Bool} : (evalUnstow a j vec p s e).Kept :=
  .ite (.ite .okSeat .fault0) (.ite .okLater .fault0)

/-! ## Triggers (Machine/Triggers.lean) -/

theorem BadKept.tcCheck {l : List Byte} : BadKept some (tcCheck p e l) := by
  unfold Machine.tcCheck
  refine .ite (.bad .fault0) (.ite (.bad .faultFree) ?_)
  split
  next he => exact .bad (BadKept.wordChk _ he)
  · split
    · exact .bad .fault
    · exact .ok

theorem SlotRes.Kept.armRes {kind : Nat} {b c x : Reg} : (armRes kind b c x p s e).Kept := by
  unfold Machine.armRes
  extract_lets st thr va ra
  split
  · exact .fault
  · split
    next he1 => exact BadKept.wordTr _ he1
    · refine .ite .faultVa ?_
      split
      next he2 => exact BadKept.earlyRead _ he2
      · split
        next he3 => exact BadKept.ite .wrCheck .tcCheck _ he3
        · exact .ite .waits (SlotRes.Kept.okAct (fun _ ht => ht.addAcc))

theorem State.Canonical.execTriggerArmApply {id : Nat} (hs : s.Canonical) : OutKept (execTriggerArmApply id s) := by
  unfold Machine.execTriggerArmApply
  extract_lets s1
  refine .next ?_
  split
  · exact .ite hs.dropAcc.cancelTrig hs.dropAcc.armTrig
  · exact hs

theorem State.Canonical.dropFired {d : Nat} {t : Trig} (hs : s.Canonical) : (s.dropFired d t).Canonical := hs.modDie

theorem State.Canonical.fireCopy {d : Nat} {t : Trig} (hs : s.Canonical) : OptKept (s.fireCopy d t) := by
  unfold State.fireCopy
  split
  · exact .ite .none (.some hs.dropFired.enqueue)
  · exact .some hs.dropFired
  · exact .some hs.modDie
  · exact .none

theorem State.Canonical.fireSend {d : Nat} {t : Trig} (hs : s.Canonical) : OptKept (s.fireSend d t) := by
  unfold State.fireSend
  split
  · exact .some hs.dropFired.cancelTrig
  · exact .none
  · split
    · exact .some hs.dropFired.cancelTrig
    · exact .ite .none (.some hs.dropFired.modDie)

theorem State.Canonical.firedAsk {d : Nat} {t : Trig} (hs : s.Canonical) : (s.firedAsk d t).Canonical := by
  unfold State.firedAsk
  refine .ite ?_ ?_
  · split
    · exact hs.noteHold
    · exact hs
  · split
    · exact hs.askKey
    · exact hs

theorem State.Canonical.execFiredTcopyEnqueue {die : Nat} (hs : s.Canonical) : OutKept (execFiredTcopyEnqueue die s) := by
  unfold Machine.execFiredTcopyEnqueue
  refine .next ?_
  split
  next he => exact (OptKept.findSome? (fun _ => .ite hs.fireCopy hs.fireSend)) _ he
  · exact .foldl (fun _ _ ht => ht.firedAsk) hs

/-! ## The turn of a core's issue (Machine/Bundle.lean) -/

theorem EvalKept.evalOf (i : Instr) : EvalKept (evalOf i) := by
  intro p s e _ hs
  unfold Machine.evalOf
  cases i
  case jr => exact .goTo
  case jlr => exact .goLink
  case ret => exact .goTo
  case trap => exact .evalTrap
  case bra => exact .goTo
  case bl => exact .goLink
  case beq | bne | blt | bge | bltu | bgeu | bkany => exact .takeIf
  case loop => exact .evalLoop
  case loopq => exact .evalLoopq
  case add | sub | mul | mulh | mulhu => exact .okSeat
  case div | divu | rem | remu => exact .intDiv
  case and | or | xor | shl | shr | sar | shli | shri | sari | clz | ctz | popc | min | max | minu | maxu | seq | slt | sltu =>
    exact .okSeat
  case fadd | fsub | fmul => exact .flt2
  case fdiv => exact .evalFdiv
  case fsqrt => exact .evalFsqrt
  case fmin | fmax | fcmp => exact .flt2
  case fcvt => exact .flt1
  case rdc => exact .evalRdc
  case wrc => exact .evalWrc
  case stow => exact .evalStow
  case unstow => exact .evalUnstow
  case li | lih | lea | addi | andi | ori | xori => exact .okSeat
  case ldb | ldbu | ldh | ldhu | ldw | ldwu | ldd => exact .loadRes
  case stb | sth | stw | std => exact .storeRes
  case sel => exact .okSeat
  case ffma => exact .evalFfma
  case hcw => exact hs.evalHcw
  case lease => exact .evalLease
  case mzero => exact .evalMzero
  case pmrd => exact .evalPmrd
  case pmwr => exact .evalPmwr
  case hldc => exact .evalHldc
  case mma => exact .evalMma
  case mmas => exact .evalMmas
  case cmpr => exact .evalCmpr
  case mtrans => exact .evalMtrans
  case flu | fchol | fqr | ftrs | fperm => exact .factRes
  case hld => exact .evalHld
  case drain => exact .evalDrain
  case mdld => exact .evalMdld
  case mdst => exact .evalMdst
  case sbind => exact .okSeat
  case sstart => exact .evalSstart
  case sstop => exact .evalSstop
  case sdrain => exact .evalSdrain
  case spos => exact .evalSpos
  case tilearm => exact .evalTilearm
  case tiledis => exact .evalTiledis
  case cqpush => exact .evalCqpush
  case scfg => exact .evalScfg
  case shape => exact .evalShape
  case gld | sct => exact .gatherRes
  case copy | copyh | mcast => exact .copyRes
  case hcwld => exact .evalHcwld
  case aadd | amin | amax | aminu | amaxu | aand | aor | axor | aswp | afadd => exact .atomicRes
  case radd | rfadd | rmin | rmax | rand | ror => exact .reduceRes
  case ldacq => exact .evalLdacq
  case strel => exact .evalStrel
  case fence => exact .evalFence
  case pub => exact .evalPub
  case acas => exact .atomicRes
  case barinit => exact .evalBarinit
  case bararr => exact .evalBararr
  case barwait => exact .evalBarwait
  case bartest => exact .evalBartest
  case ctrset => exact .evalCtrset
  case ctradd => exact .evalCtradd
  case ctrwait => exact .evalCtrwait
  case tsend | tcopy => exact .armRes
  case qres => exact .evalQres
  case qcommit => exact .evalQcommit
  case qtake => exact .evalQtake
  case launch => exact .evalLaunch
  case fld => exact .fabRead
  case fst => exact .evalFst
  case fatom => exact .fabRead
  case nwr => exact .evalNwr
  case yield => exact .evalYield
  case suspend => exact .evalSuspend
  case endC => exact .evalEndC
  case xret => exact .evalXret
  case uiret => exact .evalUiret
  case vNop => exact .evalVNop
  case mNop => exact .okSeat
  case mrel => exact .evalMrel
  case msync => exact .evalMsync
  case xNop => exact .evalXNop
  case trig => exact .evalTrig
  case pdone => exact .evalPdone
  case svcPing | svcQstat | svcLstat | svcTime | svcLog => exact .evalSvc
  all_goals exact .fault0

theorem State.Canonical.land {core : Nat} (hs : s.Canonical) : PairKept (s.land core) :=
  .ite (.mk hs.modCore) (.mk (.foldl (fun _ _ ht => ht.modSeat) hs))

theorem State.Canonical.lateRead {id : Nat} (hs : s.Canonical) : (s.lateRead id).Canonical := by
  unfold State.lateRead
  split
  · exact .ite hs.modSeat.boundaryTrap hs
  · exact hs

theorem State.Canonical.redExpire {seat : Nat} (hs : s.Canonical) : (s.redExpire seat).Canonical :=
  .ite (.boundaryTrap (.modSeat (.modArr (.endRunSeat (.ite hs.modSeat hs))))) hs

theorem State.Canonical.wdExpire {seat : Nat} (hs : s.Canonical) : (s.wdExpire seat).Canonical := .ite hs.modSeat.boundaryTrap hs

theorem State.Canonical.userEntry {seat : Nat} (hs : s.Canonical) : (s.userEntry seat).Canonical := by
  unfold State.userEntry
  extract_lets x
  split
  · exact .ite hs.modSeat hs
  · exact hs

theorem State.Canonical.letPass {seat : Nat} (hs : s.Canonical) : (s.letPass seat).Canonical :=
  .foldl (fun _ _ ht => ht.modQueue) (.ite hs.modCtx hs)

theorem State.Canonical.tryIssue {seat : Nat} (hs : s.Canonical) : (s.tryIssue evalOf seat).Kept := .tryIssue .evalOf hs

theorem State.Canonical.askAll {core : Nat} (hs : s.Canonical) : (s.askAll core).Canonical := by
  refine .foldl (fun t k ht => ?_) hs
  split
  next f he => exact ht.tryIssue.ofWait f he _ ht.letPass
  · exact ht

theorem State.Canonical.issueCore {core : Nat} (hs : s.Canonical) : (s.issueCore core).Canonical := by
  unfold State.issueCore
  extract_lets run t
  refine .ite hs ?_
  clear_value run
  cases run with
  | some k => exact hs.tryIssue.apply hs
  | none =>
    dsimp only
    split
    · exact hs.askAll.tryIssue.apply hs.askAll
    · exact hs.askAll

theorem State.Canonical.execBundleIssue {core : Nat} (hs : s.Canonical) : OutKept (execBundleIssue core s) :=
  .ite (.next hs) (.ite .fault (.next hs.issueCore))

/-! ## Seating, saving and draining (Machine/Seats.lean) -/

theorem State.Canonical.seatOn {r : Rec} {seat : Nat} (hs : s.Canonical) : (s.seatOn r seat).Canonical := by
  unfold State.seatOn
  extract_lets full slot
  clear_value slot
  split
  · exact hs
  · exact hs.modCtx.update.modRec.setCarr.modSeat

theorem State.Canonical.loaded {seat : Nat} (hs : s.Canonical) : (s.loaded seat).Canonical := by
  unfold State.loaded
  extract_lets x go w0 va need bad s1 s2
  have hgo : ∀ y t, t.Canonical → (go y t).Canonical := fun y t ht => by
    dsimp only [go]
    split
    · exact ht.setSeat.modRec.contain
    · exact ht.setSeat.modRec
  have h2 : s2.Canonical := .setCarrWord hs.update
  refine .ite hs ?_
  split
  · exact hs
  · exact .ite (.ite hs (hgo _ _ h2.modRec)) (hgo _ _ hs)

theorem State.Canonical.execSeating {carr seat : Nat} (hs : s.Canonical) : OutKept (execSeating carr seat s) := by
  unfold Machine.execSeating
  refine .next ?_
  split
  · exact hs.seatOn
  · exact hs

theorem State.Canonical.preempt {seat : Nat} (hs : s.Canonical) : (s.preempt seat).Canonical := .ite hs.modCore.setSeat hs

theorem State.Canonical.bindReads {ctx carr : Nat} (hs : s.Canonical) : (s.bindReads ctx carr).Canonical :=
  .update (.foldl (fun _ _ ht => ht.noteRead) hs)

theorem State.Canonical.writeSave {seat : Nat} (hs : s.Canonical) : (s.writeSave seat).Canonical := by
  unfold State.writeSave
  extract_lets x now y pin
  split
  · exact hs
  · exact hs.writeImage.setCarrWord.setCarrWord.modRec.modCtx.endRun.freeSeat

theorem State.Canonical.seatWritten {seat : Nat} (hs : s.Canonical) : (s.seatWritten seat).Canonical := by
  unfold State.seatWritten
  extract_lets x s1
  split
  · exact .ite hs hs.freeSeat.rindSaves
  · exact .ite (.ite hs.bindReads.modSeat hs.bindReads) (.ite hs hs.writeSave.rindSaves)
  · exact hs

theorem State.Canonical.drainEnd {seat : Nat} (hs : s.Canonical) : (s.drainEnd seat).Canonical :=
  .ite (.rindSaves (.recGone (.freeSeat (.qVoidAll (.ite hs hs.releaseLease))))) hs

theorem State.Canonical.execOffSeatContainment {carr cause : Nat} {va : W64} (hs : s.Canonical) :
    OutKept (execOffSeatContainment carr cause va s) := by
  unfold Machine.execOffSeatContainment
  refine .next ?_
  split
  · exact hs.containCarr
  · exact hs

/-! ## The allocator (Machine/Allocator.lean) -/

theorem State.Canonical.poolPut {ctx : Nat} {slots : List Nat} {l : List Byte} (hs : s.Canonical) :
    (s.poolPut ctx slots l).Canonical :=
  .foldl (fun _ _ ht => ht.devFill) hs

theorem State.Canonical.saveGroup {c : Coach} {g : Nat} (hs : s.Canonical) : OptPairKept (s.saveGroup c g) := by
  fun_cases State.saveGroup s c g
  · exact .none
  · exact .some (.mk hs.modCtx.poolPut.modArr)

theorem State.Canonical.saveGroups {c : Coach} {gs : List Nat} (hs : s.Canonical) : OptPairKept (saveGroups c gs s) := by
  fun_induction Machine.saveGroups c gs s with
  | case1 s => exact .some (.mk hs)
  | case2 | case3 => exact .none
  | case4 s g gs x t he xs u he' ih => exact .some (.mk (ih (hs.saveGroup x t he) xs u he'))

theorem State.Canonical.swapSaves {d : Nat} (hs : s.Canonical) : (s.swapSaves d).Canonical := by
  unfold State.swapSaves
  refine .foldl (fun s c ht => .ite ?_ ht) hs
  split
  · exact ht
  next he => exact .setCarrWord (.putCoach (.modCoach (.update (ht.saveGroups _ _ he))))

theorem State.Canonical.restoreGroup {c : Coach} {q : Nat} {x : GSave} (hs : s.Canonical) : (s.restoreGroup c q x).Canonical :=
  .modCtx (.update (.wrBytes (PairKept.snd (.foldl (fun _ _ ht => .mk (.modArr ht.snd)) (.mk hs)))))

theorem State.Canonical.seatCoach {c : Coach} {c0 : Bool} {qs : Nat} (hs : s.Canonical) : (s.seatCoach c c0 qs).Canonical := by
  unfold State.seatCoach
  extract_lets seats s1 ms s2 s3 rest s4 c' s5
  have h1 : s1.Canonical := .foldl (fun _ _ ht => ht.restoreGroup) hs
  have h3 : s3.Canonical := .foldl (fun _ _ ht => ht.seatOn) h1.update
  have h4 : s4.Canonical := .foldl (fun _ _ ht => ht.modSeat) h3
  have h5 : s5.Canonical := h4.modCoach.putCoach
  exact h5.modLent

theorem State.Canonical.markSeats {f : Nat × Nat} {l : List Nat} (hs : s.Canonical) : (s.markSeats f l).Canonical :=
  .foldl (fun _ _ ht => ht.modSeat) hs

theorem State.Canonical.serveOne {r : Rec} (hs : s.Canonical) : (s.serveOne r).Canonical := by
  unfold State.serveOne
  extract_lets c0 f
  refine .ite hs ?_
  split
  · exact .ite hs.markSeats hs
  · exact hs.seatOn.update

theorem State.Canonical.serveCoach {c : Coach} (hs : s.Canonical) : (s.serveCoach c).Canonical := by
  unfold State.serveCoach
  extract_lets need c0
  refine .ite hs ?_
  split
  · exact hs.seatCoach
  · exact .ite hs.markSeats hs

theorem State.Canonical.execAllocatorServe {die : Nat} (hs : s.Canonical) : OutKept (execAllocatorServe die s) := by
  unfold Machine.execAllocatorServe
  extract_lets s1
  have h1 : s1.Canonical := hs.createDue.swapSaves
  refine .next (.foldl (fun s p ht => ?_) h1)
  split
  · exact ht.serveOne
  · exact ht.serveCoach

theorem State.Canonical.execCoachReserving {die : Nat} (hs : s.Canonical) : OutKept (execCoachReserving die s) := by
  unfold Machine.execCoachReserving
  refine .next ?_
  split
  · exact hs
  · exact .putCoach (.modCoach (.foldl (fun _ _ ht => ht.modSeat) hs))

theorem State.Canonical.execTeamSwapQuantum {die lid ctx : Nat} (hs : s.Canonical) :
    OutKept (execTeamSwapQuantum die lid ctx s) := by
  unfold Machine.execTeamSwapQuantum
  refine .next ?_
  split
  · exact hs
  · split
    · exact hs
    · extract_lets at_ s1 mine
      refine .ite hs (.ite (.foldl (fun s c ht => .ite (.foldl (fun s r ht1 => ?_) ht.modCoach) ht) hs.modLent) hs.modLent)
      split
      · exact ht1.modSeat
      · exact ht1

/-! ## Packets at the network engine (Machine/Engine.lean) -/

theorem State.Canonical.inConn {d : Nat} {h : Skf} (hs : s.Canonical) : OptKept (s.inConn d h) := .ite .none (.some hs.openConn)

theorem State.Canonical.genDropped {d : Nat} (hs : s.Canonical) : (s.genDropped d).Canonical := hs.modDie

theorem State.Canonical.reply {d : Nat} {h : Skf} {kind off : Nat} {data : List Byte} (hs : s.Canonical) :
    (s.reply d h kind off data).Canonical :=
  hs.modConn.emit

theorem State.Canonical.nackKey {d : Nat} {h : Skf} {reason off : Nat} (hs : s.Canonical) :
    (s.nackKey d h reason off).Canonical :=
  hs.reply

theorem State.Canonical.received {d : Nat} {out : Bool} {h : Skf} (hs : s.Canonical) : (s.received d out h).Canonical :=
  hs.modConn

theorem State.Canonical.answered {d : Nat} {h : Skf} {data : List Byte} (hs : s.Canonical) : (s.answered d h data).Canonical :=
  hs.received.modConn

theorem State.Canonical.sack {d : Nat} {out : Bool} {id : W32} {m : BitVec 32} (hs : s.Canonical) :
    (s.sack d out id m).Canonical := by
  unfold State.sack
  split
  · exact hs
  · extract_lets x s1
    split
    · exact hs
    · exact hs.modConn.reply

theorem State.Canonical.sackDue {d : Nat} {out : Bool} {h : Skf} (hs : s.Canonical) : (s.sackDue d out h).Canonical := by
  unfold State.sackDue
  split
  · exact .ite hs.sack hs
  · exact hs

theorem State.Canonical.noteRemote {d : Nat} {h : Skf} {page va n : Nat} (hs : s.Canonical) :
    (s.noteRemote d h page va n).Canonical := by
  unfold State.noteRemote
  extract_lets lo hi secs mine
  split
  · exact hs.modDie
  · exact .ite hs hs.addFault

theorem State.Canonical.placeOf {d : Nat} {h : Skf} {k : Right} {va n : Nat} (hs : s.Canonical) :
    (s.placeOf d h k va n).Kept := by
  unfold State.placeOf
  extract_lets ctx
  split
  · exact .ok
  · exact .later hs
  · exact .later hs.noteHold
  · exact .later (.ite hs.noteRemote hs)
  · exact .bad

theorem State.Canonical.execWriteData {die : Nat} {p : Pkt} (hs : s.Canonical) : OutKept (execWriteData die p s) := by
  unfold Machine.execWriteData
  refine .next ?_
  split
  · exact hs.genDropped
  next he =>
    have ht := hs.inConn _ he
    extract_lets h ctx n e va
    refine .ite ht.received.sackDue (.ite ht.reply ?_)
    split
    · split
      next he2 => exact .reply (ht.placeOf _ he2)
      · exact ht.reply
      · exact .ite ht.reply (.ite ht.reply ht.applyPieces.addLctr.received.sackDue)
    · exact ht.nackKey

theorem State.Canonical.execReadRequest {die : Nat} {p : Pkt} (hs : s.Canonical) : OutKept (execReadRequest die p s) := by
  unfold Machine.execReadRequest
  refine .next ?_
  split
  · exact hs.genDropped
  next he =>
    have ht := hs.inConn _ he
    extract_lets h ctx n va
    refine .ite ht (.ite ht.reply ?_)
    split
    · split
      next he2 => exact .reply (ht.placeOf _ he2)
      · exact ht.reply
      · split
        next he3 => exact .pump (.modDie (ht.received.freshId _ _ he3))
    · exact ht.nackKey

theorem State.Canonical.bumpCont {ctx va chip : Nat} (hs : s.Canonical) : (s.bumpCont ctx va chip).Canonical := by
  unfold State.bumpCont
  refine .ite hs ?_
  split
  · exact .ite hs (.ite hs.modDie hs.modDie.modCtx)

theorem State.Canonical.fabAccess {d : Nat} {p : Pkt} {kind op n : Nat} {v new : W64} (hs : s.Canonical) :
    (s.fabAccess d p kind op n v new).Canonical := by
  unfold State.fabAccess
  split
  · exact hs.genDropped
  next he =>
    have ht := hs.inConn _ he
    extract_lets h ctx old? va right lent key tile s1
    have h1 : s1.Canonical := .ite ht.keyLog ht
    clear_value old?
    split
    · exact ht.reply
    · refine .ite ht.reply ?_
      split
      · refine .ite ht.wantLine.modDie.recallGo ?_
        split
        next he2 => exact .reply (ht.placeOf _ he2)
        · exact ht.reply
        · extract_lets old s2 s3 lend line s4 data
          have h2 : s2.Canonical := by
            dsimp only [s2]
            split
            · exact .ite h1.applyPieces.tileTest h1.applyPieces
            · exact h1
          have h4 : s4.Canonical := .ite h2.bumpCont.modDie h2.bumpCont
          refine .ite ht.reply (.ite ht.reply ?_)
          split
          · exact ht.reply
          · exact h4.answered.reply
      · exact ht.nackKey

theorem State.Canonical.execLoadRequest {die : Nat} {p : Pkt} (hs : s.Canonical) : OutKept (execLoadRequest die p s) :=
  .next hs.fabAccess

theorem State.Canonical.execStore {die : Nat} {p : Pkt} (hs : s.Canonical) : OutKept (execStore die p s) := .next hs.fabAccess

theorem State.Canonical.execAtomicRequest {die : Nat} {p : Pkt} (hs : s.Canonical) : OutKept (execAtomicRequest die p s) :=
  .next hs.fabAccess

theorem State.Canonical.takeBack {d : Nat} {out : Bool} {h : Skf} {f : Sent → Bool} (hs : s.Canonical) :
    (s.takeBack d out h f).Canonical :=
  hs.modConn

theorem State.Canonical.ackWhere {d : Nat} {out : Bool} {h : Skf} {f : Sent → Bool} (hs : s.Canonical) :
    (s.ackWhere d out h f).Canonical :=
  .foldl (fun _ _ ht => ht.modWreq) hs.takeBack

theorem State.Canonical.resendPkt {d : Nat} {c : Conn} {p : Sent} (hs : s.Canonical) : (s.resendPkt d c p).Canonical :=
  hs.modConn.emit

theorem State.Canonical.giveBack {d : Nat} {l : Lent} (hs : s.Canonical) : (s.giveBack d l).Canonical := hs.emit

theorem State.Canonical.takeLine {d : Nat} {h : Skf} {l : List Byte} (hs : s.Canonical) : (s.takeLine d h l).Canonical := by
  unfold State.takeLine
  extract_lets x s1
  have h1 : s1.Canonical := by
    dsimp only [s1]
    split
    · exact .ite hs hs.modDie.giveBack
    · exact hs
  exact .ite hs h1.modDie

theorem State.Canonical.fabAnswer {d : Nat} {p : Pkt} (hs : s.Canonical) : (s.fabAnswer d p).Canonical := by
  unfold State.fabAnswer
  extract_lets h s1
  refine .ite hs.genDropped ?_
  split
  · exact hs
  · extract_lets n s2 s3
    have h2 : s2.Canonical := hs.ackWhere.takeLine
    have h3 : s3.Canonical := by
      dsimp only [s3]
      split
      · exact h2.fabDone
      · exact h2
    exact h3.pump

theorem State.Canonical.execLoadResponse {die : Nat} {p : Pkt} (hs : s.Canonical) : OutKept (execLoadResponse die p s) :=
  .next hs.fabAnswer

theorem State.Canonical.execAtomicResponse {die : Nat} {p : Pkt} (hs : s.Canonical) : OutKept (execAtomicResponse die p s) :=
  .next hs.fabAnswer

theorem State.Canonical.execReadResponseData {die : Nat} {p : Pkt} (hs : s.Canonical) :
    OutKept (execReadResponseData die p s) := by
  unfold Machine.execReadResponseData
  refine .next (.ite hs.genDropped (.ite hs.received.sackDue ?_))
  split
  · exact hs
  · extract_lets va
    split
    next he1 => exact .reply (hs.placeOf _ he1)
    · exact hs.failWreq
    · exact .ite hs.reply hs.applyPieces.addLctr.modWreq.ackWhere.received.sackDue.pump

theorem State.Canonical.fastResend {d : Nat} {out : Bool} {h : Skf} {data : List Byte} (hs : s.Canonical) :
    (s.fastResend d out h data).Canonical := by
  unfold State.fastResend
  split
  · exact hs
  · exact .foldl (fun _ _ ht => ht.modConn.resendPkt) hs

theorem State.Canonical.execSack {die : Nat} {p : Pkt} (hs : s.Canonical) : OutKept (execSack die p s) :=
  .next (.ite hs.genDropped (.pump (.fastResend (.foldl (fun _ _ ht => ht.fabDone) hs.ackWhere))))

theorem State.Canonical.execRetry {die : Nat} {p : Pkt} (hs : s.Canonical) : OutKept (execRetry die p s) := by
  unfold Machine.execRetry
  refine .next (.ite hs.genDropped ?_)
  split
  · exact hs
  · exact .ite hs hs.modConn.modDie.pump

theorem State.Canonical.execNack {die : Nat} {p : Pkt} (hs : s.Canonical) : OutKept (execNack die p s) := by
  unfold Machine.execNack
  extract_lets h cause va s1
  refine .next (.ite hs.genDropped ?_)
  split
  · split
    · exact hs.failWreq.pump
    · exact hs
  · extract_lets s2
    have h2 : s2.Canonical := by
      dsimp only [s2]
      split
      · exact hs.takeBack.dropAcc.containCarr
      · split
        · exact hs.takeBack.failWreq
        · dsimp only [s1]
          exact hs.takeBack
    exact h2.pump

theorem State.Canonical.execVatMessage {die : Nat} {p : Pkt} (hs : s.Canonical) : OutKept (execVatMessage die p s) := by
  unfold Machine.execVatMessage
  refine .next ?_
  split
  · exact hs.genDropped
  next he => exact .ite (.modDie (hs.inConn _ he)) (.sack (.received (hs.inConn _ he)))

theorem State.Canonical.execCancel {die : Nat} {p : Pkt} (hs : s.Canonical) : OutKept (execCancel die p s) := by
  unfold Machine.execCancel
  refine .next ?_
  split
  · exact hs.genDropped
  next he =>
    have ht := hs.inConn _ he
    extract_lets h
    refine .ite ?_ ht.modDie.dropSent
    split
    · exact .ite ht ht.errReleaseVa
    · exact ht

theorem State.Canonical.execKeyreq {die : Nat} {p : Pkt} (hs : s.Canonical) : OutKept (execKeyreq die p s) := by
  unfold Machine.execKeyreq
  refine .next ?_
  extract_lets h data
  split
  next he => exact .ite (hs.inConn _ he) (.reply (hs.inConn _ he))
  · exact hs.genDropped

theorem State.Canonical.execKeyrsp {die : Nat} {p : Pkt} (hs : s.Canonical) : OutKept (execKeyrsp die p s) :=
  .next (.ite hs.genDropped (.foldl (fun _ _ ht => ht.modDie) hs.ackWhere))

theorem State.Canonical.execRecall {die : Nat} {p : Pkt} (hs : s.Canonical) : OutKept (execRecall die p s) := by
  unfold Machine.execRecall
  refine .next ?_
  split
  · exact hs.modDie.emit
  · exact hs

theorem State.Canonical.execLineReturn {die : Nat} {p : Pkt} (hs : s.Canonical) : OutKept (execLineReturn die p s) := by
  unfold Machine.execLineReturn
  refine .next (.ite hs.genDropped ?_)
  split
  · exact hs
  · exact hs.modDie.modConn.apply.modDie

theorem State.Canonical.execSackTimer {die : Nat} {conn msgid : W32} (hs : s.Canonical) :
    OutKept (execSackTimer die conn msgid s) := by
  unfold Machine.execSackTimer
  extract_lets go
  have hgo : ∀ out, OptKept (go out) := fun out t ht => by
    obtain ⟨c, -, hc⟩ := Option.bind_eq_some_iff.mp ht
    exact OptKept.ite (.some hs.sack) .none t hc
  exact .next (OptKept.getD (.or (hgo _) (hgo _)) hs)

theorem State.Canonical.execRetransmitTimeout {die id : Nat} (hs : s.Canonical) : OutKept (execRetransmitTimeout die id s) := by
  unfold Machine.execRetransmitTimeout
  refine .next ?_
  split
  · exact .ite hs.resendPkt hs
  · exact hs

theorem State.Canonical.execRetryResend {die : Nat} (hs : s.Canonical) : OutKept (execRetryResend die s) := by
  unfold Machine.execRetryResend
  refine .next ?_
  split
  · exact hs.modDie.modConn.resendPkt
  · exact hs

theorem State.Canonical.execContentionHalving (hs : s.Canonical) : OutKept (execContentionHalving s) := .next (.ite hs.update hs)

theorem State.Canonical.kindDropped {d : Nat} (hs : s.Canonical) : (s.kindDropped d).Canonical := hs.modDie

theorem State.Canonical.engineTakes {d : Nat} {p : Pkt} (hs : s.Canonical) : OutKept (s.engineTakes d p) := by
  unfold State.engineTakes
  split
  · exact hs.execWriteData
  · exact hs.execReadRequest
  · exact hs.execReadResponseData
  · exact hs.execLoadRequest
  · exact hs.execLoadResponse
  · exact hs.execStore
  · exact hs.execAtomicRequest
  · exact hs.execAtomicResponse
  · exact hs.execVatMessage
  · exact hs.execSack
  · exact hs.execRetry
  · exact hs.execNack
  · exact hs.execCancel
  · exact hs.execKeyreq
  · exact hs.execKeyrsp
  · exact hs.execRecall
  · exact hs.execLineReturn
  · exact .next hs.kindDropped

theorem State.Canonical.engineNext {d : Nat} (hs : s.Canonical) : OutKept (s.engineNext d) := by
  unfold State.engineNext
  split
  · exact .next hs
  · exact hs.modDie.engineTakes

/-! ## Commands of the firmware (Machine/Firmware.lean) -/

theorem State.Canonical.publish {d : Nat} {r : Nat × Nat × Option Nat × Entry} (hs : s.Canonical) : PairKept (s.publish d r) := by
  unfold State.publish
  extract_lets q
  refine .ite (.mk hs) (.ite (.mk hs.qMiss) ?_)
  split
  next t he =>
    split at he
    · exact .mk (hs.qFill _ he)
    · exact .mk (hs.qPut _ he)
  · exact .mk hs

theorem State.Canonical.publishAll {d : Nat} {rs : List (Nat × Nat × Option Nat × Entry)} {held : List (Nat × Nat)}
    (hs : s.Canonical) : PairKept (publishAll d rs held s) := by
  induction rs generalizing held s with
  | nil => exact .mk hs
  | cons r rs ih =>
    unfold Machine.publishAll
    split
    · exact .mk (ih hs).snd
    · exact .mk (ih hs.publish.snd).snd

theorem State.Canonical.postReports {d : Nat} (hs : s.Canonical) : (s.postReports d).Canonical := by
  unfold State.postReports
  extract_lets l
  split
  next he => exact .modDie (hs.modDie.publishAll _ _ he)

theorem State.Canonical.report {c : Cmd} {status lid : Nat} {detail : W64} (hs : s.Canonical) :
    (s.report c status lid detail).Canonical :=
  .ite hs hs.modDie.postReports

theorem State.Canonical.dropCmd {c : Cmd} (hs : s.Canonical) : (s.dropCmd c).Canonical := hs.modDie

theorem State.Canonical.runCmd {c : Cmd} {op : Nat} {f : State → CRes} (hs : s.Canonical) (hf : (f s).Kept) :
    (s.runCmd c op f).Canonical := by
  unfold State.runCmd
  refine .ite hs ?_
  split
  · exact hs.dropCmd.report
  · split
    next t he => exact hf.ofWait t he
    next t he => exact (hf.ofLater t he).dropCmd
    next t st detail he => exact (hf.ofDone t st detail he).dropCmd.report

theorem State.Canonical.runBad {c : Cmd} (hs : s.Canonical) : (s.runBad c).Canonical := hs.dropCmd.report

theorem State.Canonical.cmdFail {c : Cmd} {r : TrRange} (hs : s.Canonical) : (s.cmdFail c r).Kept := by
  unfold State.cmdFail
  split
  · exact .done hs
  · exact .wait hs.noteHold
  · exact .wait hs

theorem State.Canonical.doNop (hs : s.Canonical) : (doNop s).Kept := .later hs

theorem State.Canonical.clearTags {ctx slot : Nat} (hs : s.Canonical) : (s.clearTags ctx slot).Canonical := hs.update

theorem State.Canonical.doLoadimg {c : Cmd} (hs : s.Canonical) : (doLoadimg c s).Kept := by
  unfold Machine.doLoadimg
  extract_lets slot src n x m base
  refine .ite (.wait hs) ?_
  split
  · exact hs.cmdFail
  · extract_lets a s1 s2
    have h1 : s1.Canonical := .ite hs hs.devFill
    refine .ite (.done hs) (.ite (.done hs) ?_)
    split
    · exact .done h1.modCtx.clearTags
    · exact hs.cmdFail

theorem State.Canonical.doUnloadimg {c : Cmd} (hs : s.Canonical) : (doUnloadimg c s).Kept :=
  .ite (.wait hs) (.done hs.modCtx.clearTags)

theorem State.Canonical.doInvoke {c : Cmd} (hs : s.Canonical) : (doInvoke c s).Kept := by
  unfold Machine.doInvoke
  extract_lets slot m va
  refine .ite (.done hs) (.ite (.done hs) ?_)
  split
  · exact hs.cmdFail
  · exact .ite (.done hs) (.ite (.done hs) (.later hs.modDie))

theorem State.Canonical.invokeReport {p : LPacket} {status lid : Nat} (hs : s.Canonical) :
    (s.invokeReport p status lid).Canonical :=
  .ite hs hs.modDie.postReports

theorem State.Canonical.assign {p : LPacket} (hs : s.Canonical) : (s.assign p).Canonical :=
  .ite hs.modDie.invokeReport (.invokeReport (.foldl (fun _ _ ht => ht.modDie) hs.modDie.modCtx))

theorem State.Canonical.assignGo {l : List LPacket} (hs : s.Canonical) : (assignGo l s).Canonical := by
  induction l generalizing s with
  | nil => exact hs
  | cons p l ih => exact .ite (ih hs.assign) hs

theorem State.Canonical.assignAll (hs : s.Canonical) : s.assignAll.Canonical := hs.assignGo

theorem State.Canonical.doWaitl {c : Cmd} (hs : s.Canonical) : (doWaitl c s).Kept := by
  unfold Machine.doWaitl
  extract_lets lid bad
  refine .ite (.done hs) ?_
  split
  · exact .ite (.later hs.report) (.later hs.modLent)
  · exact .ite (.wait hs) (.later hs.update.report)

theorem State.Canonical.startEviction {d : Nat} (hs : s.Canonical) : (s.startEviction d).Canonical := by
  unfold State.startEviction
  refine .ite hs ?_
  split
  · exact hs.modQueue
  · exact hs

theorem State.Canonical.endEviction {d : Nat} (hs : s.Canonical) : (s.endEviction d).Canonical := by
  unfold State.endEviction
  split
  · split
    next he1 => exact .modQueue (hs.freshWord _ _ he1)
  · exact hs

theorem State.Canonical.serveMisses {l : List (Nat × Nat)} {d : Nat} (hs : s.Canonical) : (serveMisses l s d).Canonical := by
  induction l generalizing s with
  | nil => exact hs
  | cons m l ih =>
    refine .ite (ih hs.modDie) ?_
    split
    · exact ih hs.modQueue.modDie
    · exact hs.startEviction

theorem State.Canonical.endLoad {ctx h : Nat} (hs : s.Canonical) : (s.endLoad ctx h).Canonical := .ite hs.modQueue hs

theorem State.Canonical.queueSlot {d : Nat} (hs : s.Canonical) : (s.queueSlot d).Canonical := by
  unfold State.queueSlot
  extract_lets s1 s2 s3
  have h2 : s2.Canonical := .foldl (fun _ _ ht => ht.endLoad) hs.endEviction
  exact .ite h2.serveMisses (.ite h2.serveMisses.startEviction h2.serveMisses.modDie)

theorem State.Canonical.doQcreate {c : Cmd} (hs : s.Canonical) : (doQcreate c s).Kept := by
  unfold Machine.doQcreate
  extract_lets w0 h d pin
  refine .ite (.done hs) ?_
  split
  · refine .ite (.done hs) (.ite (.done hs) ?_)
    split
    · exact .ite (.wait hs.modDie) (.done hs.modQueue)
    · exact .done hs.modQueue
  · exact hs.cmdFail

theorem State.Canonical.dropTickets {ctx h : Nat} (hs : s.Canonical) : (s.dropTickets ctx h).Canonical :=
  .foldl (fun _ _ ht => ht.modDie) hs

theorem State.Canonical.destroyQueue {ctx h : Nat} (hs : s.Canonical) : (s.destroyQueue ctx h).Canonical :=
  .dropTickets (.modQueue (.foldl (fun _ _ ht => ht.wake) hs.update))

theorem State.Canonical.doQdestroy {c : Cmd} (hs : s.Canonical) : (doQdestroy c s).Kept :=
  .ite (.done hs) (.ite (.done hs) (.ite (.wait hs) (.done hs.destroyQueue)))

theorem State.Canonical.doQpin {c : Cmd} (hs : s.Canonical) : (doQpin c s).Kept := by
  unfold Machine.doQpin
  exact .ite (.done hs) (.ite (.done hs.modQueue) (.ite (.done hs) (.ite (.done hs) (.ite (.done hs.modQueue) (.wait hs.qMiss)))))

theorem State.Canonical.answer {v : W64} (hs : s.Canonical) : (s.answer v).Canonical := hs.update

theorem State.Canonical.hostBytes {ctx h : Nat} (hs : s.Canonical) : (s.hostBytes ctx h).Canonical :=
  .foldl (fun _ _ ht => .ite ht ht.apply) hs.update

theorem State.Canonical.hostNote {ctx h : Nat} {k : BitVec 32} (hs : s.Canonical) : (s.hostNote ctx h k).Canonical :=
  .ite hs.update hs

theorem State.Canonical.hostDo {ctx h : Nat} {v : W64} {k : Nat} (hs : s.Canonical) : (s.hostDo ctx h v k).Canonical := by
  unfold State.hostDo
  extract_lets s1 s2
  have h1 : s1.Canonical := hs.queueLog.qTouch
  have h2 : s2.Canonical := h1.hostBytes.hostNote
  refine .ite h2.qCommit (.ite h1.qRelease (.ite ?_ ?_))
  · split
    next he => exact .answer (h1.qRes _ _ he)
  · split
    next he => exact .answer (h1.qTake _ _ he)

theorem State.Canonical.hostRead {ctx h k : Nat} (hs : s.Canonical) : (s.hostRead ctx h k).Canonical :=
  .ite hs.answer (.ite hs.qMiss.qTouch.answer (.ite hs.hostDo hs.update))

theorem State.Canonical.hostWrite {ctx h : Nat} {v : W64} {k : Nat} (hs : s.Canonical) : (s.hostWrite ctx h v k).Canonical :=
  .ite hs (.ite hs.hostDo hs.qMiss.qTouch.update)

/-! ## Page commands (Machine/Pages.lean) -/

theorem State.Canonical.cacheAdd {quad : Nat} {e : Nat × Nat × Bool} (hs : s.Canonical) : (s.cacheAdd quad e).Canonical :=
  hs.modQuad

theorem State.Canonical.walkEnd {d : Nat} (hs : s.Canonical) : (s.walkEnd d).Canonical := by
  unfold State.walkEnd
  extract_lets run s1
  split
  · exact hs
  · split
    · exact .ite (.foldl (fun _ _ ht => ht.cacheAdd) hs.update.modDie) hs.update.modDie

theorem State.Canonical.invalidate {ctx lo hi : Nat} (hs : s.Canonical) : (s.invalidate ctx lo hi).Canonical :=
  .foldl (fun _ _ ht => ht.modDie) hs.update

theorem State.Canonical.deliverRec {d : Nat} {r : FRec} (hs : s.Canonical) : (s.deliverRec d r).Canonical := by
  unfold State.deliverRec
  extract_lets nsec h
  split
  next he => exact .modDie (hs.qPut _ he)
  · exact hs.qMiss

theorem State.Canonical.execFaultRecordDelivery {die : Nat} (hs : s.Canonical) : OutKept (execFaultRecordDelivery die s) := by
  unfold Machine.execFaultRecordDelivery
  refine .next ?_
  split
  · exact hs.deliverRec
  · exact hs

theorem State.Canonical.deliverAll {d : Nat} (hs : s.Canonical) : (s.deliverAll d).Canonical :=
  .foldl (fun _ _ ht => ht.deliverRec) hs

theorem State.Canonical.pageDone {c : Cmd} {lo hi : Nat} {page : Option Nat} (hs : s.Canonical) :
    (s.pageDone c lo hi page).Kept := by
  unfold State.pageDone
  split
  next he => exact .later (.modDie (hs.invalidate.freshId _ _ he))

theorem State.Canonical.poolShort {need : Bool} (hs : s.Canonical) : PairKept (s.poolShort need) := .ite (.mk hs.update) (.mk hs)

theorem State.Canonical.doMap {c : Cmd} (hs : s.Canonical) : (doMap c s).Kept := by
  unfold Machine.doMap
  split
  · exact .done hs
  · refine .ite (.wait hs) (.ite (.done hs) ?_)
    split
    · exact .done hs
    · split
      next done _ he2 => exact .ite (.done (hs.poolShort _ _ he2)) (State.Canonical.pageDone (.modCtx (hs.poolShort _ _ he2)))

theorem State.Canonical.doUnmap {c : Cmd} (hs : s.Canonical) : (doUnmap c s).Kept := by
  unfold Machine.doUnmap
  split
  · exact .done hs
  · refine .ite (.wait hs) ?_
    extract_lets x
    split
    · exact .done hs
    · split
      next done _ he2 => exact .ite (.done (hs.poolShort _ _ he2)) (State.Canonical.pageDone (.modCtx (hs.poolShort _ _ he2)))

theorem State.Canonical.doProtect {c : Cmd} (hs : s.Canonical) : (doProtect c s).Kept := by
  unfold Machine.doProtect
  split
  · exact .done hs
  · refine .ite (.wait hs) ?_
    extract_lets x
    split
    · exact .done hs
    · split
      next done _ he2 => exact .ite (.done (hs.poolShort _ _ he2)) (State.Canonical.pageDone (.modCtx (hs.poolShort _ _ he2)))

theorem State.Canonical.migStart {c : Cmd} {lo hi page : Nat} (hs : s.Canonical) : (s.migStart c lo hi page).Canonical := by
  unfold State.migStart
  extract_lets s1
  refine .ite ?_ hs.report
  split
  next he => exact .modDie (hs.modCtx.invalidate.freshId _ _ he)

theorem State.Canonical.doMigrate {c : Cmd} (hs : s.Canonical) : (doMigrate c s).Kept := by
  unfold Machine.doMigrate
  extract_lets va n page inward x frame
  refine .ite (.wait hs) (.ite ?_ (.done hs))
  split
  · exact .done hs
  · split
    next done _ he1 => exact .ite (.done (hs.poolShort _ _ he1)) (.later (.migStart (hs.poolShort _ _ he1)))

theorem State.Canonical.moveBytes {from_ to_ n : Nat} (hs : s.Canonical) : (s.moveBytes from_ to_ n).Canonical :=
  wf_splice hs to_ n fun i => SMap.get memDefault s.mem (from_ + i)

theorem State.Canonical.migPage {c : Cmd} {lo page : Nat} (hs : s.Canonical) : (s.migPage c lo page).Canonical := by
  unfold State.migPage
  exact .ite (.foldl (fun _ _ ht => ht.modDie) (.modCtx (.ite hs.moveBytes hs.moveBytes))) (.modCtx
    (.ite hs.moveBytes hs.moveBytes))

theorem State.Canonical.jobStep {j : PageJob} (hs : s.Canonical) : (s.jobStep j).Canonical := by
  unfold State.jobStep
  split
  · extract_lets s1
    refine .ite hs ?_
    split
    · exact hs.modDie.report
    · exact .ite hs.modDie.migPage.migStart hs.modDie.migPage.report

theorem State.Canonical.jobsStep {d : Nat} (hs : s.Canonical) : (s.jobsStep d).Canonical := .foldl (fun _ _ ht => ht.jobStep) hs

theorem State.Canonical.resolveRec {d : Nat} {r : FRec} {replay : Bool} (hs : s.Canonical) :
    (s.resolveRec d r replay).Canonical := by
  unfold State.resolveRec
  extract_lets s1 go hit
  refine .ite ?_ (.ite (.ite hs.modDie.update hs.modDie.update) hs.modDie)
  split
  · exact hs.modDie.modTrans
  · exact hs.modDie.modCtx

theorem State.Canonical.doResolve {c : Cmd} (hs : s.Canonical) : (doResolve c s).Kept := by
  unfold Machine.doResolve
  extract_lets d rid
  split
  · exact .done hs
  · exact .done hs.resolveRec

theorem State.Canonical.doPbcreate {c : Cmd} (hs : s.Canonical) : (doPbcreate c s).Kept := by
  unfold Machine.doPbcreate
  extract_lets va n i fa fb x page l
  refine .ite (.wait hs) (.ite ?_ (.done hs))
  split
  · exact .done hs
  · split
    next done _ he1 =>
      exact .ite (.done (hs.poolShort _ _ he1)) (State.Canonical.pageDone (.modCtx (.wipe (.wipe (hs.poolShort _ _ he1)))))

theorem State.Canonical.doPbdestroy {c : Cmd} (hs : s.Canonical) : (doPbdestroy c s).Kept := by
  unfold Machine.doPbdestroy
  extract_lets i x
  split
  · exact .done hs
  · extract_lets page mine
    split
    · exact .done hs
    · exact hs.modCtx.pageDone

/-! ## Context commands (Machine/Contexts.lean) -/

theorem State.Canonical.doCtxcreate {c : Cmd} (hs : s.Canonical) : (doCtxcreate c s).Kept := by
  unfold Machine.doCtxcreate
  extract_lets tag st __src
  refine .ite (.done hs) ?_
  split
  · exact hs.cmdFail
  · extract_lets w
    refine .ite (.done hs) ?_
    split
    · exact hs.cmdFail
    · exact .ite (.done hs) (.done hs.setCtx)

theorem State.Canonical.doCtxload {c : Cmd} (hs : s.Canonical) : (doCtxload c s).Kept := by
  unfold Machine.doCtxload
  extract_lets t x key
  refine .ite (.done hs) (.ite (.done hs) ?_)
  split
  · exact .done hs
  · exact .ite (.done hs) (.done (.modCtx (.foldl (fun _ _ ht => ht.wipe) hs.update)))

theorem State.Canonical.doCtxres {c : Cmd} (hs : s.Canonical) : (doCtxres c s).Kept :=
  .ite (.done hs) (.ite (.done hs) (.done hs.modCtx))

theorem State.Canonical.devList {ctx va : Nat} {l : List Byte} (hs : s.Canonical) : (s.devList ctx va l).Canonical := by
  unfold State.devList
  exact hs.devFill

theorem State.Canonical.saveArr {ctx quad : Nat} (hs : s.Canonical) : (s.saveArr ctx quad).Canonical := by
  unfold State.saveArr
  extract_lets a base held s1
  have h1 : s1.Canonical := by
    refine .foldl (fun s e ht => ?_) hs
    extract_lets r bytes s2 s3 t
    have h3 : s3.Canonical := .ite ht.devList.devList ht.devList
    split
    · exact ht.devPut.devPut
    · exact h3.devPut.devPut
  exact .foldl (fun _ _ ht => ht.modArr) h1

theorem State.Canonical.restoreRes {ctx quad i : Nat} (hs : s.Canonical) : OptKept (s.restoreRes ctx quad i) :=
  .ite (.some hs) (.ite .none (.some hs.modArr))

theorem State.Canonical.saveCqs {ctx quad : Nat} (hs : s.Canonical) : (s.saveCqs ctx quad).Canonical :=
  .ite (.modQuad (.foldl (fun _ _ ht => ht.devList) hs)) (.foldl (fun _ _ ht => ht.devList) hs)

theorem State.Canonical.restoreCqs {ctx quad : Nat} (hs : s.Canonical) : (s.restoreCqs ctx quad).Canonical :=
  .foldl (fun _ _ ht => .ite ht ht.modQuad) hs

theorem State.Canonical.saveWindow {ctx quad : Nat} (hs : s.Canonical) : (s.saveWindow ctx quad).Canonical :=
  .ite hs hs.devFill.devFill.wipe.modCtx

theorem State.Canonical.restoreWindow {ctx quad : Nat} (hs : s.Canonical) : (s.restoreWindow ctx quad).Canonical := by
  unfold State.restoreWindow
  extract_lets n area k s1 p
  have h1 : s1.Canonical := hs.modCtx
  exact .ite hs (wf_splice h1 k n _)

theorem State.Canonical.saveSync {ctx d : Nat} {ts : List Trans} {trigs : List Trig} (hs : s.Canonical) :
    (s.saveSync ctx d ts trigs).Canonical :=
  hs.devFill.update.devList

theorem State.Canonical.quiesceDie {ctx d : Nat} (hs : s.Canonical) : (s.quiesceDie ctx d).Canonical := by
  unfold State.quiesceDie
  extract_lets quads ts trigs s1 s2 s3 s4 s5 s6
  have h1 : s1.Canonical := .foldl (fun _ _ ht => ht.saveArr.saveCqs) hs
  have h3 : s3.Canonical := .foldl (fun _ _ ht => ht.modQuad) h1.saveSync
  have h5 : s5.Canonical := .foldl (fun _ _ ht => ht.saveWindow) h3.modDie
  exact h5.devList.modCtx

theorem State.Canonical.quiesceTurn {d : Nat} (hs : s.Canonical) : (s.quiesceTurn d).Canonical :=
  .foldl (fun _ _ ht => .ite ht.quiesceDie ht) hs

theorem State.Canonical.unreserve {c : Coach} (hs : s.Canonical) : (s.unreserve c).Canonical :=
  .putCoach (.modCoach (.foldl (fun _ _ ht => ht.modSeat) hs))

theorem State.Canonical.doCtxquiesce {c : Cmd} (hs : s.Canonical) : (doCtxquiesce c s).Kept := by
  unfold Machine.doCtxquiesce
  extract_lets t s1 s2 s3 s4
  have h2 : s2.Canonical := .foldl (fun _ _ ht => ht.unreserve) hs.modCtx
  have h4 : s4.Canonical := .foldl (fun _ _ ht => .rindSaves (.foldl (fun _ _ ht1 => ht1.evictRind) ht)) h2.update
  exact .ite (.done hs) (.later h4)

theorem State.Canonical.quiesceDone {ctx : Nat} (hs : s.Canonical) : (s.quiesceDone ctx).Canonical := by
  unfold State.quiesceDone
  extract_lets c s1 s2
  have h1 : s1.Canonical := .foldl (fun _ _ ht => .ite ht.quiesceDie ht) hs
  refine .ite (.ite ?_ h1) hs
  split
  · exact h1.modCtx.report
  · dsimp only [s2]
    exact h1.modCtx

theorem State.Canonical.execQuiesceComplete {ctx : Nat} (hs : s.Canonical) : OutKept (execQuiesceComplete ctx s) :=
  .next hs.quiesceDone

theorem State.Canonical.startRecord {ctx : Nat} (hs : s.Canonical) : (s.startRecord ctx).Canonical := hs.modCtx

theorem State.Canonical.rearm {d : Nat} {t : Trig} (hs : s.Canonical) : (s.rearm d t).Canonical := .ite hs.cancelTrig hs.armTrig

theorem State.Canonical.restorePart {ctx quad part : Nat} (hs : s.Canonical) : OptKept (s.restorePart ctx quad part) :=
  .ite (.ite (.some hs.restoreWindow) .none) (.ite (.ite (.some hs.restoreCqs) .none) hs.restoreRes)

theorem State.Canonical.restoreQuad {ctx quad : Nat} (hs : s.Canonical) : (s.restoreQuad ctx quad).Canonical := by
  unfold State.restoreQuad
  refine .foldl (fun s part ht => .ite ht ?_) hs
  split
  next he => exact .modCtx (ht.restorePart _ he)
  · exact ht

theorem State.Canonical.restoreSync {ctx : Nat} (hs : s.Canonical) : (s.restoreSync ctx).Canonical := by
  unfold State.restoreSync
  exact .foldl (fun _ _ ht => .ite ht.satisfy ht) (.foldl (fun _ _ ht => ht.modQuad) (.foldl (fun _ _ ht => ht.rearm) hs.modCtx))

theorem State.Canonical.doCtxrun {c : Cmd} (hs : s.Canonical) : (doCtxrun c s).Kept := by
  unfold Machine.doCtxrun
  extract_lets t st s1
  have h1 : s1.Canonical := .foldl (fun _ _ ht => ht.restoreQuad) hs
  exact .ite (.done hs.modCtx) (.ite (.done hs) (.ite (.done h1.restoreSync.startRecord.modCtx) (.wait h1)))

theorem State.Canonical.doCtxkill {c : Cmd} (hs : s.Canonical) : (doCtxkill c s).Kept := .ite (.done hs.killCtx) (.done hs)

theorem State.Canonical.purge {ctx : Nat} (hs : s.Canonical) : (s.purge ctx).Canonical :=
  .foldl (fun _ _ ht => ht.modDie.retireConns) hs.freeWindows.update

theorem State.Canonical.doCtxdestroy {c : Cmd} (hs : s.Canonical) : (doCtxdestroy c s).Kept := by
  unfold Machine.doCtxdestroy
  extract_lets t x s1 s2 __src
  have h2 : s2.Canonical := by
    dsimp only [s2]
    split
    · exact hs.purge.update
    · dsimp only [s1]
      exact hs.purge
  exact .ite (.done h2.setCtx) (.done hs)

theorem State.Canonical.doAttest {c : Cmd} (hs : s.Canonical) : (doAttest c s).Kept := by
  unfold Machine.doAttest
  extract_lets t va nonce
  refine .ite (.done hs) (.ite (.done hs) ?_)
  split
  · exact .done hs.frontWrite
  · exact hs.cmdFail

theorem State.Canonical.doRecord {c : Cmd} (hs : s.Canonical) : (doRecord c s).Kept :=
  .ite (.done hs) (.ite (.done hs.modCtx) (.done hs.modCtx))

theorem State.Canonical.logFull (hs : s.Canonical) : s.logFull.Canonical := by
  unfold State.logFull
  refine .foldl (fun s e ht => ?_) hs
  split
  · exact .ite ht.modCtx ht.modCtx.modDie
  · exact ht

theorem State.Canonical.execReplayDivergence {ctx : Nat} (hs : s.Canonical) : OutKept (execReplayDivergence ctx s) :=
  .next (.ite hs.killCtx hs)

/-! ## Micro-operations and packets of a vat (Machine/Vats.lean) -/

theorem State.Canonical.payload {p : VPkt} (hs : s.Canonical) : PairKept (p.payload s) := .ite (.mk hs) (.mk hs.update)

theorem State.Canonical.vatCount {vat i : Nat} (hs : s.Canonical) : (s.vatCount vat i).Canonical := hs.modVat

theorem State.Canonical.vatHalf {vat i : Nat} {high : Bool} (hs : s.Canonical) : (s.vatHalf vat i high).Canonical := hs.modVat

theorem State.Canonical.tidyRaised {vat : Nat} (hs : s.Canonical) : (s.tidyRaised vat).Canonical := hs.modVat

theorem State.Canonical.raiseFlags {vat id : Nat} {fl : Flags} (hs : s.Canonical) : (s.raiseFlags vat id fl).Canonical := by
  unfold State.raiseFlags
  extract_lets old new s1 s2 s3 s4 s5
  have h2 : s2.Canonical := .ite hs.modVat.vatCount hs.modVat
  have h3 : s3.Canonical := .ite h2.vatCount h2
  have h4 : s4.Canonical := .ite h3.vatHalf h3
  have h5 : s5.Canonical := .ite h4.vatHalf h4
  exact .ite h5.vatCount h5

theorem State.Canonical.putPkt {vat : Nat} {p : VPkt} (hs : s.Canonical) : (s.putPkt vat p).Canonical := hs.modVat

theorem State.Canonical.pktGone {vat id : Nat} (hs : s.Canonical) : (s.pktGone vat id).Canonical := hs.modVat.tidyRaised

theorem State.Canonical.setVreg {vat epoch ctx stage r : Nat} {w : W64} (hs : s.Canonical) :
    (s.setVreg vat epoch ctx stage r w).Canonical :=
  hs.modVat

theorem State.Canonical.parkPkt {vat : Nat} {p : VPkt} {conn : W32} (hs : s.Canonical) : (s.parkPkt vat p conn).Canonical :=
  .ite hs.pktGone.vatCount hs.modDie.pktGone

theorem State.Canonical.stopPkt {vat : Nat} {p : VPkt} {why : VStop} (hs : s.Canonical) : (s.stopPkt vat p why).Canonical := by
  unfold State.stopPkt
  split
  · exact hs.pktGone.vatCount
  · exact hs.update.pktGone.vatCount
  · exact hs.pktGone.vatCount.modVat
  · exact hs.pktGone.vatHalf
  · exact hs.pktGone
  · exact hs.parkPkt

theorem State.Canonical.setOwner {e : MEnv} {w : MWork} {tag : Nat} (hs : s.Canonical) : (setOwner e s w tag).Kept :=
  .ite (.go hs) (.ite (.stop hs) (.ite (.stop hs) (.go hs.logAdd)))

theorem State.Canonical.putField {e : MEnv} {w : MWork} {off n v : Nat} {ctxForm : Bool} (hs : s.Canonical) :
    (putField e s w off n v ctxForm).Kept :=
  .ite (.ite hs.setOwner (.stop hs)) (.ite (.go hs) (.stop hs))

theorem State.Canonical.evalNopa {e : MEnv} {w : MWork} (hs : s.Canonical) : (evalNopa e s w).Kept := .go hs

theorem State.Canonical.evalExt {h : BitVec 9} {len1 : BitVec 5} {off : BitVec 13} {e : MEnv} {w : MWork} (hs : s.Canonical) :
    (evalExt h len1 off e s w).Kept := by
  unfold Machine.evalExt
  extract_lets n pos __src
  refine .ite ?_ (.stop hs)
  split
  · exact .go hs

theorem State.Canonical.evalSetf {h : BitVec 9} {wd : BitVec 2} {imm : BitVec 16} {e : MEnv} {w : MWork} (hs : s.Canonical) :
    (evalSetf h wd imm e s w).Kept :=
  hs.putField

theorem State.Canonical.evalAddfImm {h : BitVec 9} {wd : BitVec 2} {imm : BitVec 15} {e : MEnv} {w : MWork} (hs : s.Canonical) :
    (evalAddfImm h wd imm e s w).Kept :=
  .ite hs.putField (.stop hs)

theorem State.Canonical.evalAddfField {h : BitVec 9} {wd : BitVec 2} {src : BitVec 9} {e : MEnv} {w : MWork} (hs : s.Canonical) :
    (evalAddfField h wd src e s w).Kept :=
  .ite hs.putField (.stop hs)

theorem State.Canonical.evalLkp {b : BitVec 2} {key res : BitVec 9} {e : MEnv} {w : MWork} (hs : s.Canonical) :
    (evalLkp b key res e s w).Kept := by
  unfold Machine.evalLkp
  extract_lets w1
  refine .ite (.stop hs) ?_
  split
  · exact .stop hs
  · refine .ite (.stop hs) ?_
    split
    · exact .go hs
    · exact .ite (.stop hs) (.ite (.stop hs) (.go hs))

theorem State.Canonical.evalHash {h : BitVec 9} {len1 : BitVec 5} {e : MEnv} {w : MWork} (hs : s.Canonical) :
    (evalHash h len1 e s w).Kept :=
  .ite (.go hs) (.stop hs)

theorem State.Canonical.evalRte {mode : BitVec 2} {e : MEnv} {w : MWork} (hs : s.Canonical) : (evalRte mode e s w).Kept :=
  .ite (.go hs) (.stop hs)

theorem State.Canonical.evalRewr {b : BitVec 2} {i : BitVec 3} {h : BitVec 9} {e : MEnv} {w : MWork} (hs : s.Canonical) :
    (evalRewr b i h e s w).Kept := by
  unfold Machine.evalRewr
  extract_lets x
  split
  · exact .stop hs
  · exact .ite (.stop hs) (.ite (.stop hs) (.go hs))

theorem State.Canonical.evalScore {b : BitVec 2} {d1 : BitVec 10} {g1 : BitVec 6} {k1 : BitVec 3} {e : MEnv} {w : MWork}
    (hs : s.Canonical) : (evalScore b d1 g1 k1 e s w).Kept := by
  unfold Machine.evalScore
  extract_lets d g hv
  split
  · exact .stop hs
  · refine .ite (.stop hs) (.ite (.stop hs) ?_)
    split
    next he1 => exact .go (.raiseFlags (hs.payload _ _ he1))

theorem State.Canonical.postLines {e : MEnv} {p : VPkt} {k : AKind} {op key va : Nat} {l : List Byte} (hs : s.Canonical) :
    (s.postLines e p k op key va l).Canonical :=
  .foldl (fun _ _ ht => ht.addAcc) hs

theorem State.Canonical.evalAddt {b mode : BitVec 2} {h : BitVec 9} {e : MEnv} {w : MWork} (hs : s.Canonical) :
    (evalAddt b mode h e s w).Kept := by
  unfold Machine.evalAddt
  extract_lets n o len
  split
  · exact .stop hs
  · refine .ite (.stop hs) ?_
    split
    next he1 => exact .go (.postLines (hs.payload _ _ he1))

theorem State.Canonical.evalDepo {b : BitVec 2} {h : BitVec 9} {e : MEnv} {w : MWork} (hs : s.Canonical) :
    (evalDepo b h e s w).Kept := by
  unfold Machine.evalDepo
  extract_lets o
  split
  · exact .stop hs
  · refine .ite (.stop hs) ?_
    split
    next he1 => exact .go (.postLines (hs.payload _ _ he1))

theorem State.Canonical.evalBump {quad : BitVec 5} {tile : BitVec 8} {amt : BitVec 14} {e : MEnv} {w : MWork} (hs : s.Canonical) :
    (evalBump quad tile amt e s w).Kept :=
  .ite (.stop hs) (.go hs.addAcc)

theorem State.Canonical.rgaField {f : W64 → W64 → W64} {r : BitVec 12} {h : BitVec 9} {e : MEnv} {w : MWork} (hs : s.Canonical) :
    (rgaField f r h e s w).Kept := by
  unfold Machine.rgaField
  split
  · exact .stop hs
  · exact .ite (.stop hs) (.ite (.stop hs) (.go hs.setVreg))

theorem State.Canonical.evalRgaAdd {r : BitVec 12} {h : BitVec 9} {e : MEnv} {w : MWork} (hs : s.Canonical) :
    (evalRgaAdd r h e s w).Kept :=
  hs.rgaField

theorem State.Canonical.evalRgaSwap {r : BitVec 12} {h : BitVec 9} {e : MEnv} {w : MWork} (hs : s.Canonical) :
    (evalRgaSwap r h e s w).Kept :=
  hs.rgaField

theorem State.Canonical.evalRgaUmax {r : BitVec 12} {h : BitVec 9} {e : MEnv} {w : MWork} (hs : s.Canonical) :
    (evalRgaUmax r h e s w).Kept :=
  hs.rgaField

theorem State.Canonical.evalRgaPush {r : BitVec 12} {quad : BitVec 5} {cq : BitVec 3} {sh : BitVec 4} {e : MEnv} {w : MWork}
    (hs : s.Canonical) : (evalRgaPush r quad cq sh e s w).Kept := by
  unfold Machine.evalRgaPush
  split
  · exact .stop hs
  · exact .ite (.stop hs) (.go (.ite hs.setVreg.vatCount hs.setVreg.cqAdd))

theorem State.Canonical.evalFwd {eport : Bool} {port : BitVec 7} {e : MEnv} {w : MWork} (hs : s.Canonical) :
    (evalFwd eport port e s w).Kept :=
  .ite (.ite (.stop hs) (.go hs)) (.go hs)

theorem State.Canonical.evalAbsorb {e : MEnv} {w : MWork} (hs : s.Canonical) : (evalAbsorb e s w).Kept := .go hs

theorem State.Canonical.evalMirr {port : BitVec 7} {trunc : Bool} {e : MEnv} {w : MWork} (hs : s.Canonical) :
    (evalMirr port trunc e s w).Kept :=
  .ite (.go hs) (.stop hs)

theorem State.Canonical.evalDrop {reason : BitVec 8} {e : MEnv} {w : MWork} (hs : s.Canonical) : (evalDrop reason e s w).Kept :=
  .stop hs

theorem State.Canonical.evalRecirc {stage : BitVec 4} {e : MEnv} {w : MWork} (hs : s.Canonical) : (evalRecirc stage e s w).Kept :=
  .ite (.stop hs) (.go hs)

theorem State.Canonical.evalMark {ce setc : Bool} {cls : BitVec 2} {e : MEnv} {w : MWork} (hs : s.Canonical) :
    (evalMark ce setc cls e s w).Kept :=
  .ite (.stop hs) (.go hs)

theorem State.Canonical.evalHold {h : BitVec 9} {e : MEnv} {w : MWork} (hs : s.Canonical) : (evalHold h e s w).Kept :=
  .ite (.stop hs) (.ite (.ite (.stop hs) (.stop hs)) (.go hs))

theorem State.Canonical.microEval {i : Instr} {e : MEnv} {w : MWork} (hs : s.Canonical) : (microEval i e s w).Kept := by
  unfold Machine.microEval
  cases i
  case nopa => exact hs.evalNopa
  case ext => exact hs.evalExt
  case setf => exact hs.evalSetf
  case addfImm => exact hs.evalAddfImm
  case addfField => exact hs.evalAddfField
  case lkp => exact hs.evalLkp
  case hash => exact hs.evalHash
  case rte => exact hs.evalRte
  case rewr => exact hs.evalRewr
  case score => exact hs.evalScore
  case addt => exact hs.evalAddt
  case bump => exact hs.evalBump
  case depo => exact hs.evalDepo
  case rgaAdd => exact hs.evalRgaAdd
  case rgaSwap => exact hs.evalRgaSwap
  case rgaUmax => exact hs.evalRgaUmax
  case rgaPush => exact hs.evalRgaPush
  case fwd => exact hs.evalFwd
  case absorb => exact hs.evalAbsorb
  case mirr => exact hs.evalMirr
  case drop => exact hs.evalDrop
  case recirc => exact hs.evalRecirc
  case mark => exact hs.evalMark
  case hold => exact hs.evalHold
  all_goals exact .stop hs

theorem State.Canonical.wordGo {e : MEnv} {us : List W32} {w : MWork} (hs : s.Canonical) : (wordGo e us s w).Kept := by
  induction us generalizing s w with
  | nil => exact .go hs
  | cons u us ih =>
    unfold Machine.wordGo
    split
    · exact .stop hs
    · refine .ite (.stop hs) ?_
      split
      next t w' he => exact ih (hs.microEval.ofGo t w' he)
      next t w' y he => exact .stop (hs.microEval.ofStop t w' y he)

theorem State.Canonical.stageGo {e : MEnv} {n : Nat} {us : List W32} {w : MWork} (hs : s.Canonical) :
    (stageGo e n us s w).Kept := by
  induction n generalizing us s w with
  | zero => exact .stop hs
  | succ n ih =>
    unfold Machine.stageGo
    split
    next t w' y he => exact .stop (hs.wordGo.ofStop t w' y he)
    next t w' he =>
      have ht := hs.wordGo.ofGo t w' he
      split
      · exact .go ht
      · exact .ite (.stop ht) (ih ht)

theorem State.Canonical.runStage {vat : Nat} {p : VPkt} {n : Nat} {first : Option (List W32)} (hs : s.Canonical) :
    (s.runStage vat p n first).Canonical := by
  unfold State.runStage
  extract_lets tag
  refine .ite hs.stopPkt ?_
  split
  · exact hs.putPkt
  · extract_lets e
    split
    next he1 => exact .putPkt (hs.stageGo.ofGo _ _ he1)
    next he1 => exact .stopPkt (hs.stageGo.ofStop _ _ _ he1)

theorem State.Canonical.execStageExecute {vat : Nat} (hs : s.Canonical) : OutKept (execStageExecute vat s) := by
  unfold Machine.execStageExecute
  refine .next ?_
  split
  · exact hs
  · exact hs.runStage
  · exact hs.update.runStage

theorem State.Canonical.microSolo {i : Instr} (hs : s.Canonical) : OutKept (microSolo i s) := by
  unfold Machine.microSolo
  refine .next ?_
  split
  · exact hs.runStage
  · exact hs

theorem State.Canonical.admitPkt {port : Nat} {bytes : List Byte} {replayed : Bool} (hs : s.Canonical) :
    (s.admitPkt port bytes replayed).Canonical := by
  unfold State.admitPkt
  extract_lets vat
  split
  next he => exact .vatCount (.modVat (hs.freshId _ _ he))

theorem State.Canonical.execFrameArrival {port : Nat} {bytes : List Byte} (hs : s.Canonical) :
    OutKept (execFrameArrival port bytes s) :=
  .next (.ite hs (.ite (.ite hs (.ite hs.modPort (.ite hs.modPort hs.admitPkt))) hs.admitPkt))

theorem State.Canonical.execRecordedPacketDelivery {ctx : Nat} (hs : s.Canonical) :
    OutKept (execRecordedPacketDelivery ctx s) := by
  unfold Machine.execRecordedPacketDelivery
  refine .next (.ite ?_ hs)
  split
  · exact hs
  · exact hs.met.update.admitPkt

theorem State.Canonical.execParse {vat : Nat} (hs : s.Canonical) : OutKept (execParse vat s) := by
  unfold Machine.execParse
  refine .next ?_
  extract_lets v
  split
  · exact hs
  · extract_lets len
    split
    · exact hs.pktGone.vatCount
    · extract_lets plo hv __src
      split
      next he2 => exact .putPkt (hs.freshId _ _ he2)

theorem State.Canonical.sendFrame {port : Nat} {l : List Byte} {cls : Nat} {p : VPkt} (hs : s.Canonical) :
    (s.sendFrame port l cls p).Canonical :=
  .ite hs.toEgress (.ite hs.modPort hs)

theorem State.Canonical.sendMirrors {vat : Nat} {p : VPkt} {l : List Byte} (hs : s.Canonical) :
    (s.sendMirrors vat p l).Canonical :=
  .foldl (fun _ _ ht => .ite ht.update.vatCount ht.update.sendFrame) hs

theorem State.Canonical.execVerdict {vat : Nat} (hs : s.Canonical) : OutKept (execVerdict vat s) := by
  unfold Machine.execVerdict
  refine .next ?_
  split
  · exact hs
  · extract_lets l fwd ab s1 s2 s3
    have h1 : s1.Canonical := hs.pktGone.sendMirrors
    have h2 : s2.Canonical := .ite h1.modDie h1
    have h3 : s3.Canonical := .ite h2.sendFrame h2
    exact .ite h3.vatCount (.ite h3.vatCount h3.vatHalf)

theorem State.Canonical.execRecircReentry {vat : Nat} (hs : s.Canonical) : OutKept (execRecircReentry vat s) := by
  unfold Machine.execRecircReentry
  refine .next ?_
  split
  · exact hs
  · extract_lets n
    split
    next he1 => exact .modVat (hs.freshId _ _ he1)

theorem State.Canonical.unpark {p : VPkt} (hs : s.Canonical) : (s.unpark p).Canonical := by
  unfold State.unpark
  extract_lets vat
  split
  next he => exact .modVat (hs.freshId _ _ he)

theorem State.Canonical.serveHold {die : Nat} {conn : W32} (hs : s.Canonical) : (s.serveHold die conn).Canonical := by
  unfold State.serveHold
  extract_lets s1
  have h1 : s1.Canonical := by
    refine .ite hs ?_
    split
    · exact hs.inConn.getD hs
    · exact hs
  exact .foldl (fun _ _ ht => ht.modDie) h1

theorem State.Canonical.execHoldTimeout {die : Nat} (hs : s.Canonical) : OutKept (execHoldTimeout die s) := by
  unfold Machine.execHoldTimeout
  refine .next ?_
  split
  · exact hs
  · exact hs.modDie.vatCount.tidyRaised

theorem State.Canonical.pipeError {a : Acc} (hs : s.Canonical) : (s.pipeError a).Canonical := hs.stopPkt

theorem State.Canonical.execPipelineLineApply {id : Nat} (hs : s.Canonical) : OutKept (execPipelineLineApply id s) := by
  unfold Machine.execPipelineLineApply
  refine .next ?_
  split
  · exact hs
  · extract_lets key
    refine .ite hs (.ite (.ite hs.pipeError ?_) hs.dropAcc.apply.tidyRaised)
    split
    · exact hs.dropAcc.raiseFlags.apply.tidyRaised

theorem State.Canonical.execPipelineBumpApply {id : Nat} (hs : s.Canonical) : OutKept (execPipelineBumpApply id s) := by
  unfold Machine.execPipelineBumpApply
  refine .next ?_
  split
  · exact hs
  · exact .ite hs (.ite hs.pipeError hs.dropAcc.addCount.tidyRaised)

/-! ## Tables and stage programs (Machine/Stages.lean) -/

theorem State.Canonical.loadParser {vat : Nat} {l : List Byte} (hs : s.Canonical) : (s.loadParser vat l).Canonical := hs.modVat

theorem State.Canonical.doPload {c : Cmd} (hs : s.Canonical) : (doPload c s).Kept := by
  unfold Machine.doPload
  split
  · exact hs.cmdFail
  · exact .ite (.done hs) (.done (.foldl (fun _ _ ht => ht.loadParser) hs))

theorem State.Canonical.setStage {vat ctx stage : Nat} {g : Option Prog} (hs : s.Canonical) :
    (s.setStage vat ctx stage g).Canonical :=
  hs.modVat

theorem State.Canonical.doSload {c : Cmd} (hs : s.Canonical) : (doSload c s).Kept := by
  unfold Machine.doSload
  extract_lets vats va
  split
  · exact hs.cmdFail
  · refine .ite (.done hs) ?_
    split
    · exact hs.cmdFail
    · exact .ite (.done hs) (.done (.modCtx (.foldl (fun _ _ ht => ht.setStage) hs)))

theorem State.Canonical.doSunload {c : Cmd} (hs : s.Canonical) : (doSunload c s).Kept :=
  .done (.foldl (fun _ _ ht => ht.setStage) hs)

theorem State.Canonical.doTcreate {c : Cmd} (hs : s.Canonical) : (doTcreate c s).Kept := by
  unfold Machine.doTcreate
  extract_lets w kind klen cap d short s1
  refine .ite (.done hs) ?_
  split
  · exact .done hs.update.modDie
  · exact .done hs.update

theorem State.Canonical.doTwrite {c : Cmd} (hs : s.Canonical) : (doTwrite c s).Kept := by
  unfold Machine.doTwrite
  split
  · exact .done hs
  · extract_lets n
    split
    · exact hs.cmdFail
    · extract_lets es
      refine .ite (.done hs) ?_
      split
      · exact .done hs.modDie

theorem State.Canonical.doTdestroy {c : Cmd} (hs : s.Canonical) : (doTdestroy c s).Kept := by
  unfold Machine.doTdestroy
  split
  · exact .done hs
  · exact .ite (.done hs) (.done hs.modDie)

theorem State.Canonical.cmdWrite {c : Cmd} {va : Nat} {l : List Byte} (hs : s.Canonical) : (s.cmdWrite c va l).Kept := by
  unfold State.cmdWrite
  split
  · exact .done hs.frontWrite
  · exact hs.cmdFail

theorem State.Canonical.doRread {c : Cmd} (hs : s.Canonical) : (doRread c s).Kept := by
  unfold Machine.doRread
  extract_lets v
  split
  · exact .done hs
  · exact .ite (.done hs) hs.cmdWrite

theorem State.Canonical.doVstat {c : Cmd} (hs : s.Canonical) : (doVstat c s).Kept := hs.cmdWrite

/-! ## The period of the firmware (Machine/Periods.lean) -/

theorem State.Canonical.reserveRep {d ctx : Nat} {e : Entry} (hs : s.Canonical) : PairKept (s.reserveRep d ctx e) := by
  unfold State.reserveRep
  extract_lets ag rq op
  refine .ite (.mk hs) (.ite (.mk hs.qMiss) (.ite (.mk hs) ?_))
  split
  next he => exact .ite (.mk hs) (.mk (.queueLog (hs.qRes _ _ he)))

theorem State.Canonical.takeHead {d ctx h : Nat} (hs : s.Canonical) : (s.takeHead d ctx h).Canonical := by
  unfold State.takeHead
  exact .qRelease hs.queueLog.qTake.snd

theorem State.Canonical.pollOne {d ctx h : Nat} (hs : s.Canonical) : OptKept (s.pollOne d ctx h) := by
  unfold State.pollOne
  extract_lets q key e
  refine .ite .none (.ite (.some hs.addLog.takeHead) ?_)
  split
  next he =>
    split
    · exact .none
    · exact .some (.takeHead (.modDie (hs.reserveRep _ _ he)))
    · exact .some (.takeHead (.modDie (hs.reserveRep _ _ he)))

theorem State.Canonical.pollGo {d ctx h n : Nat} (hs : s.Canonical) : (pollGo d ctx h n s).Canonical := by
  induction n generalizing s with
  | zero => exact hs
  | succ n ih =>
    unfold Machine.pollGo
    split
    next t he => exact ih (hs.pollOne t he)
    · exact hs

theorem State.Canonical.callRep {ctx h : Nat} (hs : s.Canonical) : (s.callRep ctx h).Canonical := .ite (.ite hs hs.qMiss) hs

theorem State.Canonical.poll {d n : Nat} {p : Queue → Bool} (hs : s.Canonical) : (s.poll d n p).Canonical :=
  .foldl (fun _ _ ht => ht.pollGo.callRep) hs

theorem State.Canonical.pollClass0 {d : Nat} (hs : s.Canonical) : (s.pollClass0 d).Canonical := hs.poll

theorem State.Canonical.pollResident {d k : Nat} (hs : s.Canonical) : (s.pollResident d k).Canonical := hs.poll

theorem State.Canonical.runOp {c : Cmd} (hs : s.Canonical) : (s.runOp c).Canonical := by
  unfold State.runOp
  split
  · exact hs.runCmd hs.doNop
  · exact hs.runCmd hs.doInvoke
  · exact hs.runCmd hs.doLoadimg
  · exact hs.runCmd hs.doUnloadimg
  · exact hs.runCmd hs.doQcreate
  · exact hs.runCmd hs.doQdestroy
  · exact hs.runCmd hs.doQpin
  · exact hs.runCmd hs.doWaitl
  · exact hs.runCmd hs.doMap
  · exact hs.runCmd hs.doUnmap
  · exact hs.runCmd hs.doProtect
  · exact hs.runCmd hs.doMigrate
  · exact hs.runCmd hs.doResolve
  · exact hs.runCmd hs.doPbcreate
  · exact hs.runCmd hs.doPbdestroy
  · exact hs.runCmd hs.doCtxcreate
  · exact hs.runCmd hs.doCtxload
  · exact hs.runCmd hs.doCtxrun
  · exact hs.runCmd hs.doCtxquiesce
  · exact hs.runCmd hs.doCtxkill
  · exact hs.runCmd hs.doCtxdestroy
  · exact hs.runCmd hs.doCtxres
  · exact hs.runCmd hs.doAttest
  · exact hs.runCmd hs.doRecord
  · exact hs.runCmd hs.doPload
  · exact hs.runCmd hs.doSload
  · exact hs.runCmd hs.doSunload
  · exact hs.runCmd hs.doTcreate
  · exact hs.runCmd hs.doTwrite
  · exact hs.runCmd hs.doTdestroy
  · exact hs.runCmd hs.doRread
  · exact hs.runCmd hs.doVstat
  · exact hs.runBad

theorem State.Canonical.execSlot {d : Nat} (hs : s.Canonical) : (s.execSlot d).Canonical :=
  .quiesceTurn (.jobsStep (.foldl (fun _ _ ht => .ite ht.runOp ht) hs))

theorem State.Canonical.svcAnswer {d : Nat} {a : Acc} (hs : s.Canonical) : PairKept (s.svcAnswer d a) := by
  unfold State.svcAnswer
  split
  · exact .mk hs
  · exact .mk hs
  · exact .mk hs
  · exact .mk hs.addLog
  · exact .mk hs

theorem State.Canonical.serveSvc {d id : Nat} (hs : s.Canonical) : (s.serveSvc d id).Canonical := by
  unfold State.serveSvc
  split
  · exact hs.modDie
  · refine .ite ?_ hs
    split
    next he1 => exact .modDie (.deliver (.dropAcc (hs.svcAnswer _ _ he1)))

theorem State.Canonical.postLogs {d : Nat} (hs : s.Canonical) : (s.postLogs d).Canonical := by
  unfold State.postLogs
  extract_lets l r
  have hr : r.2.2.Canonical := by
    refine List.foldlRecOn (motive := fun r : List LogEnt × List Nat × State => r.2.2.Canonical) l _ hs fun r ht e _ => ?_
    split
    next left held t =>
      extract_lets h q n w0
      split
      · exact ht
      · split
        · exact ht
        · split
          next u he => exact (ht.qPut u he).modDie
          · exact ht.qMiss
  exact hr.modDie

theorem State.Canonical.hostGo {l : List (Nat × Nat × W64 × Nat)} {held : List (Nat × Nat)} (hs : s.Canonical) :
    (hostGo l held s).Canonical := by
  induction l generalizing held s with
  | nil => exact hs
  | cons e l ih =>
    unfold Machine.hostGo
    extract_lets q gone
    have hg : (gone s).Canonical := hs.update
    exact .ite (ih hs) (.ite (ih (.ite hg.answer hg)) (.ite (ih hg.hostDo) (ih hs.qMiss)))

theorem State.Canonical.hostSlot (hs : s.Canonical) : s.hostSlot.Canonical := .foldl (fun _ _ ht => ht.hostLog) hs.hostGo.update

theorem State.Canonical.repeatStep {f : State → Host.Outcome State Fault Refusal} {n : Nat} (hs : s.Canonical)
    (hf : ∀ t, t.Canonical → OutKept (f t)) : (repeatStep f n s).Canonical := by
  induction n generalizing s with
  | zero => exact hs
  | succ n ih =>
    unfold Machine.repeatStep
    split
    next t he => exact ih (hf s hs t he)
    · exact hs

theorem State.Canonical.launchSlot {d : Nat} (hs : s.Canonical) : (s.launchSlot d).Canonical :=
  .postReports (.repeatStep (.ite hs.assignAll.logFull hs) (fun _ ht => ht.execLaunchPacketReceived))

theorem State.Canonical.requestSlot {d : Nat} (hs : s.Canonical) : (s.requestSlot d).Canonical := by
  unfold State.requestSlot
  extract_lets s1 s2 s3
  have h1 : s1.Canonical := hs.repeatStep (fun _ ht => ht.execCompletionNotice)
  have h2 : s2.Canonical := h1.repeatStep (fun _ ht => ht.execRindNotice)
  have h3 : s3.Canonical := .foldl (fun _ _ ht => .ite ht.inject ht) h2
  exact .foldl (fun _ _ ht => ht.serveSvc) h3

theorem State.Canonical.slotJob {d k : Nat} (hs : s.Canonical) : (s.slotJob d k).Canonical := by
  unfold State.slotJob
  exact .ite hs.pollClass0 (.ite hs.pollResident (.ite hs.execSlot (.ite hs.launchSlot (.ite hs.requestSlot
    (.ite hs.queueSlot.deliverAll (.postLogs (.ite hs.hostSlot hs)))))))

/-! ## Ports (Machine/Ports.lean) -/

theorem State.Canonical.sendHello {port : Nat} (hs : s.Canonical) : (s.sendHello port).Canonical := .ite hs.update hs

theorem State.Canonical.execEgressTransmit {port : Nat} (hs : s.Canonical) : OutKept (execEgressTransmit port s) := by
  unfold Machine.execEgressTransmit
  refine .next (.ite hs ?_)
  split
  · exact hs
  · exact hs.modPort.update

theorem State.Canonical.execEgressAgeDrop {port : Nat} (hs : s.Canonical) : OutKept (execEgressAgeDrop port s) := by
  unfold Machine.execEgressAgeDrop
  refine .next ?_
  split
  · exact hs
  · exact hs.modPort

/-! ## Power (Machine/Power.lean) -/

theorem State.Canonical.powered {p : Power} (hs : s.Canonical) : (s.powered p).Canonical :=
  wf_keepBytes hs fun k => decide (hostBase ≤ k ∧ k < spadBase)

theorem State.Canonical.bootQueue {h : Nat} {w0 : W64} (hs : s.Canonical) : (s.bootQueue h w0).Canonical := by
  unfold State.bootQueue
  exact hs.modQueue

theorem State.Canonical.bootStage {e : Nat × List Byte} (hs : s.Canonical) : (s.bootStage e).Canonical :=
  .ite (.modCtx (.foldl (fun _ _ ht => ht.setStage) hs)) hs

theorem State.Canonical.identify {record : List Byte} (hs : s.Canonical) : (s.identify record).Canonical := hs.update.update

theorem State.Canonical.execBootComplete {cfg : BootCfg} (hs : s.Canonical) : OutKept (execBootComplete cfg s) := by
  unfold Machine.execBootComplete
  exact .next (.ite (.foldl (fun _ _ ht => ht.bootStage) (.foldl (fun _ _ ht => .ite (.foldl
    (fun _ _ ht1 => ht1.loadParser) ht) ht) (.foldl (fun _ _ ht => ht.bootQueue) (.foldl (fun _ _ ht => ht.modPort) (.foldl
    (fun _ _ ht => ht.modCore) hs.identify.update))))) hs)

theorem State.Canonical.execGatedCycle {quad : Nat} (hs : s.Canonical) : OutKept (execGatedCycle quad s) :=
  .next (.ite hs.modQuad.update hs)

/-! ## Every instruction, the turn of a core and a die cycle (Machine/Turn.lean) -/

theorem State.Canonical.boundary {seat : Nat} (hs : s.Canonical) : (s.boundary seat).Canonical := by
  unfold State.boundary
  extract_lets s1 now
  split
  · exact hs.preempt.lateRead
  · exact .ite hs.preempt.redExpire (.ite hs.preempt.wdExpire hs.preempt.userEntry)

theorem State.Canonical.endTurn {core frozen : Nat} (hs : s.Canonical) : (s.endTurn core frozen).Canonical :=
  .ite hs (.foldl (fun _ _ ht => .ite ht.modSeat ht) hs)

theorem State.Canonical.coreTurn {core : Nat} (hs : s.Canonical) : OutKept (s.coreTurn core) := by
  unfold State.coreTurn
  extract_lets f
  split
  next he =>
    extract_lets s2 s3 s4
    have h2 : s2.Canonical := .landXcls (hs.land _ _ he)
    have h3 : s3.Canonical := .foldl (fun _ _ ht => ht.hcwldWrite) h2
    have h4 : s4.Canonical := .foldl (fun _ _ ht => ht.boundary) h3
    refine .ite (.next (hs.land _ _ he)) ?_
    split
    next he1 => exact .next (.endTurn (h4.execBundleIssue _ he1))
    · exact h4.execBundleIssue

theorem State.Canonical.orSame {o : Host.Outcome State Fault Refusal} (hs : s.Canonical) (ho : OutKept o) :
    (s.orSame o).Canonical := by
  unfold State.orSame
  split
  next t => exact ho t rfl
  · exact hs

/-- A syllable issued on its own. -/
theorem OutKept.syllable {i : Instr} (hs : s.Canonical) : OutKept (Machine.solo i (evalOf i) s) := .solo hs (.evalOf i)

theorem State.Canonical.exec {i : Instr} {s : State} (hs : s.Canonical) : OutKept (exec i s) := by
  unfold Machine.exec
  cases i
  case bundleIssue => exact hs.execBundleIssue
  case landingDataReturn => exact hs.execLandingDataReturn
  case producerResultArrival => exact hs.execProducerResultArrival
  case streamElementFetch => exact hs.execStreamElementFetch
  case streamElementWrite => exact hs.execStreamElementWrite
  case jr | jlr | ret | trap | bra | bl | beq | bne | blt | bge | bltu | bgeu | bkany | loop | loopq | add | sub | mul | mulh |
    mulhu | div | divu | rem | remu | and | or | xor | shl | shr | sar | shli | shri | sari | clz | ctz | popc | min | max |
    minu | maxu | seq | slt | sltu | fadd | fsub | fmul | fdiv | fsqrt | fmin | fmax | fcmp | fcvt | rdc | wrc | stow |
    unstow | li | lih | lea | addi | andi | ori | xori | ldb | ldbu | ldh | ldhu | ldw | ldwu | ldd | stb | sth | stw | std |
    sel | ffma | hcw | lease | mzero | pmrd | pmwr | hldc | mma | mmas | cmpr | mtrans | flu | fchol | fqr | ftrs | fperm |
    hld | drain | mdld | mdst | sbind | sstart | sstop | sdrain | spos | tilearm | tiledis | cqpush | scfg | shape | gld |
    sct | copy | copyh | mcast | hcwld | aadd | amin | amax | aminu | amaxu | aand | aor | axor | aswp | afadd | radd | rfadd |
    rmin | rmax | rand | ror | ldacq | strel | fence | pub | acas | barinit | bararr | barwait | bartest | ctrset | ctradd |
    ctrwait | tsend | tcopy | qres | qcommit | qtake | launch | fld | fst | fatom | nwr | yield | suspend | endC | xret |
    uiret | vNop | mNop | mrel | msync | xNop | trig | pdone | svcPing | svcQstat | svcLstat | svcTime | svcLog =>
    exact .syllable hs
  case leaseGrant => exact hs.execLeaseGrant
  case leaseIdleExpiry => exact .next (.ite hs.endRunSeat hs)
  case arrayCommandExecute => exact hs.execArrayCommandExecute
  case drainRetire => exact hs.execDrainRetire
  case factorisationStep => exact hs.execFactorisationStep
  case transferSectorWrite => exact hs.execTransferSectorWrite
  case transferFaultStop => exact hs.execTransferFaultStop
  case transferCompletion => exact hs.execTransferCompletion
  case homePortWriteApply => exact hs.execHomePortWriteApply
  case atomicApply => exact hs.execAtomicApply
  case reductionApply => exact hs.execReductionApply
  case strelApply => exact hs.execStrelApply
  case pubSwap => exact hs.execPubSwap
  case barinitApply => exact hs.execBarinitApply
  case barrierArrivalApply => exact hs.execBarrierArrivalApply
  case ctrsetApply => exact hs.execCtrsetApply
  case ctraddApply => exact hs.execCtraddApply
  case waitSatisfied => exact hs.execWaitSatisfied
  case delayWaitExpiry => exact hs.execDelayWaitExpiry
  case triggerArmApply => exact hs.execTriggerArmApply
  case firedTcopyEnqueue => exact hs.execFiredTcopyEnqueue
  case qresApply => exact hs.execQresApply
  case qcommitApply => exact hs.execQcommitApply
  case qtakeApply => exact hs.execQtakeApply
  case launchTakesEffect => exact hs.execLaunchTakesEffect
  case trigTakesEffect => exact hs.execTrigTakesEffect
  case pdoneTakesEffect => exact hs.execPdoneTakesEffect
  case wrWrite => exact hs.execWrWrite
  case wrRead => exact hs.execWrRead
  case wrVat => exact hs.execWrVat
  case wrKeyset => exact hs.execWrKeyset
  case wrKeydel => exact hs.execWrKeydel
  case workRequestComplete => exact hs.execWorkRequestComplete
  case seating => exact hs.execSeating
  case seatingLoaded => exact .next hs.loaded
  case allocatorServe => exact hs.execAllocatorServe
  case coachReserving => exact hs.execCoachReserving
  case preemptionSave => exact .next hs.preempt
  case seatWritePerformed => exact .next hs.seatWritten
  case seatDrainComplete => exact .next hs.drainEnd
  case teamSwapQuantum => exact hs.execTeamSwapQuantum
  case launchPacketReceived => exact hs.execLaunchPacketReceived
  case completionNotice => exact hs.execCompletionNotice
  case rindNotice => exact hs.execRindNotice
  case rindRestore => exact hs.execRindRestore
  case curdInjection => exact .next (.ite hs.inject hs)
  case queueLoadComplete => exact .next hs.endLoad
  case queueEviction => exact .next (.ite hs.endEviction (.ite hs.startEviction hs))
  case firmwarePeriodSlot => exact .next (.ite hs.slotJob.modDie hs)
  case pageWalkComplete => exact .next hs.walkEnd
  case faultRecordDelivery => exact hs.execFaultRecordDelivery
  case parse => exact hs.execParse
  case stageExecute => exact hs.execStageExecute
  case verdict => exact hs.execVerdict
  case pipelineBumpApply => exact hs.execPipelineBumpApply
  case pipelineLineApply => exact hs.execPipelineLineApply
  case holdRelease => exact .next (.ite (.foldl (fun _ _ ht => ht.unpark) hs.serveHold.setDie) hs)
  case holdTimeout => exact hs.execHoldTimeout
  case recircReentry => exact hs.execRecircReentry
  case ext | setf | addfImm | addfField | lkp | hash | rte | rewr | score | addt | bump | depo | rgaAdd | rgaSwap | rgaUmax |
    rgaPush | fwd | mirr | drop | recirc | mark | hold | nopa | absorb => exact hs.microSolo
  case egressTransmit => exact hs.execEgressTransmit
  case egressAgeDrop => exact hs.execEgressAgeDrop
  case sackTimer => exact hs.execSackTimer
  case retransmitTimeout => exact hs.execRetransmitTimeout
  case retryResend => exact hs.execRetryResend
  case genQuarantineExpiry => exact .next (.foldl (fun _ _ ht => ht.modDie) hs)
  case sackBitmapExpiry => exact .next (.foldl (fun _ _ ht => ht.modConn) hs)
  case recordedPacketDelivery => exact hs.execRecordedPacketDelivery
  case contentionHalving => exact hs.execContentionHalving
  case powerOn => exact .next (.ite hs.powered.update hs)
  case bootComplete => exact hs.execBootComplete
  case bootFail => exact .next (.ite hs.powered.answer hs)
  case powerDown => exact .next (.ite (.powered (.foldl (fun _ _ ht => ht.killCtx) hs)) hs)
  case powerWindow => exact .next (.ite hs.update (.ite hs.update hs))
  case gatedCycle => exact hs.execGatedCycle
  case cmdNop => exact .next (hs.runCmd hs.doNop)
  case invoke => exact .next (hs.runCmd hs.doInvoke)
  case loadimg => exact .next (hs.runCmd hs.doLoadimg)
  case unloadimg => exact .next (hs.runCmd hs.doUnloadimg)
  case qcreate => exact .next (hs.runCmd hs.doQcreate)
  case qdestroy => exact .next (hs.runCmd hs.doQdestroy)
  case qpin => exact .next (hs.runCmd hs.doQpin)
  case waitl => exact .next (hs.runCmd hs.doWaitl)
  case map => exact .next (hs.runCmd hs.doMap)
  case unmap => exact .next (hs.runCmd hs.doUnmap)
  case protect => exact .next (hs.runCmd hs.doProtect)
  case migrate => exact .next (hs.runCmd hs.doMigrate)
  case resolve => exact .next (hs.runCmd hs.doResolve)
  case pbcreate => exact .next (hs.runCmd hs.doPbcreate)
  case pbdestroy => exact .next (hs.runCmd hs.doPbdestroy)
  case ctxcreate => exact .next (hs.runCmd hs.doCtxcreate)
  case ctxload => exact .next (hs.runCmd hs.doCtxload)
  case ctxrun => exact .next (hs.runCmd hs.doCtxrun)
  case ctxquiesce => exact .next (hs.runCmd hs.doCtxquiesce)
  case quiesceComplete => exact hs.execQuiesceComplete
  case ctxkill => exact .next (hs.runCmd hs.doCtxkill)
  case ctxdestroy => exact .next (hs.runCmd hs.doCtxdestroy)
  case ctxres => exact .next (hs.runCmd hs.doCtxres)
  case attest => exact .next (hs.runCmd hs.doAttest)
  case record => exact .next (hs.runCmd hs.doRecord)
  case replayDivergence => exact hs.execReplayDivergence
  case pload => exact .next (hs.runCmd hs.doPload)
  case sload => exact .next (hs.runCmd hs.doSload)
  case sunload => exact .next (hs.runCmd hs.doSunload)
  case tcreate => exact .next (hs.runCmd hs.doTcreate)
  case twrite => exact .next (hs.runCmd hs.doTwrite)
  case tdestroy => exact .next (hs.runCmd hs.doTdestroy)
  case rread => exact .next (hs.runCmd hs.doRread)
  case vstat => exact .next (hs.runCmd hs.doVstat)
  case hostResRead => exact .next hs.hostRead
  case hostCommitWrite => exact .next hs.hostWrite
  case hostTakeRead => exact .next hs.hostRead
  case hostReleaseWrite => exact .next hs.hostWrite
  case hostWindowOther => exact .next (.ite hs.answer hs)
  case frameArrival => exact hs.execFrameArrival
  case lanesLocked => exact .next (.ite hs.sendHello.modPort hs)
  case trainingTimeout => exact .next (.ite (.modPort (.ite hs.sendHello hs)) hs)
  case secondLaneLock => exact .next (.ite hs.modPort hs)
  case lossOfLock => exact .next hs.modPort
  case fecErrorWindow => exact .next (.ite hs.modPort hs)
  case hello => exact .next (.ite hs.modPort.modDie hs)
  case creditReturn => exact .next (.ite hs.modPort hs)
  case writeData => exact hs.execWriteData
  case readRequest => exact hs.execReadRequest
  case readResponseData => exact hs.execReadResponseData
  case loadRequest => exact hs.execLoadRequest
  case loadResponse => exact hs.execLoadResponse
  case store => exact hs.execStore
  case atomicRequest => exact hs.execAtomicRequest
  case atomicResponse => exact hs.execAtomicResponse
  case vatMessage => exact hs.execVatMessage
  case sack => exact hs.execSack
  case retry => exact hs.execRetry
  case nack => exact hs.execNack
  case cancel => exact hs.execCancel
  case keyreq => exact hs.execKeyreq
  case keyrsp => exact hs.execKeyrsp
  case lineRecall => exact hs.execRecall
  case lineReturn => exact hs.execLineReturn
  case landing => exact .next hs.land.snd
  case lateUncorrectableRead => exact .next hs.lateRead
  case watchdogExpiry => exact .next hs.wdExpire
  case reductionDepthExpiry => exact .next hs.redExpire
  case userInterruptEntry => exact .next hs.userEntry
  case xclCopyLanding => exact .next hs.landXcls
  case hcwldWrite => exact .next hs.hcwldWrite
  case containment => exact .next hs.contain
  case offSeatContainment => exact hs.execOffSeatContainment

theorem State.Canonical.does {i : Instr} (hs : s.Canonical) : (s.does i).Canonical := hs.orSame hs.exec

theorem State.Canonical.gateAll (hs : s.Canonical) : s.gateAll.Canonical := .foldl (fun _ _ ht => ht.orSame ht.execGatedCycle) hs

theorem State.Canonical.tick (hs : s.Canonical) : s.tick.Canonical := by
  unfold State.tick
  extract_lets s1 s2 s3 s4
  have h2 : s2.Canonical := .ite (.foldl (fun _ _ ht => ht.modDie) hs.update) hs.update
  have h3 : s3.Canonical := .ite h2.gateAll h2
  have h4 : s4.Canonical := .ite (h3.orSame h3.execContentionHalving) h3
  exact .foldl (fun _ _ ht => ht.does) h4

theorem State.Canonical.clock (hs : s.Canonical) : OutKept s.clock := by
  unfold State.clock
  split
  · exact .next hs.tick
  · exact hs.update.coreTurn

theorem State.Canonical.run {h : Happening} (hs : s.Canonical) : OutKept (h.run s) := by
  unfold Happening.run
  split
  · exact hs.exec
  · exact hs.engineNext
  · exact .next hs.pump
  · exact hs.execQuiesceComplete
  · exact .next hs.hostBytes
  · exact hs.execReplayDivergence
  · exact hs.clock

theorem State.Canonical.goOn (hs : s.Canonical) : OutKept s.goOn := .ite hs.update.run (.next hs)

theorem State.Canonical.step (hs : s.Canonical) : OutKept (step s) := by
  unfold Machine.step
  split
  · exact hs.update.exec
  · exact hs.goOn

end

/-- Settles O59: `step` runs an instruction or goes on of itself, and each of the two keeps the canonical form. -/
theorem stepsKeepMemoryCanonical : Obligations.StepsKeepMemoryCanonical :=
  fun _ t hs he => hs.step t he

end Sys2Proof.Machine

namespace Sys2Proof.Machine

section

open Sys2Proof.Claims

/-!
# Float forms (O6)

A float form reads its sources before the issue and writes one register, or gives its result later. A NaN operand decodes to
`Fv.nan`, which every exact operation passes on and which rounds to the canonical NaN without a flag.
-/

/-! ## The shapes of evaluation -/

section Shapes

variable {s : State} {i : Instr} {c : SlotClass} {w e : W32} {a b : Reg}

/-- A float form of two sources writes the value of its function and raises its flags. -/
theorem writesReg_flt2 {d : Reg} (f : W64 → W64 → W64 × Flags) (h : s.Issuable i) (hx : exec i s = solo i (flt2 a b d f) s)
    (he : encode i = some (c, w, e)) (hc : c ≠ .micro) :
    WritesReg s i a (f ((s.seat s.cur).reg b) ((s.seat s.cur).reg d)).1 (f ((s.seat s.cur).reg b) ((s.seat s.cur).reg d)).2 :=
  writesReg_of h hx he hc rfl

/-- A float form of one source writes the value of its function and raises its flags. -/
theorem writesReg_flt1 (f : W64 → W64 × Flags) (h : s.Issuable i) (hx : exec i s = solo i (flt1 a b f) s)
    (he : encode i = some (c, w, e)) (hc : c ≠ .micro) :
    WritesReg s i a (f ((s.seat s.cur).reg b)).1 (f ((s.seat s.cur).reg b)).2 :=
  writesReg_of h hx he hc rfl

/-- A float form of three sources writes the value of its function and raises its flags. -/
theorem writesReg_flt3 {d z : Reg} (f : W64 → W64 → W64 → W64 × Flags) (h : s.Issuable i)
    (hx : exec i s = solo i (fun p _ e =>
      okReg e a (f (p.sreg e b) (p.sreg e d) (p.sreg e z)).1 (f (p.sreg e b) (p.sreg e d) (p.sreg e z)).2) s)
    (he : encode i = some (c, w, e)) (hc : c ≠ .micro) :
    WritesReg s i a (f ((s.seat s.cur).reg b) ((s.seat s.cur).reg d) ((s.seat s.cur).reg z)).1
      (f ((s.seat s.cur).reg b) ((s.seat s.cur).reg d) ((s.seat s.cur).reg z)).2 :=
  writesReg_of h hx he hc rfl

/-- A producer whose value is known at the issue gives it later (R87, R88). -/
theorem givesLater_of {ev : Eval} {v : W64} {fl : Flags} (h : s.Issuable i) (hx : exec i s = solo i ev s)
    (he : encode i = some (c, w, e)) (hc : c ≠ .micro) (hev : ev s s (s.soloEnv c w e) = okLater (s.soloEnv c w e) a v fl) :
    GivesLater s i a v fl :=
  commits_of h hx he hc hev rfl rfl

/-- The same, where the value is a function of two sources. -/
theorem givesLater_flt2 {d : Reg} (f : W64 → W64 → W64 × Flags) (h : s.Issuable i)
    (hx : exec i s = solo i (fun p _ e => okLater e a (f (p.sreg e b) (p.sreg e d)).1 (f (p.sreg e b) (p.sreg e d)).2) s)
    (he : encode i = some (c, w, e)) (hc : c ≠ .micro) :
    GivesLater s i a (f ((s.seat s.cur).reg b) ((s.seat s.cur).reg d)).1 (f ((s.seat s.cur).reg b) ((s.seat s.cur).reg d)).2 :=
  givesLater_of h hx he hc rfl

/-- The same, where the value is a function of one source. -/
theorem givesLater_flt1 (f : W64 → W64 × Flags) (h : s.Issuable i)
    (hx : exec i s = solo i (fun p _ e => okLater e a (f (p.sreg e b)).1 (f (p.sreg e b)).2) s)
    (he : encode i = some (c, w, e)) (hc : c ≠ .micro) :
    GivesLater s i a (f ((s.seat s.cur).reg b)).1 (f ((s.seat s.cur).reg b)).2 :=
  givesLater_of h hx he hc rfl

end Shapes

theorem floatFormsWriteTheirValue : FloatFormsWriteTheirValue := by
  intro s a b c z p q r rm sat cond tgt src
  refine ⟨?forms, fun h => ?fdiv, fun h => ?fsqrt⟩
  case fdiv => exact givesLater_flt2 (flFdiv rm sat) h rfl rfl (by decide)
  case fsqrt => exact givesLater_flt1 (flFsqrt rm sat) h rfl rfl (by decide)
  simp only [floatForms, List.forall_mem_cons, List.not_mem_nil, false_implies, implies_true, and_true]
  refine ⟨fun h => ?fadd, fun h => ?fsub, fun h => ?fmul, fun h => ?ffma, fun h => ?fmin, fun h => ?fmax, fun h => ?fcmp,
    fun h => ?fcvt⟩
  case fadd => exact writesReg_flt2 (flFadd rm sat) h rfl rfl (by decide)
  case fsub => exact writesReg_flt2 (flFsub rm sat) h rfl rfl (by decide)
  case fmul => exact writesReg_flt2 (flFmul rm sat) h rfl rfl (by decide)
  case ffma => exact writesReg_flt3 (flFfma rm sat) h rfl rfl (by decide)
  case fmin => exact writesReg_flt2 flFmin h rfl rfl (by decide)
  case fmax => exact writesReg_flt2 flFmax h rfl rfl (by decide)
  case fcmp => exact writesReg_flt2 (flFcmp cond) h rfl rfl (by decide)
  case fcvt => exact writesReg_flt1 (flFcvt tgt src rm sat) h rfl rfl (by decide)

/-! ## NaN operands (R26, R36) -/

theorem f32_of_isNaN {x : W32} (h : isNaN x) : f32 x = .nan := by
  obtain ⟨he, hm⟩ := h
  have hm' : (x.toNat % 2 ^ 23 == 0) = false := beq_false_of_ne hm
  simp only [f32, Bf.decode, bfFP32, he, hm']
  rfl

theorem fvNeg_nan : fvNeg .nan = .nan := rfl

/-- A NaN operand makes the sum a NaN, whatever the other operand is. -/
theorem fvAdd_of_nan {u v : Fv} (m : Rm) (h : u = .nan ∨ v = .nan) : fvAdd m u v = some .nan := by
  rcases h with rfl | rfl
  · rfl
  · cases u <;> rfl

/-- It makes the product one, also beside a zero or an infinity. -/
theorem fvMul_of_nan {u v : Fv} (h : u = .nan ∨ v = .nan) : fvMul u v = some .nan := by
  rcases h with rfl | rfl
  · rfl
  · cases u <;> rfl

/-- It makes the quotient one, also over a zero, and raises no DZ. -/
theorem fvDiv_of_nan {u v : Fv} (h : u = .nan ∨ v = .nan) : fvDiv u v = some (.nan, 0) := by
  rcases h with rfl | rfl
  · rfl
  · cases u <;> rfl

/-- A NaN is rounded into binary32 as the canonical one, without a flag. -/
theorem out32_nan (m : Rm) (sat : Bool) : out32 m sat (some .nan) = (0x7FC00000, 0) := rfl

theorem nanOperandsGiveTheCanonicalNaN : NaNOperandsGiveTheCanonicalNaN := by
  intro m sat x y z h
  have hxy : f32 x = .nan ∨ f32 y = .nan := h.imp f32_of_isNaN f32_of_isNaN
  have hneg : f32 x = .nan ∨ fvNeg (f32 y) = .nan := hxy.imp_right fun hy => by rw [hy, fvNeg_nan]
  refine ⟨?add, ?sub, ?mul, ?div, ?fma, fun hx => ?sqrt⟩
  case add => rw [fadd32, fvAdd_of_nan m hxy, out32_nan]
  case sub => rw [fsub32, fvAdd_of_nan m hneg, out32_nan]
  case mul => rw [fmul32, fvMul_of_nan hxy, out32_nan]
  case div => rw [fdiv32, fvDiv_of_nan hxy]; rfl
  case fma =>
    have hany : (f32 x == .nan || f32 y == .nan || f32 z == .nan) = true := by
      rcases hxy with h | h <;> simp [h]
    rw [ffma32, if_pos hany]; rfl
  case sqrt => rw [fsqrt32, f32_of_isNaN hx, fvSqrt, out32_nan]

/-- Settles O6: each form is the commit of one evaluation, and a NaN operand passes through every exact operation. -/
theorem floatFormsWriteTheirResults : Obligations.FloatFormsWriteTheirResults :=
  ⟨floatFormsWriteTheirValue, nanOperandsGiveTheCanonicalNaN⟩

end

end Sys2Proof.Machine

namespace Sys2Proof.Machine

section

open Sys2Proof.Claims

/-!
# What a store and a load do to memory (O13)

An access is found by its number and taken out of the list. A store then writes its bytes where no wait and no trigger looks; a
load notes its read in the publishable buffers of its context and gives what it has read to its item. Neither is of a kind whose
order is logged (R379).
-/

/-! ## One bit of a word -/

@[simp] theorem getLsbD_putBit_false_same (w : W64) (i : Nat) : (putBit w i false).getLsbD i = false := by
  simp [putBit]

theorem getLsbD_putBit_other (w : W64) {i j : Nat} (b : Bool) (h : j ≠ i) : (putBit w i b).getLsbD j = w.getLsbD j := by
  have hs : (1#64 <<< i).getLsbD j = false := by
    simp only [BitVec.getLsbD_shiftLeft, BitVec.getLsbD_one]
    simp; omega
  by_cases hj : j < 64
  · cases b
    · simp only [putBit, Bool.false_eq_true, if_false, BitVec.getLsbD_and, BitVec.getLsbD_not, hs, hj]; simp
    · simp only [putBit, if_true, BitVec.getLsbD_or, hs, Bool.or_false]
  · rw [BitVec.getLsbD_of_ge _ _ (by omega), BitVec.getLsbD_of_ge _ _ (by omega)]

/-! ## A value arrives at a register (R88) -/

section Arrive

variable {x : Seat} {i : Item} {v : W64} {r : Reg}

@[simp] theorem arrive_inShadow (n : Nat) : (x.arrive i v).inShadow n = x.inShadow n := by
  simp only [Seat.arrive, Seat.inShadow]
  (repeat' split) <;> rfl

theorem reg_arrive_other (h : r ≠ i.reg) : (x.arrive i v).reg r = x.reg r := by
  have hn : r.toNat ≠ i.reg.toNat := fun e => h (BitVec.eq_of_toNat_eq e)
  unfold Seat.reg
  rw [arrive_inShadow]
  by_cases h0 : i.reg.toNat = 0
  · simp [Seat.arrive, h0]
  cases hb : i.sh <;> simp [Seat.arrive, h0, hb, SMap.get_set_other _ _ _ hn]

variable (hsh : i.sh = x.inShadow i.reg.toNat)
include hsh

theorem reg_arrive_same : (x.arrive i v).reg i.reg = if i.reg = 0#6 then 0 else v := by
  by_cases h0 : i.reg = 0#6
  · simp [h0]
  have hn : i.reg.toNat ≠ 0 := fun h => h0 (BitVec.eq_of_toNat_eq h)
  rw [Seat.reg, if_neg h0, if_neg h0, arrive_inShadow, ← hsh]
  cases hb : i.sh <;> simp [Seat.arrive, hn, hb]

theorem isEmpty_arrive_same (hl : i.landing = false) : (x.arrive i v).isEmpty i.reg = false := by
  by_cases h0 : i.reg = 0#6
  · simp [Seat.isEmpty, h0]
  have hn : i.reg.toNat ≠ 0 := fun h => h0 (BitVec.eq_of_toNat_eq h)
  rw [Seat.isEmpty, if_neg h0, arrive_inShadow, ← hsh]
  cases hb : i.sh <;> simp [Seat.arrive, hn, hb, hl]

theorem isEmpty_arrive_other (h : r ≠ i.reg) : (x.arrive i v).isEmpty r = x.isEmpty r := by
  have hn : r.toNat ≠ i.reg.toNat := fun e => h (BitVec.eq_of_toNat_eq e)
  unfold Seat.isEmpty
  rw [arrive_inShadow]
  by_cases h0 : i.reg.toNat = 0
  · simp [Seat.arrive, h0]
  cases hb : i.sh
  · cases hl : i.landing <;> simp [Seat.arrive, h0, hb, hl, getLsbD_putBit_other _ _ hn]
  · by_cases hr : x.inShadow r.toNat = true
    · have hd : shBit r.toNat ≠ shBit i.reg.toNat := by
        have hi : x.inShadow i.reg.toNat = true := hsh.symm.trans hb
        simp only [Seat.inShadow, Bool.and_eq_true, decide_eq_true_eq] at hr hi
        unfold shBit; omega
      cases hl : i.landing <;> simp [Seat.arrive, h0, hb, hl, getLsbD_putBit_other _ _ hd]
    · simp [Seat.arrive, h0, hb, hr]

end Arrive

/-! ## An access is found and taken out -/

/-- What `accOf` answers is the access with that number. -/
theorem find_of_accOf {s : State} {id : Nat} {ks : List AKind} {a : Acc} (h : s.accOf id ks = some a) :
    s.accs.find? (fun b => b.id == id) = some a := by
  unfold State.accOf at h
  split at h
  next b hb =>
    split at h
    · exact hb.trans h
    · cases h
  · cases h

/-- An access whose order is not logged leaves the list and nothing else (R379). -/
theorem dropAcc_unordered {s : State} {id : Nat} {a : Acc} (h : s.accs.find? (fun b => b.id == id) = some a)
    (ho : a.ordered = false) : s.dropAcc id = { s with accs := s.accs.filter fun b => b.id != id } := by
  simp [State.dropAcc, h, State.logOrder, ho]

/-! ## A store is applied -/

/-- Where no wait looks at a write, none is satisfied (R317). -/
theorem checkWaits_quiet {s : State} {k n : Nat} (h : s.Quiet k n) : s.checkWaits k n = s := by
  obtain ⟨hwaits, -⟩ := h
  have hno : (s.waits.filter fun x => (x.kind == 1 || x.kind == 2) && touches k n x.key && s.waitCond x (s.rdWord x.key)) = [] :=
    List.filter_eq_nil_iff.mpr fun x hx => by simp [hwaits x hx]
  rw [State.checkWaits, hno]; rfl

/-- Where no trigger looks at a write, none fires (R322). -/
theorem checkTrigs_quiet {s : State} {k n : Nat} (h : s.Quiet k n) : s.checkTrigs k n = s := by
  obtain ⟨-, htrigs⟩ := h
  have hno : s.trigsOn k n = [] := List.flatMap_eq_nil_iff.mpr fun d _ =>
    List.map_eq_nil_iff.mpr (List.filter_eq_nil_iff.mpr fun t ht => by simp [htrigs d t ht])
  rw [State.checkTrigs, hno]; rfl

/-- A write that no wait and no trigger looks at is a write of memory alone. -/
theorem apply_quiet {s : State} {k : Nat} {l : List Byte} (h : s.Quiet k l.length) : s.apply k l = s.wrBytes k l := by
  cases l with
  | nil =>
    have hc : linesCovered k 0 = [] := by
      have : (k + 0) / 64 - cdiv k 64 = 0 := by unfold cdiv; omega
      rw [linesCovered, this, natsFrom]
    simp [State.apply, State.wrBytes, putBytes, hc, clearLines]
  | cons b l =>
    have hq : (s.wrBytes k (b :: l)).Quiet k (b :: l).length := h
    rw [State.apply, checkWaits_quiet hq, checkTrigs_quiet hq]; rfl

/-- A posted store is a write of its value at the front of its place. -/
theorem exec_homePortWriteApply {s : State} {id : Nat} {a : Acc} {pl : PLoc} (h : s.Performs id .store a) (hl : a.locs = [pl])
    (hq : s.Quiet (s.front a.ctx pl) a.n) :
    exec (.homePortWriteApply id) s
      = .next ({ s with accs := s.accs.filter fun b => b.id != id }.wrNat (s.front a.ctx pl) a.n a.v.toNat) := by
  obtain ⟨hk, hacc, -, -⟩ := h
  have hd := dropAcc_unordered (find_of_accOf hacc) (by simp [Acc.ordered, hk])
  have hx : exec (.homePortWriteApply id) s = execHomePortWriteApply id s := rfl
  rw [hx, execHomePortWriteApply, hacc]
  simp only [hd, State.accWrite, hl]
  exact congrArg _ (apply_quiet (by rw [length_bytesLE]; exact hq))

theorem bytesWritten_wrNat (s : State) (l : List Acc) (k n v : Nat) : BytesWritten s ({ s with accs := l }.wrNat k n v) k n v where
  value := rdNat_wrNat_same _ k n v
  bytes _ h := rdByte_wrNat_outside _ k n v h
  rest := rfl

theorem storeApplyWritesItsBytes : StoreApplyWritesItsBytes :=
  fun _ _ _ _ h hl hq => ⟨_, exec_homePortWriteApply h hl hq, bytesWritten_wrNat _ _ _ _ _, rfl⟩

/-! ## A load is performed -/

section NoteRead

variable (s : State) (a : Acc)

@[simp] theorem noteRead_seats : (s.noteRead a).seats = s.seats := by
  refine List.foldlRecOn (motive := fun t : State => t.seats = s.seats) a.locs _ rfl fun t ht p _ => ?_
  rcases p with ⟨_, _ | ⟨_, _⟩⟩ <;> exact ht

/-- To note a read neither asks for the list of accesses nor changes it. -/
theorem noteRead_accs (l : List Acc) : { s with accs := l }.noteRead a = { s.noteRead a with accs := l } := by
  refine List.foldl_hom (fun t : State => { t with accs := l }) fun t p => ?_
  rcases p with ⟨_, _ | ⟨_, _⟩⟩ <;> rfl

end NoteRead

/-- Where an item stands depends on the seats alone. -/
theorem itemSeat_of_seats {s t : State} (h : t.seats = s.seats) (id : Nat) : t.itemSeat id = s.itemSeat id := by
  rw [State.itemSeat, h, State.itemSeat]

/-- A value for a landing waits with its item (R90). -/
theorem deliver_landing {s : State} {id k : Nat} {i : Item} (h : s.itemSeat id = some (k, i)) (hl : i.landing = true) (v : W64) :
    s.deliver id v 0 = s.modSeat k fun x => x.modItem id fun y => { y with data := some v, er := false } := by
  simp [State.deliver, h, hl, State.setResult]

/-- A value for a register that awaits it is written at once, and its item is gone (R88). -/
theorem deliver_producer {s : State} {id k : Nat} {i : Item} (h : s.itemSeat id = some (k, i)) (hl : i.landing = false) (v : W64) :
    s.deliver id v 0 = s.modSeat k fun x => { (x.arrive i v) with items := x.items.filter fun i => i.id != id } := by
  simp only [State.deliver, h]
  rw [if_neg (by simp [hl])]
  simp

/-- The state in which a load is out of the list and its read is noted. -/
def State.readDone (s : State) (a : Acc) : State := { s.noteRead a with accs := s.accs.filter fun b => b.id != a.id }

@[simp] theorem readDone_seats (s : State) (a : Acc) : (s.readDone a).seats = s.seats := noteRead_seats s a

@[simp] theorem readDone_seat (s : State) (a : Acc) (k : Nat) : (s.readDone a).seat k = s.seat k := by
  simp [State.seat]

/-- A whole load outside the host window that meets no line in error delivers, extended, what stands at the front of its place
(R173). -/
theorem performRead_whole {s : State} {a : Acc} {pl : PLoc} (hfind : s.accs.find? (fun b => b.id == a.id) = some a) (hk : a.k = .load)
    (hl : a.locs = [pl]) (hf : a.flag = false) (hb : s.badIn (s.front a.ctx pl) a.n = none) (hh : inHost a.va.toNat = false) :
    s.performRead a = (s.readDone a).deliver a.id (extendTo a.n a.sgn (s.rdNat (s.front a.ctx pl) a.n)) 0 := by
  have hbad : s.accBad a = none := by simp [State.accBad, hl, hb]
  have hbytes : s.accBytes a = s.rdBytes (s.front a.ctx pl) a.n := by rw [State.accBytes, hl]
  have hdrop := dropAcc_unordered hfind (by simp [Acc.ordered, hk])
  simp only [State.performRead, hf, hl, hbad, hbytes, State.logHost, hh, State.finishRead, hdrop, noteRead_accs, Bool.false_eq_true,
    if_false]
  rfl

/-- A change of one seat changes nothing else. -/
theorem seatOnly_modSeat (s : State) (k : Nat) (f : Seat → Seat) : SeatOnly s (s.modSeat k f) k where
  bytes _ := modSeat_rdByte ..
  seats j hj := by rw [modSeat_seat, if_neg hj]
  cores _ _ := modSeat_core ..
  rest := rfl

theorem loadsReturnWhatStandsThere : LoadsReturnWhatStandsThere := by
  intro s id a pl k i hp hid hl hf hb hh hseat hi hmem v
  subst hid
  obtain ⟨hk, hacc, -, -⟩ := hp
  have hread : s.performRead a = (s.readDone a).deliver a.id v 0 := performRead_whole (find_of_accOf hacc) hk hl hf hb hh
  have hitem : (s.readDone a).itemSeat a.id = some (k, i) := by rw [itemSeat_of_seats (readDone_seats s a), hseat]
  refine ⟨fun hop hland => ?landing, fun hop hland hsh hfl haccs => ?producer⟩
  case landing =>
    have hx : exec (.landingDataReturn a.id) s = execLandingDataReturn a.id s := rfl
    rw [hx, execLandingDataReturn, hacc]
    simp only [hop, if_true, hread, deliver_landing hitem hland]
    refine ⟨_, rfl, ?item, fun r => ?regs, rfl, seatOnly_modSeat _ _ _⟩
    case item =>
      rw [modSeat_seat_same, readDone_seat]
      exact ⟨_, List.mem_map_of_mem hmem, by simp [hi], by simp [hi]⟩
    case regs => rw [modSeat_seat_same, readDone_seat]; rfl
  case producer =>
    have hx : exec (.producerResultArrival a.id) s = execProducerResultArrival a.id s := rfl
    rw [hx, execProducerResultArrival, haccs]
    simp only [hop, if_true, hread, deliver_producer hitem hland]
    refine ⟨_, rfl, ?same, ?full, fun r hr => ?other, rfl, seatOnly_modSeat _ _ _⟩
    all_goals rw [modSeat_seat_same, readDone_seat]
    case same => exact reg_arrive_same hsh
    case full => exact isEmpty_arrive_same hsh hland
    case other => exact ⟨reg_arrive_other hr, isEmpty_arrive_other hsh hr⟩

/-- Settles O13: a store comes to one write of memory, and a load to one delivery at the seat that holds its item. -/
theorem memoryTakesAndGivesBytes : Obligations.MemoryTakesAndGivesBytes :=
  ⟨storeApplyWritesItsBytes, loadsReturnWhatStandsThere⟩

end

end Sys2Proof.Machine

namespace Sys2Proof.Machine

section

open Sys2Proof.Claims

/-!
# Writes that nothing looks at

A state after a number of writes that no wait and no trigger looks at differs from the one before in its memory, which is the
old one with the pieces put in one after the other, and in its lines in error.
-/

/-! ## Pieces put into a memory -/

/-- A memory with pieces of bytes put in, one after the other. -/
def putPieces (m : SMap Byte) (ps : List (Nat × List Byte)) : SMap Byte := ps.foldl (fun m p => putBytes m p.1 p.2) m

/-- Two pieces have no byte in common. -/
def Apart (p p' : Nat × List Byte) : Prop := p.1 + p.2.length ≤ p'.1 ∨ p'.1 + p'.2.length ≤ p.1

theorem nth_of_lt {α : Type} (d : α) {l : List α} {i : Nat} (h : i < l.length) : nth d l i = l[i] := by
  induction l generalizing i with
  | nil => cases h
  | cons a l ih =>
    cases i with
    | zero => rfl
    | succ i => exact ih (Nat.lt_of_succ_lt_succ h)

theorem get_putPieces_outside (m : SMap Byte) {ps : List (Nat × List Byte)} {a : Nat} (h : ∀ p ∈ ps, a < p.1 ∨ p.1 + p.2.length ≤ a) :
    SMap.get memDefault (putPieces m ps) a = SMap.get memDefault m a := by
  induction ps generalizing m with
  | nil => rfl
  | cons p ps ih =>
    rw [List.forall_mem_cons] at h
    exact (ih _ h.2).trans (get_putBytes_outside m p.1 p.2 h.1)

/-- Of pieces that are apart from each other, each byte reads as put. -/
theorem get_putPieces_inside (m : SMap Byte) {ps : List (Nat × List Byte)} (hps : ps.Pairwise Apart) {p : Nat × List Byte} (hp : p ∈ ps)
    {i : Nat} (hi : i < p.2.length) : SMap.get memDefault (putPieces m ps) (p.1 + i) = nth 0 p.2 i := by
  induction ps generalizing m with
  | nil => cases hp
  | cons q ps ih =>
    rw [List.pairwise_cons] at hps
    obtain ⟨hq, hps⟩ := hps
    rcases List.mem_cons.mp hp with rfl | hp
    · have hout : ∀ p' ∈ ps, p.1 + i < p'.1 ∨ p'.1 + p'.2.length ≤ p.1 + i := fun p' hp' => by
        have := hq p' hp'; unfold Apart at this; omega
      rw [nth_of_lt 0 hi]
      exact (get_putPieces_outside _ hout).trans (get_putBytes_inside m p.1 p.2 hi)
    · exact ih (putBytes m q.1 q.2) hps hp

/-! ## States that differ in their memory -/

/-- The state `t` is `s` with another memory and other lines in error. -/
def Rewritten (s t : State) (m : SMap Byte) : Prop := ∃ p, t = { s with mem := m, poison := p }

section Rewritten

variable {s t u : State} {m m' : SMap Byte}

theorem Rewritten.refl (s : State) : Rewritten s s s.mem := ⟨s.poison, rfl⟩

theorem Rewritten.trans (h : Rewritten s t m) (h' : Rewritten t u m') : Rewritten s u m' := by
  obtain ⟨p, rfl⟩ := h
  obtain ⟨p', rfl⟩ := h'
  exact ⟨p', rfl⟩

theorem Rewritten.mem (h : Rewritten s t m) : t.mem = m := by obtain ⟨p, rfl⟩ := h; rfl
theorem Rewritten.seats (h : Rewritten s t m) : t.seats = s.seats := by obtain ⟨p, rfl⟩ := h; rfl
theorem Rewritten.seat (h : Rewritten s t m) (k : Nat) : t.seat k = s.seat k := by obtain ⟨p, rfl⟩ := h; rfl
theorem Rewritten.quad (h : Rewritten s t m) (k : Nat) : t.quad k = s.quad k := by obtain ⟨p, rfl⟩ := h; rfl
theorem Rewritten.front (h : Rewritten s t m) (ctx : Nat) (p : PLoc) : t.front ctx p = s.front ctx p := by obtain ⟨p, rfl⟩ := h; rfl
theorem Rewritten.quiet (h : Rewritten s t m) {k n : Nat} (hq : s.Quiet k n) : t.Quiet k n := by obtain ⟨p, rfl⟩ := h; exact hq

theorem Rewritten.rdByte (h : Rewritten s t m) (k : Nat) : t.rdByte k = SMap.get memDefault m k := by rw [State.rdByte, h.mem]

/-- A write that nothing looks at puts its bytes into memory. -/
theorem rewritten_apply {k : Nat} {l : List Byte} (h : s.Quiet k l.length) : Rewritten s (s.apply k l) (putBytes s.mem k l) :=
  ⟨_, apply_quiet h⟩

end Rewritten

end

end Sys2Proof.Machine

namespace Sys2Proof.Machine

section

open Sys2Proof.Claims

/-!
# Streams (O23)

An X form on a stream commits one change of its seat, or faults by the state of its stream. The unit of a stream changes one
stream register, and writes memory where no wait and no trigger looks.
-/

/-! ## The shapes of evaluation -/

section Shapes

variable {s : State} {i : Instr} {c : SlotClass} {w e : W32} {ev : Eval}

/-- A syllable that changes its seat alone leaves the seat so changed. -/
theorem seatBecomes_of {f : Seat → Seat} {fl : Flags} {x : Seat} (h : s.Issuable i) (hx : exec i s = solo i ev s)
    (he : encode i = some (c, w, e)) (hc : c ≠ .micro) (hev : ev s s (s.soloEnv c w e) = okSeat (s.soloEnv c w e) f fl)
    (hf : f (s.seat s.cur) = x) : SeatBecomes s i x fl := by
  subst hf; exact commits_of h hx he hc hev rfl rfl

/-- A syllable that makes one change of the state commits it. -/
theorem commits_act {f : State → State} (h : s.Issuable i) (hx : exec i s = solo i ev s) (he : encode i = some (c, w, e)) (hc : c ≠ .micro)
    (hev : ev s s (s.soloEnv c w e) = okAct f) : Commits s i (f s) 0 :=
  commits_of h hx he hc hev rfl rfl

/-- The mask of a trap of an X form names its slot (R58). -/
theorem traps_slotX {cause : Nat} {va : W64} (h : s.Issuable i) (hx : exec i s = solo i ev s) (he : encode i = some (.slotX, w, e))
    (hev : ev s s (s.soloEnv .slotX w e) = .fault cause va) : Traps s i cause va 0x200 :=
  traps_of h hx he (by decide) hev

end Shapes

/-! ## The stream registers of a seat -/

section Registers

variable (x : Seat) (i : Nat) (q : Stream)

theorem setSq_sq (j : Nat) : (x.setSq i q).sq j = if j = i then q else x.sq j := SMap.get_set _ _ _ _ _

/-- A change of each stream register of a list once, by itself. -/
theorem foldl_setSq_sq (g : Stream → Stream) {l : List Nat} (hl : l.Nodup) (j : Nat) :
    (l.foldl (fun x i => x.setSq i (g (x.sq i))) x).sq j = if j ∈ l then g (x.sq j) else x.sq j := by
  induction l generalizing x with
  | nil => rfl
  | cons a l ih =>
    rw [List.nodup_cons] at hl
    obtain ⟨ha, hl⟩ := hl
    rw [List.foldl_cons, ih _ hl, setSq_sq]
    by_cases hj : j = a
    · subst hj; simp [ha]
    · simp [hj]

theorem foldl_setSq_rest (g : Stream → Stream) (l : List Nat) :
    { l.foldl (fun x i => x.setSq i (g (x.sq i))) x with streams := x.streams } = x :=
  List.foldlRecOn (motive := fun y : Seat => { y with streams := x.streams } = x) l _ rfl fun _ hy _ _ => hy

end Registers

/-! ## SBIND (R159) -/

/-- A stream that is no more bound to a register, if it was. -/
def Stream.unboundFrom (r : BitVec 4) (q : Stream) : Stream := if q.be && q.breg == r then { q with be := false, breg := 0 } else q

/-- A seat none of whose streams is bound to a register. -/
def Seat.unbind (x : Seat) (r : BitVec 4) : Seat := (nats 16).foldl (fun x i => x.setSq i ((x.sq i).unboundFrom r)) x

/-- What SBIND leaves. -/
def Seat.rebind (x : Seat) (r q : BitVec 4) (unbind : Bool) : Seat :=
  if unbind then x.unbind r else (x.unbind r).setSq q.toNat { (x.unbind r).sq q.toNat with be := true, breg := r }

theorem evalSbind_eq (r q : BitVec 4) (unbind : Bool) (p s : State) (e : Env) :
    evalSbind r q unbind p s e = okSeat e fun x => x.rebind r q unbind := rfl

theorem unboundFrom_eq (r : BitVec 4) (q : Stream) :
    q.unboundFrom r = if q.be = true ∧ q.breg = r then { q with be := false, breg := 0 } else q := by
  simp [Stream.unboundFrom]

theorem unbind_sq (x : Seat) (r : BitVec 4) {i : Nat} (hi : i < 16) : (x.unbind r).sq i = (x.sq i).unboundFrom r := by
  have hl : (nats 16).Nodup := by decide
  have hm : i ∈ nats 16 := by rw [nats, nats_from_eq, List.mem_range'_1]; omega
  rw [Seat.unbind, foldl_setSq_sq _ _ hl, if_pos hm]

theorem unbind_rest (x : Seat) (r : BitVec 4) : { x.unbind r with streams := x.streams } = x := foldl_setSq_rest ..

theorem rebind_rest (x : Seat) (r q : BitVec 4) (unbind : Bool) : { x.rebind r q unbind with streams := x.streams } = x := by
  have hset : ∀ (y : Seat) (i : Nat) (z : Stream), { y with streams := x.streams } = x → { y.setSq i z with streams := x.streams } = x :=
    fun _ _ _ h => h
  cases unbind with
  | true => exact unbind_rest x r
  | false => exact hset _ _ _ (unbind_rest x r)

theorem rebind_sq (x : Seat) (r q : BitVec 4) (unbind : Bool) {i : Nat} (hi : i < 16) :
    (x.rebind r q unbind).sq i = if unbind = false ∧ i = q.toNat then { x.sq i with be := true, breg := r }
      else if (x.sq i).be = true ∧ (x.sq i).breg = r then { x.sq i with be := false, breg := 0 } else x.sq i := by
  rw [← unboundFrom_eq, ← unbind_sq x r hi]
  cases unbind with
  | true => simp [Seat.rebind]
  | false =>
    rw [Seat.rebind, if_neg Bool.false_ne_true, setSq_sq]
    by_cases hq : i = q.toNat
    · subst hq
      rw [if_pos rfl, if_pos ⟨rfl, rfl⟩, unbind_sq x r hi, unboundFrom_eq]
      split <;> rfl
    · rw [if_neg hq, if_neg (fun h => hq h.2)]

/-! ## The checks of a start (R146) -/

/-- A count of zero is the first thing that a start finds wrong. -/
theorem startBad_zero_count {q : Stream} (h : q.de0 = 0 ∨ q.de1 = 0 ∨ q.de2 = 0 ∨ q.de3 = 0 ∨ q.cols = 0) :
    q.startBad false = some (0x40, 0) := by
  have hf : q.fmtBad false = true := by
    rcases h with h | h | h | h | h <;> simp [Stream.fmtBad, h]
  rw [Stream.startBad, if_pos hf]

/-! ## What the X forms evaluate to -/

section Evals

variable {s p : State} {e : Env} {q : BitVec 4}

theorem evalSstart_of_not_idle (h : ((p.seat e.seat).sq q.toNat).st ≠ .idle) : evalSstart q p s e = fault0 0x02 := if_pos h

theorem evalSstart_of_bad {c va : Nat} (h : ((p.seat e.seat).sq q.toNat).st = .idle)
    (hb : ((p.seat e.seat).sq q.toNat).startBad false = some (c, va)) : evalSstart q p s e = faultVa c va := by
  simp only [evalSstart, h, hb, ne_eq, not_true_eq_false, if_false]

theorem evalSstart_of_good (h : ((p.seat e.seat).sq q.toNat).st = .idle) (hb : ((p.seat e.seat).sq q.toNat).startBad false = none) :
    evalSstart q p s e = okAct fun s => { s with nextId := s.nextId + 1 }.modSq e.seat q.toNat fun z => z.started s.nextId := by
  simp only [evalSstart, h, hb, ne_eq, not_true_eq_false, if_false]; rfl

theorem evalSstop_of_running (h : ((p.seat e.seat).sq q.toNat).st = .active ∨ ((p.seat e.seat).sq q.toNat).st = .exhausted) :
    evalSstop q p s e = okSeat e fun x => x.setSq q.toNat { x.sq q.toNat with st := .idle } := if_pos h

theorem evalSstop_of_stopped (h : ((p.seat e.seat).sq q.toNat).st = .idle ∨ ((p.seat e.seat).sq q.toNat).st = .cancelled) :
    evalSstop q p s e = fault0 0x02 := if_neg (by rcases h with h | h <;> simp [h])

theorem evalSdrain_of_cancelled (h : ((p.seat e.seat).sq q.toNat).st = .cancelled) : evalSdrain q p s e = fault0 0x02 := if_pos h

/-- SDRAIN of a stream with nothing left to write, and that no command of the array names, has nothing to wait for. -/
theorem evalSdrain_of_done (h : ((p.seat e.seat).sq q.toNat).st ≠ .cancelled) (hp : ((p.seat e.seat).sq q.toNat).pushed = [])
    (hc : ∀ d ∈ (p.arr e.quad).cmds, d.ctx = (p.seat e.seat).ctx → d.carr = (p.seat e.seat).carr → d.k.names q.toNat = false) :
    evalSdrain q p s e = okAct id := by
  have hany : ((p.arr e.quad).cmds.any fun d => d.ctx == (p.seat e.seat).ctx && d.carr == (p.seat e.seat).carr && d.k.names q.toNat) = false := by
    rw [List.any_eq_false]
    intro d hd
    by_cases hx : d.ctx = (p.seat e.seat).ctx ∧ d.carr = (p.seat e.seat).carr
    · simp [hc d hd hx.1 hx.2]
    · simp only [Bool.and_eq_true, beq_iff_eq]
      exact fun hd => hx hd.1
  simp only [evalSdrain, h, hp, hany, if_false]; rfl

theorem evalSpos_read {a c : Reg} :
    evalSpos a q c false p s e = okSeat e fun x => x.setReg a (((p.seat e.seat).sq q.toNat).pos.setWidth 64) := rfl

theorem evalSpos_write_of_not_idle {a c : Reg} (h : ((p.seat e.seat).sq q.toNat).st ≠ .idle) : evalSpos a q c true p s e = fault0 0x02 :=
  if_pos (by simp [h])

theorem evalSpos_write_of_idle {a c : Reg} (h : ((p.seat e.seat).sq q.toNat).st = .idle) :
    evalSpos a q c true p s e = okSeat e fun x =>
      let y := x.setReg a (((p.seat e.seat).sq q.toNat).pos.setWidth 64)
      y.setSq q.toNat { y.sq q.toNat with pos := addrOf (p.sreg e c) } :=
  if_neg (by simp [h])

variable {b : Reg} {off : BitVec 16} {l : List Byte}

theorem evalScfg_of_active (h : ((p.seat e.seat).sq q.toNat).st = .active) : evalScfg q b off p s e = fault0 0x02 := if_pos h

theorem evalScfg_of_misaligned (h : ((p.seat e.seat).sq q.toNat).st ≠ .active) (ha : baseOff p e b off % 64 ≠ 0) :
    evalScfg q b off p s e = faultVa 0x08 (baseOff p e b off) := (if_neg h).trans (if_pos ha)

theorem evalScfg_of_read (h : ((p.seat e.seat).sq q.toNat).st ≠ .active) (ha : baseOff p e b off % 64 = 0)
    (hr : earlyRead p e (baseOff p e b off) 64 (baseOff p e b off) = .ok l) :
    evalScfg q b off p s e = okSeat e fun x => x.setSq q.toNat ((x.sq q.toNat).config (ofBytesLE l)) := by
  simp only [evalScfg, h, ha, hr, ne_eq, not_true_eq_false, if_false]

/-- A stream shaped to a number of rows (R150). -/
def Stream.shaped (q : Stream) (n : Nat) : Stream := { q with de0 := BitVec.ofNat 16 n, de1 := 1, de2 := 1, de3 := 1, pos := 0 }

theorem evalShape_of_read (h : ((p.seat e.seat).sq q.toNat).st = .idle ∨ ((p.seat e.seat).sq q.toNat).st = .exhausted)
    (ha : baseOff p e b off % 8 = 0) (hf : ((p.seat e.seat).sq q.toNat).fmtBad true = false)
    (hr : earlyRead p e (baseOff p e b off) 8 (baseOff p e b off) = .ok l) (hn : ofBytesLE l < 2 ^ 16)
    (hb : ofBytesLE l * ((p.seat e.seat).sq q.toNat).rb ≤ ((p.seat e.seat).sq q.toNat).bound.toNat)
    (hs : (((p.seat e.seat).sq q.toNat).shaped (ofBytesLE l)).startBad true = none) :
    evalShape q b off p s e = okAct fun s =>
      { s with nextId := s.nextId + 1 }.modSq e.seat q.toNat fun z => (z.shaped (ofBytesLE l)).started s.nextId := by
  have hst : ¬ (((p.seat e.seat).sq q.toNat).st ≠ .idle ∧ ((p.seat e.seat).sq q.toNat).st ≠ .exhausted) := by
    rcases h with h | h <;> simp [h]
  have hlo : ofBytesLE l % 2 ^ 32 = ofBytesLE l := Nat.mod_eq_of_lt (by omega)
  have hhi : ofBytesLE l / 2 ^ 32 = 0 := Nat.div_eq_of_lt (by omega)
  have hfit : ¬ (65535 < ofBytesLE l ∨ ((p.seat e.seat).sq q.toNat).bound.toNat < ofBytesLE l * ((p.seat e.seat).sq q.toNat).rb) := by
    omega
  unfold Stream.shaped at hs
  simp only [evalShape, hst, ha, hr, hlo, hhi, hf, hfit, hs, ne_eq, not_true_eq_false, if_false, Bool.false_eq_true]
  rfl

end Evals

theorem streamFormsActOnTheirStream : StreamFormsActOnTheirStream := by
  intro s r q a b c off unbind x z ea
  refine ⟨fun h => ?sbind, fun h => ⟨fun hst => ?sstartState, fun hst hz => ?sstartZero, fun hst hg => ?sstart⟩,
    fun h => ⟨fun hst => ?sstop, fun hst => ?sstopState⟩, fun h => ⟨fun hst => ?sdrainState, fun hst hp hc => ?sdrain⟩, fun h => ?sposRead,
    fun h => ⟨fun hst => ?sposState, fun hst => ?sposWrite⟩,
    fun h => ⟨fun hst => ?scfgState, fun hst ha => ?scfgAlign, fun hst ha l hl => ?scfg⟩, fun h hst ha hf l hl hn hb hg => ?shape⟩
  case sbind =>
    exact ⟨x.rebind r q unbind, seatBecomes_of h rfl rfl (by decide) (evalSbind_eq r q unbind s s _) rfl, rebind_rest x r q unbind,
      fun i hi => rebind_sq x r q unbind hi⟩
  case sstartState => exact traps_slotX h rfl rfl (evalSstart_of_not_idle hst)
  case sstartZero => exact traps_slotX h rfl rfl (evalSstart_of_bad hst (startBad_zero_count hz))
  case sstart => exact commits_act h rfl rfl (by decide) (evalSstart_of_good hst hg)
  case sstop => exact seatBecomes_of h rfl rfl (by decide) (evalSstop_of_running hst) rfl
  case sstopState => exact traps_slotX h rfl rfl (evalSstop_of_stopped hst)
  case sdrainState => exact traps_slotX h rfl rfl (evalSdrain_of_cancelled hst)
  case sdrain => exact commits_act h rfl rfl (by decide) (evalSdrain_of_done hst hp hc)
  case sposRead => exact seatBecomes_of h rfl rfl (by decide) evalSpos_read rfl
  case sposState => exact traps_slotX h rfl rfl (evalSpos_write_of_not_idle hst)
  case sposWrite =>
    have hsq : (x.setReg a (z.pos.setWidth 64)).sq q.toNat = z := by rw [Seat.sq, setReg_streams]; rfl
    exact seatBecomes_of h rfl rfl (by decide) (evalSpos_write_of_idle hst) (congrArg (fun y : Stream =>
      (x.setReg a (z.pos.setWidth 64)).setSq q.toNat { y with pos := addrOf (x.reg c) }) hsq)
  case scfgState => exact traps_slotX h rfl rfl (evalScfg_of_active hst)
  case scfgAlign => exact traps_slotX h rfl rfl (evalScfg_of_misaligned hst ha)
  case scfg => exact seatBecomes_of h rfl rfl (by decide) (evalScfg_of_read hst ha hl) rfl
  case shape => exact commits_act h rfl rfl (by decide) (evalShape_of_read hst ha hf hl hn hb hg)

/-! ## The fetch of an element (R145, R148) -/

section Fetch

variable {s : State} {ctx quad : Nat} {q : Stream} {n : Nat} {t : QTok}

/-- An element without scale is read by its format from its bits. -/
theorem fetchElem_unscaled {ks : List Nat} (hs : q.sstride = 0)
    (h : s.spanRead ctx quad q.swz.toNat (q.elemSpan n).1 true t (q.elemSpan n).2.1 = .ok ks) :
    s.fetchElem ctx quad q n t = .got
      ⟨(elemToLane q.fmt.toNat q.raw none (ofBytesLE (ks.map s.rdByte) / 2 ^ (q.elemSpan n).2.2 % 2 ^ q.eb)).1,
       (elemToLane q.fmt.toNat q.raw none (ofBytesLE (ks.map s.rdByte) / 2 ^ (q.elemSpan n).2.2 % 2 ^ q.eb)).2, none⟩ := by
  simp only [State.fetchElem, h, hs, if_true, bitsAt, Nat.shiftRight_eq_div_pow]

theorem fetchElem_fault {c va : Nat} (h : s.spanRead ctx quad q.swz.toNat (q.elemSpan n).1 true t (q.elemSpan n).2.1 = .fault c va) :
    s.fetchElem ctx quad q n t = .got ⟨0, 0, some (c, BitVec.ofNat 48 va)⟩ := by
  simp only [State.fetchElem, h]

end Fetch

/-- The unit of a stream may fetch the next element of it (R148). -/
def State.Fetches (s : State) (k n : Nat) : Prop :=
  let x := s.seat k
  let q := x.sq n
  let i := q.pos.toNat + q.fetched.length
  x.st = .occupied ∧ q.st = .active ∧ q.dir = 0#2 ∧ i < q.total ∧ q.resting = false ∧ (q.fetched.all fun f => f.fault.isNone) = true
    ∧ s.fetchHeld k q i (.elem x.carr n i) = false

/-- The next element of a stream, as the unit fetches it. -/
def State.nextElem (s : State) (k n : Nat) : FetchRes :=
  let x := s.seat k
  let q := x.sq n
  let i := q.pos.toNat + q.fetched.length
  s.fetchElem x.ctx (quadOf k) q i (.elem x.carr n i)

section Unit

variable {s : State} {k n : Nat}

/-- An element fetched without a fault joins those that are fetched. -/
theorem exec_streamElementFetch {v : W32} {fl : Flags} (hm : s.Fetches k n) (h : s.nextElem k n = .got ⟨v, fl, none⟩) :
    exec (.streamElementFetch k n) s = .next (s.modSq k n fun q => { q with fetched := q.fetched ++ [⟨v, fl, none⟩] }) := by
  have hx : exec (.streamElementFetch k n) s = execStreamElementFetch k n s := rfl
  unfold State.nextElem at h
  rw [hx, execStreamElementFetch]
  refine congrArg _ ((if_pos hm).trans ?_)
  rw [h]

/-- One that has met a fault is kept with it, and its fault stands in FCAUSE and FVA (R358). -/
theorem exec_streamElementFetch_fault {v : W32} {fl : Flags} {c : Nat} {va : Addr} (hm : s.Fetches k n)
    (h : s.nextElem k n = .got ⟨v, fl, some (c, va)⟩) :
    exec (.streamElementFetch k n) s = .next (s.modSq k n fun q =>
      { q with fetched := q.fetched ++ [⟨v, fl, some (c, va)⟩], fcause := BitVec.ofNat 8 c, fva := va }) := by
  have hx : exec (.streamElementFetch k n) s = execStreamElementFetch k n s := rfl
  unfold State.nextElem at h
  rw [hx, execStreamElementFetch]
  refine congrArg _ ((if_pos hm).trans ?_)
  rw [h]

end Unit

/-! ## The write of a vector (R149) -/

/-- The byte that a push leaves where it writes: the bits of its mask are new. -/
def maskedByte (s : State) (ctx : Nat) (b : PLoc × Byte × Byte) : Byte := (s.rdByte (s.front ctx b.1) &&& ~~~b.2.1) ||| (b.2.2 &&& b.2.1)

/-- The bytes of a push as pieces of memory. -/
def maskedPieces (s : State) (ctx : Nat) (l : List (PLoc × Byte × Byte)) : List (Nat × List Byte) :=
  l.map fun b => (s.front ctx b.1, [maskedByte s ctx b])

theorem mem_maskedPieces {s : State} {ctx : Nat} {l : List (PLoc × Byte × Byte)} {b : PLoc × Byte × Byte} (h : b ∈ l) :
    (s.front ctx b.1, [maskedByte s ctx b]) ∈ maskedPieces s ctx l :=
  List.mem_map_of_mem (f := fun b => (s.front ctx b.1, [maskedByte s ctx b])) h

/-- Bytes of different places are apart from each other. -/
theorem maskedPieces_apart {s : State} {ctx : Nat} {l : List (PLoc × Byte × Byte)} (h : (l.map fun b => s.front ctx b.1).Nodup) :
    (maskedPieces s ctx l).Pairwise Apart := by
  unfold maskedPieces
  rw [List.pairwise_map]
  rw [List.Nodup, List.pairwise_map] at h
  refine h.imp fun hne => ?_
  simp only [Apart, List.length_singleton]
  omega

/-- The bytes of a push, each at a place of its own where nothing looks, come into memory with what stands beside their masks. -/
theorem rewritten_foldl_applyMasked {s : State} {ctx : Nat} {l : List (PLoc × Byte × Byte)} (hq : ∀ b ∈ l, s.Quiet (s.front ctx b.1) 1)
    (hn : (l.map fun b => s.front ctx b.1).Nodup) :
    Rewritten s (l.foldl (fun s b => s.applyMasked ctx b) s) (putPieces s.mem (maskedPieces s ctx l)) := by
  induction l generalizing s with
  | nil => exact .refl s
  | cons b l ih =>
    rw [List.forall_mem_cons] at hq
    rw [List.map_cons, List.nodup_cons] at hn
    obtain ⟨hnb, hn⟩ := hn
    have hb : Rewritten s (s.applyMasked ctx b) (putBytes s.mem (s.front ctx b.1) [maskedByte s ctx b]) := rewritten_apply hq.1
    have hfront : ∀ d : PLoc, (s.applyMasked ctx b).front ctx d = s.front ctx d := hb.front ctx
    have hpieces : maskedPieces (s.applyMasked ctx b) ctx l = maskedPieces s ctx l := by
      refine List.map_congr_left fun d hd => ?_
      have hne : s.front ctx d.1 ≠ s.front ctx b.1 := fun h => hnb (List.mem_map.mpr ⟨d, hd, h⟩)
      have hsame : (s.applyMasked ctx b).rdByte (s.front ctx d.1) = s.rdByte (s.front ctx d.1) :=
        (hb.rdByte _).trans (get_putBytes_outside _ _ _ (by simp only [List.length_singleton]; omega))
      simp only [maskedByte, hfront, hsame]
    have hrest := ih (s := s.applyMasked ctx b) (fun d hd => by rw [hfront]; exact hb.quiet (hq.2 d hd)) (by simpa only [hfront] using hn)
    rw [hpieces, hb.mem] at hrest
    exact hb.trans hrest

/-- The tags of sectors set as a push names them (R152). -/
def State.putTags (s : State) (secs : List (Nat × Nat)) : State :=
  { s with tags := secs.foldl (fun (m : SMap Nat) (t : Nat × Nat) => SMap.set 0 m t.1 t.2) s.tags }

/-- A vector written: its bytes are in memory, its tags set, its words no more exposed, and its flags raised. -/
theorem exec_streamElementWrite {s : State} {k n : Nat} {p : Pushed} {l : List Pushed} (hp : ((s.seat k).sq n).pushed = p :: l)
    (hr : s.pushReady k p = true) :
    let u := p.bytes.foldl (fun t b => t.applyMasked (s.seat k).ctx b) s
    exec (.streamElementWrite k n) s = .next (((u.putTags p.secs).unexpose p.id).modSeat k fun x =>
      { (x.setSq n { x.sq n with pushed := l }) with fflags := x.fflags ||| p.flags }) := by
  have hx : exec (.streamElementWrite k n) s = execStreamElementWrite k n s := rfl
  rw [hx, execStreamElementWrite]
  refine congrArg _ ?_
  dsimp only
  rw [hp]
  exact if_pos hr

theorem streamUnitsFetchAndWrite : StreamUnitsFetchAndWrite := by
  intro s k n x q i w
  refine ⟨fun hocc hact hdir hi hrest hnone hheld => ?fetch, fun p l hp hr hq hn => ?write⟩
  case fetch =>
    have hm : s.Fetches k n := ⟨hocc, hact, hdir, hi, hrest, by simpa [List.all_eq_true] using hnone, hheld⟩
    exact ⟨fun ks hs hread => exec_streamElementFetch hm (fetchElem_unscaled hs hread),
      fun c va hread => exec_streamElementFetch_fault hm (fetchElem_fault hread)⟩
  case write =>
    have hu := rewritten_foldl_applyMasked hq hn
    refine ⟨_, exec_streamElementWrite hp hr, fun b hb => ?masked, fun m hm => ?others, ?seat, fun j hj => ?seats⟩
    case masked =>
      have h0 := get_putPieces_inside s.mem (maskedPieces_apart hn) (mem_maskedPieces hb) (i := 0) Nat.one_pos
      exact (hu.rdByte _).trans h0
    case others =>
      refine (hu.rdByte m).trans (get_putPieces_outside _ fun p' hp' => ?_)
      obtain ⟨b, hb, rfl⟩ := List.mem_map.mp hp'
      have := hm b hb
      simp only [List.length_singleton]; omega
    case seat =>
      rw [modSeat_seat_same]
      have hk := hu.seat k
      exact congrArg (fun y : Seat => { (y.setSq n { y.sq n with pushed := l }) with fflags := y.fflags ||| p.flags }) hk
    case seats =>
      rw [modSeat_seat, if_neg hj]
      exact hu.seat j

/-- Settles O23: each form evaluates to one change of its seat or to a fault, and the unit fetches and writes element by element. -/
theorem streamsActAndMove : Obligations.StreamsActAndMove := ⟨streamFormsActOnTheirStream, streamUnitsFetchAndWrite⟩

end

end Sys2Proof.Machine

namespace Sys2Proof.Machine

section

open Sys2Proof.Claims

/-!
# Gathers and scatters (O32)

GLD reads rows of the table at S*f* and writes them densely at SB; SCT reads dense rows at S*f* and writes them into the table at SB
(R162). The statement has the command of both forms with source and destination exchanged, so a GLD whose two places differ refutes it.
-/

/-- A seat whose S1 is a count of 2 rows, S2 the place of the dense rows, S3 an index list, and S4 a table, all in its scratchpad. -/
def gatherSeat : Seat :=
  { Seat.reset with st := .occupied, ctx := 1, carr := 256, pc := 0x10000
                    sregs := [(1, 2), (2, 0xFF0000000400), (3, 0xFF0000000800), (4, 0xFF0000000C00)] }

/-- The package with that seat, in a context with a scratchpad whose bytes are zero. -/
def gatherState : State :=
  { State.reset with power := .active, seats := [(0, gatherSeat)]
                     ctxs := [(1, { Ctx.fresh with st := .runnable, splen := [(0, 0x10000)] })] }

/-- Rows of 64 bytes, and no signal. -/
def gatherXfer : Xfer := ⟨0, 0, 0, 64⟩

/-- `gld [s2], [s3], s1, [s4], 64`. -/
def gatherInstr : Instr := .gld 1 2 3 4 gatherXfer

/-- The command that the statement has of it: from the dense rows to the table. -/
def exchangedCommand : Trans :=
  command gatherState gatherInstr .gld (pointed gatherState 2) (pointed gatherState 4) 2 64 [0, 0] 0 0 gatherXfer []

/-- The sources of the commands in the transfer queue of quad 0, after a step. -/
def queuedSources : Host.Outcome State Fault Refusal → List Addr
  | .next t => (t.quad 0).trans.map Trans.src
  | _ => []

theorem gatherInstr_issuable : gatherState.Issuable gatherInstr where
  occupied := by decide
  fields := by decide
  srcs := by decide +kernel
  dests := by decide
  mem := by decide
  items := by decide
  lands := by decide

theorem readIdx_gather : readIdx gatherState (gatherState.envOf gatherInstr) (pointed gatherState 3) 2 = .ok [0, 0] := rfl

/-- Few sectors need no wait for the check of their tags (R152). -/
theorem tagWait_of_few (p : State) (e : Env) {n : Nat} (h : n / 64 = 0) : tagWait p e n = none := if_pos h

theorem exchangedCommand_admitted : admitted gatherState gatherInstr gatherXfer [] exchangedCommand := by
  have hword : wordChk gatherState (gatherState.envOf gatherInstr) 0 (pointed gatherState 0) = .ok [] := rfl
  have hsecs : gatherState.srcSecs exchangedCommand / 64 = 0 := by decide +kernel
  have htags : gatherState.tagFault exchangedCommand = none := by decide +kernel
  exact ⟨hword, rfl, htags, tagWait_of_few _ _ hsecs, by decide⟩

/-- The machine queues the command that reads the table. -/
theorem queuedSources_gather : queuedSources (exec gatherInstr gatherState) = [0xFF0000000C00] := by decide +kernel

theorem queuedSources_exchanged :
    queuedSources (.next (gatherState.gone ({ gatherState with nextId := gatherState.nextId + 1 }.enqueue exchangedCommand) gatherInstr 0))
      = [0xFF0000000400] := by decide +kernel

/-- Refutes O32: a GLD reads its table at S*f* and writes its rows at SB, where the statement has it read at SB and write at S*f*. -/
theorem not_transfersEnterTheirQueue : ¬ Obligations.TransfersEnterTheirQueue := by
  intro h
  obtain ⟨hwhole, -⟩ := h gatherState 1 2 3 4 0 gatherXfer false
  obtain ⟨-, hgld, -⟩ := hwhole (.inl (by decide)) (by decide)
  have hqueued : Commits gatherState gatherInstr ({ gatherState with nextId := gatherState.nextId + 1 }.enqueue exchangedCommand) 0 :=
    hgld (.inl (by decide)) gatherInstr_issuable [] [0, 0] readIdx_gather exchangedCommand_admitted
  have hsources := congrArg queuedSources hqueued
  rw [queuedSources_gather, queuedSources_exchanged] at hsources
  exact absurd hsources (by decide)

end

end Sys2Proof.Machine

namespace Sys2Proof.Machine

section

open Sys2Proof.Claims

/-!
# Sectors, stops and completions of transfer commands (O33)

What an event of a command does to its queue is a change of the command under its number, or its removal. What it does to memory is
a write of pieces, or of one word, where nothing looks.
-/

/-! ## The engine writes pieces -/

section Pieces

variable {s t : State} {m : SMap Byte}

/-- Pieces applied where nothing looks come into memory. -/
theorem rewritten_foldl_apply {ps : List (Nat × List Byte)} (h : ∀ p ∈ ps, s.Quiet p.1 p.2.length) :
    Rewritten s (ps.foldl (fun s p => s.apply p.1 p.2) s) (putPieces s.mem ps) := by
  induction ps generalizing s with
  | nil => exact .refl s
  | cons p ps ih =>
    rw [List.forall_mem_cons] at h
    obtain ⟨hp, hps⟩ := h
    have h1 := rewritten_apply hp
    have h2 := ih (s := s.apply p.1 p.2) fun p' hp' => h1.quiet (hps p' hp')
    rw [h1.mem] at h2
    exact h1.trans h2

theorem rewritten_applyPieces {ps : List (Nat × List Byte)} (h : ∀ p ∈ ps, s.Quiet p.1 p.2.length) :
    Rewritten s (s.applyPieces ps) (putPieces s.mem ps) := by
  obtain ⟨p, hp⟩ := rewritten_foldl_apply h
  exact ⟨_, by rw [State.applyPieces, hp]⟩

theorem Rewritten.engineLoc (h : Rewritten s t m) (c : Trans) : t.engineLoc c = s.engineLoc c := by obtain ⟨p, rfl⟩ := h; rfl

/-- The runs of a sector come into memory piece by piece. -/
theorem rewritten_runs {c : Trans} {rs : List (Nat × List Byte)}
    (h : ∀ p ∈ rs.flatMap fun r => pieces (s.engineLoc c) r.1 r.2, s.Quiet p.1 p.2.length) :
    Rewritten s (rs.foldl (fun s r => s.applyPieces (pieces (s.engineLoc c) r.1 r.2)) s)
      (putPieces s.mem (rs.flatMap fun r => pieces (s.engineLoc c) r.1 r.2)) := by
  induction rs generalizing s with
  | nil => exact .refl s
  | cons r rs ih =>
    rw [List.flatMap_cons, List.forall_mem_append] at h
    obtain ⟨hr, hrs⟩ := h
    have h1 := rewritten_applyPieces hr
    have h2 := ih (s := s.applyPieces (pieces (s.engineLoc c) r.1 r.2)) (by rw [h1.engineLoc]; exact fun p hp => h1.quiet (hrs p hp))
    rw [h1.engineLoc, h1.mem] at h2
    rw [List.flatMap_cons, putPieces, List.foldl_append]
    exact h1.trans h2

end Pieces

/-! ## A command in its queue -/

section Queue

variable {s u : State} {c : Trans} {g : Trans → Trans}

/-- A command of the queue after a change under a number was in it before, or is one of that number changed. -/
theorem mem_modTrans {y : Trans} (hy : y ∈ ((u.modTrans c g).quad c.home).trans) (hid : y.id = c.id) :
    ∃ z ∈ (u.quad c.home).trans, z.id = c.id ∧ y = g z := by
  rw [State.modTrans, modQuad_quad_same] at hy
  obtain ⟨z, hz, rfl⟩ := List.mem_map.mp hy
  by_cases hzc : z.id = c.id
  · exact ⟨z, hz, hzc, if_pos hzc⟩
  · rw [if_neg hzc] at hid
    exact absurd hid hzc

/-- What a change under a number has changed goes when the number goes. -/
theorem filter_modTrans (hg : ∀ z, (g z).id = z.id) :
    ((u.modTrans c g).quad c.home).trans.filter (fun y => y.id != c.id) = (u.quad c.home).trans.filter fun y => y.id != c.id := by
  rw [State.modTrans, modQuad_quad_same, List.filter_map]
  have hid : ∀ y : Trans, (if y.id = c.id then g y else y).id = y.id := fun y => by split <;> simp [hg]
  have hcomp : ((fun y : Trans => y.id != c.id) ∘ fun y => if y.id = c.id then g y else y) = fun y => y.id != c.id :=
    funext fun y => by simp only [Function.comp_apply, hid]
  rw [hcomp]
  refine (List.map_congr_left fun y hy => ?_).trans (List.map_id _)
  have hne : y.id ≠ c.id := by simpa using (List.mem_filter.mp hy).2
  rw [if_neg hne, id]

/-- What is left of a list without a sector lies before the sector or behind it. -/
theorem mem_dropSec {sec : Nat} {l : List (Nat × Nat)} {r : Nat × Nat} (h : r ∈ dropSec sec l) : r.1 + r.2 ≤ sec ∨ sec < r.1 := by
  obtain ⟨a, -, hr⟩ := List.mem_flatMap.mp h
  split at hr
  next hin =>
    rcases List.mem_append.mp hr with hlow | hhigh
    · split at hlow
      · cases hlow
      · obtain rfl := List.mem_singleton.mp hlow
        left; dsimp only; omega
    · split at hhigh
      · cases hhigh
      · obtain rfl := List.mem_singleton.mp hhigh
        right; exact Nat.lt_succ_self sec
  next hout =>
    obtain rfl := List.mem_singleton.mp hr
    omega

/-- A sector taken out of the list is no longer to be tried. -/
theorem isTodo_dropSec (sec : Nat) (y : Trans) : Trans.isTodo { y with todo := dropSec sec y.todo } sec = false := by
  simp only [Trans.isTodo, List.any_eq_false, decide_eq_true_eq]
  intro r hr
  have := mem_dropSec hr
  omega

end Queue

/-! ## A sector is written (R359) -/

/-- The command without a sector to try, and with the bytes that the sector has. -/
def Trans.wrote (sec n : Nat) (y : Trans) : Trans := { y with todo := dropSec sec y.todo, written := y.written + n }

section Sectors

variable {s : State} {id sec : Nat} {c : Trans} {l : List Byte}

theorem secTags_tags (s : State) (c : Trans) (i : Nat) (vas : List Nat) : ∃ g, s.secTags c i vas = { s with tags := g } := by
  refine List.foldlRecOn (motive := fun t : State => ∃ g, t = { s with tags := g }) _ _ ⟨s.tags, rfl⟩ ?_
  rintro t ⟨g, rfl⟩ a -
  split
  · exact ⟨_, rfl⟩
  · exact ⟨_, rfl⟩

/-- The write of a sector: tags, then runs, and then the command counts it. -/
theorem secWrite_eq (s : State) (c : Trans) (sec : Nat) (l : List Byte) :
    s.secWrite c sec l = State.modTrans ((runsOf (s.secKept c sec l)).foldl (fun s r => s.applyPieces (pieces (s.engineLoc c) r.1 r.2))
      (s.secTags c (c.secBytes sec).1 ((s.secKept c sec l).map Prod.fst))) c (Trans.wrote sec (c.placed sec l).length) := rfl

/-- A sector written where nothing looks: its pieces are in memory, and of the rest the tags and the command have changed. -/
theorem secWrite_quiet (h : ∀ p ∈ secParts s c sec l, s.Quiet p.1 p.2.length) :
    ∃ (g : SMap Nat) (u : State), Rewritten { s with tags := g } u (putPieces s.mem (secParts s c sec l))
      ∧ s.secWrite c sec l = u.modTrans c (Trans.wrote sec (c.placed sec l).length) := by
  obtain ⟨g, hg⟩ := secTags_tags s c (c.secBytes sec).1 ((s.secKept c sec l).map Prod.fst)
  rw [secWrite_eq, hg]
  exact ⟨g, _, rewritten_runs (s := { s with tags := g }) h, rfl⟩

/-- Nothing of a sector is logged for a context that neither records nor replays (R379). -/
theorem logSector_plain (hrcd : (s.ctx c.ctx).rcd = false) (hrep : (s.ctx c.ctx).replay = false) : s.logSector c sec l = s := by
  simp only [State.logSector, State.hostLog, State.logAdd, hrcd, hrep, Bool.false_eq_true, if_false, Bool.not_false, Bool.true_or, if_true,
    ite_self]

theorem exec_transferSectorWrite (hm : Moving s id c) (ht : c.isTodo sec = true) (ho : c.inOrder sec = true) (h : s.secTry c sec = .ok l) :
    exec (.transferSectorWrite id sec) s = .next ((s.logSector c sec l).secWrite c sec l) := by
  have hx : exec (.transferSectorWrite id sec) s = execTransferSectorWrite id sec s := rfl
  simp only [hx, execTransferSectorWrite, hm.found, ht, ho, hm.ready, h, Bool.and_self, if_true]

theorem exec_transferSectorWrite_fault {cause side va : Nat} (hm : Moving s id c) (ht : c.isTodo sec = true) (ho : c.inOrder sec = true)
    (h : s.secTry c sec = .fault cause side va) : exec (.transferSectorWrite id sec) s = .next (s.secFault c sec cause side va) := by
  have hx : exec (.transferSectorWrite id sec) s = execTransferSectorWrite id sec s := rfl
  simp only [hx, execTransferSectorWrite, hm.found, ht, ho, hm.ready, h, Bool.and_self, if_true]

/-! ## A sector fails (R359, R360) -/

/-- The command without a sector to try, which has now to stop. -/
def Trans.missed (sec : Nat) (y : Trans) : Trans := { y with todo := dropSec sec y.todo, stopped := false }

/-- A sector that fails stands in a fault record of its die, with its cause and side. -/
theorem secFault_recorded {cause side va : Nat} (hroom : (s.die (c.home / 28)).faults.length < 1024) :
    ∃ u : State, s.secFault c sec cause side va = u.modTrans c (Trans.missed sec) ∧ u.mem = s.mem
      ∧ ∃ f ∈ (u.die (c.home / 28)).faults, f.tid = c.id ∧ sec ∈ f.secs ∧ f.cause = cause ∧ f.side = side := by
  unfold State.secFault
  extract_lets d k gone
  split
  next r hr =>
    have hfits := List.find?_some hr
    simp only [recFits, Bool.and_eq_true, beq_iff_eq] at hfits
    obtain ⟨⟨⟨⟨⟨⟨-, htid⟩, hcause⟩, hside⟩, -⟩, -⟩, -⟩ := hfits
    refine ⟨_, rfl, rfl, { r with secs := r.secs ++ [sec], first := Nat.min k r.first }, ?_, htid, by simp, hcause, hside⟩
    rw [modDie_die_same]
    exact List.mem_map.mpr ⟨r, List.mem_of_find?_eq_some hr, if_pos rfl⟩
  next =>
    rw [if_neg (Nat.not_le.mpr hroom)]
    refine ⟨_, rfl, rfl, ?_⟩
    rw [State.addFault, modDie_die_same]
    exact ⟨_, List.mem_append_right _ (List.mem_singleton.mpr rfl), rfl, List.mem_singleton.mpr rfl, rfl, rfl⟩

end Sectors

theorem sectorsAreWritten : SectorsAreWritten := by
  intro s id sec c hm ht ho done
  have hdone : ∀ {u : State} {g : Trans → Trans}, (∀ z, (g z).isTodo sec = false) → done (u.modTrans c g) := by
    intro u g htodo y hy hid
    obtain ⟨z, -, -, rfl⟩ := mem_modTrans hy (hid.trans hm.num.symm)
    exact htodo z
  refine ⟨fun l hl => ⟨?written, fun hrcd hrep hq => ?quiet⟩, fun cause side va hf hroom => ?fault⟩
  case written =>
    refine ⟨_, exec_transferSectorWrite hm ht ho hl, rfl, ?_⟩
    rw [secWrite_eq]
    exact hdone (isTodo_dropSec sec)
  case quiet =>
    obtain ⟨g, u, hu, hw⟩ := secWrite_quiet hq
    have hbyte : ∀ a, (u.modTrans c (Trans.wrote sec (c.placed sec l).length)).rdByte a
        = SMap.get memDefault (putPieces s.mem (secParts s c sec l)) a := hu.rdByte
    refine ⟨_, exec_transferSectorWrite hm ht ho hl, ?_⟩
    rw [logSector_plain hrcd hrep, hw]
    refine ⟨hu.seats, fun y hy hid => ?_, fun a ha => (hbyte a).trans (get_putPieces_outside _ ha),
      fun hapart p hp i hi => (hbyte _).trans (get_putPieces_inside _ hapart hp hi)⟩
    obtain ⟨z, hz, hzid, rfl⟩ := mem_modTrans hy (hid.trans hm.num.symm)
    rw [hu.quad] at hz
    exact ⟨z, hz, hzid.trans hm.num, rfl⟩
  case fault =>
    obtain ⟨u, hu, hmem, f, hf', htid, hsec, hcause, hside⟩ := secFault_recorded (sec := sec) (cause := cause) (side := side) (va := va) hroom
    refine ⟨_, exec_transferSectorWrite_fault hm ht ho hf, ?_⟩
    rw [hu]
    exact ⟨hmem, ⟨f, hf', htid.trans hm.num, hsec, hcause, hside⟩, hdone (isTodo_dropSec sec)⟩

/-! ## Words written where nothing looks -/

section Words

variable {s : State} {c : Trans} {k : Nat}

theorem applyWord_quiet {w : W64} (h : s.Quiet k 8) : s.applyWord k w = s.wrWord k w :=
  apply_quiet (by rw [length_bytesLE]; exact h)

theorem rdNat_wrWord_same (s : State) (k : Nat) (w : W64) : (s.wrWord k w).rdNat k 8 = w.toNat := by
  rw [State.wrWord, rdNat_wrNat_same]
  exact Nat.mod_eq_of_lt w.isLt

theorem rdWord_wrWord_same (s : State) (k : Nat) (w : W64) : (s.wrWord k w).rdWord k = w := by
  rw [State.rdWord, rdNat_wrWord_same, BitVec.ofNat_toNat, BitVec.setWidth_eq]

theorem rdByte_wrWord_outside (s : State) (k : Nat) (w : W64) {a : Nat} (h : a < k ∨ k + 8 ≤ a) : (s.wrWord k w).rdByte a = s.rdByte a :=
  rdByte_wrNat_outside s k 8 _ h

/-- A number reads as before where each of its bytes does. -/
theorem rdNat_congr {t : State} {j n : Nat} (h : ∀ a, j ≤ a → a < j + n → t.rdByte a = s.rdByte a) : t.rdNat j n = s.rdNat j n := by
  have hbytes : t.rdBytes j n = s.rdBytes j n := by
    induction n generalizing j with
    | zero => rfl
    | succ n ih =>
      rw [State.rdBytes, State.rdBytes, h j (by omega) (by omega), ih fun a ha hn => h a (by omega) (by omega)]
  rw [State.rdNat, State.rdNat, hbytes]

/-- Eight bytes outside the word written read as before. -/
theorem rdNat_wrWord_outside (s : State) (k : Nat) (w : W64) {j : Nat} (h : j + 8 ≤ k ∨ k + 8 ≤ j) : (s.wrWord k w).rdNat j 8 = s.rdNat j 8 :=
  rdNat_congr fun a ha hn => rdByte_wrWord_outside s k w (by omega)

/-- A write of memory takes lines out of error and puts none in (R366). -/
theorem get_clearLines (m : SMap Bool) (ls : List Nat) (i : Nat) (h : SMap.get false m i = false) : SMap.get false (clearLines m ls) i = false := by
  induction ls generalizing m with
  | nil => exact h
  | cons a ls ih =>
    refine ih _ ?_
    by_cases hi : i = a
    · subst hi; simp
    · rw [SMap.get_erase_other _ _ hi, h]

theorem badIn_wrBytes {l : List Byte} {j n : Nat} (h : s.badIn j n = none) : (s.wrBytes k l).badIn j n = none := by
  rw [State.badIn, List.find?_eq_none] at h ⊢
  exact fun i hi => ne_true_of_eq_false (get_clearLines s.poison _ i (eq_false_of_ne_true (h i hi)))

/-! ## The signals of a command (R154) -/

/-- An addition to a counter word that is no tile's, and in no line in error. -/
theorem addCount_plain {n : Nat} (hbad : s.badIn k 8 = none) (hcount : s.countOf k = none) (hq : s.Quiet k 8) :
    s.addCount k n = s.wrWord k (s.rdWord k + BitVec.ofNat 64 n) := by
  have hadd : s.addCompletion k n = s.wrWord k (s.rdWord k + BitVec.ofNat 64 n) := by
    rw [State.addCompletion, hbad, Option.isSome_none, if_neg Bool.false_ne_true, applyWord_quiet hq]
  have hcount' : (s.wrWord k (s.rdWord k + BitVec.ofNat 64 n)).countOf k = none := hcount
  rw [State.addCount, hadd, State.tileTest, hcount']

theorem keyLog_plain {ctx : Nat} (hrcd : (s.ctx ctx).rcd = false) (hrep : (s.ctx ctx).replay = false) (key : Nat) (agent : W64) :
    s.keyLog ctx key agent = s := by
  simp only [State.keyLog, State.logAt, hrcd, hrep, Bool.false_eq_true, if_false]

/-- Outside a replay it is always a signal's turn. -/
theorem signalTurn_plain (hrep : (s.ctx c.ctx).replay = false) : s.signalTurn c = true := by
  unfold State.signalTurn
  split
  · simp only [State.keyTurn, State.turnAt, hrep, Bool.not_false, Bool.true_or]
  · rfl

/-- The command whose bytes are all counted. -/
def Trans.countedUp (n : Nat) (y : Trans) : Trans := { y with counted := n }

theorem addPart_adds (hw : s.wordOf c 0 = some k) (hp : plainWord s c k) (hn : c.counted < c.written ∨ c.written = 0) :
    s.addPart c = (s.wrWord k (s.rdWord k + BitVec.ofNat 64 (c.written - c.counted))).modTrans c (Trans.countedUp c.written) := by
  obtain ⟨hrcd, hrep, hbad, hcount, hq⟩ := hp
  have hadds : ¬ (c.written = c.counted ∧ c.written ≠ 0) := by omega
  simp only [State.addPart, hw, if_neg hadds, keyLog_plain hrcd hrep, addCount_plain hbad hcount hq]
  rfl

theorem addPart_counted (hw : s.wordOf c 0 = some k) (he : c.counted = c.written) (hn : c.written ≠ 0) : s.addPart c = s := by
  simp only [State.addPart, hw, he, true_and, if_pos hn]

/-- What the addition leaves at its word. -/
theorem toNat_add_count (w : W64) (n : Nat) : (w + BitVec.ofNat 64 n).toNat = (w.toNat + n) % 2 ^ 64 := by
  rw [BitVec.toNat_add, BitVec.toNat_ofNat, Nat.add_mod_mod]

theorem putReport_quiet {fault : Bool} (hw : s.wordOf c 8 = some k) (hq : s.Quiet k 8) :
    s.putReport c fault = s.wrWord k (BitVec.ofNat 64 ((if fault then 2 ^ 63 else 0) + c.written % 2 ^ 48)) := by
  simp only [State.putReport, hw, applyWord_quiet hq]

/-- The number in a report word, which the word holds whole. -/
theorem toNat_report (fault : Bool) (n : Nat) :
    (BitVec.ofNat 64 ((if fault then 2 ^ 63 else 0) + n % 2 ^ 48)).toNat = (if fault then 2 ^ 63 else 0) + n % 2 ^ 48 := by
  rw [BitVec.toNat_ofNat]
  refine Nat.mod_eq_of_lt ?_
  split <;> omega

/-- An arrival at a word without an owner leaves the word as the rules of arrivals say, and no other byte changed (R310). -/
theorem arriveCompletion_unowned (hbad : s.badIn k 8 = none) (hq : s.Quiet k 8) (ho : bOwn (s.rdWord k) = 0) :
    (s.arriveCompletion k).rdWord k = bArrive (s.rdWord k) ∧ (s.arriveCompletion k).quads = s.quads
      ∧ ∀ a, a < k ∨ k + 8 ≤ a → (s.arriveCompletion k).rdByte a = s.rdByte a := by
  have hfree : freeOwnedAt s (bOwn (s.rdWord k)) k = s := by rw [ho]; rfl
  have harr : s.arriveCompletion k = if bArrive (s.rdWord k) = s.rdWord k then s else s.wrWord k (bArrive (s.rdWord k)) := by
    simp only [State.arriveCompletion, hbad, Option.isSome_none, Bool.false_eq_true, if_false, State.arrive, hfree, ite_self,
      applyWord_quiet hq]
  rw [harr]
  split
  next h => exact ⟨h.symm, rfl, fun _ _ => rfl⟩
  next => exact ⟨rdWord_wrWord_same .., rfl, fun a ha => rdByte_wrWord_outside s k _ ha⟩

/-- An interrupt for a carriage on a seat with room for one joins those that are pending there (R155). -/
theorem signalUi_seated {cause : Nat} (hs : s.seatOf c.ctx c.carr = some k) (ho : (s.seat k).st = .occupied)
    (hl : (s.seat k).uis.length < 16) : s.signalUi c cause = some (s.setSeat k
      { s.seat k with uis := (s.seat k).uis ++ [⟨BitVec.ofNat 8 cause, c.w, BitVec.ofNat 48 c.written⟩] }) := by
  have hroom : ¬ (SeatSt.occupied ≠ SeatSt.occupied ∨ 16 ≤ (s.seat k).uis.length) := by simp [hl]
  simp only [State.signalUi, hs, ho, if_neg hroom, reduceCtorEq, if_false]

end Words

/-! ## A command stops (R154, R155) -/

/-- The command whose signal of a fault-stop is made. -/
def Trans.halted (y : Trans) : Trans := { y with stopped := true }

section Stop

variable {s u : State} {id : Nat} {c : Trans}

theorem exec_transferFaultStop (hm : Moving s id c) (ht : c.todo = []) (hr : s.recsOf c ≠ []) (hs : c.stopped = false)
    (h : s.stopSignal c = some u) : exec (.transferFaultStop id) s = .next (u.modTrans c Trans.halted) := by
  have hx : exec (.transferFaultStop id) s = execTransferFaultStop id s := rfl
  have hr' : (s.recsOf c).isEmpty = false := by simpa using hr
  simp only [hx, execTransferFaultStop, hm.found, ht, hr', hs, h, List.isEmpty_nil, Bool.not_false, Bool.and_self, if_true]
  rfl

theorem stopped_modTrans_halted (hm : Moving s id c) (u : State) : Stopped (u.modTrans c Trans.halted) id c := by
  intro y hy hid
  obtain ⟨z, -, -, rfl⟩ := mem_modTrans hy (hid.trans hm.num.symm)
  rfl

theorem stopSignal_none (h : c.cmode = 0#2) : s.stopSignal c = some s := by simp [State.stopSignal, h]

theorem stopSignal_count {k : Nat} (h : c.cmode = 1#2) (hp : plainWord s c k) : s.stopSignal c = some (s.addPart c) := by
  obtain ⟨-, hrep, -⟩ := hp
  simp [State.stopSignal, h, signalTurn_plain hrep]

theorem stopSignal_report (h : c.cmode = 2#2) : s.stopSignal c = some (s.putReport c true) := by simp [State.stopSignal, h]

theorem stopSignal_interrupt (h : c.cmode = 3#2) : s.stopSignal c = s.signalUi c 2 := by simp [State.stopSignal, h]

end Stop

theorem faultedCommandsStop : FaultedCommandsStop := by
  intro s id c hm ht hr hs run
  have hrun : ∀ {u : State} {p : State → Prop}, s.stopSignal c = some u → p (u.modTrans c Trans.halted) → run p :=
    fun h hp => ⟨_, exec_transferFaultStop hm ht hr hs h, stopped_modTrans_halted hm _, hp⟩
  refine ⟨fun h0 => ?silent, fun k h1 hw hp hn => ?adds, fun k h1 hw hp he hn => ?counted, fun k h2 hw hq => ?report,
    fun k h3 hseat hocc hroom => ?interrupt⟩
  case silent => exact hrun (stopSignal_none h0) ⟨rfl, rfl⟩
  case adds =>
    refine hrun (stopSignal_count h1 hp) ?_
    rw [addPart_adds hw hp hn]
    refine ⟨(rdNat_wrWord_same s k _).trans (toNat_add_count _ _), fun a ha => rdByte_wrWord_outside s k _ ha, fun y hy hid => ?_⟩
    obtain ⟨z, hz, hzid, rfl⟩ := mem_modTrans hy (hid.trans hm.num.symm)
    obtain ⟨z', -, -, rfl⟩ := mem_modTrans hz hzid
    rfl
  case counted =>
    refine hrun (stopSignal_count h1 hp) ?_
    rw [addPart_counted hw he hn]; rfl
  case report =>
    refine hrun (stopSignal_report h2) ?_
    rw [putReport_quiet hw hq]
    exact ⟨(rdNat_wrWord_same s k _).trans (toNat_report true c.written), fun a ha => rdByte_wrWord_outside s k _ ha⟩
  case interrupt =>
    refine hrun ((stopSignal_interrupt h3).trans (signalUi_seated hseat hocc hroom)) ⟨rfl, setSeat_seat_same .., fun j hj => ?_⟩
    exact (setSeat_seat s k j _).trans (if_neg hj)

/-! ## A command completes (R154, R155, R310) -/

/-- The command of a number is out of its queue. -/
def State.without (u : State) (c : Trans) : State := u.modQuad c.home fun q => { q with trans := q.trans.filter fun y => y.id != c.id }

section Complete

variable {s u : State} {id : Nat} {c : Trans}

theorem exec_transferCompletion (hm : Moving s id c) (ht : c.todo = []) (hr : s.recsOf c = []) (h : s.endSignal c = some u) :
    exec (.transferCompletion id) s = .next (u.without c) := by
  have hx : exec (.transferCompletion id) s = execTransferCompletion id s := rfl
  simp only [hx, execTransferCompletion, hm.found, ht, hr, hm.ready, h, List.isEmpty_nil, Bool.and_self, if_true]
  rfl

/-- The command is gone where the queue held it under no other form than before. -/
theorem gone_without (hm : Moving s id c)
    (hu : (u.quad c.home).trans.filter (fun y => y.id != c.id) = (s.quad c.home).trans.filter fun y => y.id != c.id) :
    Gone s (u.without c) id c := by
  rw [Gone, State.without, modQuad_quad_same, ← hm.num]
  exact hu

theorem endSignal_none (ha : c.aband = none) (h : c.cmode = 0#2) : s.endSignal c = some s := by simp [State.endSignal, ha, h]

theorem endSignal_count {k : Nat} (ha : c.aband = none) (h : c.cmode = 1#2) (hp : plainWord s c k) :
    s.endSignal c = some (s.addPart c) := by
  obtain ⟨-, hrep, -⟩ := hp
  simp [State.endSignal, ha, h, signalTurn_plain hrep]

theorem endSignal_interrupt (ha : c.aband = none) (h : c.cmode = 3#2) : s.endSignal c = s.signalUi c 1 := by
  simp [State.endSignal, ha, h]

/-- The signal of a barrier completion: the report word, and after it the arrival. -/
theorem endSignal_barrier {k j : Nat} (ha : c.aband = none) (h : c.cmode = 2#2) (hw : s.wordOf c 0 = some k) (hp : plainWord s c k)
    (hj : s.wordOf c 8 = some j) (hq : s.Quiet j 8) :
    s.endSignal c = some ((s.wrWord j (BitVec.ofNat 64 (0 + c.written % 2 ^ 48))).arriveCompletion k) := by
  obtain ⟨hrcd, hrep, -, -, -⟩ := hp
  have hword : (s.wrWord j (BitVec.ofNat 64 (0 + c.written % 2 ^ 48))).wordOf c 0 = some k := hw
  have hlog := keyLog_plain (s := s.wrWord j (BitVec.ofNat 64 (0 + c.written % 2 ^ 48))) (ctx := c.ctx) hrcd hrep
  have hput := putReport_quiet (fault := false) hj hq
  rw [if_neg Bool.false_ne_true] at hput
  have h21 : (2#2 : BitVec 2) ≠ 1#2 := by decide
  simp only [State.endSignal, ha, h, signalTurn_plain hrep, hput, hword, hlog, or_true, if_true, Bool.not_true, Bool.false_eq_true, if_false,
    h21]

end Complete

theorem finishedCommandsComplete : FinishedCommandsComplete := by
  intro s id c hm ht hr ha run
  have hrun : ∀ {u : State} {p : State → Prop}, s.endSignal c = some u →
      (u.quad c.home).trans.filter (fun y => y.id != c.id) = (s.quad c.home).trans.filter (fun y => y.id != c.id) → p (u.without c) → run p :=
    fun h hu hp => ⟨_, exec_transferCompletion hm ht hr h, gone_without hm hu, hp⟩
  refine ⟨fun h0 => ?silent, fun k h1 hw hp hn => ?adds, fun k h1 hw hp he hn => ?counted, fun k j h2 hw hp hj hq hapart ho => ?barrier,
    fun k h3 hseat hocc hroom => ?interrupt⟩
  case silent => exact hrun (endSignal_none ha h0) rfl ⟨rfl, rfl⟩
  case adds =>
    refine hrun ((endSignal_count ha h1 hp).trans (congrArg some (addPart_adds hw hp hn))) (filter_modTrans fun _ => rfl) ?_
    exact ⟨(rdNat_wrWord_same s k _).trans (toNat_add_count _ _), fun a ha => rdByte_wrWord_outside s k _ ha⟩
  case counted => exact hrun ((endSignal_count ha h1 hp).trans (congrArg some (addPart_counted hw he hn))) rfl rfl
  case barrier =>
    have hsignal := endSignal_barrier ha h2 hw hp hj hq
    obtain ⟨-, -, hbad, -, hqk⟩ := hp
    have hsame : ∀ w, (s.wrWord j w).rdWord k = s.rdWord k := fun w => congrArg (BitVec.ofNat 64) (rdNat_wrWord_outside s j w hapart)
    obtain ⟨hword, hquads, hout⟩ := arriveCompletion_unowned (s := s.wrWord j (BitVec.ofNat 64 (0 + c.written % 2 ^ 48))) (k := k)
      (badIn_wrBytes hbad) hqk (by rw [hsame]; exact ho)
    rw [hsame] at hword
    refine hrun hsignal (congrArg (fun q => (SMap.get Quad.reset q c.home).trans.filter fun y => y.id != c.id) hquads)
      ⟨hword, ?_, fun a hak haj => (hout a hak).trans (rdByte_wrWord_outside s j _ haj)⟩
    calc ((s.wrWord j (BitVec.ofNat 64 (0 + c.written % 2 ^ 48))).arriveCompletion k).rdNat j 8
        = (s.wrWord j (BitVec.ofNat 64 (0 + c.written % 2 ^ 48))).rdNat j 8 := rdNat_congr fun a ha hn => hout a (by omega)
      _ = c.written % 2 ^ 48 := (rdNat_wrWord_same s j _).trans ((toNat_report false c.written).trans (Nat.zero_add _))
  case interrupt =>
    refine hrun ((endSignal_interrupt ha h3).trans (signalUi_seated hseat hocc hroom)) rfl ⟨rfl, setSeat_seat_same .., fun i hi => ?_⟩
    exact (setSeat_seat s k i _).trans (if_neg hi)

/-- Settles O33: a sector is a write of pieces and a change of its command, and a stop or a completion is one signal and the mark or the
removal of its command. -/
theorem transfersMoveSectorBySector : Obligations.TransfersMoveSectorBySector :=
  ⟨sectorsAreWritten, faultedCommandsStop, finishedCommandsComplete⟩

end

end Sys2Proof.Machine

namespace Sys2Proof.Machine

section

open Sys2Proof.Claims

/-!
# Lease forms (O25)

MREL leaves its seat with the lease state IDLE, and PIN of the carriage is cleared when its lease state becomes IDLE (R209, R246).
PIN stands in word 0 of the carriage, in memory. The statement has memory after an MREL as before it, so the MREL of a carriage with
PIN set refutes it.
-/

/-- A page of the carriage area, which the programs of the context only read (R245), at frame 1. -/
def carriageLeaf : Leaf := { Leaf.absent with v := true, r := true, frame := 1 }

/-- A seat that holds a run, with its carriage on the page. -/
def pinnedSeat : Seat :=
  { Seat.reset with st := .occupied, ctx := 1, carr := 0x10000, pc := 0x20000
                    lease := { Lease.none with st := .held, masks := 1, granted := true } }

/-- An array that has given the seat's carriage plane 0 and its run. -/
def leasedArr : Arr := { Arr.reset with alloc := [(0x10, pinnedSeat.cid + 1)], holder := some pinnedSeat.cid }

/-- The package with that seat. Word 0 of its carriage has STATE = SEATED and PIN = 1, as when the carriage has left its seat with its
lease and has been seated again. -/
def pinnedState : State :=
  { State.reset with power := .active, mem := [(0x10006, 4), (0x10007, 2)], seats := [(0, pinnedSeat)]
                     ctxs := [(1, { Ctx.fresh with st := .runnable, small := [(1, carriageLeaf)] })]
                     quads := [(0, { Quad.reset with arr := leasedArr })] }

theorem pinnedState_issuable : pinnedState.Issuable .mrel where
  occupied := by decide
  fields := by decide
  srcs := by decide +kernel
  dests := by decide
  mem := by decide
  items := by decide
  lands := by decide

/-- The bytes of memory that are listed after a step. -/
def listedBytes : Host.Outcome State Fault Refusal → SMap Byte
  | .next t => t.mem
  | _ => []

/-- The machine clears PIN and leaves STATE. -/
theorem listedBytes_mrel : listedBytes (exec .mrel pinnedState) = [(0x10006, 4)] := by decide +kernel

/-- Refutes O25: the MREL of a carriage with PIN set clears the bit in memory. -/
theorem not_leaseFormsMoveTheLease : ¬ Obligations.LeaseFormsMoveTheLease := by
  intro h
  obtain ⟨-, hmrel, -⟩ := h pinnedState 0 0 0 0
  obtain ⟨-, hleased⟩ := hmrel pinnedState_issuable
  obtain ⟨t, ht, -, -, -, -, hmem, -⟩ := hleased (by decide)
  have hbytes : t.mem = [(0x10006, 4)] := (congrArg listedBytes ht).symm.trans listedBytes_mrel
  exact absurd (hmem.symm.trans hbytes) (by decide)

end

end Sys2Proof.Machine

namespace Sys2Proof.Machine

section

open Sys2Proof.Claims

/-!
# Matrix commands at their issue (O27)

An accepted M command changes the tags that it names, joins the queue of its array, and is counted in the run of its seat. Beside
that it may expose words or pass tiles of streams. None of this touches a scalar register, a byte of memory or another seat, and of
the array only its queue and its run change beside the tags.
-/

/-! ## What stays beside the array -/

/-- Every byte of memory, every scalar register of seat `k` and every other seat are as before. -/
structure RegsKept (k : Nat) (s t : State) : Prop where
  bytes : ∀ a, t.rdByte a = s.rdByte a
  regs  : ∀ r, (t.seat k).reg r = (s.seat k).reg r
  seats : ∀ j, j ≠ k → t.seat j = s.seat j

namespace RegsKept

variable {s t u : State} {k : Nat}

theorem refl (s : State) (k : Nat) : RegsKept k s s := ⟨fun _ => rfl, fun _ => rfl, fun _ _ => rfl⟩

theorem ite {c : Prop} {_ : Decidable c} (ht : RegsKept k s t) (hu : RegsKept k s u) : RegsKept k s (if c then t else u) :=
  iteInduction (fun _ => ht) fun _ => hu

theorem modArr (h : RegsKept k s t) (q : Nat) (f : Arr → Arr) : RegsKept k s (t.modArr q f) := ⟨h.bytes, h.regs, h.seats⟩

theorem modCore (h : RegsKept k s t) (c : Nat) (f : Core → Core) : RegsKept k s (t.modCore c f) := ⟨h.bytes, h.regs, h.seats⟩

theorem modSeat (h : RegsKept k s t) {f : Seat → Seat} (hf : ∀ r, (f (t.seat k)).reg r = (t.seat k).reg r) : RegsKept k s (t.modSeat k f) where
  bytes := h.bytes
  regs r := by rw [modSeat_seat_same, hf, h.regs]
  seats j hj := by rw [modSeat_seat, if_neg hj, h.seats j hj]

/-- The lease of a seat is apart from its registers. -/
theorem modLease (h : RegsKept k s t) (f : Seat → Lease) : RegsKept k s (t.modSeat k fun x => { x with lease := f x }) :=
  have hreg : ∀ (x : Seat) (l : Lease) (r : Reg), { x with lease := l }.reg r = x.reg r := fun _ _ _ => rfl
  h.modSeat fun _ => hreg ..

theorem mEnqueue (h : RegsKept k s t) (q : Nat) (c : MCmd) : RegsKept k s (t.mEnqueue q c) := by
  unfold State.mEnqueue; exact h.modArr ..

theorem endRun (h : RegsKept k s t) (q c : Nat) : RegsKept k s (t.endRun q c) := ite (h.modArr _ _) h

theorem endRunSeat (h : RegsKept k s t) : RegsKept k s (t.endRunSeat k) := by
  refine (h.endRun (quadOf k) (t.seat k).cid).modSeat fun r => ?_
  split <;> rfl

/-- To count a command changes the lease of its seat, and the array's run. -/
theorem countCmd (h : RegsKept k s t) (cyc : Nat) : RegsKept k s (t.countCmd k cyc) := by
  unfold State.countCmd
  extract_lets q x s1 s2 isOpen s3
  have h1 : RegsKept k s s1 := h.modArr ..
  have h2 : RegsKept k s s2 := h1.modLease _
  have h3 : RegsKept k s s3 := h2.modLease _
  exact ite (ite (h3.modLease _) h3) (ite h3.endRunSeat h3)

theorem expose (h : RegsKept k s t) (core id due : Nat) (r : List (Nat × Nat)) : RegsKept k s (t.expose core id due r) :=
  ite h (h.modCore _ _)

theorem passTiles (h : RegsKept k s t) {e : Env} (he : e.seat = k) (l : List Nat) (id : Nat) : RegsKept k s (passTiles e l id t) := by
  subst he
  exact List.foldlRecOn l _ h fun _ hu _ _ => hu.modSeat fun _ => rfl

/-- The seat goes on with its registers. -/
theorem gone (h : RegsKept s.cur s u) (i : Instr) (fl : Flags) : RegsKept s.cur s (s.gone u i fl) where
  bytes := h.bytes
  regs r := by rw [State.gone, modCore_seat, modSeat_seat_same, (placed_regs _ _ _ _ _ _ _ _).1, h.regs]
  seats j hj := by rw [State.gone, modCore_seat, modSeat_seat, if_neg hj, h.seats j hj]

end RegsKept

/-! ## What changes of the array -/

/-- The array `b` with the queue and the run of `a`. -/
def Arr.rerun (a b : Arr) : Arr := { b with q := a.q, busyTo := a.busyTo, holder := a.holder, run := a.run, freeAt := a.freeAt }

/-- The array `b` holds what `a` holds, with its tags and allocations: only its queue and its run have changed. -/
structure Arr.Holds (a b : Arr) : Prop where
  rest : a.rerun b = a

namespace Arr.Holds

variable {a b : Arr}

theorem zt (h : a.Holds b) : b.zt = a.zt := (congrArg Arr.zt h.rest :)
theorem zopen (h : a.Holds b) : b.zopen = a.zopen := (congrArg Arr.zopen h.rest :)
theorem hf (h : a.Holds b) : b.hf = a.hf := (congrArg Arr.hf h.rest :)
theorem hs (h : a.Holds b) : b.hs = a.hs := (congrArg Arr.hs h.rest :)

end Arr.Holds

section Arrays

variable (s : State) (k q : Nat)

theorem modSeat_arr (f : Seat → Seat) : (s.modSeat k f).arr q = s.arr q := rfl

theorem gone_arr (u : State) (i : Instr) (fl : Flags) : (s.gone u i fl).arr q = u.arr q := rfl

theorem endRun_arr (c : Nat) : ∃ h r f, (s.endRun q c).arr q = { s.arr q with holder := h, run := r, freeAt := f } := by
  unfold State.endRun
  split
  · exact ⟨_, _, _, modArr_arr_same ..⟩
  · exact ⟨_, _, _, rfl⟩

theorem endRunSeat_arr :
    ∃ h r f, (s.endRunSeat k).arr (quadOf k) = { s.arr (quadOf k) with holder := h, run := r, freeAt := f } := by
  obtain ⟨h, r, f, hended⟩ := endRun_arr s (quadOf k) (s.seat k).cid
  exact ⟨h, r, f, by rw [State.endRunSeat, modSeat_arr, hended]⟩

/-- To count a command changes nothing of the array but its run. -/
theorem countCmd_arr (cyc : Nat) :
    ∃ h r f, (s.countCmd k cyc).arr (quadOf k) = { s.arr (quadOf k) with holder := h, run := r, freeAt := f } := by
  unfold State.countCmd
  extract_lets q x s1 s2 isOpen s3
  have hcounted : s3.arr (quadOf k) = { s.arr (quadOf k) with run := (s.arr (quadOf k)).run + 1 } := by
    rw [modSeat_arr, modSeat_arr, modArr_arr_same]
  have hstays : ∃ h r f, s3.arr (quadOf k) = { s.arr (quadOf k) with holder := h, run := r, freeAt := f } := ⟨_, _, _, hcounted⟩
  split
  · split
    · rwa [modSeat_arr]
    · exact hstays
  · split
    · obtain ⟨h, r, f, hended⟩ := endRunSeat_arr s3 k
      exact ⟨h, r, f, by rw [hended, hcounted]⟩
    · exact hstays

/-- A command joins the end of the queue, and begins at once if it is alone there and waits for nothing (R204). -/
theorem mEnqueue_arr (c : MCmd) (hc : c.begun = false) :
    ∃ b, (s.mEnqueue q c).arr q = { s.arr q with
      q := (s.arr q).q ++ [{ c with begun := decide ((s.arr q).q = []) && !c.k.awaits }], busyTo := b } := by
  rw [State.mEnqueue, modArr_arr_same]
  split
  next h =>
    obtain ⟨hempty, hawaits⟩ := h
    rw [List.isEmpty_iff] at hempty
    exact ⟨s.arrCycle q + c.k.cycles, by simp [hempty, hawaits]⟩
  next h =>
    refine ⟨(s.arr q).busyTo, ?_⟩
    have hlater : (decide ((s.arr q).q = []) && !c.k.awaits) = false := by simpa using h
    rw [hlater, ← hc]

end Arrays

/-! ## The commit of an accepted command -/

/-- The command that an issue makes. -/
def issuedCmd (p : State) (e : Env) (id : Nat) (k : MKind) (refs : Held) : MCmd :=
  ⟨id, (p.seat e.seat).carr, (p.seat e.seat).ctx, e.seat, e.syl, e.ext, k, refs, false⟩

/-- What a commit does beside the array: no register, no byte, no other seat and no array changes. -/
structure Beside (k : Nat) (s t : State) : Prop extends RegsKept k s t where
  quads : t.quads = s.quads

theorem beside_noMore (k n : Nat) (t : State) : Beside k t (noMore n t) := ⟨.refl .., rfl⟩

theorem beside_expose (t : State) (k core id due : Nat) (r : List (Nat × Nat)) : Beside k t (t.expose core id due r) :=
  ⟨(RegsKept.refl t k).expose .., by unfold State.expose; split <;> rfl⟩

theorem beside_passTiles (s : State) (w x : W32) (l : List Nat) (n : Nat) (t : State) :
    Beside s.cur t (passTiles (s.soloEnv .slotM w x) l n t) :=
  ⟨(RegsKept.refl t s.cur).passTiles rfl .., List.foldlRecOn (motive := fun u : State => u.quads = t.quads) l _ rfl fun _ h _ _ => h⟩

/-- A command accepted after what the commit does beside the array: its tags change, it joins the queue, and it is counted. -/
def State.accept (u : State) (e : Env) (tags : Arr → Arr) (c : MCmd) : State :=
  ((u.modArr e.quad tags).mEnqueue e.quad c).countCmd e.seat e.cyc

theorem RegsKept.accept {s u : State} {k : Nat} (h : RegsKept k s u) {e : Env} (he : e.seat = k) (tags : Arr → Arr) (c : MCmd) :
    RegsKept k s (u.accept e tags c) := by
  subst he; exact ((h.modArr _ _).mEnqueue _ _).countCmd _

theorem accept_arr (u : State) (e : Env) (he : e.quad = quadOf e.seat) (c : MCmd) (hc : c.begun = false) {tags : Arr → Arr}
    (htags : ∀ a, (tags a).q = a.q) :
    ∃ b h r f, (u.accept e tags c).arr e.quad = { tags (u.arr e.quad) with
      q := (u.arr e.quad).q ++ [{ c with begun := decide ((u.arr e.quad).q = []) && !c.k.awaits }], busyTo := b
      holder := h, run := r, freeAt := f } := by
  obtain ⟨b, henqueued⟩ := mEnqueue_arr (u.modArr e.quad tags) e.quad c hc
  obtain ⟨h, r, f, hcounted⟩ := countCmd_arr ((u.modArr e.quad tags).mEnqueue e.quad c) e.seat e.cyc
  rw [← he, henqueued, modArr_arr_same, htags] at hcounted
  exact ⟨b, h, r, f, hcounted⟩

section Commit

variable {s u : State} {i : Instr} {k : MKind} {refs : Held} {rs : List Nat} {w x : W32} {ev : Eval}

/-- A queue with room takes the command (R204). -/
theorem mCommit_of_room {p : State} {e : Env} {tags : Arr → Arr} {s1 : Nat → State → State} (h : (p.arr e.quad).q.length < 16) :
    mCommit p e k refs tags s1 = okAct fun s =>
      (s1 s.nextId { s with nextId := s.nextId + 1 }).accept e tags (issuedCmd p e s.nextId k refs) :=
  if_neg (by omega)

/-- A state in which the command stands at the end of the queue, and no register, no byte and no other seat has changed. -/
theorem joined_of (hk : RegsKept s.cur s u) (hq : (u.arr (quadOf s.cur)).q = (s.arr (quadOf s.cur)).q
      ++ [{ issuedCmd s (s.soloEnv .slotM w x) s.nextId k refs with begun := decide ((s.arr (quadOf s.cur)).q = []) && !k.awaits }]) :
    Joined s (s.gone u i 0) k refs where
  queue := ⟨_, hq, rfl, rfl, rfl, rfl, rfl, rfl, rfl⟩
  bytes := (hk.gone i 0).bytes
  regs := (hk.gone i 0).regs
  seats := (hk.gone i 0).seats

/-- A leased seat passes the checks of its lease and its resources (R199, R207). -/
theorem mStart_leased (h : Leased s rs) : mStart s (s.soloEnv .slotM w x) false rs = none := by
  obtain ⟨hrun, hhas, -⟩ := h
  have hidle : ((s.seat s.cur).lease.st == .idle) = false := by rcases hrun with h | h <;> simp [h]
  have hrequested : ((s.seat s.cur).lease.st == .requested) = false := by rcases hrun with h | h <;> simp [h]
  have hall : (rs.find? fun r => !(s.arr (quadOf s.cur)).has (s.seat s.cur).cid r) = none :=
    List.find?_eq_none.mpr fun r hr => by simp [hhas r hr]
  simp only [mStart, soloEnv_seat, soloEnv_quad, hidle, hrequested, hall, Bool.or_self, Bool.false_eq_true, if_false]

/-- The issue of a command that passes its checks: it joins the queue, and the array holds what it held with the tags changed. -/
theorem joins_of {tags : Arr → Arr} {s1 : Nat → State → State} (h : s.Issuable i) (hl : Leased s rs) (hx : exec i s = solo i ev s)
    (he : encode i = some (.slotM, w, x)) (hev : ev s s (s.soloEnv .slotM w x) = mCommit s (s.soloEnv .slotM w x) k refs tags s1)
    (htags : ∀ a, (tags a).q = a.q) (hs1 : ∀ n t, Beside s.cur t (s1 n t)) :
    ∃ t, exec i s = .next t ∧ Joined s t k refs ∧ (tags (s.arr (quadOf s.cur))).Holds (t.arr (quadOf s.cur)) := by
  rw [mCommit_of_room hl.room] at hev
  refine ⟨_, commits_act h hx he (by decide) hev, ?_⟩
  have hb := hs1 s.nextId { s with nextId := s.nextId + 1 }
  have hkept : RegsKept s.cur s (s1 s.nextId { s with nextId := s.nextId + 1 }) := ⟨hb.bytes, hb.regs, hb.seats⟩
  have harr : (s1 s.nextId { s with nextId := s.nextId + 1 }).arr (quadOf s.cur) = s.arr (quadOf s.cur) :=
    congrArg (fun m => (SMap.get Quad.reset m (quadOf s.cur)).arr) hb.quads
  generalize s1 s.nextId { s with nextId := s.nextId + 1 } = u at hkept harr
  obtain ⟨b, o, r, f, haccepted⟩ := accept_arr u (s.soloEnv .slotM w x) rfl (issuedCmd s (s.soloEnv .slotM w x) s.nextId k refs) rfl htags
  rw [soloEnv_quad, harr] at haccepted
  refine ⟨joined_of (hkept.accept rfl ..) (congrArg Arr.q haccepted :), ⟨?_⟩⟩
  rw [gone_arr, haccepted]; rfl

end Commit

/-! ## The tags of planes and hoops (R191, R198) -/

theorem opens_zopen (a : Arr) (z : Nat) : SMap.get false (a.opens z).zopen z = true := by simp [Arr.opens]
theorem close_zopen (a : Arr) (z : Nat) : SMap.get false (a.close z).zopen z = false := by simp [Arr.close]

theorem hoopTags_hf (h f : Nat) (sc : Bool) (a : Arr) : (hoopTags h f sc a).hf = SMap.set 0 a.hf h f := rfl
theorem hoopTags_hs (h f : Nat) (sc : Bool) (a : Arr) : (hoopTags h f sc a).hs = SMap.set false a.hs h sc := rfl

/-! ## What the forms evaluate to once the lease and the resources have passed (R207) -/

section Evals

variable {s p : State} {e : Env} {z zs h pm n : BitVec 2} {md : BitVec 3} {fmt w : BitVec 4} {b r : Reg} {off : BitVec 16}

theorem evalMzero_of_start {i32 : Bool} (hs : mStart p e false [resPlane z.toNat] = none) :
    evalMzero z i32 p s e
      = mCommit p e (.mzero z.toNat) [] (fun x => { (x.close z.toNat) with zt := SMap.set false x.zt z.toNat i32 }) noMore := by
  simp only [evalMzero, hs]

theorem evalMtrans_of_open (hs : mStart p e false [resPlane z.toNat, resPlane zs.toNat] = none)
    (ho : SMap.get false (p.arr e.quad).zopen zs.toNat = true) : evalMtrans z zs p s e = fault0 0x02 := by
  simp only [evalMtrans, hs, ho, if_true]

theorem evalMtrans_of_closed (hs : mStart p e false [resPlane z.toNat, resPlane zs.toNat] = none)
    (ho : SMap.get false (p.arr e.quad).zopen zs.toNat = false) :
    evalMtrans z zs p s e = mCommit p e (.mtrans z.toNat zs.toNat) []
      (fun x => { (x.close z.toNat) with zt := SMap.set false x.zt z.toNat (SMap.get false (p.arr e.quad).zt zs.toNat) }) noMore := by
  simp only [evalMtrans, hs, ho, if_false, Bool.false_eq_true]

theorem evalHldc_of_fmt (hs : mStart p e false [h.toNat] = none) (hf : fmtOk fmt.toNat = true) (h9 : fmt ≠ 9) (h11 : fmt ≠ 11) :
    evalHldc fmt h n p s e = mCommit p e (.hldc h.toNat fmt.toNat (16 * 2 ^ n.toNat)) [] (hoopTags h.toNat fmt.toNat false) noMore := by
  have h9' : (fmt.toNat == 9) = false := beq_false_of_ne fun hn => h9 (BitVec.eq_of_toNat_eq hn)
  have h11' : (fmt.toNat == 11) = false := beq_false_of_ne fun hn => h11 (BitVec.eq_of_toNat_eq hn)
  simp only [evalHldc, hs, hf, h9', h11', Bool.not_true, Bool.or_self, Bool.false_eq_true, if_false]

theorem evalMdld_of_misaligned (hs : mStart p e false [resMd md.toNat] = none) (ha : baseOff p e b off % 64 ≠ 0) :
    evalMdld md b off p s e = faultVa 0x08 (baseOff p e b off) := by
  simp only [evalMdld, hs, if_pos ha]

theorem evalMdld_of_checked {l : List Held} (hs : mStart p e false [resMd md.toNat] = none) (ha : baseOff p e b off % 64 = 0)
    (hm : memChk p e [⟨false, some 0, [(baseOff p e b off, 2048)], false⟩] = .ok l) :
    evalMdld md b off p s e = mCommit p e (.mdld md.toNat (BitVec.ofNat 48 (baseOff p e b off))) l.flatten id noMore := by
  simp only [evalMdld, hs, ha, hm, ne_eq, not_true_eq_false, if_false]

theorem evalMdst_of_misaligned (hs : mStart p e false [resMd md.toNat] = none) (ha : baseOff p e b off % 64 ≠ 0) :
    evalMdst md b off p s e = faultVa 0x08 (baseOff p e b off) := by
  simp only [evalMdst, hs, if_pos ha]

theorem evalMdst_of_checked {l : List Held} (hs : mStart p e false [resMd md.toNat] = none) (ha : baseOff p e b off % 64 = 0)
    (hm : memChk p e [⟨true, some 0, [(baseOff p e b off, 2048)], false⟩] = .ok l) :
    evalMdst md b off p s e = mCommit p e (.mdst md.toNat (BitVec.ofNat 48 (baseOff p e b off))) l.flatten id fun id s =>
      s.expose e.core id (e.cyc + 48) (writtenWords (p.readLoc (p.seat e.seat).ctx l.flatten 0) (baseOff p e b off) 2048) := by
  simp only [evalMdst, hs, ha, hm, ne_eq, not_true_eq_false, if_false]

theorem evalPmwr_of_start (hs : mStart p e false [resPm pm.toNat] = none) :
    evalPmwr w pm r p s e = mCommit p e (.pmwr w.toNat pm.toNat (p.sreg e r)) [] id noMore := by
  simp only [evalPmwr, hs]

end Evals

/-! ## A destination that awaits its value (R88) -/

section Destination

variable (x : Seat) (r : Reg)

theorem getLsbD_putBit_true_same (w : W64) {i : Nat} (h : i < 64) : (putBit w i true).getLsbD i = true := by
  simp [putBit, h]

@[simp] theorem markEmpty_inShadow (n : Nat) (b : Bool) : (x.markEmpty r b).inShadow n = x.inShadow n := by
  simp only [Seat.inShadow, markEmpty_uiActive]

@[simp] theorem markEmpty_reg (q : Reg) (b : Bool) : (x.markEmpty r b).reg q = x.reg q := by
  unfold Seat.markEmpty; (repeat' split) <;> rfl

theorem isEmpty_markEmpty_true (h : r ≠ 0#6) : (x.markEmpty r true).isEmpty r = true := by
  have hr : r.toNat < 64 := r.isLt
  have hsh : shBit r.toNat < 64 := by unfold shBit; omega
  rw [Seat.isEmpty, if_neg h, markEmpty_inShadow]
  cases hs : x.inShadow r.toNat with
  | true => simpa [Seat.markEmpty, h, hs] using getLsbD_putBit_true_same x.shEmpty hsh
  | false => simpa [Seat.markEmpty, h, hs] using getLsbD_putBit_true_same x.empty hr

/-- Items and the lease are apart from the registers and their marks. -/
theorem reg_withItems (l : List Item) (m : Lease) : { x with items := l, lease := m }.reg r = x.reg r := rfl

theorem isEmpty_withItems (l : List Item) (m : Lease) : { x with items := l, lease := m }.isEmpty r = x.isEmpty r := rfl

/-- The seat after the issue of a PMRD: an item awaits the value, and the idle limit of the run counts anew (R199, R241). -/
def Seat.asked (id cyc : Nat) : Seat := { (x.addItem id r false 0 none 0) with lease := x.lease.issued cyc }

variable (id cyc : Nat)

theorem asked_reg (q : Reg) : (x.asked r id cyc).reg q = x.reg q := (reg_withItems ..).trans (markEmpty_reg x r q true)

theorem asked_isEmpty (h : r ≠ 0#6) : (x.asked r id cyc).isEmpty r = true := (isEmpty_withItems ..).trans (isEmpty_markEmpty_true x r h)

theorem mem_asked_items : ∃ m ∈ (x.asked r id cyc).items, m.id = id ∧ m.reg = r ∧ m.data = none ∧ m.landing = false :=
  ⟨_, List.mem_append_right _ (List.mem_singleton.mpr rfl), rfl, rfl, rfl, rfl⟩

/-- An item that is no landing stays as it is when its seat goes on. -/
theorem mem_items_placed {x y : Seat} {now : Nat} {i : Instr} {fl : Flags} {pc : Addr} {l : List LoopEnt} {m : Item} (hm : m ∈ y.items)
    (hl : m.landing = false) : m ∈ (x.placed y now i fl pc l).items := by
  unfold Seat.placed Seat.startDue
  split
  · exact List.mem_map.mpr ⟨m, hm, if_neg (by simp [hl])⟩
  · exact hm

end Destination

/-! ## PMRD (R241) -/

section Pmrd

/-- The state in which a PMRD stands in its queue, with an item for its destination (R241). -/
def State.acceptPmrd (s p : State) (e : Env) (a : Reg) (k : MKind) : State :=
  ({ s with nextId := s.nextId + 1 }.modSeat e.seat fun y => y.asked a s.nextId e.cyc).mEnqueue e.quad (issuedCmd p e s.nextId k [])

theorem evalPmrd_of_start {s p : State} {e : Env} {a : Reg} {w : BitVec 4} {pm : BitVec 2}
    (hs : mStart p e false [resPm pm.toNat] = none) (hq : (p.arr e.quad).q.length < 16) :
    evalPmrd a w pm p s e = okAct fun s => s.acceptPmrd p e a (.pmrd a w.toNat pm.toNat) := by
  simp only [evalPmrd, hs, if_neg (Nat.not_le.mpr hq)]; rfl

variable (s p : State) (e : Env) (a : Reg) (k : MKind)

theorem acceptPmrd_kept : RegsKept e.seat s (s.acceptPmrd p e a k) := by
  have hnumber : RegsKept e.seat s { s with nextId := s.nextId + 1 } := ⟨fun _ => rfl, fun _ => rfl, fun _ _ => rfl⟩
  exact (hnumber.modSeat (f := fun y => y.asked a s.nextId e.cyc) fun r => asked_reg ..).mEnqueue ..

theorem acceptPmrd_seat : (s.acceptPmrd p e a k).seat e.seat = (s.seat e.seat).asked a s.nextId e.cyc := by
  rw [State.acceptPmrd, State.mEnqueue, modArr_seat, modSeat_seat_same]; rfl

theorem acceptPmrd_queue : ((s.acceptPmrd p e a k).arr e.quad).q = (s.arr e.quad).q
    ++ [{ issuedCmd p e s.nextId k [] with begun := decide ((s.arr e.quad).q = []) && !k.awaits }] := by
  obtain ⟨b, henqueued⟩ := mEnqueue_arr ({ s with nextId := s.nextId + 1 }.modSeat e.seat fun y => y.asked a s.nextId e.cyc) e.quad
    (issuedCmd p e s.nextId k []) rfl
  rw [State.acceptPmrd, henqueued]; rfl

end Pmrd

/-- A PMRD joins its queue, and its destination is empty until the item gets its value (R241). -/
theorem pmrd_joins {s : State} {b : Reg} {w : BitVec 4} {pm : BitVec 2} (h : s.Issuable (.pmrd b w pm))
    (hl : Leased s [0x30 + pm.toNat]) : ∃ t, exec (.pmrd b w pm) s = .next t
      ∧ Joined s t (.pmrd b w.toNat pm.toNat) [] ∧ (∃ y ∈ (t.seat s.cur).items, y.id = s.nextId ∧ y.reg = b ∧ y.data = none)
      ∧ (b ≠ 0#6 → (t.seat s.cur).isEmpty b = true) := by
  refine ⟨_, commits_act h rfl rfl (by decide) (evalPmrd_of_start (mStart_leased hl) hl.room), ?joined, ?item, fun hb => ?empty⟩
  case joined => exact joined_of (acceptPmrd_kept s s (s.soloEnv .slotM _ _) b _) (acceptPmrd_queue ..)
  case item =>
    obtain ⟨m, hm, hid, hreg, hdata, hland⟩ := mem_asked_items (s.seat s.cur) b s.nextId (s.cycle (coreOf s.cur))
    rw [State.gone, modCore_seat, modSeat_seat_same]
    refine ⟨m, mem_items_placed ?_ hland, hid, hreg, hdata⟩
    exact (congrArg Seat.items (acceptPmrd_seat ..)).symm ▸ hm
  case empty =>
    rw [State.gone, modCore_seat, modSeat_seat_same, (placed_regs _ _ _ _ _ _ _ b).2]
    exact (congrArg (Seat.isEmpty · b) (acceptPmrd_seat ..)).trans (asked_isEmpty _ _ _ _ hb)

/-! ## The statement -/

/-- Settles O27: each form evaluates to the commit of its command, which joins the queue with its tags changed, or to a fault. -/
theorem matrixCommandsJoinTheirQueue : Obligations.MatrixCommandsJoinTheirQueue := by
  intro s z zs h pm n md fmt w i32 b r off e arr va
  refine ⟨fun hi hl => ?mzero, fun hi hl => ⟨fun ho => ?mtransOpen, fun ho => ?mtrans⟩, fun hi hl hf h9 h11 => ?hldc,
    fun hi hl => ⟨fun ha => ?mdldAlign, fun l ha hm => ?mdld⟩, fun hi hl => ⟨fun ha => ?mdstAlign, fun l ha hm => ?mdst⟩,
    fun hi hl => ?pmwr, fun hi hl => pmrd_joins hi hl⟩
  case mzero =>
    obtain ⟨t, ht, hj, ha⟩ := joins_of hi hl rfl rfl (evalMzero_of_start (mStart_leased hl)) (fun _ => rfl) (beside_noMore _)
    refine ⟨t, ht, hj, ?_, ?_⟩
    · rw [ha.zt]; exact SMap.get_set_same ..
    · rw [ha.zopen]; exact close_zopen ..
  case mtransOpen => exact traps_of hi rfl rfl (by decide) (evalMtrans_of_open (mStart_leased hl) ho)
  case mtrans =>
    obtain ⟨t, ht, hj, ha⟩ := joins_of hi hl rfl rfl (evalMtrans_of_closed (mStart_leased hl) ho) (fun _ => rfl) (beside_noMore _)
    refine ⟨t, ht, hj, ?_⟩
    rw [ha.zt]; exact SMap.get_set_same ..
  case hldc =>
    obtain ⟨t, ht, hj, ha⟩ := joins_of hi hl rfl rfl (evalHldc_of_fmt (mStart_leased hl) hf h9 h11) (fun _ => rfl) (beside_noMore _)
    refine ⟨t, ht, hj, ?_, ?_⟩
    · rw [ha.hf, hoopTags_hf, SMap.get_set_same]
    · rw [ha.hs, hoopTags_hs, SMap.get_set_same]
  case mdldAlign => exact traps_of hi rfl rfl (by decide) (evalMdld_of_misaligned (mStart_leased hl) ha)
  case mdld =>
    obtain ⟨t, ht, hj, -⟩ := joins_of hi hl rfl rfl (evalMdld_of_checked (mStart_leased hl) ha hm) (fun _ => rfl) (beside_noMore _)
    exact ⟨t, ht, hj⟩
  case mdstAlign => exact traps_of hi rfl rfl (by decide) (evalMdst_of_misaligned (mStart_leased hl) ha)
  case mdst =>
    obtain ⟨t, ht, hj, -⟩ := joins_of hi hl rfl rfl (evalMdst_of_checked (mStart_leased hl) ha hm) (fun _ => rfl) fun _ _ => beside_expose ..
    exact ⟨t, ht, hj⟩
  case pmwr =>
    obtain ⟨t, ht, hj, -⟩ := joins_of hi hl rfl rfl (evalPmwr_of_start (mStart_leased hl)) (fun _ => rfl) (beside_noMore _)
    exact ⟨t, ht, hj⟩

end

end Sys2Proof.Machine

namespace Sys2Proof.Machine

section

open Sys2Proof.Claims

/-!
# Products, compressions, hoop loads and DRAINs at their issue (O28)

The Δ of a syllable on its own is zero, so that its K-step, its segment and its address are those of its fields. What the statement
asks of formats, streams and regions is what the checks of the forms ask, and then the form commits its command.
-/

/-! ## K-steps and segments without Δ (R206) -/

theorem stepK_solo (s : State) (w x : W32) (c : BitVec 6) : stepK (s.soloEnv .slotM w x) c = c.toNat :=
  Nat.mod_eq_of_lt (show c.toNat + 0 < 2 ^ 48 by have := c.isLt; omega)

theorem stepSeg_solo (s : State) (w x : W32) (seg : BitVec 2) (g8 : Bool) :
    stepSeg (s.soloEnv .slotM w x) seg g8 = seg.toNat % if g8 then 2 else 4 := rfl

/-! ## What the forms evaluate to once the lease and the resources have passed -/

section Evals

variable {s p : State} {e : Env} {hs : List Held}

/-- A product whose operands fit (R215 to R218). -/
theorem productRes_of_fits {zd sb c fc colsA colsB scn : Nat} {a : Sel} {rs : List Nat} {mk : MSrc → Nat → Bool → Tile → Bool → MKind}
    (hst : mStart p e false ([resPlane zd] ++ a.res ++ rs) = none) (hfit : productFits p e zd sb a (aInfo p e a c fc colsA) colsB)
    (hm : memChk p e (a.ops p e scn ++ tileOps (tileStream p e sb) scn) = .ok hs) :
    productRes p e zd sb a c fc colsA colsB scn rs mk = mCommit p e
      (mk (aSrc p e a (hs.take (a.ops p e scn).length).flatten) (aInfo p e a c fc colsA).fmt (aInfo p e a c fc colsA).scaled
        ⟨tileStream p e sb, (hs.drop (a.ops p e scn).length).flatten, sb⟩ (SMap.get false (p.arr e.quad).zt zd))
      hs.flatten (fun x => x.opens zd) (passTiles e (a.streams ++ [sb])) := by
  obtain ⟨hbad4, hbad5, hfmt, hshort, hsb, hzt⟩ := hfit
  have hnot : a.streams.contains sb = false := by simpa using hsb
  simp only [productRes, hst, hbad4, hbad5, hfmt, hshort, hnot, ← hzt, hm, bne_self_eq_false, Bool.or_self, Bool.false_eq_true, if_false]

/-- The destination of a compression is no stream that takes the format of the source (R194, R219). -/
def cmprWrongFmt (p : State) (e : Env) (a d : Sel) (ai : AInfo) : Bool :=
  match d with
  | .stream sq =>
    tileFmtBad (tileStream p e sq) 1#2 16 || (tileStream p e sq).fmt.toNat != ai.fmt || ai.scaled || a.streams.contains sq
  | _ => false

/-- It has no room for the columns: too few elements of a stream, or no such K-step of a hoop. -/
def cmprNoRoom (p : State) (e : Env) (d : Sel) (ai : AInfo) (k : Nat) : Bool :=
  match d with
  | .stream sq => tileShort (tileStream p e sq)
  | _ => decide (hoopSteps ai.fmt ≤ k)

/-- What a compression answers once the lease and the resources have passed. -/
def cmprRes (p : State) (e : Env) (a d : Sel) (k : Nat) (ai : AInfo) (md : BitVec 3) (seg : BitVec 2) (g8 : Bool) : SlotRes :=
  if ai.bad4 || cmprWrongFmt p e a d ai then fault0 0x40
  else if ai.bad5 || cmprNoRoom p e d ai k then faultFree p 0x45
  else
    match memChk p e (a.ops p e 2 ++ d.outOps p e) with
    | .bad r => r
    | .ok hs =>
      mCommit p e (.cmpr (aSrc p e d (hs.drop (a.ops p e 2).length).flatten) (aSrc p e a (hs.take (a.ops p e 2).length).flatten) k ai.fmt
          ai.scaled md.toNat (stepSeg e seg g8) g8)
        hs.flatten (cmprTags d ai.fmt ai.scaled) (passTiles e (a.streams ++ d.streams))

variable {dsel sel c : BitVec 6} {md : BitVec 3} {seg : BitVec 2} {g8 : Bool}

theorem evalCmpr_of_start (hst : mStart p e false ((selOf dsel).res ++ (selOf sel).res ++ [resMd md.toNat]) = none) :
    evalCmpr dsel sel c md seg g8 p s e
      = cmprRes p e (selOf sel) (selOf dsel) (stepK e c) (cmprSource p e (selOf sel) (stepK e c)) md seg g8 := by
  unfold evalCmpr
  simp only [hst]
  cases selOf sel <;> cases selOf dsel <;> rfl

/-- The destination of a compression fits where the checks find nothing. -/
theorem checks_of_cmprFits {a d : Sel} {k : Nat} (h : cmprFits p e a d k) :
    cmprWrongFmt p e a d (cmprSource p e a k) = false ∧ cmprNoRoom p e d (cmprSource p e a k) k = false := by
  cases d with
  | stream sq =>
    obtain ⟨hfmt, hsame, hplain, hnot, hshort⟩ := h
    exact ⟨by simp [cmprWrongFmt, hfmt, hsame, hplain, hnot], hshort⟩
  | hoop n => exact ⟨rfl, decide_eq_false (Nat.not_le.mpr h)⟩
  | plane z => exact ⟨rfl, decide_eq_false (Nat.not_le.mpr h)⟩

/-- A compression whose operands fit (R219). -/
theorem cmprRes_of_fits {a d : Sel} {k : Nat} (h4 : (cmprSource p e a k).bad4 = false) (h5 : (cmprSource p e a k).bad5 = false)
    (hfit : cmprFits p e a d k) (hm : memChk p e (a.ops p e 2 ++ d.outOps p e) = .ok hs) :
    cmprRes p e a d k (cmprSource p e a k) md seg g8 = mCommit p e
      (.cmpr (aSrc p e d (hs.drop (a.ops p e 2).length).flatten) (aSrc p e a (hs.take (a.ops p e 2).length).flatten) k
        (cmprSource p e a k).fmt (cmprSource p e a k).scaled md.toNat (stepSeg e seg g8) g8)
      hs.flatten (cmprTags d (cmprSource p e a k).fmt (cmprSource p e a k).scaled) (passTiles e (a.streams ++ d.streams)) := by
  obtain ⟨hfmt, hroom⟩ := checks_of_cmprFits hfit
  simp only [cmprRes, h4, h5, hfmt, hroom, hm, Bool.or_self, Bool.false_eq_true, if_false]

/-- A hoop load whose format, addresses and ranges pass (R213). -/
theorem evalHld_of_checked {fmt : BitVec 4} {h : BitVec 2} {b c sx : Reg} {swz : BitVec 3} {off : BitVec 16}
    (hst : mStart p e false [h.toNat] = none) (hf : fmtOk fmt.toNat = true) (hsx : sx ≠ 0#6 → 2 < fmt.toNat)
    (hva : baseOff p e b off % 16 = 0) (hpitch : (p.sreg e c).toNat % 16 = 0)
    (hm : memChk p e [⟨false, some swz.toNat, (nats 128).map fun k => ((baseOff p e b off + k * (p.sreg e c).toNat) % 2 ^ 48, 256), false⟩,
      ⟨false, none, if sx = 0#6 then [] else [((addrOf (p.sreg e sx)).toNat, 8192)], false⟩] = .ok hs) :
    evalHld fmt h b c swz sx off p s e = mCommit p e
      (.hld h.toNat fmt.toNat (BitVec.ofNat 48 (baseOff p e b off)) (BitVec.ofNat 48 (p.sreg e c).toNat) swz.toNat
        (if sx = 0#6 then none else some (addrOf (p.sreg e sx))))
      hs.flatten (hoopTags h.toNat fmt.toNat (sx != 0#6)) noMore := by
  have hscale : (sx != 0#6 && decide (fmt.toNat ≤ 2)) = false := by
    simpa [Nat.not_le] using hsx
  simp only [evalHld, hst, hf, hscale, hva, hpitch, hm, Bool.not_true, Bool.or_self, Bool.false_eq_true, ne_eq, not_true_eq_false, or_self,
    if_false]

/-- A DRAIN whose formats, region, addresses and ranges pass (R221 to R223). -/
theorem evalDrain_of_checked {z hsize : BitVec 2} {fmt : BitVec 4} {b c sx : Reg} {rtz sc had : Bool} {swz : BitVec 3} {sh : BitVec 7}
    {off : BitVec 16} {fr nr c0 nc : Nat} (hr : regionOf c (p.sreg e c) = (fr, nr, c0, nc, false)) (hsc : sc = decide (sx ≠ 0#6))
    (hst : mStart p e false [resPlane z.toNat] = none)
    (hmul : SMap.get false (p.arr e.quad).zt z.toNat = true → fmt = 0 →
      mulOne (if had then some (16 * 2 ^ hsize.toNat) else none) sh.toInt = true)
    (hf : fmtOk fmt.toNat = true) (hbits : (nc + 1) * fmtBits fmt.toNat % 8 = 0)
    (hscale : sc = true → c0 % 16 = 0 ∧ (nc + 1) % 16 = 0 ∧ 2 < fmt.toNat) (hrows : fr + (nr + 1) ≤ 128) (hcols : c0 + (nc + 1) ≤ 128)
    (hva : baseOff p e b off % 16 = 0)
    (hm : memChk p e (drainOps swz.toNat (baseOff p e b off) (addrOf (p.sreg e sx)).toNat (nr + 1) ((nc + 1) * fmtBits fmt.toNat / 8)
      ((nc + 1) / 16) sc) = .ok hs) :
    evalDrain z fmt b c rtz sc swz sx hsize had sh off p s e = mCommit p e
      (.drain z.toNat fmt.toNat (BitVec.ofNat 48 (baseOff p e b off)) fr nr c0 nc rtz sc swz.toNat
        (BitVec.ofNat 48 (addrOf (p.sreg e sx)).toNat) (if had then some (16 * 2 ^ hsize.toNat) else none) sh.toInt
        (SMap.get false (p.arr e.quad).zt z.toNat))
      hs.flatten (fun x => x.close z.toNat) fun id s => s.expose e.core id (e.cyc + 40 + 2 * (nr + 1))
        (drainWords p (p.seat e.seat).ctx swz.toNat (baseOff p e b off) (addrOf (p.sreg e sx)).toNat
          ((nr + 1) * ((nc + 1) * fmtBits fmt.toNat / 8)) ((nr + 1) * ((nc + 1) / 16)) hs sc) := by
  have hlegal : (false || (sx != 0#6) != sc) = false := by
    by_cases hsx : sx = 0#6 <;> simp [hsc, hsx]
  have hone : (SMap.get false (p.arr e.quad).zt z.toNat && fmt.toNat == 0
      && !mulOne (if had then some (16 * 2 ^ hsize.toNat) else none) sh.toInt) = false := by
    rw [Bool.eq_false_iff]
    intro hbad
    simp only [Bool.and_eq_true, beq_iff_eq, Bool.not_eq_true'] at hbad
    obtain ⟨⟨hint, hzero⟩, hnot⟩ := hbad
    rw [hmul hint (BitVec.eq_of_toNat_eq hzero)] at hnot
    cases hnot
  have hscales : (sc && (c0 % 16 != 0 || (nc + 1) % 16 != 0 || decide (fmt.toNat ≤ 2))) = false := by
    cases hs : sc with
    | false => rfl
    | true =>
      obtain ⟨hc0, hnc, h2⟩ := hscale hs
      simp [hc0, hnc, h2]
  have hbits' : ((nc + 1) * fmtBits fmt.toNat % 8 != 0) = false := by simp [hbits]
  have hregion : ¬ (128 < fr + (nr + 1) ∨ 128 < c0 + (nc + 1)) := by omega
  simp only [evalDrain, hr, hlegal, hst, hone, hf, hbits', hscales, hregion, hva, hm, Bool.not_true, Bool.or_self, Bool.false_eq_true, ne_eq,
    not_true_eq_false, if_false]

end Evals

/-! ## Products and compressions on their own -/

section Solo

variable {s : State} {z : BitVec 2} {md : BitVec 3} {sb fc : BitVec 4} {sel dsel c : BitVec 6} {seg : BitVec 2} {g8 : Bool} {w x : W32}

theorem evalMma_solo : evalMma z sb sel c fc s s (s.soloEnv .slotM w x)
    = productRes s (s.soloEnv .slotM w x) z.toNat sb.toNat (selOf sel) c.toNat fc.toNat 16 16 1 []
        fun m fa sa bt int => .mma z.toNat m c.toNat fa sa bt int (selOf sel == .plane z.toNat) := by
  simp only [evalMma, stepK_solo]

theorem evalMmas_solo : evalMmas z sb sel c md seg g8 s s (s.soloEnv .slotM w x)
    = productRes s (s.soloEnv .slotM w x) z.toNat sb.toNat (selOf sel) c.toNat 0 16 32 2 [resMd md.toNat]
        fun m fa sa bt int => .mmas z.toNat m c.toNat fa sa bt int md.toNat (seg.toNat % if g8 then 2 else 4) g8 := by
  simp only [evalMmas, stepK_solo, stepSeg_solo]

theorem evalCmpr_solo (hst : mStart s (s.soloEnv .slotM w x) false ((selOf dsel).res ++ (selOf sel).res ++ [resMd md.toNat]) = none) :
    evalCmpr dsel sel c md seg g8 s s (s.soloEnv .slotM w x) = cmprRes s (s.soloEnv .slotM w x) (selOf sel) (selOf dsel) c.toNat
      (cmprSource s (s.soloEnv .slotM w x) (selOf sel) c.toNat) md seg g8 := by
  rw [evalCmpr_of_start hst, stepK_solo]

theorem cmprTags_q (d : Sel) (f : Nat) (sc : Bool) (a : Arr) : (cmprTags d f sc a).q = a.q := by cases d <;> rfl

theorem cmprTags_hoop (n f : Nat) (sc : Bool) (a : Arr) : cmprTags (.hoop n) f sc a = hoopTags n f sc a := rfl

end Solo

theorem productsJoinTheirQueue : ProductsJoinTheirQueue := by
  intro s z md sb fc sel dsel c seg g8 arr a
  refine ⟨fun hi hl hfit hs hm => ?mma, fun hi hl hfit hs hm => ?mmas, fun hi hl h4 h5 hfit hs hm => ?cmpr⟩
  case mma =>
    have hl' : Leased s ([resPlane z.toNat] ++ a.res ++ []) := by rwa [List.append_nil]
    obtain ⟨t, ht, hj, ha⟩ := joins_of hi hl rfl rfl (evalMma_solo.trans (productRes_of_fits (mStart_leased hl') hfit hm)) (fun _ => rfl)
      (beside_passTiles _ _ _ _)
    refine ⟨t, ht, hj, ?_⟩
    rw [ha.zopen, opens_zopen]
  case mmas =>
    obtain ⟨t, ht, hj, ha⟩ := joins_of hi hl rfl rfl (evalMmas_solo.trans (productRes_of_fits (mStart_leased hl) hfit hm)) (fun _ => rfl)
      (beside_passTiles _ _ _ _)
    refine ⟨t, ht, hj, ?_⟩
    rw [ha.zopen, opens_zopen]
  case cmpr =>
    obtain ⟨t, ht, hj, ha⟩ := joins_of hi hl rfl rfl ((evalCmpr_solo (mStart_leased hl)).trans (cmprRes_of_fits h4 h5 hfit hm))
      (cmprTags_q _ _ _) (beside_passTiles _ _ _ _)
    refine ⟨t, ht, hj, fun n hd => ?_⟩
    rw [ha.hf, ha.hs, hd, cmprTags_hoop, hoopTags_hf, hoopTags_hs, SMap.get_set_same, SMap.get_set_same]
    exact ⟨rfl, rfl⟩

theorem hoopLoadsAndDrainsJoinTheirQueue : HoopLoadsAndDrainsJoinTheirQueue := by
  intro s z h n fmt b r sx rtz sc had swz sh off va v sv
  refine ⟨fun hi hl hf hsx hva hv hs hm => ?hld, fun hi fr nr c0 nc hr hsc hl hmul hf hbits hscale hrows hcols hva hs hm => ?drain⟩
  case hld =>
    obtain ⟨t, ht, hj, ha⟩ := joins_of hi hl rfl rfl (evalHld_of_checked (mStart_leased hl) hf hsx hva hv hm) (fun _ => rfl)
      (beside_noMore _)
    refine ⟨t, ht, hj, ?_, ?_⟩
    · rw [ha.hf, hoopTags_hf, SMap.get_set_same]
    · rw [ha.hs, hoopTags_hs, SMap.get_set_same]
      by_cases hz : sx = 0#6 <;> simp [hz]
  case drain =>
    obtain ⟨t, ht, hj, ha⟩ := joins_of hi hl rfl rfl
      (evalDrain_of_checked hr hsc (mStart_leased hl) hmul hf hbits hscale hrows hcols hva hm) (fun _ => rfl) fun _ _ => beside_expose ..
    refine ⟨t, ht, hj, ?_⟩
    rw [ha.zopen, close_zopen]

/-- Settles O28: where its operands fit, each form evaluates to the commit of its command, which joins the queue with its tags changed. -/
theorem productsAndLoadsJoinTheirQueue : Obligations.ProductsAndLoadsJoinTheirQueue :=
  ⟨productsJoinTheirQueue, hoopLoadsAndDrainsJoinTheirQueue⟩

end

end Sys2Proof.Machine

namespace Sys2Proof.Machine

section

open Sys2Proof.Claims

/-!
# Factorisations (O30)

An issue that the array is to execute is held: its seat, its bundle and its leaves are kept in the `held` list of its core (R228), and
then the array looks at the PM (R229, R240). Where that look ends in a trap, the entry in `held` stays. It is read only while a form is
under way, so no program sees it; but the statement has the trap leave the package as it would be had the issue never been held, and an
FPERM whose entries are no permutation refutes it. The trap of a signature that does not match (R229) leaves the entry in the same way.
-/

/-- A seat that holds a run and whose S1 asks for an order of 2. -/
def permSeat : Seat :=
  { Seat.reset with st := .occupied, ctx := 1, carr := 256, pc := 0x10000, sregs := [(1, 2)]
                    lease := { Lease.none with st := .held, masks := 0x100001, granted := true } }

/-- An array that has given the seat's carriage plane 0, PM0 and its run. -/
def permArr : Arr := { Arr.reset with alloc := [(0x10, permSeat.cid + 1), (0x30, permSeat.cid + 1)], holder := some permSeat.cid }

/-- The package with that seat. PM0 is as at reset: E[0] and E[1] are both 0. -/
def permState : State :=
  { State.reset with power := .active, seats := [(0, permSeat)], ctxs := [(1, { Ctx.fresh with st := .runnable })]
                     quads := [(0, { Quad.reset with arr := permArr })] }

/-- `fperm.rows z0, pm0, s1`. -/
def permInstr : Instr := .fperm 0 0 1 false false

/-- The form of `permInstr` with the value of S1. -/
def permForm : FForm := ⟨5, 0, 0, 0, 2, 0, 0, 0⟩

/-- The seats whose issues core 0 keeps as held, after a step. -/
def heldSeats : Host.Outcome State Fault Refusal → List Nat
  | .next t => (t.core 0).held.map Prod.fst
  | _ => []

theorem permInstr_issuable : permState.Issuable permInstr where
  occupied := by decide
  fields := by decide
  srcs := by decide +kernel
  dests := by decide
  mem := by decide
  items := by decide
  lands := by decide

theorem permState_leased : Leased permState permForm.res where
  run := .inl rfl
  has := by decide
  room := by decide

/-- E[1] repeats E[0]. -/
theorem permBad_permState : permBad (pmEnt (permState.pmOf 0 0)) 2 = some 1 := by decide +kernel

/-- The machine keeps the issue that has trapped. -/
theorem heldSeats_fperm : heldSeats (exec permInstr permState) = [0] := by decide +kernel

theorem heldSeats_trapped : heldSeats (.next (permState.faultIssue 0 0x45 1 0x400)) = [] := by decide +kernel

/-- Refutes O30: an FPERM that traps has been held, and its issue stays in the `held` list of its core. -/
theorem not_factorisationsRunStepByStep : ¬ Obligations.FactorisationsRunStepByStep := by
  intro h
  obtain ⟨hissue, -⟩ := h permState 0 0 0 1 false false false permInstr (by decide)
  obtain ⟨-, hbegins⟩ := hissue permInstr_issuable
  obtain ⟨-, -, hperm⟩ := hbegins permForm rfl rfl permState_leased (by decide) (by decide) (by decide) rfl
  have htraps : Traps permState permInstr 0x45 1 0x400 := hperm rfl 1 permBad_permState
  have hheld := congrArg heldSeats htraps
  rw [heldSeats_fperm] at hheld
  exact absurd (hheld.trans heldSeats_trapped) (by decide)

end

end Sys2Proof.Machine
